-- ==== Sys2Proof/Word.lean ====
section
/-! DEFINITION. The words of the machine: bytes, lanes, 64-bit instruction words and the wider records
(R6, R33, R58, R63, R79).  Only the names of the types stand here; every operation on them that a test could
show wrong stands in Decode.lean or under Machine/. -/

namespace Sys2Proof

/-- The smallest addressable unit of memory (R11). -/
abbrev Byte := BitVec 8

/-- One of the 16 lanes of a token (R6). -/
abbrev Lane := BitVec 32

/-- An instruction word, a scalar register or a CSR (R63, R185, R187). -/
abbrev Word64 := BitVec 64

/-- A 32-byte record of an event queue or of the collector's list (R79, R124, R262, R294). -/
abbrev Record := BitVec 256

/-- A 64-byte launch packet (R374). -/
abbrev Packet := BitVec 512

end Sys2Proof
end

