-- ==== Sys2Proof/Config.lean ====
section
/-! DEFINITION. What an implementation of the RLX-ZS96 fixes and the manual leaves open.  Every constant here is
opaque: nothing can evaluate it, so a claim about the model holds for every value of it.  Each is named in the
assumption log (notes/assumptions). -/

namespace Sys2Proof.Config

/-- A free 64-bit value: contents the manual calls unknown (R185, R238, R287).  Applied to `Clock.fresh`. -/
opaque freeWord : Nat → BitVec 64

/-- A free lane value: an accumulator element no ZERO task has written (R212). -/
opaque freeLane : Nat → BitVec 32

/-- A free byte: a granule that changed use (R238), a ring descriptor stored to while in use (R254). -/
opaque freeByte : Nat → BitVec 8

/-- A free bit: a full/empty bit of a granule that changed use (R241), whether a request waits on its path (R211), whether a
throttled fabric fires in a cycle (R391). -/
opaque freeBit : Nat → Bool

/-- The ROTNUM that PHASE.R gives a firing that no position drives, in a block with a rotation (R123), by the firing count. -/
opaque undrivenRot : Nat → BitVec 32

/-- A free number of cycles: the part of a latency above its stated least value (R9, R83, R211, R256). -/
opaque freeDelay : Nat → Nat

/-- The handle the kiln would like to give next, from the handles given since reset (R373). -/
opaque handlePick : List (BitVec 64) → BitVec 64

/-- Ed25519 verification: key, signature, signed digest (R385). -/
opaque edVerify : BitVec 256 → BitVec 512 → BitVec 384 → Bool

/-- ML-DSA-65 verification: key bytes, signature bytes, signed digest (R385). -/
opaque mlVerify : List (BitVec 8) → List (BitVec 8) → BitVec 384 → Bool

/-- The device's Ed25519 identity signature over a digest (R387, R388). -/
opaque edSign : BitVec 384 → BitVec 512

/-- Byte i of the device's ML-DSA-65 identity signature over a digest (R387, R388). -/
opaque mlSign : BitVec 384 → Nat → BitVec 8

/-- The device's Ed25519 identity public key (R388). -/
opaque edIdentity : BitVec 256

/-- Byte i of the device's ML-DSA-65 identity public key (R388). -/
opaque mlIdentity : Nat → BitVec 8

/-- The fused SHA-384 digest of berair's Ed25519 public key (R385, R388). -/
opaque fusedEdDigest : BitVec 384

/-- The fused SHA-384 digest of berair's ML-DSA-65 public key (R385, R388). -/
opaque fusedMlDigest : BitVec 384

/-- The rollback counter as the fuses hold it when the part is first powered (R385). -/
opaque rollbackFuse : BitVec 32

/-- Link-rate caps in Gb/s, UALink ports 0..15 and Ultra Ethernet ports 16 and 17 (R388, R389). -/
opaque linkCap : Nat → BitVec 16

/-- Byte i of an element's eviction record of a configuration: its layout belongs to the kiln (R118). -/
opaque evictionByte : Nat → BitVec 8

end Sys2Proof.Config
end

