-- ==== Sys2Proof/Syntax.lean ====
section
/-! DEFINITION. Syntax: the port controls and targets of an instruction word (R65, R66), the seven formats of R68, the
tokens and records that the device's own steps carry, and `Instr`, one constructor for each row of
spec/opcode_table.json.  The first 149 constructors are instructions; the others are the device's own steps, whose
operands name the unit they act on. -/

namespace Sys2Proof

/-- The three input ports of a slot (R24). -/
inductive PortName where
  | a | b | c
  deriving DecidableEq, Repr

/-- What a producer sends on: its first target, its second, or a head's drain target (R66, R86). -/
inductive OutPort where
  | t0 | t1 | drain
  deriving DecidableEq, Repr

/-- A port control: NEED in bits [5:3], POP in bits [2:0] (R65). -/
structure PortCtl where
  need : BitVec 3
  pop : BitVec 3
  deriving DecidableEq, Repr

/-- A target: V, SLOT (or a link code), PORT (R66). -/
structure Target where
  v : Bool
  slot : BitVec 7
  port : BitVec 2
  deriving DecidableEq, Repr

/-- Format FA: ports a, b, c and IMM10 (R68). -/
structure FA where
  mod : BitVec 8
  t0 : Target
  t1 : Target
  a : PortCtl
  b : PortCtl
  c : PortCtl
  imm : BitVec 10
  deriving DecidableEq, Repr

/-- Format FI: port a and IMM22 (R68). -/
structure FI where
  mod : BitVec 8
  t0 : Target
  t1 : Target
  a : PortCtl
  imm : BitVec 22
  deriving DecidableEq, Repr

/-- Format FK: IMM28 (R68, R70). -/
structure FK where
  mod : BitVec 8
  t0 : Target
  t1 : Target
  imm : BitVec 28
  deriving DecidableEq, Repr

/-- Format FM: address port a, data port b, SPACE, OFF12 (R68, R69). -/
structure FM where
  mod : BitVec 8
  t0 : Target
  t1 : Target
  a : PortCtl
  b : PortCtl
  space : BitVec 4
  off : BitVec 12
  deriving DecidableEq, Repr

/-- Format FO: data port a, decision port b, PARAMS16 (R68). -/
structure FO where
  mod : BitVec 8
  t0 : Target
  t1 : Target
  a : PortCtl
  b : PortCtl
  params : BitVec 16
  deriving DecidableEq, Repr

/-- Format FT: record port a, aux port b, ISLAND, PARAMS8 (R68). -/
structure FT where
  mod : BitVec 8
  t0 : Target
  t1 : Target
  a : PortCtl
  b : PortCtl
  island : BitVec 8
  params : BitVec 8
  deriving DecidableEq, Repr

/-- Format FC: ports a, b, c and IMM10, which FC.R reads as RA [9:5] and RB [4:0] (R68, R72). -/
structure FC where
  mod : BitVec 8
  t0 : Target
  t1 : Target
  a : PortCtl
  b : PortCtl
  c : PortCtl
  imm : BitVec 10
  deriving DecidableEq, Repr

/-- A token: 16 lanes of payload (R6) and its sideband (R33).  `cause` is the fault cause that a void result carries
to the head or to its consumers (R94, R139); it is zero on every other token. -/
structure Token where
  lanes : Vector Lane 16
  scale : BitVec 16
  tag : BitVec 4
  void : Bool
  eos : Bool
  mark : Bool
  par : BitVec 8
  cause : BitVec 8
  deriving DecidableEq, Repr

/-- A control-core token: a 64-bit value and a VOID bit (R189). -/
structure KTok where
  val : Word64
  void : Bool
  deriving DecidableEq, Repr

/-- Where an instruction stands: core, region number (fabric) or context number (control core), and block slot
index (R5, R44, R187). -/
structure Site where
  core : Fin 96
  unit : Fin 8
  slot : Fin 128
  deriving DecidableEq, Repr

/-- The seven slot and rotation commands of R99, and the .U form of SHLD. -/
inductive CmdKind where
  | sevc | shld | shldU | srel | sclr | bank | unbank | rerot
  deriving DecidableEq, Repr

/-- MODEL: where a token comes from: the position that drove the firing it comes from, counted from its head's mapping on (R84, R123),
and the slot whose fault made it void (R94, R124). -/
structure Origin where
  pos : Option Nat
  culprit : Option (Fin 128)
  deriving DecidableEq, Repr

/-- No position, and no fault. -/
def Origin.none : Origin := ⟨Option.none, Option.none⟩

/-- MODEL: what a token takes along: how many firings its sender had made before (R205), and where it comes from. -/
structure Stamp where
  made : Nat
  origin : Origin
  deriving DecidableEq, Repr

/-- A command operand in a head's queue (R99): who sent it, which firing of that slot, and lanes 0, 1 and 2. -/
structure Cmd where
  kind : CmdKind
  site : Site
  seq : Nat
  lane0 : Lane
  lane1 : Lane
  lane2 : Lane
  deriving DecidableEq, Repr

/-- A record offered to the device fault collector (R292, R294); `acc` numbers the parked access it stands for. -/
structure CRec where
  handle : Word64
  addr : BitVec 54
  asid : BitVec 12
  cause : BitVec 8
  parked : Bool
  wr : Bool
  aux : BitVec 32
  hslot : BitVec 7
  cy : BitVec 4
  cx : BitVec 3
  ex : BitVec 3
  ey : BitVec 2
  region : BitVec 3
  agent : BitVec 3
  acc : Nat
  deriving DecidableEq, Repr

/-- Who writes a CSR: a context of a core, privileged or not, or the system controller (R196, R187). -/
structure Writer where
  core : Fin 96
  ctx : Fin 4
  priv : Bool
  sysctl : Bool
  deriving DecidableEq, Repr

/-- One constructor per row of spec/opcode_table.json. -/
inductive Instr where
  | iadd (f : FA) | isub (f : FA) | imul (f : FA) | imulh (f : FA) | imad (f : FA) | ineg (f : FA)
  | iabs (f : FA) | imin (f : FA) | imax (f : FA) | and (f : FA) | or (f : FA) | xor (f : FA)
  | not (f : FA) | shl (f : FA) | shr (f : FA) | sar (f : FA) | rotl (f : FA) | clz (f : FA)
  | popc (f : FA) | icmp (f : FA) | sel (f : FA) | bfx (f : FI) | bfi (f : FA) | mov (f : FA)
  | const (f : FK) | lane (f : FA) | coord (f : FA) | phase (f : FA)
  | fadd (f : FA) | fsub (f : FA) | fmul (f : FA) | fma (f : FA) | fmin (f : FA) | fmax (f : FA)
  | fabs (f : FA) | fneg (f : FA) | fcmp (f : FA) | fclass (f : FA) | fscl (f : FA)
  | rcp (f : FA) | rsq (f : FA) | exp2 (f : FA) | log2 (f : FA) | tcos (f : FA) | tsin (f : FA)
  | cvt (f : FA) | qnt (f : FA) | dqt (f : FA) | pack (f : FA) | unpk (f : FA) | rndi (f : FA)
  | sclc (f : FA)
  | rsum (f : FA) | rmax (f : FA) | rmin (f : FA) | argmx (f : FA) | scan (f : FA) | dot (f : FA)
  | perm (f : FA) | bcast (f : FI) | adv (f : FA)
  | steer (f : FO) | carry (f : FA) | inv (f : FO) | merge (f : FA) | amrg (f : FA) | cinch (f : FA)
  | drop (f : FA) | count (f : FO) | lctr (f : FO) | eos (f : FO) | gate (f : FO)
  | rhead (f : FA) | rheadLa (f : FA) | sadm (f : FA) | sevc (f : FA) | shld (f : FA) | shldU (f : FA)
  | srel (f : FA) | sclr (f : FA) | sstat (f : FA) | bank (f : FA) | unbank (f : FA) | rerot (f : FA)
  | mark (f : FA)
  | ld (f : FM) | st (f : FM) | lds (f : FM) | stf (f : FM) | ldx (f : FM) | stx (f : FM) | amo (f : FM)
  | done (f : FM) | rpush (f : FM) | rpop (f : FM)
  | mtask (f : FT) | msync (f : FT) | mdrain (f : FT) | xreq (f : FT) | xmc (f : FT)
  | pglk (f : FM) | pgfork (f : FM) | pgfree (f : FM) | pgbase (f : FM) | ldk (f : FM) | ldv (f : FM)
  | kapp (f : FM)
  | smrg (f : FA) | rsvr (f : FA) | rdraw (f : FA) | accpt (f : FA)
  | egput (f : FM) | egver (f : FM) | egrst (f : FM) | rein (f : FO)
  | kadd (f : FC) | ksub (f : FC) | kmul (f : FC) | kand (f : FC) | kor (f : FC) | kxor (f : FC)
  | kshl (f : FC) | kshr (f : FC) | kcmp (f : FC) | ksel (f : FC) | kmovi (f : FK) | kld (f : FC)
  | kst (f : FC) | krd (f : FC) | kwr (f : FC) | kstm (f : FC) | kldm (f : FC) | qsend (f : FC)
  | qrecv (f : FC) | rep (f : FC) | bra (f : FC) | bcall (f : FC) | bret (f : FC) | csrrd (f : FC)
  | csrwr (f : FC) | trap (f : FC) | eret (f : FC) | wfe (f : FC) | evpop (f : FC) | prcw (f : FC)
  | prcwS (f : FC) | launch (f : FC) | halt (f : FC) | egarm (f : FC)
  -- the device's own steps
  | tokenArrival (src : Site) (tgt : Target) (tok : Token) (gen : Nat) (stamp : Stamp)
  | creditReturn (src : Site) (which : OutPort) (gen : Nat)
  | longChannelDelivery (handle : Word64) (chan : Nat)
  | guardReportPost (core : Fin 96) (region : Fin 8) (link : BitVec 7)
  | slotPass (core : Fin 96) (region : Fin 8)
  | commandEnqueue (core : Fin 96) (region : Fin 8) (cmd : Cmd) (gen : Nat)
  | emberReadDone (core : Fin 96) (region : Fin 8) (gen : Nat)
  | emberWriteDone (core : Fin 96) (region : Fin 8) (gen : Nat)
  | headRetire (core : Fin 96) (region : Fin 8)
  | markerArrival (dst : Site) (port : PortName) (pos : Nat) (gen : Nat)
  | snapWindowExpiry (site : Site) (gen : Nat)
  | snapshotClose (core : Fin 96) (region : Fin 8)
  | regionLoad (core : Fin 96) (region : Fin 8) (gen : Nat)
  | loadComplete (core : Fin 96) (region : Fin 8) (gen : Nat)
  | elementEviction (core : Fin 96) (elem : Fin 32)
  | elementRestore (core : Fin 96) (elem : Fin 32)
  | regionCommit (core : Fin 96) (region : Fin 8)
  | completionRelease (core : Fin 96) (region : Fin 8)
  | preemptComplete (core : Fin 96) (region : Fin 8) (gen : Nat)
  | lateResultArrival (id : Nat)
  | accessPerform (id : Nat)
  | memoryResultDelivery (site : Site)
  | ldsWake (id : Nat)
  | walkComplete (id : Nat)
  | scrubLine (core : Fin 96) (dram : Bool) (line : Nat)
  | taskEnqueue (core : Fin 96)
  | taskIssue (core : Fin 96)
  | taskRetire (core : Fin 96) (engine : Fin 4)
  | msyncComplete (core : Fin 96)
  | transferAccept (core : Fin 96)
  | transferLine (core : Fin 96) (id : Nat) (line : Nat)
  | transferComplete (core : Fin 96) (id : Nat)
  | xmcPermit (core : Fin 96) (id : Nat)
  | blockFetch (core : Fin 96) (ctx : Fin 4) (gen : Nat)
  | controlBlockCommit (core : Fin 96) (ctx : Fin 4)
  | repRepetition (core : Fin 96) (ctx : Fin 4)
  | wfeTimeout (core : Fin 96) (ctx : Fin 4) (slot : Fin 128) (gen : Nat)
  | ctxpartWrite (core : Fin 96) (w : Writer) (v : Word64)
  | guardMapWrite (core : Fin 96) (w : Writer) (num : BitVec 12) (v : Word64)
  | tlbinvAll (w : Writer)
  | tlbinvAsid (w : Writer) (asid : BitVec 12)
  | tlbinvPage (w : Writer) (asid : BitVec 12) (vpn : BitVec 38)
  | regctlRelease (core : Fin 96) (w : Writer) (region : Fin 8)
  | regctlRemap (core : Fin 96) (w : Writer) (region : Fin 8)
  | regctlPreempt (core : Fin 96) (w : Writer) (region : Fin 8)
  | fwCtlWrite (w : Writer) (v : Word64)
  | fwResume (w : Writer) (v : Word64)
  | ctxswSave (core : Fin 96) (w : Writer) (ctx : Fin 4) (addr : BitVec 48)
  | ctxswRestore (core : Fin 96) (w : Writer) (ctx : Fin 4) (addr : BitVec 48)
  | ctxswClear (core : Fin 96) (w : Writer) (ctx : Fin 4)
  | ctxswStop (core : Fin 96) (w : Writer) (ctx : Fin 4)
  | contextStop (core : Fin 96) (ctx : Fin 4)
  | ctxgo (core : Fin 96) (w : Writer) (v : Word64)
  | dbgCtlWrite (core : Fin 96) (w : Writer) (v : Word64)
  | kvtCsrWrite (w : Writer) (num : BitVec 12) (v : Word64)
  | dmawinLockSet (w : Writer) (v : Word64)
  | csrWrite (core : Fin 96) (w : Writer) (num : BitVec 12) (v : Word64)
  | collectorRecord (r : CRec)
  | collectorWindowClose
  | parkedReoffer (r : CRec)
  | reinWindowStart (handle : Word64) (rein : Nat)
  | reinUpdate (handle : Word64) (rein : Nat)
  | egputEntryFree
  | egressRecordOut
  | egoHeadWrite (v : Word64)
  | launchPacket (p : Packet)
  | register (p : Packet)
  | dropPacket (p : Packet)
  | query (p : Packet)
  | attest (p : Packet)
  | boot (p : Packet)
  | ingressWrite (port : BitVec 8) (offset : Nat) (bytes : List Byte)
  | ingressDelivery (port : BitVec 8)
  | ingStatClear (port : BitVec 8) (v : Word64)
  | hostMemoryWrite (addr : Nat) (bytes : List Byte)
  | hostMemoryRead (addr : Nat) (n : Nat)
  | kilnPlace
  | launchAging (handle : Word64)
  | imageReadDone (handle : Word64) (ok : Bool)
  | deviceReset
  | thermalThrottle
  | peerAccess (write : Bool) (addr : Nat) (n : Nat) (bytes : List Byte)
  | throttleEnd
  deriving DecidableEq, Repr

end Sys2Proof
end

