-- ==== Sys2Proof/Machine/Checks.lean ====
section
/-! DEFINITION. The checks that one instruction word can fail by itself (R25, R64..R66, R68..R71, R140, R141 and the
entry of each instruction).  The checks that need the block, the element or the configuration (R20, R28, R35, R36, R39,
R55, R61, R62, R67, R74) stand with the kiln, in Machine/BlockCheck.lean.  Where one word fails several checks the
manual names no order among the REASON codes; the order here is MOD, fields and ports, targets (log 11, DESIGN
CHOICE). -/

namespace Sys2Proof

/-- A REASON code (R80). -/
abbrev Reason := BitVec 8

/-- Nothing when the condition holds, else the REASON. -/
def need (ok : Bool) (r : Reason) : Option Reason := if ok then none else some r

/-- The first failure of a list of checks. -/
def firstBad : List (Option Reason) → Option Reason
  | [] => none
  | none :: rest => firstBad rest
  | some r :: _ => some r

/-! ## Port controls (R65) -/

/-- The port is used: its control is nonzero. -/
def PortCtl.used (p : PortCtl) : Bool := !(p.need == 0 && p.pop == 0)

/-- The entries the port must hold: NEED, or 8 when NEED is 0 and POP is not (R65). -/
def PortCtl.needN (p : PortCtl) : Nat :=
  if p.need == 0 then (if p.pop == 0 then 0 else 8) else p.need.toNat

/-- The entries a firing removes. -/
def PortCtl.popN (p : PortCtl) : Nat := p.pop.toNat

/-- The control is one of the rows of R65 that is not reserved. -/
def PortCtl.legal (p : PortCtl) : Bool := p.need == 0 || p.pop ≤ p.need

/-- The control is exactly need n, pop n. -/
def PortCtl.exact (p : PortCtl) (n : Nat) : Bool := p.legal && p.needN == n && p.popN == n

/-- What an entry asks of a port's control. -/
inductive PortRule where
  /-- unused -/
  | off
  /-- need 1, pop 1 -/
  | one
  /-- need 1, pop 1, or unused -/
  | oneOpt
  /-- used, any legal control (R25) -/
  | win
  /-- unused, or any legal control -/
  | winOpt
  /-- used, with a pop of 0 (ADV) -/
  | still
  /-- need n, pop n for a burst n of 1, 2 or 4 (R35, R246) -/
  | burst
  /-- need n, pop n -/
  | group (n : Nat)
  deriving DecidableEq, Repr

/-- The control meets the rule. -/
def PortRule.ok : PortRule → PortCtl → Bool
  | .off, p => !p.used
  | .one, p => p.exact 1
  | .oneOpt, p => !p.used || p.exact 1
  | .win, p => p.used && p.legal
  | .winOpt, p => p.legal
  | .still, p => p.used && p.legal && p.pop == 0
  | .burst, p => p.exact 1 || p.exact 2 || p.exact 4
  | .group n, p => p.exact n

/-- Three ports meet their rules. -/
def portsOk (ra rb rc : PortRule) (a b c : PortCtl) : Bool := ra.ok a && rb.ok b && rc.ok c

/-- At least one used port pops (R25). -/
def somePop (ps : List PortCtl) : Bool := ps.any fun p => p.used && p.popN != 0

/-! ## Targets (R66) -/

/-- The target is all zero. -/
def Target.blank (t : Target) : Bool := !t.v && t.slot == 0 && t.port == 0

/-- PORT 0b11: the SLOT field is a link code. -/
def Target.isLink (t : Target) : Bool := t.port == 3

/-- The checks of R66 on the two targets of a word, in a control block when `ctl` holds. -/
def targetReason (ctl : Bool) (t0 t1 : Target) : Option Reason :=
  firstBad [
    need (t0.v || t0.blank) 0x07,
    need (t1.v || t1.blank) 0x07,
    need (!t1.v || t0.v) 0x07,
    need (!(t0.v && t0.isLink) || t0.slot ≤ 8) 0x03,
    need (!(t1.v && t1.isLink) || t1.slot ≤ 8) 0x03,
    need (!(ctl && t0.v && t0.isLink) || t0.slot == 8) 0x07,
    need (!(ctl && t1.v && t1.isLink) || t1.slot == 8) 0x07,
    need (!(t0.v && t1.v && t0.slot == t1.slot && t0.port == t1.port)) 0x08]

/-! ## MOD bytes and format tags (R71, R125, R140) -/

/-- MOD bits [7:4]: the declared tag. -/
def modTag (m : BitVec 8) : BitVec 4 := m.extractLsb' 4 4

/-- MOD bits [3:0]. -/
def modLow (m : BitVec 8) : BitVec 4 := m.extractLsb' 0 4

/-- MOD bits [3:2]: rounding, or OVF in the integer classes. -/
def modRnd (m : BitVec 8) : BitVec 2 := m.extractLsb' 2 2

/-- MOD bit [1]: U, TRAPV or SAT. -/
def modB1 (m : BitVec 8) : Bool := m.getLsbD 1

/-- MOD bit [0]: the variant V. -/
def modV (m : BitVec 8) : Bool := m.getLsbD 0

/-- Elements per lane of a tag (R125). -/
def tagCount (t : BitVec 4) : Nat :=
  match t.toNat with
  | 2 | 3 | 8 => 2
  | 4 | 5 | 9 | 10 | 11 | 12 => 4
  | 6 => 8
  | _ => 1

/-- Element width of a tag in bits (R125). -/
def tagWidth (t : BitVec 4) : Nat := 32 / tagCount t

/-- The tag is scaled (R125). -/
def tagScaled (t : BitVec 4) : Bool := t == 6 || t == 11 || t == 12

/-- The integer tags I32, I16x2, I8x4 and N8x4. -/
def intTags : List (BitVec 4) := [7, 8, 9, 10]
/-- The integer tags and RAW32. -/
def rawTags : List (BitVec 4) := [0, 7, 8, 9, 10]
/-- F32, BF16x2 and F16x2. -/
def fltTags : List (BitVec 4) := [1, 2, 3]
/-- Every unscaled tag except the poisoned one. -/
def plainTags : List (BitVec 4) := [0, 1, 2, 3, 4, 5, 7, 8, 9, 10]
/-- Tags 0x0..0xC. -/
def allTags : List (BitVec 4) := [0, 1, 2, 3, 4, 5, 6, 7, 8, 9, 10, 11, 12]
/-- The unscaled tags other than RAW32 (R154). -/
def cvtTags : List (BitVec 4) := [1, 2, 3, 4, 5, 7, 8, 9, 10]
/-- The scaled tags. -/
def sclTags : List (BitVec 4) := [6, 11, 12]
/-- The formats of the reductions (R161). -/
def sumTags : List (BitVec 4) := [1, 2, 3, 7, 8, 9, 10]

/-- MOD holds one of the tags (REASON 0x02), and no low bit outside the mask (REASON 0x03). -/
def modReason (m : BitVec 8) (tags : List (BitVec 4)) (mask : BitVec 4) : Option Reason :=
  firstBad [need (tags.contains (modTag m)) 0x02, need (modLow m &&& ~~~mask == 0) 0x03]

/-- MOD is one of the bytes given (REASON 0x03 otherwise). -/
def modIs (m : BitVec 8) (vals : List (BitVec 8)) : Option Reason := need (vals.contains m) 0x03

/-- The integer classes: OVF 0b11 is reserved (R140), and U with N8x4 is REASON 0x03 (R143). -/
def intMod (m : BitVec 8) (tags : List (BitVec 4)) (mask : BitVec 4) : Option Reason :=
  firstBad [modReason m tags mask, need (modRnd m != 3) 0x03, need (!(modB1 m && modTag m == 10)) 0x03]

/-- The immediate of an "imm" instruction lies in the element range given by U (R141); with port B used it is zero. -/
def immReason (m : BitVec 8) (b : PortCtl) (imm : BitVec 10) : Option Reason :=
  if b.used then need (imm == 0) 0x04
  else
    let w := tagWidth (modTag m)
    let v := imm.toInt
    if modB1 m || modTag m == 10 then need (0 ≤ v && v < 2 ^ w) 0x03
    else need (-(2 ^ (w - 1)) ≤ v && v < 2 ^ (w - 1)) 0x03

/-- A shift or rotate count immediate lies in 0..w - 1 (R141). -/
def countReason (m : BitVec 8) (b : PortCtl) (imm : BitVec 10) : Option Reason :=
  if b.used then need (imm == 0) 0x04
  else need (0 ≤ imm.toInt && imm.toInt < tagWidth (modTag m)) 0x03

/-! ## Format shapes -/

/-- Ports and targets of an FA word whose IMM10 has no meaning. -/
def faShape (ra rb rc : PortRule) (f : FA) : Option Reason :=
  firstBad [need (portsOk ra rb rc f.a f.b f.c) 0x04, need (f.imm == 0) 0x04, targetReason false f.t0 f.t1]

/-- Ports and targets of an FA word whose entry reads IMM10 itself. -/
def faImm (ra rb rc : PortRule) (f : FA) : Option Reason :=
  firstBad [need (portsOk ra rb rc f.a f.b f.c) 0x04, targetReason false f.t0 f.t1]

/-- A unary lane operation: port a, any legal popping control. -/
def laneUn (f : FA) (m : Option Reason) : Option Reason :=
  firstBad [m, faShape .win .off .off f, need (somePop [f.a]) 0x04]

/-- A binary lane operation without an immediate form. -/
def laneBin (f : FA) (m : Option Reason) : Option Reason :=
  firstBad [m, faShape .win .win .off f, need (somePop [f.a, f.b]) 0x04]

/-- A binary lane operation with an immediate form; `im` checks IMM10. -/
def laneImm (f : FA) (m im : Option Reason) : Option Reason :=
  firstBad [m, faImm .win .winOpt .off f, need (somePop [f.a, f.b]) 0x04, im]

/-- A ternary lane operation. -/
def laneTri (f : FA) (m : Option Reason) : Option Reason :=
  firstBad [m, faShape .win .win .win f, need (somePop [f.a, f.b, f.c]) 0x04]

/-- A slot or rotation command, or SSTAT (R101). -/
def cmdReason (f : FA) (mods : List (BitVec 8)) : Option Reason :=
  firstBad [modIs f.mod mods, faShape .one .off .off f]

/-- An FO word with PARAMS16 checked by `p`. -/
def foReason (f : FO) (ra rb : PortRule) (p : Option Reason) : Option Reason :=
  firstBad [modIs f.mod [0], need (portsOk ra rb .off f.a f.b ⟨0, 0⟩) 0x04, p, targetReason false f.t0 f.t1]

/-- An FM word with its MOD and field checks. -/
def fmReason (f : FM) (ra rb : PortRule) (m : Option Reason) : Option Reason :=
  firstBad [m, need (portsOk ra rb .off f.a f.b ⟨0, 0⟩) 0x04, targetReason false f.t0 f.t1]

/-- An FT word with MOD zero. -/
def ftReason (f : FT) (ra rb : PortRule) (p : Option Reason) : Option Reason :=
  firstBad [modIs f.mod [0], need (portsOk ra rb .off f.a f.b ⟨0, 0⟩) 0x04, p, targetReason false f.t0 f.t1]

/-- ISLAND names a matrix port (R210): a streamer code is an unreachable port, any other code reserved. -/
def matrixPort (i : BitVec 8) : Option Reason :=
  firstBad [need (!(i ≥ 0x10 && i ≤ 0x13)) 0x05, need (i ≤ 3) 0x03]

/-- ISLAND names a streamer port (R257, R259). -/
def streamerPort (i : BitVec 8) : Option Reason :=
  firstBad [need (!(i ≤ 3)) 0x05, need (i ≥ 0x10 && i ≤ 0x13) 0x03]

/-- An FC word: MOD (REASON 0x04 when it is not among the values), ports, immediate, targets. -/
def fcReason (f : FC) (m : Option Reason) (ra rb rc : PortRule) (im : Option Reason) : Option Reason :=
  firstBad [m, need (portsOk ra rb rc f.a f.b f.c) 0x04, im, targetReason true f.t0 f.t1]

/-- A control instruction that delivers nothing names no target (R64, R193, R196: a field its entry does not use). -/
def noTarget (f : FC) : Option Reason := need (!f.t0.v && !f.t1.v) 0x04

/-- MOD of an FC word is zero (R192, R196: REASON 0x04). -/
def fcMod0 (f : FC) : Option Reason := need (f.mod == 0) 0x04

/-- MOD of an FC.R word is zero outside the bits of the mask (R194: REASON 0x03). -/
def fcrMod (f : FC) (mask : BitVec 8) : Option Reason := need (f.mod &&& ~~~mask == 0) 0x03

/-- IMM10 as operand b of a scalar instruction: zero when port B is used (R192). -/
def scalarImm (f : FC) : Option Reason := need (!f.b.used || f.imm == 0) 0x04

/-- The low five bits of IMM10, the RB field of FC.R, are unused (R194). -/
def rbZero (f : FC) : Option Reason := need (f.imm.extractLsb' 0 5 == 0) 0x04

/-- The page instructions of the table space (R321). -/
def pageTable (f : FM) (mods : List (BitVec 8)) : Option Reason :=
  fmReason f .one .off (firstBad [modIs f.mod mods, need (f.space == 4) 0x03, need (f.off == 0) 0x04])

/-- LDK and LDV (R321). -/
def pageLoad (f : FM) : Option Reason :=
  fmReason f .one .off (firstBad [modReason f.mod sclTags 0, need (f.space == 1 || f.space == 2) 0x03])

/-- The egress instructions (R353). -/
def egressReason (f : FM) (mods : List (BitVec 8)) : Option Reason :=
  fmReason f .one .off (firstBad [modIs f.mod mods, need (f.space == 0 && f.off == 0) 0x03])

/-- The counter window of a .W form (R247). -/
def windowReason (off : BitVec 12) : Option Reason :=
  firstBad [need (off.extractLsb' 0 2 == 0) 0x03,
    need ((off.extractLsb' 2 2).toNat + (off.extractLsb' 4 2).toNat ≤ 3) 0x03]

/-- The tag, operation and width of an AMO agree with the table of R252. -/
def amoLegal (m : BitVec 8) : Bool :=
  let op := (m.extractLsb' 0 3).toNat
  let w64 := m.getLsbD 3
  match (modTag m).toNat with
  | 7 => true
  | 1 => op == 0 && !w64
  | 0 => 3 ≤ op
  | _ => false

/-- Whether the variant and space of a memory operator stand in the table of R246. -/
def memForm (low : BitVec 4) (space : BitVec 4) (plain : List (BitVec 4)) (vars : List (BitVec 4)) : Option Reason :=
  need ((low == 0 && plain.contains space) || (vars.contains low && space == 0)) 0x03

/-- The width change of CVT or PACK: source elements per lane over destination elements per lane, at least 1. -/
def narrowBy (src dst : BitVec 4) : Nat := if tagCount src ≤ tagCount dst then tagCount dst / tagCount src else 1

/-- The tag in IMM10 bits [3:0] (R154, R155, R157, R158). -/
def immTag (imm : BitVec 10) : BitVec 4 := imm.extractLsb' 0 4

/-- The destination of QNT or SCLC and its TYPE (R157, R159). -/
def quantReason (f : FA) : Option Reason :=
  firstBad [modReason f.mod [1, 2] 0, need (sclTags.contains (immTag f.imm)) 0x02,
    need (f.imm.extractLsb' 4 2 == 0 || immTag f.imm == 6) 0x03]

/-- A float-to-integer conversion (R154). -/
def floatTag (t : BitVec 4) : Bool := t ≥ 1 && t ≤ 5

/-- The first failure of a word by itself, none when the word is well formed.  MOD bits that an entry uses for some tag are accepted
for every tag of it: rounding with an integer tag and SAT with a float tag in RSUM, SCAN and DOT, rounding and SAT of a CVT that
needs none, TRAPV of RCP, EXP2, TCOS and TSIN, which are never invalid (log 111, DESIGN CHOICE: R140 reserves the bits an entry does
not use, R64 leaves open which these are; R150 calls one such bit legal). -/
def localReason : Instr → Option Reason
  | .iadd f => laneImm f (intMod f.mod intTags 0xE) (immReason f.mod f.b f.imm)
  | .isub f => laneImm f (intMod f.mod intTags 0xE) (immReason f.mod f.b f.imm)
  | .imul f => laneImm f (intMod f.mod intTags 0xE) (immReason f.mod f.b f.imm)
  | .imulh f => laneImm f (intMod f.mod intTags 0x2) (immReason f.mod f.b f.imm)
  | .imad f => laneTri f (intMod f.mod intTags 0xE)
  | .ineg f => laneUn f (intMod f.mod intTags 0xE)
  | .iabs f => laneUn f (intMod f.mod intTags 0xE)
  | .imin f => laneImm f (intMod f.mod intTags 0x2) (immReason f.mod f.b f.imm)
  | .imax f => laneImm f (intMod f.mod intTags 0x2) (immReason f.mod f.b f.imm)
  | .and f => laneImm f (intMod f.mod rawTags 0) (immReason f.mod f.b f.imm)
  | .or f => laneImm f (intMod f.mod rawTags 0) (immReason f.mod f.b f.imm)
  | .xor f => laneImm f (intMod f.mod rawTags 0) (immReason f.mod f.b f.imm)
  | .not f => laneUn f (intMod f.mod rawTags 0)
  | .shl f => laneImm f (intMod f.mod rawTags 0) (countReason f.mod f.b f.imm)
  | .shr f => laneImm f (intMod f.mod rawTags 0) (countReason f.mod f.b f.imm)
  | .sar f => laneImm f (intMod f.mod rawTags 0) (countReason f.mod f.b f.imm)
  | .rotl f => laneImm f (intMod f.mod rawTags 0) (countReason f.mod f.b f.imm)
  | .clz f => laneUn f (intMod f.mod rawTags 0)
  | .popc f => laneUn f (intMod f.mod rawTags 0)
  | .icmp f => firstBad [intMod f.mod intTags 0x2, faImm .win .win .off f, need (somePop [f.a, f.b]) 0x04,
      need (f.imm.toNat ≤ 5) 0x03]
  | .sel f => laneTri f (modReason f.mod plainTags 0)
  | .bfx f => firstBad [modReason f.mod [0, 7] 0, need (PortRule.win.ok f.a && somePop [f.a]) 0x04,
      need (f.imm.extractLsb' 11 11 == 0) 0x04,
      need ((f.imm.extractLsb' 0 5).toNat + (f.imm.extractLsb' 5 5).toNat + 1 ≤ 32) 0x03, targetReason false f.t0 f.t1]
  | .bfi f => laneImm f (modReason f.mod [0, 7] 0) (firstBad [need f.b.used 0x04,
      need ((f.imm.extractLsb' 0 5).toNat + (f.imm.extractLsb' 5 5).toNat + 1 ≤ 32) 0x03])
  | .mov f => laneUn f (modReason f.mod (if modV f.mod then plainTags else allTags) 0x1)
  | .const f => firstBad [modReason f.mod plainTags 0x3,
      need (!(modLow f.mod == 3) || f.imm.extractLsb' 16 12 == 0) 0x04, targetReason false f.t0 f.t1]
  | .lane f => firstBad [modReason f.mod [7, 8, 9] 0, faShape .winOpt .off .off f,
      need (!f.a.used || somePop [f.a]) 0x04]
  | .coord f => firstBad [modReason f.mod [7] 0, faShape .winOpt .off .off f,
      need (!f.a.used || somePop [f.a]) 0x04]
  | .phase f => laneUn f (modReason f.mod [7] 0x1)
  | .fadd f => laneBin f (modReason f.mod fltTags 0xE)
  | .fsub f => laneBin f (modReason f.mod fltTags 0xE)
  | .fmul f => laneBin f (modReason f.mod fltTags 0xE)
  | .fma f => laneTri f (modReason f.mod fltTags 0xF)
  | .fmin f => laneBin f (modReason f.mod fltTags 0x2)
  | .fmax f => laneBin f (modReason f.mod fltTags 0x2)
  | .fabs f => laneUn f (modReason f.mod fltTags 0)
  | .fneg f => laneUn f (modReason f.mod fltTags 0)
  | .fcmp f => firstBad [modReason f.mod fltTags 0, faImm .win .win .off f, need (somePop [f.a, f.b]) 0x04,
      need (f.imm.toNat ≤ 7) 0x03]
  | .fclass f => laneUn f (modReason f.mod fltTags 0)
  | .fscl f => laneImm f (modReason f.mod fltTags 0xC) (need (!f.b.used || f.imm == 0) 0x04)
  | .rcp f => laneUn f (modReason f.mod [1] 0xE)
  | .rsq f => laneUn f (modReason f.mod [1] 0xE)
  | .exp2 f => laneUn f (modReason f.mod [1] 0xE)
  | .log2 f => laneUn f (modReason f.mod [1] 0xE)
  | .tcos f => laneUn f (modReason f.mod [7] 0xE)
  | .tsin f => laneUn f (modReason f.mod [7] 0xE)
  | .cvt f => firstBad [modReason f.mod cvtTags 0xE, need (cvtTags.contains (immTag f.imm)) 0x02,
      need (!(floatTag (modTag f.mod) && !floatTag (immTag f.imm)) || modB1 f.mod) 0x03,
      faImm (.group (narrowBy (modTag f.mod) (immTag f.imm))) .off .off f, need (f.imm.extractLsb' 4 6 == 0) 0x04]
  | .qnt f => firstBad [quantReason f, faImm .one .off .off f, need (f.imm.extractLsb' 6 4 == 0) 0x04]
  | .dqt f => firstBad [modReason f.mod sclTags 0xC, need (immTag f.imm == 1 || immTag f.imm == 2) 0x02,
      faImm .burst .off .off f, need (f.imm.extractLsb' 4 6 == 0) 0x04]
  | .pack f => firstBad [modReason f.mod [7, 8] 0,
      need ((immTag f.imm == 8 || immTag f.imm == 9 || immTag f.imm == 10) &&
        tagCount (modTag f.mod) < tagCount (immTag f.imm)) 0x02,
      faImm (.group (narrowBy (modTag f.mod) (immTag f.imm))) .off .off f, need (f.imm.extractLsb' 4 6 == 0) 0x04]
  | .unpk f => firstBad [modReason f.mod [8, 9, 10] 0,
      need ((immTag f.imm == 7 || immTag f.imm == 8) && tagCount (immTag f.imm) < tagCount (modTag f.mod)) 0x02,
      faImm .win .off .off f, need (somePop [f.a]) 0x04, need (f.imm.extractLsb' 4 6 == 0) 0x04]
  | .rndi f => laneUn f (modReason f.mod fltTags 0xC)
  | .sclc f => firstBad [quantReason f, need (f.imm.extractLsb' 6 2 != 3) 0x03, faImm .one .off .off f,
      need (f.imm.extractLsb' 8 2 == 0) 0x04]
  | .rsum f => laneUn f (modReason f.mod sumTags 0xE)
  | .rmax f => laneUn f (modReason f.mod sumTags 0)
  | .rmin f => laneUn f (modReason f.mod sumTags 0)
  | .argmx f => laneUn f (modReason f.mod sumTags 0x1)
  | .scan f => firstBad [modReason f.mod sumTags 0xF, faShape .one .off .off f]
  | .dot f => firstBad [modReason f.mod [1, 2, 3, 9, 10] 0xE, faShape .win .win .winOpt f,
      need (f.a.needN == f.b.needN) 0x04, need (somePop [f.a, f.b, f.c]) 0x04]
  | .perm f => firstBad [modReason f.mod plainTags 0, faImm .win .winOpt .off f, need (somePop [f.a, f.b]) 0x04,
      if f.b.used then need (f.imm == 0) 0x04
      else firstBad [need (f.imm.extractLsb' 8 2 != 3 && f.imm.extractLsb' 4 4 == 0) 0x03,
        need (!(f.imm.extractLsb' 8 2 == 2) || f.imm.extractLsb' 0 4 == 0) 0x03]]
  | .bcast f => firstBad [modReason f.mod plainTags 0, need (PortRule.win.ok f.a && somePop [f.a]) 0x04,
      need ((f.imm.extractLsb' 4 2).toNat < tagCount (modTag f.mod)) 0x03, need (f.imm.extractLsb' 6 16 == 0) 0x04,
      targetReason false f.t0 f.t1]
  | .adv f => firstBad [modReason f.mod allTags 0, faImm .still .winOpt .off f, need (!f.b.used || somePop [f.b]) 0x04,
      if f.b.used then need (f.imm == 0) 0x03
      else need (1 ≤ f.imm.toInt && f.imm.toInt ≤ f.a.needN) 0x03]
  | .steer f => foReason f .one .one (need (f.params.extractLsb' 1 15 == 0) 0x04)
  | .carry f => firstBad [modIs f.mod [0], faShape .one .one .one f]
  | .inv f => foReason f .one .one (need (f.params == 0) 0x04)
  | .merge f => firstBad [modIs f.mod [0], faShape .one .one .one f]
  | .amrg f => firstBad [modIs f.mod [0], faShape .oneOpt .oneOpt .oneOpt f,
      need (2 ≤ ([f.a, f.b, f.c].filter PortCtl.used).length) 0x04]
  | .cinch f => firstBad [modIs f.mod [0], faImm .winOpt .winOpt .winOpt f, need (somePop [f.a, f.b, f.c]) 0x04,
      need (f.imm.extractLsb' 4 6 == 0) 0x04,
      need (match (f.imm.extractLsb' 0 2).toNat with
        | 0 => f.a.used | 1 => f.b.used | 2 => f.c.used | _ => false) 0x03]
  | .drop f => firstBad [modIs f.mod [0, 1], faShape .one .off .off f, need (modV f.mod || !f.t0.v) 0x07]
  | .count f => foReason f .one .off (need (f.params.extractLsb' 0 15 == 0) 0x04)
  | .lctr f => foReason f .oneOpt .off (firstBad [need (f.params.extractLsb' 0 8 == 0) 0x04,
      need ((f.params.extractLsb' 10 6).toNat + (f.params.extractLsb' 8 2).toNat ≤ 63) 0x03])
  | .eos f => foReason f .one .oneOpt (need (!f.b.used || f.params == 0) 0x03)
  | .gate f => foReason f .one .one none
  | .rhead f => firstBad [modIs f.mod [0], faImm .one .one .oneOpt f, need (!f.imm.getLsbD 9) 0x04,
      need (!(f.imm.getLsbD 8 && !f.c.used)) 0x04, need f.t0.v 0x07]
  | .rheadLa f => firstBad [need (f.mod ≤ f.imm.extractLsb' 0 8) 0x03, need (f.imm.getLsbD 9) 0x04,
      faImm .one .one .off f, need (!f.imm.getLsbD 8) 0x04, need f.t0.v 0x07]
  | .sadm f => firstBad [need (allTags.contains (modTag f.mod)) 0x02, need (modRnd f.mod == 0) 0x03,
      need (f.mod.extractLsb' 0 2 != 3) 0x03, need (!(f.mod.extractLsb' 0 2 == 1) || modTag f.mod == 0) 0x02,
      faShape .one .off .off f, need (f.t0.v && !f.t1.v && f.t0.port == 2) 0x07]
  | .sevc f => cmdReason f [0]
  | .shld f => cmdReason f [0]
  | .shldU f => cmdReason f [1]
  | .srel f => cmdReason f [0]
  | .sclr f => cmdReason f [0]
  | .sstat f => cmdReason f [0]
  | .bank f => cmdReason f [0]
  | .unbank f => cmdReason f [0]
  | .rerot f => cmdReason f [0]
  | .mark f => firstBad [modIs f.mod [0], faShape .one .one .off f]
  | .ld f => fmReason f .one .off (firstBad [need (allTags.contains (modTag f.mod)) 0x02,
      memForm (modLow f.mod) f.space [0, 1, 2, 3] [1, 2, 3],
      if modLow f.mod == 3 then windowReason f.off else none])
  | .st f => fmReason f (if modLow f.mod == 2 then .off else .one) .burst
      (firstBad [need (allTags.contains (modTag f.mod)) 0x02, memForm (modLow f.mod) f.space [0, 1, 2, 3] [2, 3],
      if modLow f.mod == 3 then windowReason f.off else none])
  | .lds f => fmReason f .one .off (firstBad [need (allTags.contains (modTag f.mod)) 0x02,
      memForm (modLow f.mod) f.space [0] [1]])
  | .stf f => fmReason f (if modLow f.mod == 2 then .off else .one) .burst
      (firstBad [need (allTags.contains (modTag f.mod)) 0x02, memForm (modLow f.mod) f.space [0] [2]])
  | .ldx f => fmReason f .one .off (firstBad [need (plainTags.contains (modTag f.mod)) 0x02,
      memForm (modLow f.mod) f.space [0, 1, 2] []])
  | .stx f => fmReason f .one .burst (firstBad [need (plainTags.contains (modTag f.mod)) 0x02,
      memForm (modLow f.mod) f.space [0, 1, 2] []])
  | .amo f => fmReason f .one .one (firstBad [need ([0, 1, 7].contains (modTag f.mod)) 0x02,
      need (amoLegal f.mod) 0x03, need (f.space ≤ 2) 0x03])
  | .done f => fmReason f .one .off (firstBad [modIs f.mod [0], need (f.space == 0 && f.off == 0) 0x04])
  | .rpush f => fmReason f .oneOpt .burst (firstBad [need (allTags.contains (modTag f.mod)) 0x02,
      memForm (modLow f.mod) f.space [0] []])
  | .rpop f => fmReason f .one .off (firstBad [need (allTags.contains (modTag f.mod)) 0x02,
      memForm (modLow f.mod) f.space [0] []])
  | .mtask f => ftReason f .one .oneOpt (firstBad [need (f.b.used == (f.params != 0)) 0x04, matrixPort f.island])
  | .msync f => ftReason f .one .off (firstBad [need (f.params == 0) 0x03, matrixPort f.island])
  | .mdrain f => ftReason f .one .off (firstBad [need ([1, 2, 3, 7].contains (f.params.extractLsb' 0 4)) 0x03,
      need (f.params.extractLsb' 6 2 == 0) 0x03, matrixPort f.island, need f.t0.v 0x07])
  | .xreq f => ftReason f .one .off (firstBad [need (f.params == 0) 0x03, streamerPort f.island])
  | .xmc f => ftReason f .one .one (firstBad [need (f.params != 0) 0x03, streamerPort f.island])
  | .pglk f => pageTable f [0, 1]
  | .pgfork f => pageTable f [0]
  | .pgfree f => pageTable f [0]
  | .pgbase f => pageTable f [0, 1]
  | .ldk f => pageLoad f
  | .ldv f => pageLoad f
  | .kapp f => fmReason f .one .one (firstBad [modReason f.mod sclTags 0x3,
      need (modTag f.mod == 6 || modLow f.mod == 0) 0x03, need (f.space == 1 || f.space == 2) 0x03])
  | .smrg f => firstBad [modReason f.mod [1] 0, faImm .one .one .off f, need (f.imm.extractLsb' 4 6 == 0) 0x04]
  | .rsvr f => firstBad [modReason f.mod [1] 0, faImm .one .one .off f]
  | .rdraw f => firstBad [modReason f.mod [1, 7] 0, faShape .one .off .off f]
  | .accpt f => firstBad [modReason f.mod [7] 0, faImm .one .one .one f]
  | .egput f => egressReason f [0, 1]
  | .egver f => egressReason f [0]
  | .egrst f => egressReason f [0]
  | .rein f => foReason f .one .off (need (f.params.extractLsb' 5 11 == 0) 0x04)
  | .kadd f => fcReason f (fcMod0 f) .one .oneOpt .off (scalarImm f)
  | .ksub f => fcReason f (fcMod0 f) .one .oneOpt .off (scalarImm f)
  | .kmul f => fcReason f (firstBad [need (f.mod != 3) 0x03, need (f.mod ≤ 3) 0x04]) .one .oneOpt .off (scalarImm f)
  | .kand f => fcReason f (fcMod0 f) .one .oneOpt .off (scalarImm f)
  | .kor f => fcReason f (fcMod0 f) .one .oneOpt .off (scalarImm f)
  | .kxor f => fcReason f (fcMod0 f) .one .oneOpt .off (scalarImm f)
  | .kshl f => fcReason f (firstBad [need (f.mod != 2) 0x03, need (f.mod == 0) 0x04]) .one .oneOpt .off (scalarImm f)
  | .kshr f => fcReason f (need (f.mod == 1 || f.mod == 3) 0x04) .one .oneOpt .off (scalarImm f)
  | .kcmp f => fcReason f (firstBad [need ((f.mod.extractLsb' 0 3).toNat ≤ 5) 0x03,
      need (f.mod.extractLsb' 4 4 == 0) 0x04]) .one .oneOpt .off (scalarImm f)
  | .ksel f => fcReason f (fcMod0 f) .one .one .one (need (f.imm == 0) 0x04)
  | .kmovi f => firstBad [need (f.mod.extractLsb' 4 4 == 0 && f.mod.extractLsb' 0 2 != 3) 0x03,
      need (f.mod.extractLsb' 2 2 == 0) 0x04, targetReason true f.t0 f.t1]
  | .kld f => fcReason f (fcMod0 f) .one .off .off none
  | .kst f => fcReason f (fcMod0 f) .one .one .off none
  | .krd f => fcReason f (fcrMod f 0) .off .off .off (rbZero f)
  | .kwr f => firstBad [fcReason f (fcrMod f 0) .one .off .off (rbZero f), noTarget f]
  | .kstm f => fcReason f (fcrMod f 0) .one .off .off (rbZero f)
  | .kldm f => fcReason f (fcrMod f 0) .one .off .off (rbZero f)
  | .qsend f => fcReason f (fcrMod f 7) .oneOpt .off .off (rbZero f)
  | .qrecv f => fcReason f (fcrMod f 7) .oneOpt .off .off (rbZero f)
  | .rep f => fcReason f (fcMod0 f) .oneOpt .off .off (firstBad [need ((f.imm.extractLsb' 4 6).toNat ≤ 32) 0x03,
      need (!f.a.used || f.imm.extractLsb' 4 6 == 0) 0x04, need (!f.t0.v) 0x07])
  | .bra f => firstBad [fcReason f (fcMod0 f) .oneOpt .off .off (need (!f.a.used || f.imm == 0) 0x04), noTarget f]
  | .bcall f => firstBad [fcReason f (fcMod0 f) .oneOpt .off .off (need (!f.a.used || f.imm == 0) 0x04), noTarget f]
  | .bret f => firstBad [fcReason f (fcMod0 f) .oneOpt .off .off (need (f.imm == 0) 0x04), noTarget f]
  | .csrrd f => fcReason f (fcMod0 f) .oneOpt .off .off none
  | .csrwr f => fcReason f (fcMod0 f) .one .off .off none
  | .trap f => firstBad [fcReason f (fcMod0 f) .oneOpt .off .off (firstBad [need (f.imm.getLsbD 7) 0x03,
      need (f.imm.extractLsb' 8 2 == 0) 0x04]), noTarget f]
  | .eret f => fcReason f (fcMod0 f) .one .oneOpt .off (need (f.imm == 0) 0x04)
  | .wfe f => fcReason f (fcMod0 f) .one .off .off (need (f.imm == 0) 0x04)
  | .evpop f => fcReason f (fcMod0 f) .oneOpt .off .off (need (f.imm.extractLsb' 3 7 == 0) 0x04)
  | .prcw f => fcReason f (need (f.mod == 0) 0x04) .one .one .off (need (f.imm == 0) 0x04)
  | .prcwS f => fcReason f (need (f.mod == 1) 0x04) .one .one .off (need (f.imm == 0) 0x04)
  | .launch f => fcReason f (fcMod0 f) .one .off .off (need (f.imm == 0) 0x04)
  | .halt f => firstBad [fcReason f (fcMod0 f) .oneOpt .off .off (need (f.imm == 0) 0x04), noTarget f]
  | .egarm f => fcReason f (fcMod0 f) .one .off .off (need (f.imm == 0) 0x04)
  | _ => none

end Sys2Proof
end

