-- ==== Sys2Proof/WellFormed.lean ====
section
/-! DEFINITION. Well-formedness of an instruction: it breaks none of the checks its own word can break (R64..R71 and
its entry).  The checks themselves stand in Machine/Checks.lean. -/

namespace Sys2Proof

/-- The instruction's word passes every check that the word alone can fail (R64). -/
def Instr.wf (i : Instr) : Bool := (localReason i).isNone

end Sys2Proof
end

