-- ==== Sys2Proof/Decode.lean ====
section
/-! DEFINITION. Decoding and encoding of instruction words (R63..R73), total on every 64-bit word: the all-zero word is
NOP, a word that breaks a check of its own is reserved with the REASON of R80, every other word is one instruction.
The encoder is written from the same tables; the device's own steps have no word. -/

namespace Sys2Proof

/-- What a word is. -/
inductive Decoded where
  /-- the all-zero word (R63) -/
  | nop
  /-- an instruction -/
  | instr (i : Instr)
  /-- a reserved value, with its REASON (R64, R80) -/
  | reserved (r : Reason)
  deriving DecidableEq, Repr

/-! ## Fields (R63, R65, R66, R68) -/

/-- A port control from its six bits at `lo` (R65). -/
def portOf (w : Word64) (lo : Nat) : PortCtl := ⟨w.extractLsb' (lo + 3) 3, w.extractLsb' lo 3⟩

/-- A target from its ten bits at `lo` (R66). -/
def targetOf (w : Word64) (lo : Nat) : Target := ⟨w.getLsbD (lo + 9), w.extractLsb' (lo + 2) 7, w.extractLsb' lo 2⟩

/-- The fields of format FA. -/
def faOf (w : Word64) : FA :=
  ⟨w.extractLsb' 48 8, targetOf w 38, targetOf w 28, portOf w 22, portOf w 16, portOf w 10, w.extractLsb' 0 10⟩
/-- The fields of format FI. -/
def fiOf (w : Word64) : FI := ⟨w.extractLsb' 48 8, targetOf w 38, targetOf w 28, portOf w 22, w.extractLsb' 0 22⟩
/-- The fields of format FK. -/
def fkOf (w : Word64) : FK := ⟨w.extractLsb' 48 8, targetOf w 38, targetOf w 28, w.extractLsb' 0 28⟩
/-- The fields of format FM. -/
def fmOf (w : Word64) : FM :=
  ⟨w.extractLsb' 48 8, targetOf w 38, targetOf w 28, portOf w 22, portOf w 16, w.extractLsb' 12 4, w.extractLsb' 0 12⟩
/-- The fields of format FO. -/
def foOf (w : Word64) : FO :=
  ⟨w.extractLsb' 48 8, targetOf w 38, targetOf w 28, portOf w 22, portOf w 16, w.extractLsb' 0 16⟩
/-- The fields of format FT. -/
def ftOf (w : Word64) : FT :=
  ⟨w.extractLsb' 48 8, targetOf w 38, targetOf w 28, portOf w 22, portOf w 16, w.extractLsb' 8 8, w.extractLsb' 0 8⟩
/-- The fields of format FC. -/
def fcOf (w : Word64) : FC :=
  ⟨w.extractLsb' 48 8, targetOf w 38, targetOf w 28, portOf w 22, portOf w 16, portOf w 10, w.extractLsb' 0 10⟩

/-! ## The opcode map (R73), one function per column -/

/-- Column 0x0 of the opcode map, by OP bits [3:0]. -/
def opColumn0 (row : Nat) (w : Word64) : Option Instr :=
  match row with
  | 1 => some (.iadd (faOf w))
  | 2 => some (.isub (faOf w))
  | 3 => some (.imul (faOf w))
  | 4 => some (.imulh (faOf w))
  | 5 => some (.imad (faOf w))
  | 6 => some (.ineg (faOf w))
  | 7 => some (.iabs (faOf w))
  | 8 => some (.imin (faOf w))
  | 9 => some (.imax (faOf w))
  | 10 => some (.and (faOf w))
  | 11 => some (.or (faOf w))
  | 12 => some (.xor (faOf w))
  | 13 => some (.not (faOf w))
  | 14 => some (.shl (faOf w))
  | 15 => some (.shr (faOf w))
  | _ => none

/-- Column 0x1 of the opcode map, by OP bits [3:0]. -/
def opColumn1 (row : Nat) (w : Word64) : Option Instr :=
  match row with
  | 0 => some (.sar (faOf w))
  | 1 => some (.rotl (faOf w))
  | 2 => some (.clz (faOf w))
  | 3 => some (.popc (faOf w))
  | 4 => some (.bfx (fiOf w))
  | 5 => some (.bfi (faOf w))
  | 6 => some (.icmp (faOf w))
  | 7 => some (.sel (faOf w))
  | 8 => some (.mov (faOf w))
  | 9 => some (.const (fkOf w))
  | 10 => some (.lane (faOf w))
  | 11 => some (.coord (faOf w))
  | 12 => some (.phase (faOf w))
  | _ => none

/-- Column 0x2 of the opcode map, by OP bits [3:0]. -/
def opColumn2 (row : Nat) (w : Word64) : Option Instr :=
  match row with
  | 0 => some (.fadd (faOf w))
  | 1 => some (.fsub (faOf w))
  | 2 => some (.fmul (faOf w))
  | 3 => some (.fma (faOf w))
  | 4 => some (.fmin (faOf w))
  | 5 => some (.fmax (faOf w))
  | 6 => some (.fabs (faOf w))
  | 7 => some (.fneg (faOf w))
  | 8 => some (.fcmp (faOf w))
  | 9 => some (.fclass (faOf w))
  | 10 => some (.fscl (faOf w))
  | _ => none

/-- Column 0x3 of the opcode map, by OP bits [3:0]. -/
def opColumn3 (row : Nat) (w : Word64) : Option Instr :=
  match row with
  | 0 => some (.rcp (faOf w))
  | 1 => some (.rsq (faOf w))
  | 2 => some (.exp2 (faOf w))
  | 3 => some (.log2 (faOf w))
  | 4 => some (.tcos (faOf w))
  | 5 => some (.tsin (faOf w))
  | _ => none

/-- Column 0x4 of the opcode map, by OP bits [3:0]. -/
def opColumn4 (row : Nat) (w : Word64) : Option Instr :=
  match row with
  | 0 => some (.cvt (faOf w))
  | 1 => some (.qnt (faOf w))
  | 2 => some (.dqt (faOf w))
  | 3 => some (.pack (faOf w))
  | 4 => some (.unpk (faOf w))
  | 5 => some (.rndi (faOf w))
  | 6 => some (.sclc (faOf w))
  | _ => none

/-- Column 0x5 of the opcode map, by OP bits [3:0]. -/
def opColumn5 (row : Nat) (w : Word64) : Option Instr :=
  match row with
  | 0 => some (.rsum (faOf w))
  | 1 => some (.rmax (faOf w))
  | 2 => some (.rmin (faOf w))
  | 3 => some (.argmx (faOf w))
  | 4 => some (.scan (faOf w))
  | 5 => some (.dot (faOf w))
  | 6 => some (.perm (faOf w))
  | 7 => some (.bcast (fiOf w))
  | 8 => some (.adv (faOf w))
  | _ => none

/-- Column 0x6 of the opcode map, by OP bits [3:0]. -/
def opColumn6 (row : Nat) (w : Word64) : Option Instr :=
  match row with
  | 0 => some (.steer (foOf w))
  | 1 => some (.carry (faOf w))
  | 2 => some (.inv (foOf w))
  | 3 => some (.merge (faOf w))
  | 4 => some (.amrg (faOf w))
  | 5 => some (.cinch (faOf w))
  | 6 => some (.drop (faOf w))
  | 7 => some (.count (foOf w))
  | 8 => some (.lctr (foOf w))
  | 9 => some (.eos (foOf w))
  | 10 => some (.gate (foOf w))
  | _ => none

/-- Column 0x7 of the opcode map, by OP bits [3:0]. -/
def opColumn7 (row : Nat) (w : Word64) : Option Instr :=
  match row with
  | 0 => some (if w.getLsbD 9 then .rheadLa (faOf w) else .rhead (faOf w))
  | 1 => some (.sadm (faOf w))
  | 2 => some (.sevc (faOf w))
  | 3 => some (if w.getLsbD 48 then .shldU (faOf w) else .shld (faOf w))
  | 4 => some (.srel (faOf w))
  | 5 => some (.sclr (faOf w))
  | 6 => some (.sstat (faOf w))
  | 7 => some (.bank (faOf w))
  | 8 => some (.unbank (faOf w))
  | 9 => some (.rerot (faOf w))
  | 10 => some (.mark (faOf w))
  | _ => none

/-- Column 0x8 of the opcode map, by OP bits [3:0]. -/
def opColumn8 (row : Nat) (w : Word64) : Option Instr :=
  match row with
  | 0 => some (.ld (fmOf w))
  | 1 => some (.st (fmOf w))
  | 2 => some (.lds (fmOf w))
  | 3 => some (.stf (fmOf w))
  | 4 => some (.ldx (fmOf w))
  | 5 => some (.stx (fmOf w))
  | 6 => some (.amo (fmOf w))
  | 7 => some (.done (fmOf w))
  | 8 => some (.rpush (fmOf w))
  | 9 => some (.rpop (fmOf w))
  | _ => none

/-- Column 0xA of the opcode map, by OP bits [3:0]. -/
def opColumnA (row : Nat) (w : Word64) : Option Instr :=
  match row with
  | 0 => some (.mtask (ftOf w))
  | 1 => some (.msync (ftOf w))
  | 2 => some (.mdrain (ftOf w))
  | 3 => some (.xreq (ftOf w))
  | 4 => some (.xmc (ftOf w))
  | _ => none

/-- Column 0xB of the opcode map, by OP bits [3:0]. -/
def opColumnB (row : Nat) (w : Word64) : Option Instr :=
  match row with
  | 0 => some (.pglk (fmOf w))
  | 1 => some (.pgfork (fmOf w))
  | 2 => some (.pgfree (fmOf w))
  | 3 => some (.pgbase (fmOf w))
  | 4 => some (.ldk (fmOf w))
  | 5 => some (.ldv (fmOf w))
  | 6 => some (.kapp (fmOf w))
  | 7 => some (.smrg (faOf w))
  | 8 => some (.rsvr (faOf w))
  | 9 => some (.rdraw (faOf w))
  | 10 => some (.accpt (faOf w))
  | 11 => some (.egput (fmOf w))
  | 12 => some (.egver (fmOf w))
  | 13 => some (.egrst (fmOf w))
  | 14 => some (.rein (foOf w))
  | _ => none

/-- Column 0xC of the opcode map, by OP bits [3:0]. -/
def opColumnC (row : Nat) (w : Word64) : Option Instr :=
  match row with
  | 0 => some (.kadd (fcOf w))
  | 1 => some (.ksub (fcOf w))
  | 2 => some (.kmul (fcOf w))
  | 3 => some (.kand (fcOf w))
  | 4 => some (.kor (fcOf w))
  | 5 => some (.kxor (fcOf w))
  | 6 => some (if w.getLsbD 48 then .kshr (fcOf w) else .kshl (fcOf w))
  | 7 => some (.kcmp (fcOf w))
  | 8 => some (.ksel (fcOf w))
  | 9 => some (.kmovi (fkOf w))
  | 10 => some (.kld (fcOf w))
  | 11 => some (.kst (fcOf w))
  | 12 => some (.kstm (fcOf w))
  | 13 => some (.kldm (fcOf w))
  | 14 => some (.krd (fcOf w))
  | 15 => some (.kwr (fcOf w))
  | _ => none

/-- Column 0xD of the opcode map, by OP bits [3:0]. -/
def opColumnD (row : Nat) (w : Word64) : Option Instr :=
  match row with
  | 0 => some (.bra (fcOf w))
  | 1 => some (.bcall (fcOf w))
  | 2 => some (.bret (fcOf w))
  | 3 => some (.rep (fcOf w))
  | 4 => some (.qsend (fcOf w))
  | 5 => some (.qrecv (fcOf w))
  | 6 => some (.csrrd (fcOf w))
  | 7 => some (.csrwr (fcOf w))
  | 8 => some (.trap (fcOf w))
  | 9 => some (.eret (fcOf w))
  | 10 => some (.wfe (fcOf w))
  | 11 => some (.evpop (fcOf w))
  | 12 => some (if w.getLsbD 48 then .prcwS (fcOf w) else .prcw (fcOf w))
  | 13 => some (.launch (fcOf w))
  | 14 => some (.halt (fcOf w))
  | 15 => some (.egarm (fcOf w))
  | _ => none

/-- The instruction of a word by OP alone, none for a reserved opcode (R73). -/
def opcodeMap (w : Word64) : Option Instr :=
  let row := (w.extractLsb' 56 4).toNat
  match (w.extractLsb' 60 4).toNat with
  | 0 => opColumn0 row w
  | 1 => opColumn1 row w
  | 2 => opColumn2 row w
  | 3 => opColumn3 row w
  | 4 => opColumn4 row w
  | 5 => opColumn5 row w
  | 6 => opColumn6 row w
  | 7 => opColumn7 row w
  | 8 => opColumn8 row w
  | 10 => opColumnA row w
  | 11 => opColumnB row w
  | 12 => opColumnC row w
  | 13 => opColumnD row w
  | _ => none

/-- Decoding, total on every word: NOP, an instruction, or the REASON of the word's first failure. -/
def decode (w : Word64) : Decoded :=
  if w == 0 then .nop
  else match opcodeMap w with
    | none => .reserved 0x01
    | some i => match localReason i with
      | none => .instr i
      | some r => .reserved r

/-- Eight bytes, little-endian (R11). -/
def wordOfBytes (bs : List Byte) : Word64 := bs.foldr (fun b acc => (acc <<< 8) ||| b.setWidth 64) 0

/-- The bytes of a word as they lie in memory, lowest address first (R11). -/
def bytesOfWord (w : Word64) : List Byte := (List.range 8).map fun i => w.extractLsb' (8 * i) 8

/-- Decoding of a word as it lies in memory. -/
def decodeBytes (bs : List Byte) : Decoded := decode (wordOfBytes bs)

/-- The instruction that the decoder reads from the word whose bits are `w`, the bits above `nbits` being zero. -/
def decodeTableWord (nbits w : Nat) : Option Instr :=
  match decodeBytes (bytesOfWord (BitVec.ofNat 64 (w % 2 ^ nbits))) with
  | .instr i => some i
  | _ => none

/-! ## The encoder -/

/-- The six bits of a port control (R65). -/
def PortCtl.bits (p : PortCtl) : BitVec 6 := p.need ++ p.pop

/-- The ten bits of a target (R66). -/
def Target.bits (t : Target) : BitVec 10 := BitVec.ofBool t.v ++ t.slot ++ t.port

/-- The high 36 bits that every format shares (R63). -/
def headBits (op mod : BitVec 8) (t0 t1 : Target) : BitVec 36 := op ++ mod ++ t0.bits ++ t1.bits

/-- Format FA. -/
def FA.word (op : BitVec 8) (f : FA) : Word64 :=
  headBits op f.mod f.t0 f.t1 ++ f.a.bits ++ f.b.bits ++ f.c.bits ++ f.imm
/-- Format FI. -/
def FI.word (op : BitVec 8) (f : FI) : Word64 := headBits op f.mod f.t0 f.t1 ++ f.a.bits ++ f.imm
/-- Format FK. -/
def FK.word (op : BitVec 8) (f : FK) : Word64 := headBits op f.mod f.t0 f.t1 ++ f.imm
/-- Format FM. -/
def FM.word (op : BitVec 8) (f : FM) : Word64 :=
  headBits op f.mod f.t0 f.t1 ++ f.a.bits ++ f.b.bits ++ f.space ++ f.off
/-- Format FO. -/
def FO.word (op : BitVec 8) (f : FO) : Word64 := headBits op f.mod f.t0 f.t1 ++ f.a.bits ++ f.b.bits ++ f.params
/-- Format FT. -/
def FT.word (op : BitVec 8) (f : FT) : Word64 :=
  headBits op f.mod f.t0 f.t1 ++ f.a.bits ++ f.b.bits ++ f.island ++ f.params
/-- Format FC. -/
def FC.word (op : BitVec 8) (f : FC) : Word64 :=
  headBits op f.mod f.t0 f.t1 ++ f.a.bits ++ f.b.bits ++ f.c.bits ++ f.imm

/-- The word of an instruction, none for a step of the device itself. -/
def encode : Instr → Option Word64
  | .iadd f => some (f.word 0x01)
  | .isub f => some (f.word 0x02)
  | .imul f => some (f.word 0x03)
  | .imulh f => some (f.word 0x04)
  | .imad f => some (f.word 0x05)
  | .ineg f => some (f.word 0x06)
  | .iabs f => some (f.word 0x07)
  | .imin f => some (f.word 0x08)
  | .imax f => some (f.word 0x09)
  | .and f => some (f.word 0x0A)
  | .or f => some (f.word 0x0B)
  | .xor f => some (f.word 0x0C)
  | .not f => some (f.word 0x0D)
  | .shl f => some (f.word 0x0E)
  | .shr f => some (f.word 0x0F)
  | .sar f => some (f.word 0x10)
  | .rotl f => some (f.word 0x11)
  | .clz f => some (f.word 0x12)
  | .popc f => some (f.word 0x13)
  | .bfx f => some (f.word 0x14)
  | .bfi f => some (f.word 0x15)
  | .icmp f => some (f.word 0x16)
  | .sel f => some (f.word 0x17)
  | .mov f => some (f.word 0x18)
  | .const f => some (f.word 0x19)
  | .lane f => some (f.word 0x1A)
  | .coord f => some (f.word 0x1B)
  | .phase f => some (f.word 0x1C)
  | .fadd f => some (f.word 0x20)
  | .fsub f => some (f.word 0x21)
  | .fmul f => some (f.word 0x22)
  | .fma f => some (f.word 0x23)
  | .fmin f => some (f.word 0x24)
  | .fmax f => some (f.word 0x25)
  | .fabs f => some (f.word 0x26)
  | .fneg f => some (f.word 0x27)
  | .fcmp f => some (f.word 0x28)
  | .fclass f => some (f.word 0x29)
  | .fscl f => some (f.word 0x2A)
  | .rcp f => some (f.word 0x30)
  | .rsq f => some (f.word 0x31)
  | .exp2 f => some (f.word 0x32)
  | .log2 f => some (f.word 0x33)
  | .tcos f => some (f.word 0x34)
  | .tsin f => some (f.word 0x35)
  | .cvt f => some (f.word 0x40)
  | .qnt f => some (f.word 0x41)
  | .dqt f => some (f.word 0x42)
  | .pack f => some (f.word 0x43)
  | .unpk f => some (f.word 0x44)
  | .rndi f => some (f.word 0x45)
  | .sclc f => some (f.word 0x46)
  | .rsum f => some (f.word 0x50)
  | .rmax f => some (f.word 0x51)
  | .rmin f => some (f.word 0x52)
  | .argmx f => some (f.word 0x53)
  | .scan f => some (f.word 0x54)
  | .dot f => some (f.word 0x55)
  | .perm f => some (f.word 0x56)
  | .bcast f => some (f.word 0x57)
  | .adv f => some (f.word 0x58)
  | .steer f => some (f.word 0x60)
  | .carry f => some (f.word 0x61)
  | .inv f => some (f.word 0x62)
  | .merge f => some (f.word 0x63)
  | .amrg f => some (f.word 0x64)
  | .cinch f => some (f.word 0x65)
  | .drop f => some (f.word 0x66)
  | .count f => some (f.word 0x67)
  | .lctr f => some (f.word 0x68)
  | .eos f => some (f.word 0x69)
  | .gate f => some (f.word 0x6A)
  | .rhead f => some (f.word 0x70)
  | .rheadLa f => some (f.word 0x70)
  | .sadm f => some (f.word 0x71)
  | .sevc f => some (f.word 0x72)
  | .shld f => some (f.word 0x73)
  | .shldU f => some (f.word 0x73)
  | .srel f => some (f.word 0x74)
  | .sclr f => some (f.word 0x75)
  | .sstat f => some (f.word 0x76)
  | .bank f => some (f.word 0x77)
  | .unbank f => some (f.word 0x78)
  | .rerot f => some (f.word 0x79)
  | .mark f => some (f.word 0x7A)
  | .ld f => some (f.word 0x80)
  | .st f => some (f.word 0x81)
  | .lds f => some (f.word 0x82)
  | .stf f => some (f.word 0x83)
  | .ldx f => some (f.word 0x84)
  | .stx f => some (f.word 0x85)
  | .amo f => some (f.word 0x86)
  | .done f => some (f.word 0x87)
  | .rpush f => some (f.word 0x88)
  | .rpop f => some (f.word 0x89)
  | .mtask f => some (f.word 0xA0)
  | .msync f => some (f.word 0xA1)
  | .mdrain f => some (f.word 0xA2)
  | .xreq f => some (f.word 0xA3)
  | .xmc f => some (f.word 0xA4)
  | .pglk f => some (f.word 0xB0)
  | .pgfork f => some (f.word 0xB1)
  | .pgfree f => some (f.word 0xB2)
  | .pgbase f => some (f.word 0xB3)
  | .ldk f => some (f.word 0xB4)
  | .ldv f => some (f.word 0xB5)
  | .kapp f => some (f.word 0xB6)
  | .smrg f => some (f.word 0xB7)
  | .rsvr f => some (f.word 0xB8)
  | .rdraw f => some (f.word 0xB9)
  | .accpt f => some (f.word 0xBA)
  | .egput f => some (f.word 0xBB)
  | .egver f => some (f.word 0xBC)
  | .egrst f => some (f.word 0xBD)
  | .rein f => some (f.word 0xBE)
  | .kadd f => some (f.word 0xC0)
  | .ksub f => some (f.word 0xC1)
  | .kmul f => some (f.word 0xC2)
  | .kand f => some (f.word 0xC3)
  | .kor f => some (f.word 0xC4)
  | .kxor f => some (f.word 0xC5)
  | .kshl f => some (f.word 0xC6)
  | .kshr f => some (f.word 0xC6)
  | .kcmp f => some (f.word 0xC7)
  | .ksel f => some (f.word 0xC8)
  | .kmovi f => some (f.word 0xC9)
  | .kld f => some (f.word 0xCA)
  | .kst f => some (f.word 0xCB)
  | .kstm f => some (f.word 0xCC)
  | .kldm f => some (f.word 0xCD)
  | .krd f => some (f.word 0xCE)
  | .kwr f => some (f.word 0xCF)
  | .bra f => some (f.word 0xD0)
  | .bcall f => some (f.word 0xD1)
  | .bret f => some (f.word 0xD2)
  | .rep f => some (f.word 0xD3)
  | .qsend f => some (f.word 0xD4)
  | .qrecv f => some (f.word 0xD5)
  | .csrrd f => some (f.word 0xD6)
  | .csrwr f => some (f.word 0xD7)
  | .trap f => some (f.word 0xD8)
  | .eret f => some (f.word 0xD9)
  | .wfe f => some (f.word 0xDA)
  | .evpop f => some (f.word 0xDB)
  | .prcw f => some (f.word 0xDC)
  | .prcwS f => some (f.word 0xDC)
  | .launch f => some (f.word 0xDD)
  | .halt f => some (f.word 0xDE)
  | .egarm f => some (f.word 0xDF)
  | _ => none

end Sys2Proof
end

