-- ==== Sys2Proof/Machine/Num.lean ====
section
/-! DEFINITION. Exact numbers and their rounding (R125..R139, R153): IEEE formats, F8A, F8B and K4 codes, the scale
word, and the six functions of the function unit, each the exact value rounded once. -/

namespace Sys2Proof.Machine

/-- An exact number: a NaN, an infinity, or ±m·2^e; the sign of a zero is kept. -/
inductive Num where
  | nan
  | inf (neg : Bool)
  | fin (neg : Bool) (m : Nat) (e : Int)
  deriving DecidableEq, Repr

/-- The rounding modes of R71 and R137. -/
inductive Rnd where
  | rne | rtz | rdn | rup
  deriving DecidableEq, Repr

/-- The rounding mode of a two-bit field (R71). -/
def Rnd.ofBits (b : BitVec 2) : Rnd :=
  match b.toNat with
  | 0 => .rne
  | 1 => .rtz
  | 2 => .rdn
  | _ => .rup

/-- 2^k as an integer power for a nonnegative k, 1 otherwise. -/
def pow2 (k : Int) : Nat := 2 ^ k.toNat

/-- The length of a natural number in bits, 0 for 0. -/
def bitLen (m : Nat) : Nat := if m == 0 then 0 else Nat.log2 m + 1

/-! ## Exact operations -/

/-- The sign bit of a number; a NaN counts as positive. -/
def Num.neg : Num → Bool
  | .nan => false
  | .inf s => s
  | .fin s _ _ => s

/-- The number is a zero of either sign. -/
def Num.isZero : Num → Bool
  | .fin _ m _ => m == 0
  | _ => false

/-- The number is a NaN. -/
def Num.isNan : Num → Bool
  | .nan => true
  | _ => false

/-- The number is an infinity. -/
def Num.isInf : Num → Bool
  | .inf _ => true
  | _ => false

/-- The number with its sign inverted. -/
def Num.flip : Num → Num
  | .nan => .nan
  | .inf s => .inf (!s)
  | .fin s m e => .fin (!s) m e

/-- The number without its sign. -/
def Num.mag : Num → Num
  | .nan => .nan
  | .inf _ => .inf false
  | .fin _ m e => .fin false m e

/-- The signed mantissa of ±m·2^e brought to the exponent q ≤ e. -/
def signedAt (s : Bool) (m : Nat) (e q : Int) : Int :=
  let v : Int := m * pow2 (e - q)
  if s then -v else v

/-- Exact product; 0·∞ is a NaN. -/
def Num.mul : Num → Num → Num
  | .nan, _ => .nan
  | _, .nan => .nan
  | .inf s, y => if y.isZero then .nan else .inf (s != y.neg)
  | x, .inf s => if x.isZero then .nan else .inf (s != x.neg)
  | .fin s m e, .fin t n f => .fin (s != t) (m * n) (e + f)

/-- Exact sum; ∞ − ∞ is a NaN.  The sign of an exact zero follows R137: equal signs keep it, else +0, or −0 in RDN. -/
def Num.add (rm : Rnd) : Num → Num → Num
  | .nan, _ => .nan
  | _, .nan => .nan
  | .inf s, .inf t => if s == t then .inf s else .nan
  | .inf s, _ => .inf s
  | _, .inf s => .inf s
  | .fin s m e, .fin t n f =>
    let q := min e f
    let v := signedAt s m e q + signedAt t n f q
    if v == 0 then .fin (if s == t then s else rm == .rdn) 0 0 else .fin (v < 0) v.natAbs q

/-- x·2^k, exactly. -/
def Num.scale (k : Int) : Num → Num
  | .fin s m e => .fin s m (e + k)
  | x => x

/-- The sign of x − y for two numbers that are not NaN: −1, 0 or 1, with +0 equal to −0. -/
def Num.cmp (x y : Num) : Int :=
  match x, y with
  | .inf s, .inf t => if s == t then 0 else if s then -1 else 1
  | .inf s, _ => if s then -1 else 1
  | _, .inf t => if t then 1 else -1
  | .fin s m e, .fin t n f => (signedAt s m e (min e f) - signedAt t n f (min e f)).sign
  | _, _ => 0

/-! ## Integers -/

/-- An element of width w read signed. -/
def sgn (w n : Nat) : Int := if 2 * n < 2 ^ w then n else (n : Int) - 2 ^ w

/-- An integer reduced to w bits. -/
def wrapTo (w : Nat) (v : Int) : Nat := (v % (2 ^ w : Nat)).toNat

/-- `sat` of R138. -/
def sat (v lo hi : Int) : Int := if v < lo then lo else if v > hi then hi else v

/-- An integer as an exact number; zero is +0. -/
def Num.ofInt (v : Int) : Num := .fin (v < 0) v.natAbs 0

/-! ## Rounding to a quantum -/

/-- m / 2^k rounded to an integer, the discarded part being enlarged by a positive amount below one unit of m when
`sticky` holds.  `neg` is the sign of the value whose magnitude this is. -/
def roundShift (rm : Rnd) (neg : Bool) (m k : Nat) (sticky : Bool) : Nat :=
  if k > bitLen m + 2 then
    (if m == 0 && !sticky then 0 else match rm with
      | .rne => 0 | .rtz => 0 | .rdn => if neg then 1 else 0 | .rup => if neg then 0 else 1)
  else
    let n := m / 2 ^ k
    let rem := m % 2 ^ k
    let inexact := rem != 0 || sticky
    let up := match rm with
      | .rne => if k == 0 then false else 2 * rem > 2 ^ k || (2 * rem == 2 ^ k && (sticky || n % 2 == 1))
      | .rtz => false
      | .rdn => neg && inexact
      | .rup => !neg && inexact
    if up then n + 1 else n

/-! ## The IEEE formats (R131) -/

/-- An IEEE 754 format: width, precision with the hidden bit, exponent bits. -/
structure Ieee where
  width : Nat
  prec : Nat
  ebits : Nat
  deriving DecidableEq, Repr

/-- F32 (R131). -/
def f32 : Ieee := ⟨32, 24, 8⟩
/-- BF16 (R131). -/
def bf16 : Ieee := ⟨16, 8, 8⟩
/-- F16 (R131). -/
def f16 : Ieee := ⟨16, 11, 5⟩

/-- The exponent of the smallest subnormal's only bit. -/
def Ieee.qmin (f : Ieee) : Int := 3 - (2 ^ (f.ebits - 1) : Nat) - f.prec

/-- The code of +∞. -/
def Ieee.infCode (f : Ieee) : Nat := (2 ^ f.ebits - 1) * 2 ^ (f.prec - 1)

/-- The canonical NaN (R131). -/
def Ieee.canon (f : Ieee) : Nat := f.infCode + 2 ^ (f.prec - 2)

/-- The code's value (R131). -/
def Ieee.dec (f : Ieee) (c : Nat) : Num :=
  let s := c / 2 ^ (f.width - 1) % 2 == 1
  let ex := c / 2 ^ (f.prec - 1) % 2 ^ f.ebits
  let mant := c % 2 ^ (f.prec - 1)
  if ex == 2 ^ f.ebits - 1 then (if mant == 0 then .inf s else .nan)
  else if ex == 0 then .fin s mant f.qmin
  else .fin s (2 ^ (f.prec - 1) + mant) (f.qmin + ex - 1)

/-- The code of ±(m·2^e), enlarged in magnitude by less than 2^e when `sticky` holds, under a rounding mode. -/
def Ieee.pack (f : Ieee) (rm : Rnd) (neg : Bool) (m : Nat) (e : Int) (sticky : Bool) : Nat :=
  let sign := if neg then 2 ^ (f.width - 1) else 0
  let q := max (e + bitLen m - f.prec) f.qmin
  let n := if q ≤ e then m * pow2 (e - q) else roundShift rm neg m (q - e).toNat sticky
  let code := (q - f.qmin) * (2 ^ (f.prec - 1) : Nat) + n
  if m == 0 && !sticky then sign
  else if code ≥ f.infCode then
    sign + (match rm with
      | .rne => f.infCode
      | .rtz => f.infCode - 1
      | .rdn => if neg then f.infCode else f.infCode - 1
      | .rup => if neg then f.infCode - 1 else f.infCode)
  else sign + code.toNat

/-- round(x, f, rm) of R138, with the canonical NaN for a NaN. -/
def Ieee.round (f : Ieee) (rm : Rnd) : Num → Nat
  | .nan => f.canon
  | .inf s => f.infCode + (if s then 2 ^ (f.width - 1) else 0)
  | .fin s m e => f.pack rm s m e false

/-- x rounded to an integer by a mode; a NaN or an infinity has none. -/
def Num.toIntRnd (rm : Rnd) : Num → Option Int
  | .fin s m e =>
    let n := if e ≥ 0 then m * pow2 e else roundShift rm s m (-e).toNat false
    some (if s then -(n : Int) else n)
  | _ => none

/-! ## Codes read through a table (R132, R134, R137) -/

/-- The value of an F8 code with M mantissa bits and the given bias, as an integer times 2^-(bias + M); none for NaN. -/
def f8Int (M : Nat) (c : Nat) : Option Int :=
  if c % 128 == 127 then none
  else if c == 0 then some 0
  else
    let v : Int := (2 ^ M + c % 2 ^ M) * 2 ^ (c / 2 ^ M % 2 ^ (7 - M)) 
    some (if c ≥ 128 then -v else v)

/-- A K4 code's value times 16, by TYPE (R134). -/
def k4Int (type c : Nat) : Int :=
  let row : List Int := match type with
    | 0 => [0, 16, 32, 48, 64, 80, 96, 112, -128, -112, -96, -80, -64, -48, -32, -16]
    | 1 => [0, 12, 16, 24, 32, 48, 64, 96, -8, -12, -16, -24, -32, -48, -64, -96]
    | 2 => [0, 2, 4, 8, 16, 32, 64, 128, -1, -2, -4, -8, -16, -32, -64, -128]
    | _ => [0, 16, 32, 48, 64, 96, 128, 192, -8, -16, -32, -48, -64, -96, -128, -192]
  row.getD c 0

/-- The narrow formats that one shared scale covers. -/
inductive Narrow where
  | f8a | f8b | k4 (type : Nat)
  deriving DecidableEq, Repr

/-- The narrow format of a tag and a K4 type (R125). -/
def Narrow.ofTag (t : BitVec 4) (type : Nat) : Narrow :=
  match t.toNat with
  | 4 | 11 => .f8a
  | 5 | 12 => .f8b
  | _ => .k4 type

/-- The values of a narrow format are integers times 2^-unit. -/
def Narrow.unit : Narrow → Nat
  | .f8a => 10
  | .f8b => 17
  | .k4 _ => 4

/-- A code's value over the unit; none for the F8 NaN codes. -/
def Narrow.int : Narrow → Nat → Option Int
  | .f8a, c => f8Int 3 c
  | .f8b, c => f8Int 2 c
  | .k4 t, c => some (k4Int t c)

/-- A code's exact value (R132, R134). -/
def Narrow.dec (f : Narrow) (c : Nat) : Num :=
  match f.int c with
  | none => .nan
  | some v => .fin (v < 0) v.natAbs (-(f.unit : Int))

/-- The codes in ascending order of their values. -/
def Narrow.codes : Narrow → List Nat
  | .f8a => ((List.range 127).map fun i => 254 - i) ++ List.range 127
  | .f8b => ((List.range 127).map fun i => 254 - i) ++ List.range 127
  | .k4 0 => ((List.range 8).map fun i => 8 + i) ++ List.range 8
  | .k4 _ => ((List.range 8).map fun i => 15 - i) ++ List.range 8

/-- QMAX over the unit (R134): the largest positive value. -/
def Narrow.qmaxInt (f : Narrow) : Nat :=
  match f with
  | .f8a => 448 * 2 ^ 10
  | .f8b => 98304 * 2 ^ 17
  | .k4 0 => 7 * 16
  | .k4 1 => 6 * 16
  | .k4 2 => 8 * 16
  | .k4 _ => 12 * 16

/-- The canonical NaN code, 0x7F; K4 has none. -/
def Narrow.canon : Nat := 0x7F

/-- Search of the ascending list: the last code whose value is at most x and the first whose value is at least x, all
values multiplied by `mul`. -/
def bracket (f : Narrow) (x mul : Int) : List Nat → Option Nat × Option Nat → Option Nat × Option Nat
  | [], acc => acc
  | c :: rest, (lo, hi) =>
    let v := (f.int c).getD 0 * mul
    bracket f x mul rest
      (if v ≤ x then some c else lo, if hi.isNone && v ≥ x then some c else hi)

/-- round(x, f, rm) for a narrow format (R137): none where x lies beyond the finite range (ovf_code of R138). -/
def Narrow.round (f : Narrow) (rm : Rnd) (neg : Bool) (m : Nat) (e : Int) : Option Nat :=
  let sh : Int := e + f.unit
  let mul : Int := pow2 (-sh)
  let x : Int := if neg then -(m * pow2 sh : Int) else m * pow2 sh
  match bracket f x mul f.codes (none, none) with
  | (some lo, some hi) =>
    let vlo := (f.int lo).getD 0 * mul
    let vhi := (f.int hi).getD 0 * mul
    if vlo == x then some lo
    else match rm with
      | .rne =>
        if x - vlo < vhi - x then some lo
        else if x - vlo > vhi - x then some hi
        else if lo % 2 == 0 && hi % 2 == 0 then some 0
        else if lo % 2 == 0 then some lo else some hi
      | .rtz => some (if neg then hi else lo)
      | .rdn => some lo
      | .rup => some hi
  | _ => none

/-- ceil(log2(x)) for x = m·2^e above 0. -/
def ceilLog2 (m : Nat) (e : Int) : Int :=
  e + (if m == 2 ^ (Nat.log2 m) then Nat.log2 m else Nat.log2 m + 1 : Nat)

/-- ceil(log2(amax / QMAX)) for amax = m·2^e above 0: the smallest k with amax ≤ QMAX·2^k (R157, R331). -/
def Narrow.ceilExp (f : Narrow) (m : Nat) (e : Int) : Int :=
  -- amax/QMAX = m·2^(e+unit) / qmaxInt
  let q := f.qmaxInt
  let k0 : Int := e + f.unit + bitLen m - bitLen q
  -- candidates k0 - 1, k0, k0 + 1
  let ok (k : Int) : Bool :=
    let d := e + f.unit - k
    if d ≥ 0 then m * pow2 d ≤ q else m ≤ q * pow2 (-d)
  if ok (k0 - 1) then k0 - 1 else if ok k0 then k0 else k0 + 1

/-! ## The scale word (R133, R135) -/

/-- X of a scale word. -/
def scaleX (w : BitVec 16) : Nat := (w.extractLsb' 0 9).toNat

/-- TYPE of a scale word. -/
def scaleType (w : BitVec 16) : Nat := (w.extractLsb' 9 2).toNat

/-- The scale word is malformed for a tag: reserved bits, or a TYPE on an F8 block (R133). -/
def scaleBad (t : BitVec 4) (w : BitVec 16) : Bool :=
  w.extractLsb' 11 5 != 0 || (t != 6 && scaleType w != 0)

/-- The value of a code of a scaled block (R135). -/
def scaledValue (t : BitVec 4) (w : BitVec 16) (c : Nat) : Num :=
  if scaleX w == 511 then .nan else ((Narrow.ofTag t (scaleType w)).dec c).scale (scaleX w - 256)

/-! ## Element values (R126, R131, R132) -/

/-- The exact value of an element of an unscaled float tag. -/
def floatVal (t : BitVec 4) (c : Nat) : Num :=
  match t.toNat with
  | 1 => f32.dec c
  | 2 => bf16.dec c
  | 3 => f16.dec c
  | _ => (Narrow.ofTag t 0).dec c

/-- The IEEE format of a tag; F32 for any other. -/
def ieeeOf (t : BitVec 4) : Ieee :=
  match t.toNat with
  | 2 => bf16
  | 3 => f16
  | _ => f32

/-- Element j of a lane, as a natural number (R126). -/
def elem (t : BitVec 4) (l : Lane) (j : Nat) : Nat := (l.toNat >>> (tagWidth t * j)) % 2 ^ tagWidth t

/-- A lane from its elements, element 0 in the low bits (R126). -/
def laneOfElems (t : BitVec 4) (es : List Nat) : Lane :=
  BitVec.ofNat 32 (es.foldr (fun x acc => acc * 2 ^ tagWidth t + x % 2 ^ tagWidth t) 0)

/-! ## The function unit (R153) -/

/-- floor(sqrt n), by its bits from the highest down. -/
def isqrtGo (n : Nat) : Nat → Nat → Nat
  | 0, r => r
  | k + 1, r => isqrtGo n k (if (r + 2 ^ k) * (r + 2 ^ k) ≤ n then r + 2 ^ k else r)

/-- floor(sqrt n). -/
def isqrt (n : Nat) : Nat := isqrtGo n (bitLen n / 2 + 1) 0

/-- RCP: the exact 1/x rounded once. -/
def rcpCode (rm : Rnd) : Num → Nat
  | .nan => f32.canon
  | .inf s => if s then 0x80000000 else 0
  | .fin s m e =>
    if m == 0 then f32.infCode + (if s then 0x80000000 else 0)
    else
      let k := bitLen m + 64
      f32.pack rm s (2 ^ k / m) (-(k : Int) - e) (2 ^ k % m != 0)

/-- RSQ: the exact 1/√x rounded once; none for an invalid operand. -/
def rsqCode (rm : Rnd) : Num → Option Nat
  | .nan => some f32.canon
  | .inf s => if s then none else some 0
  | .fin s m e =>
    if m == 0 then some (f32.infCode + (if s then 0x80000000 else 0))
    else if s then none
    else
      let m' := if e % 2 == 0 then m else 2 * m
      let h : Int := if e % 2 == 0 then e / 2 else (e - 1) / 2
      let k := bitLen m' + 64
      let y := isqrt (2 ^ (2 * k) / m')
      some (f32.pack rm false y (-(k : Int) - h) (y * y * m' != 2 ^ (2 * k)))

/-- Sum of the odd terms z^(2i+1)/(2i+1), alternating when `alt` holds, in fixed point with M fraction bits; `p` is the
current power of z. -/
def atanSum (M : Nat) (z2 : Nat) (alt : Bool) : Nat → Nat → Nat → Int
  | 0, _, _ => 0
  | n + 1, i, p =>
    let term : Int := p / (2 * i + 1)
    (if alt && i % 2 == 1 then -term else term) + atanSum M z2 alt n (i + 1) (p * z2 / 2 ^ M)

/-- ln 2 in fixed point: 2·artanh(1/3). -/
def ln2Fix (M : Nat) : Nat := (2 * atanSum M (2 ^ M / 9) false M 0 (2 ^ M / 3)).toNat

/-- π in fixed point: 16·arctan(1/5) − 4·arctan(1/239). -/
def piFix (M : Nat) : Nat :=
  (16 * atanSum M (2 ^ M / 25) true M 0 (2 ^ M / 5) - 4 * atanSum M (2 ^ M / 57121) true M 0 (2 ^ M / 239)).toNat

/-- Terms of e^t: the sum of p, p·t, p·t²/2, …, from index i. -/
def expSum (M t : Nat) : Nat → Nat → Nat → Nat
  | 0, _, _ => 0
  | n + 1, i, p => p + expSum M t n (i + 1) (p * t / (2 ^ M * i))

/-- Terms of sin or cos: p − p·t²/((i+1)(i+2)) + …. -/
def trigSum (M t2 : Nat) : Nat → Nat → Nat → Bool → Int
  | 0, _, _, _ => 0
  | n + 1, i, p, neg =>
    (if neg then -(p : Int) else p) + trigSum M t2 n (i + 2) (p * t2 / (2 ^ M * ((i + 1) * (i + 2)))) (!neg)

/-- The error of every fixed-point sum here, in units of 2^-M, is below 2^guard: each sum has at most M terms, and each
term loses less than four units. -/
def guardBits : Nat := 24

/-- Rounds an irrational value known in fixed point to within 2^guard units of 2^-M, at the first precision of the list
that settles the bits above the guard. -/
def settle (rm : Rnd) (neg : Bool) (e : Int) (approx : Nat → Int) : List Nat → Nat
  | [] => f32.canon
  | M :: rest =>
    let a := approx M
    let lo := (a - 2 ^ guardBits) / 2 ^ (2 * guardBits)
    let hi := (a + 2 ^ guardBits) / 2 ^ (2 * guardBits)
    -- the value lies strictly between lo and lo + 1 units of 2^(2·guard - M)
    if lo == hi && lo > 2 ^ 30 then f32.pack rm neg lo.toNat (e + 2 * guardBits - M) true
    else settle rm neg e approx rest

/-- The precisions tried. -/
def precisions : List Nat := [192, 384, 768]

/-- EXP2: the exact 2^x rounded once. -/
def exp2Code (rm : Rnd) : Num → Nat
  | .nan => f32.canon
  | .inf s => if s then 0 else f32.infCode
  | .fin s m e =>
    if m == 0 then 0x3F800000
    else if e + bitLen m > 10 then
      -- |x| ≥ 1,024: far beyond the range of F32
      if s then f32.pack rm false 1 (-2000) true else f32.pack rm false 1 2000 false
    else if e ≥ 0 then
      let n : Int := m * pow2 e
      f32.pack rm false 1 (if s then -n else n) false
    else
      let d : Nat := 2 ^ (-e).toNat
      let v : Int := if s then -(m : Int) else m
      let ip := v / d
      let fp := (v % d).toNat
      if fp == 0 then f32.pack rm false 1 ip false
      else settle rm false ip (fun M =>
        let t := fp * ln2Fix M / d
        expSum M t (M / 2) 1 (2 ^ M)) precisions

/-- log2 of x = m·2^e above 0 in fixed point: the exponent plus ln(u)/ln 2 with u in [1, 2). -/
def log2Fix (m : Nat) (e : Int) (M : Nat) : Int :=
  let L := Nat.log2 m
  -- z = (u - 1)/(u + 1) = (m - 2^L)/(m + 2^L)
  let z := (m - 2 ^ L) * 2 ^ M / (m + 2 ^ L)
  let ln := 2 * atanSum M (z * z / 2 ^ M) false (M / 2) 0 z
  (e + L) * 2 ^ M + ln * 2 ^ M / ln2Fix M

/-- LOG2: the exact log2(x) rounded once; none for an invalid operand. -/
def log2Code (rm : Rnd) : Num → Option Nat
  | .nan => some f32.canon
  | .inf s => if s then none else some f32.infCode
  | .fin s m e =>
    if m == 0 then some (f32.infCode + 0x80000000)
    else if s then none
    else if m == 2 ^ Nat.log2 m then some (f32.round rm (Num.ofInt (e + Nat.log2 m)))
    else
      let neg := e + Nat.log2 m < 0
      some (settle rm neg 0 (fun M => if neg then -(log2Fix m e M) else log2Fix m e M) precisions)

/-- sin (or cos when `c` holds) of a turn fraction r / 2^32 with 0 < r ≤ 2^29, in fixed point. -/
def trigFix (c : Bool) (r : Nat) (M : Nat) : Int :=
  let t := 2 * r * piFix M / 2 ^ 32
  let t2 := t * t / 2 ^ M
  if c then trigSum M t2 (M / 4) 0 (2 ^ M) false else trigSum M t2 (M / 4) 1 t false

/-- sin(2π·t/2^32) rounded once, for a turn fraction t (R153). -/
def sinCode (rm : Rnd) (t : Nat) : Nat :=
  let neg := t ≥ 2 ^ 31
  let u := t % 2 ^ 31
  if u == 0 then 0
  else if u == 2 ^ 30 then (if neg then 0xBF800000 else 0x3F800000)
  else
    -- fold into (0, 1/4) of a turn, then into (0, 1/8]
    let v := if u > 2 ^ 30 then 2 ^ 31 - u else u
    if v ≤ 2 ^ 29 then settle rm neg 0 (trigFix false v) precisions
    else settle rm neg 0 (trigFix true (2 ^ 30 - v)) precisions

/-- cos(2π·t/2^32) rounded once: the sine a quarter turn on. -/
def cosCode (rm : Rnd) (t : Nat) : Nat := sinCode rm ((t + 2 ^ 30) % 2 ^ 32)

end Sys2Proof.Machine
end

