-- ==== Sys2Proof/Machine/Operands.lean ====
section
/-! DEFINITION. Tokens as operands and results (R6, R33, R125..R130): parity, void, end-of-stream and poisoned tokens,
the tag check, the elements of a lane, and the building of result tokens. -/

namespace Sys2Proof

open Machine

/-- A fault cause as a void token carries it (R88 FCAUSE, R139). -/
abbrev Cause := BitVec 8

/-- FCAUSE parity. -/
def causeParity : Cause := 0x01
/-- FCAUSE format. -/
def causeFormat : Cause := 0x02
/-- FCAUSE arithmetic trap. -/
def causeTrap : Cause := 0x03
/-- FCAUSE stream length. -/
def causeLength : Cause := 0x04

/-- Sixteen zero lanes. -/
def zeroLanes : Vector Lane 16 := Vector.replicate 16 0

/-- Even parity of 64 bits: true when an odd number are set. -/
def oddBits (x : Word64) : Bool :=
  let x := x ^^^ (x >>> 32)
  let x := x ^^^ (x >>> 16)
  let x := x ^^^ (x >>> 8)
  let x := x ^^^ (x >>> 4)
  let x := x ^^^ (x >>> 2)
  (x ^^^ (x >>> 1)).getLsbD 0

/-- Sideband bits [22:0] of a token (R33). -/
def Token.side (t : Token) : BitVec 23 :=
  t.scale ++ BitVec.ofBool t.eos ++ BitVec.ofBool t.mark ++ BitVec.ofBool t.void ++ t.tag

/-- Lanes 2i and 2i + 1 as 64 payload bits. -/
def Token.pair (t : Token) (i : Nat) : Word64 :=
  (t.lanes.toList.getD (2 * i + 1) 0) ++ (t.lanes.toList.getD (2 * i) 0)

/-- PAR of R33: bit i covers payload bits [64i + 63 : 64i], bit 7 also the sideband bits [22:0]. -/
def Token.parity (t : Token) : BitVec 8 :=
  (List.range 8).foldl (fun acc i =>
    let odd := oddBits (t.pair i)
    let odd := if i == 7 then odd != oddBits (t.side.setWidth 64) else odd
    if odd then acc ||| (1#8 <<< i) else acc) 0

/-- The token with PAR computed over it. -/
def Token.seal (t : Token) : Token := { t with par := t.parity }

/-- A data token with SCALE zero (R130). -/
def dataToken (lanes : Vector Lane 16) (tag : BitVec 4) : Token :=
  Token.seal ⟨lanes, 0, tag, false, false, false, 0, 0⟩

/-- A data token with a scale word (R130, R133). -/
def scaledToken (lanes : Vector Lane 16) (tag : BitVec 4) (scale : BitVec 16) : Token :=
  Token.seal ⟨lanes, scale, tag, false, false, false, 0, 0⟩

/-- A token that begins with the given lanes and goes on with zeros. -/
def lanesToken (ls : List Lane) (tag : BitVec 4) : Token :=
  dataToken (Vector.ofFn fun i : Fin 16 => ls.getD i.val 0) tag

/-- An I32 token that begins with the given lanes. -/
def i32Token (ls : List Lane) : Token := lanesToken ls 7

/-- A void token (R129) carrying a cause, zero when no fault made it void. -/
def voidToken (lanes : Vector Lane 16) (tag : BitVec 4) (cause : Cause) : Token :=
  Token.seal ⟨lanes, 0, tag, true, false, false, 0, cause⟩

/-- The end-of-stream token: payload zero, TAG 0x0, VOID 0 and MARK 0 (R33). -/
def eosToken : Token := Token.seal ⟨zeroLanes, 0, 0, false, true, false, 0, 0⟩

/-- A poisoned token: payload zero and TAG 0xF (R128). -/
def poisonToken : Token := dataToken zeroLanes 15

/-- The token made void, with its payload, TAG and SCALE kept. -/
def Token.voided (t : Token) (cause : Cause) : Token := Token.seal { t with void := true, cause := cause }

/-- The token with VOID cleared. -/
def Token.unvoided (t : Token) : Token := Token.seal { t with void := false, cause := 0 }

/-- The token is poisoned data. -/
def Token.poisoned (t : Token) : Bool := t.tag == 15 && !t.void && !t.eos

/-- Lane l of a token; zero beyond the sixteen. -/
def Token.lane (t : Token) (l : Nat) : Lane := t.lanes.toList.getD l 0

/-- `tag_check` of R127; `anyRaw` when the entry accepts any tag for a RAW32 declaration. -/
def tagCheck (anyRaw : Bool) (declared : BitVec 4) (t : Token) : Bool :=
  t.tag == declared || (t.tag == 0 && !tagScaled declared && declared != 15) ||
    (declared == 0 && anyRaw && t.tag != 15)

/-- A control or address operand: tag I32 or RAW32 (R171, R247, R251). -/
def Token.wordTag (t : Token) : Bool := t.tag == 7 || t.tag == 0

/-- The tag is reserved: a format fault at the first instruction that reads it (R125). -/
def Token.badTag (t : Token) : Bool := t.tag == 13 || t.tag == 14

/-! ## Elements -/

/-- Element j of lane l of a token read by a tag. -/
def Token.el (t : Token) (tag : BitVec 4) (l j : Nat) : Nat := elem tag (t.lane l) j

/-- The elements of a token in token-index order (R126). -/
def Token.els (t : Token) (tag : BitVec 4) : List Nat :=
  (List.range 16).flatMap fun l => (List.range (tagCount tag)).map fun j => t.el tag l j

/-- A payload from its elements in token-index order. -/
def lanesOfEls (tag : BitVec 4) (es : List Nat) : Vector Lane 16 :=
  let n := tagCount tag
  Vector.ofFn fun l : Fin 16 => laneOfElems tag ((es.drop (l.val * n)).take n)

/-- A data token from its elements. -/
def elsToken (tag : BitVec 4) (es : List Nat) : Token := dataToken (lanesOfEls tag es) tag

/-- What a computing firing gives: a result token, or the cause of a fault. -/
abbrev Result := Except Cause Token

/-- Elements with a trap flag each: the token, or the trap (R139). -/
def trapToken (tag : BitVec 4) (es : List (Nat × Bool)) : Result :=
  if es.any Prod.snd then .error causeTrap else .ok (elsToken tag (es.map Prod.fst))

/-- Sixteen times n positions, by lane and element (R126). -/
def positions (tag : BitVec 4) : List (Nat × Nat) :=
  (List.range 16).flatMap fun l => (List.range (tagCount tag)).map fun j => (l, j)

/-- An elementwise operation. -/
def mapEls (tag : BitVec 4) (op : Nat → Nat → Nat × Bool) : Result :=
  trapToken tag ((positions tag).map fun p => op p.1 p.2)

/-- Checks an operand against its declared tag; a reserved tag fails every check. -/
def checkTag (anyRaw : Bool) (declared : BitVec 4) (t : Token) : Except Cause Unit :=
  if tagCheck anyRaw declared t && !t.badTag then .ok () else .error causeFormat

/-- The operand is an I32 or RAW32 token. -/
def checkWord (t : Token) : Except Cause Unit := if t.wordTag then .ok () else .error causeFormat

/-- The oldest entry of a port's list, the end-of-stream token when there is none. -/
def oldest (es : List Token) : Token := es.headD eosToken

/-! ## Bytes, sites and targets -/

/-- A little-endian number of n bytes (R11). -/
def bytesNat (bs : List Byte) : Nat := bs.foldr (fun b acc => acc * 256 + b.toNat) 0

/-- The n little-endian bytes of a number (R11). -/
def natBytes (n v : Nat) : List Byte := (List.range n).map fun i => BitVec.ofNat 8 (v / 256 ^ i)

/-- The payload of a token as 64 bytes (R6, R11). -/
def Token.bytes (t : Token) : List Byte := t.lanes.toList.flatMap fun l => natBytes 4 l.toNat

/-- Sixteen lanes from 64 bytes. -/
def lanesOfBytes (bs : List Byte) : Vector Lane 16 :=
  Vector.ofFn fun i : Fin 16 => BitVec.ofNat 32 (bytesNat ((bs.drop (4 * i.val)).take 4))

/-- The 32-bit sideband word of a token (R33). -/
def Token.sideWord (t : Token) : BitVec 32 := t.par ++ 0#1 ++ t.side

/-- A token from its payload bytes and its sideband word (R33). -/
def tokenOf (payload : List Byte) (side : BitVec 32) : Token :=
  ⟨lanesOfBytes payload, side.extractLsb' 7 16, side.extractLsb' 0 4, side.getLsbD 4, side.getLsbD 6,
    side.getLsbD 5, side.extractLsb' 24 8, 0⟩

/-- PAR agrees with the token (R34). -/
def Token.parityOk (t : Token) : Bool := t.par == t.parity

/-- The site of another slot of the same region. -/
def Site.at_ (x : Site) (i : Fin 128) : Site := { x with slot := i }

/-- The port a target's PORT field names (R66). -/
def portNamed (b : BitVec 2) : PortName :=
  match b.toNat with
  | 0 => .a
  | 1 => .b
  | _ => .c

/-- A rotation command (R99). -/
def CmdKind.isRotation : CmdKind → Bool
  | .bank | .unbank | .rerot => true
  | _ => false

/-- The slot a target names. -/
def Target.idx (t : Target) : Fin 128 := Fin.ofNat 128 t.slot.toNat

end Sys2Proof
end

