-- ==== Sys2Proof/Machine/Flags.lean ====
section
/-! DEFINITION. Conditions, overflow and invalid operations (R138, R139, R144, R150, R151): what other machines keep in
flags this one gives as elements of a result or as an arithmetic trap. -/

namespace Sys2Proof.Machine

/-- `ovf` of R138: wrap, saturate or trap an exact integer to w bits, unsigned when `u` holds.  The flag says trap. -/
def ovf (w : Nat) (u : Bool) (mode : BitVec 2) (v : Int) : Nat × Bool :=
  let lo : Int := if u then 0 else -(2 ^ (w - 1) : Nat)
  let hi : Int := if u then (2 ^ w : Nat) - 1 else (2 ^ (w - 1) : Nat) - 1
  match mode.toNat with
  | 1 => (wrapTo w (sat v lo hi), false)
  | 2 => (wrapTo w v, v < lo || v > hi)
  | _ => (wrapTo w v, false)

/-- The integer condition of ICMP and KCMP (R144, R192): 0 EQ, 1 NE, 2 LT, 3 LE, 4 GT, 5 GE. -/
def intCond (c : Nat) (x y : Int) : Bool :=
  match c with
  | 0 => x == y
  | 1 => x != y
  | 2 => x < y
  | 3 => x ≤ y
  | 4 => x > y
  | _ => x ≥ y

/-- The float condition of FCMP (R151), with 6 UN and 7 OR. -/
def floatCond (c : Nat) (x y : Num) : Bool :=
  let un := x.isNan || y.isNan
  match c with
  | 1 => un || x.cmp y != 0
  | 6 => un
  | 7 => !un
  | 0 => !un && x.cmp y == 0
  | 2 => !un && x.cmp y < 0
  | 3 => !un && x.cmp y ≤ 0
  | 4 => !un && x.cmp y > 0
  | _ => !un && x.cmp y ≥ 0

/-- ∞ − ∞ with no NaN operand (R139). -/
def addInvalid : Num → Num → Bool
  | .inf s, .inf t => s != t
  | _, _ => false

/-- 0 · ∞ (R139). -/
def mulInvalid (x y : Num) : Bool := (x.isZero && y.isInf) || (x.isInf && y.isZero)

/-- The class mask of FCLASS (R151). -/
def classMask (f : Ieee) (c : Nat) : Nat :=
  match f.dec c with
  | .nan => 2 ^ 8
  | .inf s => if s then 1 else 2 ^ 7
  | .fin s m _ =>
    let row := if m == 0 then 0 else if m ≥ 2 ^ (f.prec - 1) then 2 else 1
    if s then 2 ^ (3 - row) else 2 ^ (4 + row)

/-- FMIN and FMAX on codes (R150): −0 orders below +0, one NaN gives the other operand, two the canonical NaN. -/
def floatPick (f : Ieee) (wantMax : Bool) (x y : Nat) : Nat :=
  let dx := f.dec x
  let dy := f.dec y
  if dx.isNan && dy.isNan then f.canon
  else if dx.isNan then y
  else if dy.isNan then x
  else
    let c := dx.cmp dy
    let xBelow := c < 0 || (c == 0 && dx.neg && !dy.neg)
    if xBelow == wantMax then y else x

end Sys2Proof.Machine
end

