-- ==== Sys2Proof/Machine/Lanes.lean ====
section
/-! DEFINITION. What the lane instructions of chapter 05, RDRAW, ACCPT and PHASE compute from the entries they read
(R143..R167, R362, R363, R366): pure functions from operand tokens to a result token or the cause of a fault.  How a
slot fires them stands in Machine/Fire.lean. -/

namespace Sys2Proof.Machine

/-! ## Scaled tokens read whatever their declaration -/

/-- A scaled token that is not the declared shape: reserved bits, a TYPE on F8, a SCALE on a later beat (R133). -/
def malformed (beat : Nat) (t : Token) : Bool :=
  tagScaled t.tag && !t.void && !t.eos && (if beat == 0 then scaleBad t.tag t.scale else t.scale != 0)

/-- The entries read of a port hold no malformed token; `edge` is the burst of the edge and the beat of the oldest entry. -/
def wellScaled (edge : Nat × Nat) (ts : List Token) : Except Cause Unit :=
  if (ts.zipIdx.any fun p => malformed ((edge.2 + p.2) % edge.1) p.1) then .error causeFormat else .ok ()

/-- Reading tokens whatever their format is: a reserved tag and a malformed scaled token are still faults (R125, R133). -/
def checkShape (edge : Nat × Nat) (ts : List Token) : Except Cause Unit :=
  if ts.any Token.badTag then .error causeFormat else wellScaled edge ts

/-! ## Integer and bit operations (R143) -/

/-- The operand is read unsigned: U, or N8x4 (R136). -/
def readsUnsigned (m : BitVec 8) : Bool := modB1 m || modTag m == 10

/-- An element read by U. -/
def elInt (m : BitVec 8) (n : Nat) : Int := if readsUnsigned m then n else sgn (tagWidth (modTag m)) n

/-- Operand b's element: port b, or IMM10 when port b is unused (R141). -/
def bElem (f : FA) (bs : List Token) (l j : Nat) : Nat :=
  if f.b.used then (oldest bs).el (modTag f.mod) l j else wrapTo (tagWidth (modTag f.mod)) f.imm.toInt

/-- Tag checks of an integer operation's operands. -/
def intChecks (raw : Bool) (f : FA) (as bs cs : List Token) : Except Cause Unit := do
  checkTag raw (modTag f.mod) (oldest as)
  if f.b.used then checkTag raw (modTag f.mod) (oldest bs)
  if f.c.used then checkTag raw (modTag f.mod) (oldest cs)

/-- An arithmetic integer operation: exact v from x, y and z, then `ovf` (R138, R143). -/
def intArith (v : Int → Int → Int → Int) (f : FA) (as bs cs : List Token) : Result := do
  intChecks false f as bs cs
  let t := modTag f.mod
  mapEls t fun l j => ovf (tagWidth t) (readsUnsigned f.mod) (modRnd f.mod)
    (v (elInt f.mod ((oldest as).el t l j)) (elInt f.mod (bElem f bs l j)) (elInt f.mod ((oldest cs).el t l j)))

/-- A bit operation on the raw elements x and y of width w. -/
def intBits (v : Nat → Nat → Nat → Nat) (f : FA) (ea eb : Nat × Nat) (as bs : List Token) : Result := do
  intChecks true f as bs []
  wellScaled ea (as.take 1)
  wellScaled eb (bs.take 1)
  let t := modTag f.mod
  mapEls t fun l j => (v (tagWidth t) ((oldest as).el t l j) (bElem f bs l j), false)

/-- Shift right with the sign (R143). -/
def sarBits (w x y : Nat) : Nat := wrapTo w (sgn w x / (2 ^ (if y ≥ w then w else y) : Nat))

/-- Rotate left (R143). -/
def rotlBits (w x y : Nat) : Nat := (x * 2 ^ (y % w) % 2 ^ w) + x / 2 ^ (w - y % w)

/-- The number of one bits of an element. -/
def popCount (w x : Nat) : Nat := ((List.range w).filter fun i => x.testBit i).length

/-- ICMP (R144). -/
def icmpTok (f : FA) (as bs : List Token) : Result := do
  checkTag false (modTag f.mod) (oldest as)
  checkTag false (modTag f.mod) (oldest bs)
  let t := modTag f.mod
  mapEls t fun l j => (if intCond (f.imm.extractLsb' 0 3).toNat (elInt f.mod ((oldest as).el t l j))
    (elInt f.mod ((oldest bs).el t l j)) then 1 else 0, false)

/-- The tag of SEL's port c for a declared tag (R145). -/
def selTag (t : BitVec 4) : BitVec 4 :=
  match t.toNat with
  | 0 | 1 => 7
  | 2 | 3 => 8
  | 4 | 5 => 9
  | _ => t

/-- SEL (R145). -/
def selTok (f : FA) (as bs cs : List Token) : Result := do
  let t := modTag f.mod
  checkTag false t (oldest as)
  checkTag false t (oldest bs)
  checkTag false (selTag t) (oldest cs)
  mapEls t fun l j => (if (oldest cs).el t l j != 0 then (oldest as).el t l j else (oldest bs).el t l j, false)

/-- One lane operation on whole 32-bit lanes. -/
def mapLanes (tag : BitVec 4) (op : Nat → Lane) : Token := dataToken (Vector.ofFn fun i : Fin 16 => op i.val) tag

/-- BFX (R146). -/
def bfxTok (f : FI) (as : List Token) : Result := do
  checkTag false (modTag f.mod) (oldest as)
  let pos := (f.imm.extractLsb' 0 5).toNat
  let len := (f.imm.extractLsb' 5 5).toNat + 1
  .ok (mapLanes 7 fun l =>
    let v := ((oldest as).lane l).toNat / 2 ^ pos % 2 ^ len
    BitVec.ofInt 32 (if f.imm.getLsbD 10 then sgn len v else v))

/-- BFI (R146). -/
def bfiTok (f : FA) (as bs : List Token) : Result := do
  checkTag false (modTag f.mod) (oldest as)
  checkTag false (modTag f.mod) (oldest bs)
  let pos := (f.imm.extractLsb' 0 5).toNat
  let len := (f.imm.extractLsb' 5 5).toNat + 1
  let mask : Lane := BitVec.ofNat 32 ((2 ^ len - 1) * 2 ^ pos)
  .ok (mapLanes (modTag f.mod) fun l =>
    ((oldest as).lane l &&& ~~~mask) ||| (((oldest bs).lane l <<< pos) &&& mask))

/-- The value of R70 in every lane (CONST, R148). -/
def constLane (ext : BitVec 2) (imm : BitVec 28) : Lane :=
  match ext.toNat with
  | 0 => imm.setWidth 32
  | 1 => imm.signExtend 32
  | 2 => imm ++ 0#4
  | _ => imm.extractLsb' 0 16 ++ imm.extractLsb' 0 16

/-- The value of R70 for KMOVI; EXT 0b11 is reserved there. -/
def constWord (ext : BitVec 2) (imm : BitVec 28) : Word64 :=
  match ext.toNat with
  | 0 => imm.setWidth 64
  | 1 => imm.signExtend 64
  | _ => imm ++ 0#36

/-- LANE's token: each element holds its token index (R148). -/
def laneTok (tag : BitVec 4) : Token :=
  elsToken tag ((positions tag).map fun p => p.1 * tagCount tag + p.2)

/-- MOV (R147): plain, or retagged when V is set. -/
def movTok (f : FA) (edge : Nat × Nat) (as : List Token) : Result := do
  let t := modTag f.mod
  let x := oldest as
  if modV f.mod then
    if x.tag == 15 || tagScaled x.tag || x.badTag then .error causeFormat else .ok (dataToken x.lanes t)
  else
    if t == 0 then (if x.badTag then .error causeFormat else pure ()) else checkTag true t x
    wellScaled edge (if tagScaled t then as else as.take 1)
    .ok (Token.seal { x with cause := 0, mark := false })

/-! ## Floating operations (R149..R153, R156) -/

/-- A trap when TRAPV is set and the operation is invalid (R139). -/
def tvTrap (m : BitVec 8) (invalid : Bool) : Bool := modB1 m && invalid

/-- An elementwise float operation on exact values: the exact result and whether it is invalid. -/
def floatOp (f : FA) (as bs cs : List Token) (op : Rnd → Num → Num → Num → Num × Bool) : Result := do
  let t := modTag f.mod
  checkTag false t (oldest as)
  if f.b.used then checkTag false t (oldest bs)
  if f.c.used then checkTag false t (oldest cs)
  let rm := Rnd.ofBits (modRnd f.mod)
  let v (ts : List Token) (l j : Nat) : Num := (ieeeOf t).dec ((oldest ts).el t l j)
  mapEls t fun l j =>
    let r := op rm (v as l j) (v bs l j) (v cs l j)
    ((ieeeOf t).round rm r.1, tvTrap f.mod r.2)

/-- x + y. -/
def faddOp (rm : Rnd) (x y _z : Num) : Num × Bool := (x.add rm y, addInvalid x y)
/-- x − y. -/
def fsubOp (rm : Rnd) (x y _z : Num) : Num × Bool := (x.add rm y.flip, addInvalid x y.flip)
/-- x · y. -/
def fmulOp (_rm : Rnd) (x y _z : Num) : Num × Bool := (x.mul y, mulInvalid x y)
/-- x · y + z, or −(x · y) + z. -/
def fmaOp (neg : Bool) (rm : Rnd) (x y z : Num) : Num × Bool :=
  let p := if neg then (x.mul y).flip else x.mul y
  (p.add rm z, mulInvalid x y || addInvalid p z)
/-- x rounded to an integral value of its own format (R156): a zero keeps the sign of x. -/
def rndiOp (rm : Rnd) (x _y _z : Num) : Num × Bool :=
  match x with
  | .fin s m e => (match (Num.fin s m e).toIntRnd rm with
    | some v => .fin s v.natAbs 0
    | none => .fin s m e, false)
  | x => (x, false)

/-- FMIN and FMAX (R150). -/
def fpickTok (wantMax : Bool) (f : FA) (as bs : List Token) : Result := do
  let t := modTag f.mod
  checkTag false t (oldest as)
  checkTag false t (oldest bs)
  mapEls t fun l j => (floatPick (ieeeOf t) wantMax ((oldest as).el t l j) ((oldest bs).el t l j), false)

/-- FABS and FNEG: only the sign bit changes (R150). -/
def fsignTok (clear : Bool) (f : FA) (as : List Token) : Result := do
  let t := modTag f.mod
  checkTag false t (oldest as)
  let top := 2 ^ (tagWidth t - 1)
  mapEls t fun l j =>
    let x := (oldest as).el t l j
    (if clear then x % top else if x ≥ top then x - top else x + top, false)

/-- The result tag of FCMP and FCLASS, and FSCL's exponent tag (R151, R152). -/
def cmpTag (t : BitVec 4) : BitVec 4 := if t == 1 then 7 else 8

/-- FCMP (R151). -/
def fcmpTok (f : FA) (as bs : List Token) : Result := do
  let t := modTag f.mod
  checkTag false t (oldest as)
  checkTag false t (oldest bs)
  let v (ts : List Token) (l j : Nat) : Num := (ieeeOf t).dec ((oldest ts).el t l j)
  mapEls (cmpTag t) fun l j => (if floatCond (f.imm.extractLsb' 0 3).toNat (v as l j) (v bs l j) then 1 else 0, false)

/-- FCLASS (R151). -/
def fclassTok (f : FA) (as : List Token) : Result := do
  let t := modTag f.mod
  checkTag false t (oldest as)
  mapEls (cmpTag t) fun l j => (classMask (ieeeOf t) ((oldest as).el t l j), false)

/-- FSCL (R152). -/
def fsclTok (f : FA) (as bs : List Token) : Result := do
  let t := modTag f.mod
  checkTag false t (oldest as)
  if f.b.used then checkTag false (cmpTag t) (oldest bs)
  let rm := Rnd.ofBits (modRnd f.mod)
  mapEls t fun l j =>
    let y : Int := if f.b.used then sgn (tagWidth t) ((oldest bs).el t l j) else f.imm.toInt
    ((ieeeOf t).round rm (((ieeeOf t).dec ((oldest as).el t l j)).scale y), false)

/-- A function-unit operation on F32 lanes; none marks an invalid operand, which gives the canonical NaN (R153). -/
def unitTok (f : FA) (as : List Token) (fn : Rnd → Num → Option Nat) : Result := do
  checkTag false 1 (oldest as)
  mapEls 1 fun l j => match fn (Rnd.ofBits (modRnd f.mod)) (f32.dec ((oldest as).el 1 l j)) with
    | some c => (c, false)
    | none => (f32.canon, modB1 f.mod)

/-- TCOS or TSIN on I32 turn fractions (R153). -/
def turnTok (f : FA) (as : List Token) (fn : Rnd → Nat → Nat) : Result := do
  checkTag false 7 (oldest as)
  mapEls 1 fun l j => (fn (Rnd.ofBits (modRnd f.mod)) ((oldest as).el 7 l j), false)

/-! ## Conversions (R154, R155) -/

/-- A value as an F8 code: overflow and infinities saturate under SAT, else give 0x7F (R154). -/
def toF8 (n : Narrow) (rm : Rnd) (st : Bool) (x : Num) : Nat :=
  let beyond (neg : Bool) : Nat := if st then (if neg then 0xFE else 0x7E) else Narrow.canon
  match x with
  | .nan => Narrow.canon
  | .inf s => beyond s
  | .fin s m e => (n.round rm s m e).getD (beyond s)

/-- An integer saturated or reduced to a destination tag (R154). -/
def toIntTag (dst : BitVec 4) (st : Bool) (v : Int) : Nat := (ovf (tagWidth dst) (dst == 10) (if st then 1 else 0) v).1

/-- One element converted from a source tag to a destination tag (R154).  CVT has no TRAPV bit, so its invalid
conversions never trap. -/
def cvtElem (src dst : BitVec 4) (rm : Rnd) (st : Bool) (c : Nat) : Nat :=
  if floatTag src then
    let x := floatVal src c
    if floatTag dst then
      (if dst == 4 || dst == 5 then toF8 (Narrow.ofTag dst 0) rm st x else (ieeeOf dst).round rm x)
    else match x with
      | .nan => 0
      | .inf s => wrapTo (tagWidth dst) (sat (if s then -(2 ^ 40 : Nat) else (2 ^ 40 : Nat))
          (if dst == 10 then 0 else -(2 ^ (tagWidth dst - 1) : Nat))
          (if dst == 10 then 255 else (2 ^ (tagWidth dst - 1) : Nat) - 1))
      | x => toIntTag dst true ((x.toIntRnd rm).getD 0)
  else
    let v : Int := if src == 10 then c else sgn (tagWidth src) c
    if floatTag dst then
      (if dst == 4 || dst == 5 then toF8 (Narrow.ofTag dst 0) rm st (Num.ofInt v)
       else (ieeeOf dst).round rm (Num.ofInt v))
    else toIntTag dst st v

/-- The destination tag's element counts over the source's: parts of a widening CVT or UNPK. -/
def widenBy (src dst : BitVec 4) : Nat := if tagCount dst ≤ tagCount src then tagCount src / tagCount dst else 1

/-- CVT of the tokens read, part p of a widening (R154). -/
def cvtTok (f : FA) (p : Nat) (as : List Token) : Result := do
  let src := modTag f.mod
  let dst := immTag f.imm
  if as.any fun t => !(tagCheck false src t) || t.badTag then .error causeFormat
  else
    let es := as.flatMap fun t => t.els src
    .ok (elsToken dst (((es.drop (p * 16 * tagCount dst)).take (16 * tagCount dst)).map
      (cvtElem src dst (Rnd.ofBits (modRnd f.mod)) (modB1 f.mod))))

/-- PACK of the f tokens read, lane by lane (R155). -/
def packTok (f : FA) (as : List Token) : Result := do
  let src := modTag f.mod
  let dst := immTag f.imm
  if as.any fun t => !(tagCheck false src t) || t.badTag then .error causeFormat
  else .ok (dataToken (Vector.ofFn fun l : Fin 16 => laneOfElems dst (as.flatMap fun t =>
    (List.range (tagCount src)).map fun j => t.el src l.val j)) dst)

/-- Part p of UNPK (R155): sign-extended from I formats, zero-extended from N8. -/
def unpkTok (f : FA) (p : Nat) (as : List Token) : Result := do
  let src := modTag f.mod
  let dst := immTag f.imm
  checkTag false src (oldest as)
  .ok (dataToken (Vector.ofFn fun l : Fin 16 => laneOfElems dst ((List.range (tagCount dst)).map fun j =>
    let c := (oldest as).el src l.val (p * tagCount dst + j)
    wrapTo (tagWidth dst) (if src == 10 then (c : Int) else sgn (tagWidth src) c))) dst)

/-! ## Quantisation (R157..R159) -/

/-- The scale word of a block and its codes, from the block's values in stream order (R157). -/
def quantBlock (n : Narrow) (type : Nat) (vs : List Num) : BitVec 16 × List Nat :=
  if vs.any Num.isNan then (BitVec.ofNat 16 (type * 512 + 511), vs.map fun _ => 0)
  else
    let amax := vs.foldl (fun a v => if a.cmp v.mag < 0 then v.mag else a) (Num.fin false 0 0)
    let e : Int := match amax with
      | .fin _ m ex => if m == 0 then 0 else sat (n.ceilExp m ex) (-256) 254
      | _ => 254
    let code (v : Num) : Nat := match v.scale (-e) with
      | .fin s m ex => (n.round .rne s m ex).getD (if s then n.codes.headD 0 else n.codes.getLastD 0)
      | .inf s => if s then n.codes.headD 0 else n.codes.getLastD 0
      | .nan => 0
    (BitVec.ofNat 16 (type * 512 + (e + 256).toNat), vs.map code)

/-- amax of a block as F32 bits (SCLC lane 1, R159). -/
def blockAmax (vs : List Num) : Nat :=
  if vs.any Num.isNan then f32.canon
  else f32.round .rne (vs.foldl (fun a v => if a.cmp v.mag < 0 then v.mag else a) (Num.fin false 0 0))

/-- The b beats of a block: codes in stream order, the scale word on beat 0 (R126, R157). -/
def blockBeats (tag : BitVec 4) (scale : BitVec 16) (codes : List Nat) (b : Nat) : List Token :=
  (List.range b).map fun i =>
    scaledToken (lanesOfEls tag ((codes.drop (i * 16 * tagCount tag)).take (16 * tagCount tag))) tag
      (if i == 0 then scale else 0)

/-- A QNT block's beats from the intake tokens, with +0 for what is missing (R157). -/
def qntBeats (f : FA) (b : Nat) (ins : List Token) : List Token :=
  let src := modTag f.mod
  let dst := immTag f.imm
  let type := (f.imm.extractLsb' 4 2).toNat
  let vs := ins.flatMap fun t => (t.els src).map (ieeeOf src).dec
  let vs := vs ++ List.replicate (16 * tagCount dst * b - vs.length) (Num.fin false 0 0)
  let q := quantBlock (Narrow.ofTag dst type) type vs
  blockBeats dst q.1 q.2 b

/-- SCLC's token for a block (R159). -/
def sclcTok (f : FA) (b : Nat) (ins : List Token) : Token :=
  let src := modTag f.mod
  let dst := immTag f.imm
  let type := (f.imm.extractLsb' 4 2).toNat
  let vs := ins.flatMap fun t => (t.els src).map (ieeeOf src).dec
  let vs := vs ++ List.replicate (16 * tagCount dst * b - vs.length) (Num.fin false 0 0)
  i32Token [(quantBlock (Narrow.ofTag dst type) type vs).1.setWidth 32, BitVec.ofNat 32 (blockAmax vs)]

/-- The input tokens of a block of b beats (R157). -/
def blockIntakes (f : FA) (b : Nat) : Nat := tagCount (immTag f.imm) * b / tagCount (modTag f.mod)

/-- The b of SCLC's IMM10 bits [7:6] (R159). -/
def sclcBurst (f : FA) : Nat := 2 ^ (f.imm.extractLsb' 6 2).toNat

/-- DQT part p of a block (R158). -/
def dqtTok (f : FA) (p : Nat) (as : List Token) : Result := do
  let src := modTag f.mod
  let dst := immTag f.imm
  if as.any fun t => t.tag != src then .error causeFormat
  else
    wellScaled (as.length, 0) as
    let w := (oldest as).scale
    let codes := ((as.flatMap fun t => t.els src).drop (p * 16 * tagCount dst)).take (16 * tagCount dst)
    .ok (elsToken dst (codes.map fun c => (ieeeOf dst).round (Rnd.ofBits (modRnd f.mod)) (scaledValue src w c)))

/-- The parts of a DQT block (R158). -/
def dqtParts (f : FA) : Nat := tagCount (modTag f.mod) * f.a.needN / tagCount (immTag f.imm)

/-! ## Reductions (R160..R164) -/

/-- One level of the pairwise tree. -/
def pairUp {α : Type} (op : α → α → α) : List α → List α
  | x :: y :: rest => op x y :: pairUp op rest
  | xs => xs

/-- The lane reduction tree over up to sixteen values (R160). -/
def treeOf {α : Type} (op : α → α → α) (d : α) (xs : List α) : α :=
  (pairUp op (pairUp op (pairUp op (pairUp op xs)))).headD d

/-- The operations a reduction can fold with. -/
inductive FoldOp where
  | sum | max | min
  deriving DecidableEq, Repr

/-- An element brought to F32 bits or to I32 (R161). -/
def wideElem (t : BitVec 4) (c : Nat) : Nat :=
  if floatTag t then f32.round .rne ((ieeeOf t).dec c)
  else wrapTo 32 (if t == 10 then (c : Int) else sgn (tagWidth t) c)

/-- F32 addition with one rounding. -/
def addF32 (rm : Rnd) (x y : Nat) : Nat := f32.round rm ((f32.dec x).add rm (f32.dec y))

/-- I32 addition, wrapping or saturating. -/
def addI32 (st : Bool) (x y : Nat) : Nat := (ovf 32 false (if st then 1 else 0) (sgn 32 x + sgn 32 y)).1

/-- The fold of two F32 or I32 values under MOD (R161). -/
def foldTwo (op : FoldOp) (m : BitVec 8) (x y : Nat) : Nat :=
  if floatTag (modTag m) then match op with
    | .sum => addF32 (Rnd.ofBits (modRnd m)) x y
    | .max => floatPick f32 true x y
    | .min => floatPick f32 false x y
  else match op with
    | .sum => addI32 (modB1 m) x y
    | .max => if sgn 32 x ≥ sgn 32 y then x else y
    | .min => if sgn 32 x ≤ sgn 32 y then x else y

/-- A lane's value: its elements joined pairwise (R160). -/
def laneValue (op : FoldOp) (m : BitVec 8) (t : Token) (l : Nat) : Nat :=
  treeOf (foldTwo op m) 0 ((List.range (tagCount (modTag m))).map fun j => wideElem (modTag m) (t.el (modTag m) l j))

/-- The root of one entry. -/
def entryRoot (op : FoldOp) (m : BitVec 8) (t : Token) : Nat :=
  treeOf (foldTwo op m) 0 ((List.range 16).map (laneValue op m t))

/-- Roots folded from the oldest entry (R160). -/
def foldRoots (op : Nat → Nat → Nat) : List Nat → Nat
  | [] => 0
  | r :: rest => rest.foldl op r

/-- The result tag of a reduction: F32 or I32. -/
def foldTag (m : BitVec 8) : BitVec 4 := if floatTag (modTag m) then 1 else 7

/-- Every entry read carries the declared tag. -/
def allTagged (t : BitVec 4) (as : List Token) : Except Cause Unit :=
  if as.any fun x => !(tagCheck false t x) || x.badTag then .error causeFormat else .ok ()

/-- RSUM, RMAX and RMIN (R161). -/
def reduceTok (op : FoldOp) (f : FA) (as : List Token) : Result := do
  allTagged (modTag f.mod) as
  let r := foldRoots (foldTwo op f.mod) (as.map (entryRoot op f.mod))
  .ok (mapLanes (foldTag f.mod) fun _ => BitVec.ofNat 32 r)

/-- The better of the best so far and the next element of ARGMX: index and F32 or I32 value (R162). -/
def argStep (m : BitVec 8) (best : Option (Nat × Nat)) (x : Nat × Nat) : Option (Nat × Nat) :=
  let t := modTag m
  let skip := floatTag t && (f32.dec x.2).isNan
  if skip then best
  else match best with
    | none => some x
    | some b =>
      let better := if floatTag t then floatPick f32 (!modV m) b.2 x.2 == x.2 && b.2 != x.2
        else if modV m then sgn 32 x.2 < sgn 32 b.2 else sgn 32 x.2 > sgn 32 b.2
      if better then some x else best

/-- ARGMX (R162). -/
def argmxTok (f : FA) (as : List Token) : Result := do
  let t := modTag f.mod
  allTagged t as
  let es := (as.flatMap fun x => (x.els t).map (wideElem t)).zipIdx.map fun p => (p.2, p.1)
  match es.foldl (argStep f.mod) none with
  | some (i, v) => .ok (i32Token [BitVec.ofNat 32 i, BitVec.ofNat 32 v])
  | none => .ok (i32Token [0, BitVec.ofNat 32 f32.canon])

/-- One doubling step of SCAN over the sixteen values (R163). -/
def scanStep (op : Nat → Nat → Nat) (d : Nat) (xs : List Nat) : List Nat :=
  xs.zipIdx.map fun p => if p.2 ≥ d then op (xs.getD (p.2 - d) 0) p.1 else p.1

/-- SCAN: the result and the new carry (R163). -/
def scanTok (f : FA) (carry : Lane) (as : List Token) : Except Cause (Token × Lane) := do
  allTagged (modTag f.mod) as
  let op := foldTwo .sum f.mod
  let x := (List.range 16).map (laneValue .sum f.mod (oldest as))
  let t := scanStep op 8 (scanStep op 4 (scanStep op 2 (scanStep op 1 x)))
  let c := carry.toNat
  let out (l : Nat) : Nat :=
    if modV f.mod then (if l == 0 then c else op c (t.getD (l - 1) 0)) else op c (t.getD l 0)
  .ok (mapLanes (foldTag f.mod) fun l => BitVec.ofNat 32 (out l), BitVec.ofNat 32 (op c (t.getD 15 0)))

/-- One product of DOT as F32 bits or I32 (R164). -/
def dotProduct (m : BitVec 8) (x y : Nat) : Nat :=
  let t := modTag m
  if floatTag t then f32.round (Rnd.ofBits (modRnd m)) (((ieeeOf t).dec x).mul ((ieeeOf t).dec y))
  else wrapTo 32 (if t == 10 then (x * y : Int) else sgn 8 x * sgn 8 y)

/-- The root of one pair of entries of DOT. -/
def dotRoot (m : BitVec 8) (a b : Token) : Nat :=
  let t := modTag m
  treeOf (foldTwo .sum m) 0 ((List.range 16).map fun l =>
    treeOf (foldTwo .sum m) 0 ((List.range (tagCount t)).map fun j => dotProduct m (a.el t l j) (b.el t l j)))

/-- DOT (R164). -/
def dotTok (f : FA) (as bs cs : List Token) : Result := do
  let t := modTag f.mod
  allTagged t as
  allTagged t bs
  if f.c.used then checkTag false (foldTag f.mod) (oldest cs)
  let r := foldRoots (foldTwo .sum f.mod) ((as.zip bs).map fun p => dotRoot f.mod p.1 p.2)
  let r := if f.c.used then foldTwo .sum f.mod r ((oldest cs).lane 0).toNat else r
  .ok (mapLanes (foldTag f.mod) fun _ => BitVec.ofNat 32 r)

/-! ## Lane movement (R165..R167) -/

/-- PERM (R165). -/
def permTok (f : FA) (as bs : List Token) : Result := do
  checkTag false (modTag f.mod) (oldest as)
  if f.b.used then checkWord (oldest bs)
  let k := (f.imm.extractLsb' 0 4).toNat
  let src (l : Nat) : Nat :=
    if f.b.used then ((oldest bs).lane l).toNat % 16
    else match (f.imm.extractLsb' 8 2).toNat with
      | 0 => (l + k) % 16
      | 1 => l ^^^ k
      | _ => 15 - l
  .ok (mapLanes (oldest as).tag fun l => (oldest as).lane (src l))

/-- BCAST (R166). -/
def bcastTok (f : FI) (as : List Token) : Result := do
  let t := modTag f.mod
  checkTag false t (oldest as)
  let c := (oldest as).el t (f.imm.extractLsb' 0 4).toNat (f.imm.extractLsb' 4 2).toNat
  .ok (mapLanes (oldest as).tag fun _ => laneOfElems t (List.replicate (tagCount t) c))

/-- The count of an ADV: port b's lane 0, or IMM10 (R167). -/
def advCount (f : FA) (bs : List Token) : Nat :=
  if f.b.used then (if (oldest bs).void then 0 else ((oldest bs).lane 0).toNat) else f.imm.toNat

/-- ADV's token: the oldest entry of a (R167), the one it reads (R26). -/
def advTok (f : FA) (edge : Nat × Nat) (as bs : List Token) : Result := do
  checkTag false (modTag f.mod) (oldest as)
  wellScaled edge (as.take 1)
  if f.b.used then checkWord (oldest bs)
  .ok (Token.seal { oldest as with cause := 0, mark := false })

/-! ## Draws (R362, R363) and acceptance (R366) -/

/-- The mixed word x of the draw function (R362). -/
def drawMix (k : Word64) (r n : Lane) : Word64 :=
  let x := k + r.setWidth 64 * 0x8F3A61C5D2B74E19#64 + n.setWidth 64 * 0x5C2E97B1A43DF06B#64
  let x := (x ^^^ (x >>> 31)) * 0xE6A13F590B7CD825#64
  let x := (x ^^^ (x >>> 29)) * 0x3B94D7E261AF0C53#64
  x ^^^ (x >>> 32)

/-- floor(x / 2^40), the 24 bits of a draw (R362). -/
def drawBits (k : Word64) (r n : Lane) : Nat := (drawMix k r n >>> 40).toNat

/-- The draw's value u = bits / 2^24. -/
def drawValue (k : Word64) (r n : Lane) : Num := .fin false (drawBits k r n) (-24)

/-- RDRAW (R363). -/
def rdrawTok (f : FA) (as : List Token) : Result := do
  let a := oldest as
  checkWord a
  let k : Word64 := a.lane 1 ++ a.lane 0
  let n (l : Nat) : Lane := a.lane 3 + BitVec.ofNat 32 l
  if modTag f.mod == 1 then
    .ok (mapLanes 1 fun l => BitVec.ofNat 32 (f32.round .rne (drawValue k (a.lane 2) (n l))))
  else .ok (mapLanes 7 fun l => BitVec.ofNat 32 (drawBits k (a.lane 2) (n l)))

/-- The walk of ACCPT: the accepted nodes in order (R366). -/
def accptWalk (n : Nat) (a b c : Token) : Nat → Nat → List Nat
  | 0, _ => []
  | fuel + 1, x =>
    match (List.range n).find? fun i =>
        i ≥ 1 && (b.lane i).toNat == x && (b.lane i).toNat < i && a.lane i == c.lane x with
    | none => []
    | some y => y :: accptWalk n a b c fuel y

/-- ACCPT (R366). -/
def accptTok (f : FA) (as bs cs : List Token) : Result := do
  checkWord (oldest as)
  checkWord (oldest bs)
  checkWord (oldest cs)
  let n := (f.imm.extractLsb' 0 4).toNat + 1
  let ci := (f.imm.extractLsb' 4 6).toNat
  let path := accptWalk n (oldest as) (oldest bs) (oldest cs) 16 0
  let x := path.getLastD 0
  let len := path.length
  .ok (i32Token (([len, x, ((oldest cs).lane x).toNat, if ci > 0 then len / ci else 0,
    if ci > 0 then len % ci else len] ++ path.take 11).map (BitVec.ofNat 32)))

end Sys2Proof.Machine
end

