-- ==== Sys2Proof/Machine/State.lean ====
section
/-! DEFINITION. The state of the RLX-ZS96 as plain data, the reasons a step can stop, and the state after reset.  Every
field follows a rule of the manual, except those marked MODEL, which are the model's own book-keeping (log 1 to 3). -/

namespace Sys2Proof.Machine

/-! ## Ports and slots -/

/-- An entry of a port, with the cycle it arrived in (R24, R177) and where it comes from (R84, R124). -/
structure Entry where
  tok : Token
  arr : Nat
  src : Origin
  deriving DecidableEq, Repr

/-- What feeds a port (R28): an instruction's first or second target, a head's drain target, or an in-link. -/
inductive Feeder where
  | none
  | slot (idx : Fin 128) (second : Bool)
  | drain (idx : Fin 128)
  | link (code : BitVec 3)
  deriving DecidableEq, Repr

/-- An input port (R24, R29): its entries, oldest first; the tokens popped since mapping (R112); what feeds it and with
which burst (R35); the positions of the snapshot markers that have arrived and have not been taken (R112); and how many of its
oldest entries, those still on their way included, came from a feeder that a rewrite has since replaced (R197). -/
structure Port where
  q : List Entry
  popped : Nat
  feeder : Feeder
  burst : Nat
  beat : Nat
  marks : List Nat
  former : List (Feeder × Nat)
  deriving DecidableEq, Repr

/-- A loop counter (R39); `limit` is steps per pass minus one. -/
structure Counter where
  limit : BitVec 16
  stride : BitVec 32
  idx : BitVec 16
  acc : BitVec 32
  deriving DecidableEq, Repr

/-- One step of a result: at most one token for each target. -/
structure Emit where
  t0 : Option Token
  t1 : Option Token
  deriving DecidableEq, Repr

/-- An entry of a reorder buffer (R240, R211, R99): the firing's number, its result once it is known, the accesses
that must be performed before it is delivered (R178, R275), and the first cycle in which it may leave. -/
structure Rob where
  id : Nat
  res : Option (List Emit)
  after : List Nat
  due : Nat
  deriving DecidableEq, Repr

/-- The running values of a slot (R113, R159, R172, R247, R330, R334, R364). -/
inductive Run where
  /-- none, or the state after mapping -/
  | idle
  /-- part index of a widening CVT, UNPK or DQT (R159) -/
  | part (k : Nat)
  /-- QNT and SCLC: intake tokens so far, void and cause of a bad block, poison seen, beats still to emit (R157) -/
  | block (ins : List Token) (void : Bool) (cause : Cause) (poison : Bool) (beats : List Token)
  /-- SCAN's carry (R163) -/
  | scan (carry : Lane)
  /-- CARRY and INV beyond FRESH: LOOP, or CLOSING with the ports b and c already closed (R175) -/
  | loop (closing bDone cDone : Bool)
  /-- MERGE in its end firing, with the arms already closed (R176) -/
  | merge (aDone bDone : Bool)
  /-- COUNT's counts, and whether it has reported (R180) -/
  | count (cnt vcnt : Lane) (reported : Bool)
  /-- LCTR and the .W forms: base of the pass in progress; whether LCTR's passes are over (R181, R247) -/
  | pass (base : Lane) (active closed : Bool)
  /-- EOS: tokens since the last insertion, insertion due, last delivered was end-of-stream (R182) -/
  | eos (n : Nat) (due last : Bool)
  /-- GATE: credit, and closing after a's end (R183) -/
  | gate (cr : BitVec 16) (closing : Bool)
  /-- STEER's exit latch (R174) -/
  | exit
  /-- SMRG: mode 0 computed, 1 TAKEA, 2 TAKEB, 3 NAN, 4 void; weights; next part (R334) -/
  | smrg (mode : Nat) (f1 f2 : Lane) (part : Nat)
  /-- RSVR: token index, candidate, total, flags, void and poison seen (R364) -/
  | rsvr (k : Nat) (c m fl : Lane) (void : Option Cause) (poison : Bool)
  /-- KAPP's data tokens taken in so far (R330) -/
  | kapp (data : List Token)
  /-- ADV waiting for b's end-of-stream after a's end (R167) -/
  | adv
  deriving DecidableEq, Repr

/-- A slot's part in an open snapshot (R112, R113): not reached; a join waiting with its timer's deadline; forwarded,
with the ports whose late markers are still to come and the position from which their tokens are recorded; forwarded. -/
inductive SnapSlot where
  | off
  | join (deadline : Nat)
  | late (ports : List (PortName × Nat))
  | done
  deriving DecidableEq, Repr

/-- An instruction slot (R17, R24, R29, R63).  `beat` counts the beats of a burst in progress (R171); `ready` is the cycle
from which QNT and SCLC may emit (R142); `hold0` and `hold1` count the credits that an old target still owes (R197).  `fires` counts
firings since the rotation that drives them started: the one whose first position is `epoch` (R84); `last` is the position that
drove the newest firing, and `flight` says where the results in the reorder buffer come from, by their number. -/
structure Slot where
  word : Word64
  a : Port
  b : Port
  c : Port
  cred0 : Nat
  cred1 : Nat
  burst : Nat
  fired : Bool
  count : Nat
  fires : Nat
  sent0 : Nat
  sent1 : Nat
  run : Run
  beat : Nat
  ready : Nat
  rob : List Rob
  winUsed : Nat
  snap : SnapSlot
  driven : Bool
  hold0 : Option Nat
  hold1 : Option Nat
  epoch : Nat
  last : Option Nat
  flight : List (Nat × Origin)
  deriving DecidableEq, Repr

/-! ## Rotation heads (R82..R124) -/

/-- HSTATE (R86). -/
inductive HState where
  | idle | run | banking | banked | unbanking | rerotating | retiring
  deriving DecidableEq, Repr

/-- The STATE of a slot table entry (R88). -/
inductive SState where
  | empty | live | held | drain | fault | banked
  deriving DecidableEq, Repr

/-- A slot table entry (R88). -/
structure SEntry where
  key : BitVec 32
  admrot : BitVec 32
  passes : BitVec 24
  holds : BitVec 8
  fcause : BitVec 8
  ctag : BitVec 4
  fh : Bool
  sv : Bool
  em : Bool
  late : Bool
  st : SState
  deriving DecidableEq, Repr

/-- An ember read of an admission (R93): its key, whether it is done, whether the record is good, its carry, and whether a
matching pass came before it was done. -/
structure EmberRead where
  key : BitVec 32
  done : Bool
  ok : Bool
  carry : Token
  late : Bool
  deriving DecidableEq, Repr

/-- A queued command with the cycle its operand entered the queue (R99). -/
structure QCmd where
  cmd : Cmd
  at_ : Nat
  deriving DecidableEq, Repr

/-- The status of a command that waits for its ember writes (R99). -/
structure EmberWait where
  site : Site
  seq : Nat
  status : Token
  deriving DecidableEq, Repr

/-- A start of the firing counts (R84): the number of its first position, the period and the ROTNUM from there on. -/
structure Epoch where
  first : Nat
  period : Nat
  rot : BitVec 32
  deriving DecidableEq, Repr

/-- A rotation head (R83..R95, R106, R114, R120, R121).  `made` counts the positions issued since mapping, and `epochs` are the
starts of the firing counts, newest first (R84); `issued` counts positions since the rotation started, and `firstCarry` holds the
carries its first round takes in place of port a; `busy` is the rotation command in progress and whether it is late, `map` the
remap table of a REROT in progress; `taken` and `left` are the carries taken back and still to take. -/
structure Head where
  slot : Fin 128
  faults : BitVec 32
  lates : BitVec 32
  rejects : BitVec 32
  discards : BitVec 32
  ebase : BitVec 32
  kbase : BitVec 32
  kcount : BitVec 32
  rotnum : BitVec 32
  made : Nat
  epochs : List Epoch
  pmax : Nat
  pcur : Nat
  pos : Nat
  lnat : Nat
  drain : Target
  drainCred : Nat
  relight : Bool
  hstate : HState
  table : List SEntry
  shadow : List Token
  cap : Nat
  dlhead : Nat
  delay : List Entry
  firstCarry : List (Option Token)
  issued : Nat
  queue : List QCmd
  inflight : Nat
  busy : Option (Cmd × Bool)
  map : List (Option Nat)
  back : HState
  writes : List EmberWait
  read : Option EmberRead
  taken : List (Option Token)
  left : Nat
  laOut : Nat
  laExit : Bool
  cDone : Bool
  retireEos : Bool
  copies : Nat
  deriving DecidableEq, Repr

/-! ## Elements and regions -/

/-- The owner tag of an element (R117): configuration, entry block and element index in the region. -/
structure Owner where
  handle : Word64
  entry : Nat
  k : Nat
  deriving DecidableEq, Repr

/-- An element (R17, R18, R39, R77, R117). -/
structure Element where
  owner : Option Owner
  blocked : Bool
  slots : Vector Slot 8
  ctr : Vector Counter 4
  head : Option Head
  deriving DecidableEq, Repr

/-- The states of a region controller (R23). -/
inductive RState where
  | free | loading | mapped | committing | evicting | faulted
  deriving DecidableEq, Repr

/-- An open guard or link-drop report (R204, R205), with the configuration whose region dropped and the AGENT code of the
producer (R294). -/
structure GuardRep where
  handle : Word64
  agent : BitVec 3
  link : BitVec 7
  code : BitVec 8
  count : BitVec 32
  first : BitVec 32
  slot : Fin 128
  sten : BitVec 2
  dten : BitVec 2
  offg : Bool
  dex : BitVec 3
  dey : BitVec 2
  ex : BitVec 3
  ey : BitVec 2
  last : Nat
  deriving DecidableEq, Repr

/-- A region fault raised in the current cycle (R289). -/
structure RFault where
  slot : Fin 128
  cause : BitVec 8
  addr : Word64
  collect : Bool
  deriving DecidableEq, Repr

/-- An open snapshot (R111..R115). -/
structure Snapshot where
  mark : Fin 128
  id : BitVec 16
  off : Nat
  cap : Nat
  recs : Nat
  overflow : Bool
  unaligned : Bool
  members : List (Fin 128)
  incnt : List Nat
  outcnt : List Nat
  rot : BitVec 32
  pm1 : Nat
  deriving DecidableEq, Repr

/-- A tag of a region's allocator (R242): the access and whether it has been performed. -/
structure TagUse where
  id : Nat
  done : Bool
  deriving DecidableEq, Repr

/-- A region and its controller (R19, R23, R40..R43, R242, R289); `last` is the block last MAPPED on it and how many
successors came before that one (R291). -/
structure Region where
  st : RState
  handle : Word64
  entry : Nat
  ex0 : Nat
  ey0 : Nat
  w : Nat
  h : Nat
  hdr : BitVec 128
  baddr : BitVec 54
  exitV : Option (BitVec 2)
  sinks : List (Fin 128)
  tags : List TagUse
  mapAt : Nat
  gen : Nat
  loads : Nat
  bad : List (Fin 128 × Word64 × Bool × Reason)
  presets : List Word64
  guards : List GuardRep
  pend : List RFault
  later : BitVec 8
  snap : Option Snapshot
  insent : Vector Nat 8
  outsent : Vector Nat 8
  markFault : Bool
  last : BitVec 54 × Nat
  deriving DecidableEq, Repr

/-! ## Control core (R184..R197, R302, R303) -/

/-- The state of a context (R184). -/
inductive CtxState where
  | stopped | run | trapped
  deriving DecidableEq, Repr

/-- A port of a control-block slot (R189): its entries with the cycle from which each stands there, and the cycles from
which the entries popped are free again at the producer (R24, R184). -/
structure KPort where
  q : List (Nat × KTok)
  freed : List Nat
  deriving DecidableEq, Repr

/-- A result of a control-block slot that has not left yet: its firing's number, the token once it is known, and the
cycle in which it leaves. -/
structure KRob where
  id : Nat
  res : Option KTok
  due : Nat
  deriving DecidableEq, Repr

/-- A slot of a control block (R189). -/
structure KSlot where
  word : Word64
  a : KPort
  b : KPort
  c : KPort
  fired : Bool
  rob : List KRob
  deriving DecidableEq, Repr

/-- A register write waiting for the block's commit (R190): slot, repetition, register, value. -/
structure KWrite where
  slot : Fin 128
  rep : Nat
  reg : Nat
  val : KTok
  deriving DecidableEq, Repr

/-- What a REP gives the next firing of the instruction it prefixes: the count (none when it was void) and the stride
(R195). -/
structure KCount where
  slot : Fin 128
  count : Option Nat
  stride : Int
  deriving DecidableEq, Repr

/-- A range instruction in progress (R194, R195): its firing's number, its next repetition and how many are left, whether
a REP prefixes it, and the access its last repetition waits for. -/
structure KRep where
  slot : Fin 128
  id : Nat
  base : Word64
  index : Nat
  remain : Nat
  stride : Int
  shown : Bool
  wait : Option Nat
  deriving DecidableEq, Repr

/-- What an instruction of a control block waits for: an event record to read (EVPOP), an event record or a cycle (WFE), a
queue-mapped register (KRD), a context's stop (CSRWR of CTXSW). -/
inductive KWaitFor where
  | record (word : Nat) (pop : Bool)
  | event (deadline : Nat)
  | reg (r : Nat)
  | stop (ctx : Fin 4) (old : Word64)
  deriving DecidableEq, Repr

/-- A waiting instruction of a control block. -/
structure KWait where
  slot : Fin 128
  id : Nat
  what : KWaitFor
  deriving DecidableEq, Repr

/-- The block a context runs (R189, R190): its header and address, its slots, the registers as they stood at block start,
the queue entries read in their place (R194), what its commit will do, the queue-mapped registers whose reads at block start still
wait for an entry (R194), and the ports whose oldest token has bad parity (R189). -/
structure KBlock where
  hdr : BitVec 128
  addr : BitVec 54
  slots : Vector KSlot 128
  regs : List Word64
  qregs : List (Nat × KTok)
  writes : List KWrite
  branch : Option Word64
  push : Option (BitVec 54)
  pop : Bool
  exitV : Option (BitVec 2)
  halt : Bool
  counts : List KCount
  reps : List KRep
  waits : List KWait
  resume : Option (Nat × Nat)
  wants : List Nat
  bad : List (Fin 128 × PortName)
  deriving DecidableEq, Repr

/-- A queue binding (R371). -/
structure QBind where
  v : Bool
  dir : Bool
  chan : BitVec 12
  handle : Word64
  deriving DecidableEq, Repr

/-- A hardware context (R184, R187, R188, R195, R196).  `evKeys` are the posters of the newest records, those posted in cycle
`evAt`, by which R188 orders the records of one cycle; `drains` are blocks that have trapped, by their fetch, whose operations
are still to complete (R191). -/
structure Context where
  st : CtxState
  priv : Bool
  qmap : Bool
  asid : BitVec 12
  bptr : BitVec 48
  repActive : Bool
  repSlot : BitVec 7
  repRemain : BitVec 6
  repIndex : BitVec 6
  evq : List Record
  evAt : Nat
  evKeys : List Nat
  ovf : Bool
  lost : BitVec 24
  trapCause : BitVec 8
  trapSlot : BitVec 7
  trapVal : Word64
  qbind : Vector QBind 8
  stack : List (BitVec 48)
  blk : Option KBlock
  gen : Nat
  stopReq : Bool
  drains : List (Nat × KBlock)
  deriving DecidableEq, Repr

/-! ## Islands (R209..R232, R257..R261) -/

/-- A command on a matrix island's request path (R211): who sent it, its place in the operator's order, its word and
operand lanes (after replacement, R228). -/
structure IslandReq where
  site : Site
  handle : Word64
  entry : Nat
  rob : Nat
  port : Fin 4
  word : Word64
  lanes : Vector Lane 16
  deriving DecidableEq, Repr

/-- An entry of the task queue (R221, R222). -/
structure MEntry where
  req : IslandReq
  tile : Nat
  ever : BitVec 16
  issued : Option (Fin 4)
  issuedAt : Nat
  ord : Nat
  baseA : Nat
  sizeA : Nat
  baseB : Nat
  sizeB : Nat
  resA : Nat
  resB : Nat
  deriving DecidableEq, Repr

/-- An accumulator tile (R212, R213): status and values; no values when its contents are unknown. -/
structure Tile where
  poison : Bool
  sat : Bool
  kind : BitVec 2
  ver : BitVec 16
  vals : Option (List Lane)
  deriving DecidableEq, Repr

/-- The matrix island of a core. -/
structure Matrix where
  reqs : List IslandReq
  turn : Fin 4
  queue : List MEntry
  tiles : List Tile
  syncs : List IslandReq
  retired : BitVec 32
  deriving DecidableEq, Repr

/-- A transfer of the streamer island (R257..R261): the next 64-byte unit to start, the units in flight, the bytes written,
and for XMC the next tile to land and the permits taken. -/
structure Transfer where
  id : Nat
  req : IslandReq
  next : Nat
  flight : List Nat
  written : Nat
  poison : Bool
  cancelled : Bool
  tile : Nat
  permits : Nat
  deriving DecidableEq, Repr

/-- The streamer island of a core; `turn` is the transfer that took a tag last (R257). -/
structure Streamer where
  reqs : List IslandReq
  xfers : List Transfer
  turn : Nat
  deriving DecidableEq, Repr

/-! ## Memory accesses (R242, R263..R277) -/

/-- Who issues an access (R269). -/
inductive Agent where
  /-- a memory operator of a fabric slot -/
  | op (site : Site) (handle : Word64) (entry : Nat)
  /-- an instruction of a context's block -/
  | ctx (core : Fin 96) (ctx : Fin 4) (slot : Fin 128) (gen : Nat)
  /-- a line of a transfer -/
  | line (core : Fin 96) (xfer : Nat) (n : Nat)
  /-- a region controller's completion -/
  | completion (core : Fin 96) (region : Fin 8) (handle : Word64)
  /-- the fetch of a control block -/
  | fetch (core : Fin 96) (ctx : Fin 4) (gen : Nat)
  /-- the kiln reading an image -/
  | image (handle : Word64)
  deriving DecidableEq, Repr

/-- The geometry of KV pages, and the format that reads or writes them (R314, R315, R330). -/
structure PageGeo where
  tag : BitVec 4
  type : Nat
  t : Nat
  d : Nat
  deriving DecidableEq, Repr

/-- What an access does. -/
inductive AKind where
  | load (tag : BitVec 4) (b : Nat)
  | loadFull (clear : Bool) (tag : BitVec 4) (b : Nat)
  | loadV (tag : BitVec 4) (b : Nat)
  | store (toks : List Token) (full : Bool)
  | loadLanes (tag : BitVec 4) (idx : Vector Lane 16)
  | storeLanes (idx data : Vector Lane 16)
  | amo (mod : BitVec 8) (opnd : Token)
  | done
  | ringPush (tile desc : Nat) (toks : List Token)
  | ringPop (tile desc pos : Nat) (tag : BitVec 4) (b : Nat)
  | page (word : Word64) (req : Token)
  | pageLoad (g : PageGeo) (pb fill : Nat) (il : Bool) (steps : List Nat)
  | pageAppend (g : PageGeo) (req : Token) (base : Word64) (data : List Token)
  | egress (word : Word64) (req : Token)
  | kload
  | kstore (v : Word64)
  | kwords (desc : Word64)
  | kexit (desc : Word64) (v : BitVec 2)
  | copyLine
  | orWord (v : Word64)
  | fetchBlock
  | readImage
  deriving DecidableEq, Repr

/-- Where an access stands. -/
inductive Stage where
  /-- waiting for its translation -/
  | walk
  /-- parked with a cause (R268) -/
  | parked (cause : BitVec 8)
  /-- parked and withdrawn, RESUME having cancelled it or else deferred it, which it takes at its reissue (R306) -/
  | fated (cause : BitVec 8) (cancel : Bool) (rec_ : CRec)
  /-- translated, to be performed -/
  | ready
  /-- a posted write accepted by the network port (R274) -/
  | posted
  /-- a write performed at a peer whose acknowledgement has not come yet (R275, R287) -/
  | peer
  /-- an LDS waiting for its full bit (R248), an egress operation behind a waiting put (R358), a DONE (R253) -/
  | wait
  /-- an EGPUT accepted and waiting for a free entry (R354) -/
  | entry
  /-- performed; its result is on the way (R305) -/
  | late (outs : List Emit)
  deriving DecidableEq, Repr

/-- A unit of an access (R270): the address as formed, its length, its physical address once translated. -/
structure Piece where
  va : Word64
  len : Nat
  pa : Option Nat
  deriving DecidableEq, Repr

/-- An access in progress: the pieces still to be performed; the bytes read so far or still to be written; for each
piece read whether its unit was poisoned; whether poisoned data is written; withdrawn and kept for reissue (R305). -/
structure Access where
  id : Nat
  agent : Agent
  kind : AKind
  asid : BitVec 12
  wr : Bool
  virt : Bool
  column : Bool
  addr : Word64
  pieces : List Piece
  data : List Byte
  bads : List Bool
  poison : Bool
  stage : Stage
  held : Bool
  deriving DecidableEq, Repr

/-- A translation cache entry (R266): tagged by ASID, of 64 KiB or 32 MiB. -/
structure TlbEntry where
  asid : BitVec 12
  page : Nat
  big : Bool
  frame : Nat
  r : Bool
  w : Bool
  deriving DecidableEq, Repr

/-! ## The core -/

/-- A core: its CSRs, fabric, regions, contexts and islands; bit i of `sbad` says that scalar register i holds bad parity
(R309). -/
structure Core where
  poolE : Nat
  poolA : Nat
  poolS : Nat
  ctxpart : BitVec 8
  sregs : Vector Word64 64
  sbad : BitVec 64
  snapwin : BitVec 16
  guardRow : Vector (BitVec 16) 4
  guardPt : BitVec 12
  ttbase : BitVec 35
  tlb : List TlbEntry
  ctxswResult : BitVec 2
  hfab : Bool
  hctx : BitVec 4
  drate : BitVec 8
  srate : BitVec 8
  eccUe : BitVec 32
  eccCe : BitVec 32
  turn : Fin 4
  elems : Vector Element 32
  regions : Vector Region 8
  ctxs : Vector Context 4
  matrix : Matrix
  streamer : Streamer
  deriving DecidableEq, Repr

/-! ## Memory -/

/-- Memory by physical address (R244): listed bytes, lines whose full bit is set (R241), poisoned 64-byte units (R243,
R249), and the units that hold an uncorrectable or a correctable error not yet written over (R243, R309, R310).  Each list
is strictly rising; a listed byte is not what an unlisted one reads as. -/
structure Memory where
  cells : List Host.Cell
  full : List Nat
  poison : List Nat
  ue : List Nat
  ce : List Nat
  deriving DecidableEq, Repr

/-! ## The kiln (R201, R369..R380) -/

/-- Who is owed the credit of a token at an out-link: the output of a slot of an entry block's region, as it was mapped in a
cycle (R29). -/
structure Creditor where
  slot : Fin 128
  out : OutPort
  entry : Nat
  mapAt : Nat
  deriving DecidableEq, Repr

/-- A token at the out-link of a long channel, with the accesses its release waits for (R276) and the producer its credit
returns to. -/
structure ChanTok where
  tok : Token
  after : List Nat
  src : Option Creditor
  deriving DecidableEq, Repr

/-- A long channel (R37, R370): its record; tokens at the out-link and in the buffer; the buffer entry that the next one
takes, the core of its buffer, and the buffer's first byte among the granules reserved there (R38). -/
structure Chan where
  rec_ : BitVec 128
  out : List ChanTok
  buf : List Token
  moving : Bool
  next : Nat
  core : Fin 96
  base : Nat
  deriving DecidableEq, Repr

/-- A rein (R343): its record's fields, counted cycles, the weights of the windows now running (R344, R345). -/
structure Rein where
  setpt : BitVec 16
  kp : BitVec 8
  ki : BitVec 8
  period : BitVec 16
  wp0 : Nat
  wc0 : Nat
  wfloor : Nat
  wceil : Nat
  g : BitVec 8
  ilim : BitVec 16
  bkind : BitVec 4
  bufid : BitVec 16
  psrc : BitVec 13
  csrc : BitVec 13
  wp : Nat
  wc : Nat
  i : Int
  occ : BitVec 16
  emptyev : BitVec 32
  fullev : BitVec 32
  updates : BitVec 32
  counted : Nat
  pEff : Nat
  cEff : Nat
  pCount : Nat
  cCount : Nat
  deriving DecidableEq, Repr

/-- Where an entry block stands: not yet placed, claimed, on a region, pre-empted with its region kept, or ended. -/
inductive PState where
  | none | claimed | placed | preempted | ended
  deriving DecidableEq, Repr

/-- The eviction record of an element (R118): the element's index and state, the core of the record, the ember offset and
size of each of its parts, and the free value its bytes begin with. -/
structure Evicted where
  k : Nat
  elem : Element
  core : Fin 96
  parts : List (Nat × Nat)
  seed : Nat
  deriving DecidableEq, Repr

/-- The placement of an entry block (R379); the kept region and the kept elements of a pre-empted one (R117, R118), and the
credits that came back to it meanwhile. -/
structure Place where
  st : PState
  core : Fin 96
  region : Fin 8
  ex0 : Nat
  ey0 : Nat
  mapped : Nat
  kept : Option Region
  evicted : List Evicted
  owed : List (Fin 128 × OutPort)
  first : Bool
  deriving DecidableEq, Repr

/-- The state of a configuration (R373, R375, R378). -/
inductive CState where
  | held | queued | running | preempted
  deriving DecidableEq, Repr

/-- A configuration (R22, R369, R373).  `queuedAt` is the cycle since which it waits in its queue, the time it waited before
counted in; while it runs, it is the time it waited (R379).  `after` are the writes of its launching context that its launch releases
(R284). -/
structure Cfg where
  handle : Word64
  image : Word64
  asid : BitVec 12
  core : Fin 96
  ctx : Fin 4
  prio : Nat
  st : CState
  queuedAt : Nat
  aged : Nat
  launchedAt : Nat
  bytes : List Byte
  cached : Bool
  digest : BitVec 384
  shapes : List (Nat × Nat)
  places : List Place
  chans : List Chan
  reins : List Rein
  granules : List (Fin 96 × Nat)
  after : List Nat
  deriving DecidableEq, Repr

/-- The kiln: configurations it holds, the handles given since reset, and for each queue the configuration it served last
there (R379). -/
structure Kiln where
  cfgs : List Cfg
  handles : List Word64
  turns : List Word64
  deriving DecidableEq, Repr

/-! ## The fault collector (R292..R299) -/

/-- An entry of a window or list: its first source, its count, the records of the merged parked accesses, and the cycle in
which it was opened (R293, R294, R296, R298). -/
structure FEntry where
  first : CRec
  count : Nat
  accs : List CRec
  at_ : Nat
  deriving DecidableEq, Repr

/-- The collector: its CSRs, the open window and its first cycle, the lists of closed windows not yet written, and the list
that awaits RESUME with the place it was written to. -/
structure Collector where
  hctx : BitVec 2
  hcore : BitVec 7
  window : BitVec 16
  base : BitVec 36
  logcap : BitVec 4
  lost : BitVec 16
  ready : Bool
  nent : BitVec 16
  seq : BitVec 16
  open_ : Option (Nat × List FEntry)
  waiting : List (List FEntry)
  current : List FEntry
  listAt : BitVec 36
  deriving DecidableEq, Repr

/-! ## Egress (R352..R361, R382) -/

/-- A stream (R352). -/
structure Stream where
  id : Nat
  owner : Option (BitVec 12)
  hput : BitVec 32
  rel : BitVec 32
  wseq : BitVec 32
  deriving DecidableEq, Repr

/-- A held token (R354): stream, sequence number, value, and the configuration that put it (R342). -/
structure HeldTok where
  stream : Nat
  seq : BitVec 32
  val : Lane
  handle : Word64
  deriving DecidableEq, Repr

/-- A released record waiting for the outbound port (R357). -/
structure OutRec where
  rseq : BitVec 32
  stream : BitVec 12
  seq : BitVec 32
  val : Lane
  deriving DecidableEq, Repr

/-- The egress hold queue and the outbound port. -/
structure Egress where
  streams : List Stream
  held : List HeldTok
  waiting : List Nat
  out : List OutRec
  rseq : BitVec 32
  armed : Option (List (BitVec 384))
  beyond : BitVec 16
  refused : BitVec 16
  logsz : BitVec 4
  port : BitVec 4
  addr : BitVec 50
  head : Word64
  count : Nat
  deriving DecidableEq, Repr

/-! ## Device CSRs, host and clock -/

/-- STATE of RECSTAT (R385). -/
inductive BootState where
  | waiting | verifying | running | failed
  deriving DecidableEq, Repr

/-- A DMA window (R390): DMAW_CTL and DMAW_BASE. -/
structure DmaWin where
  ctl : Word64
  base : Word64
  deriving DecidableEq, Repr

/-- Device CSRs and the boot state (R316, R385, R387, R390, R391); `packets` holds the BOOT packet being verified and the
packets that wait behind it. -/
structure Device where
  kvtBase : BitVec 36
  logh : BitVec 5
  logn : BitVec 5
  kvtOvf : BitVec 45
  dmaw : Vector DmaWin 256
  lock : Bool
  attempts : BitVec 8
  rollback : BitVec 32
  failstep : BitVec 4
  boot : BootState
  fwDigest : BitVec 384
  fwVersion : Word64
  packets : List Packet
  throttled : Bool
  deriving DecidableEq, Repr

/-- An ingress port that is not in its reset state (R376): the tokens it holds, each with the handle and the channel that its write
names; `link` holds the writes that the link has not yet completed. -/
structure Ingress where
  port : BitVec 8
  bound : Option (Word64 × Nat)
  buf : List (Token × Word64 × Nat)
  drops : BitVec 32
  link : List (List Byte)
  deriving DecidableEq, Repr

/-- The fabric, port and destination that a DMA window names (R390). -/
structure PeerVia where
  kind : BitVec 2
  port : BitVec 4
  peer : BitVec 32
  deriving DecidableEq, Repr

/-- Something that left the device: bytes written to host memory, by UALink port where the rules name one (R382), and bytes
written or read at a peer (R390); a read's answer, an error response. -/
inductive OutMsg where
  | write (addr : Word64) (bytes : List Byte)
  | portWrite (port : BitVec 4) (addr : Word64) (bytes : List Byte)
  | peerWrite (via : PeerVia) (addr : Word64) (bytes : List Byte)
  | peerRead (via : PeerVia) (addr : Word64) (n : Nat)
  | answer (bytes : List Byte)
  | linkError
  deriving DecidableEq, Repr

/-- The host's side of the link. -/
structure HostSide where
  ports : List Ingress
  out : List OutMsg
  deriving DecidableEq, Repr

/-- MODEL: what a step of the machine runs next: the instruction in a fabric slot, the one in a slot of a context's block, or
one of the device's own steps. -/
inductive Act where
  | fire (site : Site)
  | kfire (site : Site)
  | event (i : Instr)
  deriving DecidableEq, Repr

/-- MODEL: the cycle, what is left to do in it, steps due later, the counter of free values, and where the instruction
now run stands (log 1 to 3). -/
structure Clock where
  now : Nat
  agenda : List Act
  pending : List (Nat × Instr)
  fresh : Nat
  ids : Nat
  focus : Site
  deriving DecidableEq, Repr

/-- The whole machine. -/
structure State where
  cores : Vector Core 96
  mem : Memory
  accs : List Access
  kiln : Kiln
  col : Collector
  egress : Egress
  dev : Device
  host : HostSide
  clk : Clock
  deriving DecidableEq, Repr

/-- Why a step stops with a fault. -/
inductive Fault where
  /-- Raised by `step` when a slot on the agenda holds a word that decodes to no instruction.  Loading blocks such a
  word's element (R77), so no run from reset reaches it: safe. -/
  | undecodable (site : Site)
  deriving DecidableEq, Repr

/-- Why a step is refused. -/
inductive Refusal where
  /-- An instruction whose meaning is not written yet, by its mnemonic: safe, since a refused step proves nothing. -/
  | notModelled (mnemonic : String)
  deriving DecidableEq, Repr

/-! ## Reset -/

/-- A port with nothing in it. -/
def Port.empty : Port := ⟨[], 0, .none, 1, 0, [], []⟩

/-- A slot that holds a word and nothing else (R23): full credit, everything at its start. -/
def Slot.holding (w : Word64) : Slot :=
  ⟨w, .empty, .empty, .empty, 8, 8, 1, false, 0, 0, 0, 0, .idle, 0, 0, [], 0, .off, false, none, none, 0, none, []⟩

/-- A loop counter at zero (log 9). -/
def Counter.zero : Counter := ⟨0, 0, 0, 0⟩

/-- An element that holds NOPs and belongs to nobody. -/
def Element.blank : Element :=
  ⟨none, false, Vector.replicate 8 (Slot.holding 0), Vector.replicate 4 .zero, none⟩

/-- A FREE region. -/
def Region.blank : Region :=
  ⟨.free, 0, 0, 0, 0, 1, 1, 0, 0, none, [], [], 0, 0, 0, [], [], [], [], 0, none, Vector.replicate 8 0,
    Vector.replicate 8 0, false, (0, 0)⟩

/-- An unbound queue (R371). -/
def QBind.none : QBind := ⟨false, false, 0, 0⟩

/-- A STOPPED context (R184, R187; log 10). -/
def Context.reset : Context :=
  ⟨.stopped, false, false, 0, 0, false, 0, 0, 0, [], 0, [], false, 0, 0, 0, 0, Vector.replicate 8 .none, [], none, 0, false, []⟩

/-- The matrix island without accumulator storage (R212). -/
def Matrix.reset : Matrix := ⟨[], 0, [], [], [], 0⟩

/-- An idle streamer island. -/
def Streamer.reset : Streamer := ⟨[], [], 0⟩

/-- A core after reset (R116, R185, R198, R199, R236, R264, R302, R307, R310). -/
def Core.reset : Core :=
  { poolE := 0, poolA := 0, poolS := 96, ctxpart := 0xAA, sregs := Vector.replicate 64 0, sbad := 0, snapwin := 1024,
    guardRow := Vector.replicate 4 0, guardPt := 0, ttbase := 0, tlb := [], ctxswResult := 0, hfab := false, hctx := 0,
    drate := 16, srate := 16, eccUe := 0, eccCe := 0, turn := 0, elems := Vector.replicate 32 .blank,
    regions := Vector.replicate 8 .blank, ctxs := Vector.replicate 4 .reset, matrix := .reset,
    streamer := .reset }

/-- Memory with nothing listed (log 4). -/
def Memory.reset : Memory := ⟨[], [], [], [], []⟩

/-- The collector after reset (R293, R297). -/
def Collector.reset : Collector := ⟨0, 0, 2048, 0, 6, 0, false, 0, 0, none, [], [], 0⟩

/-- The egress queue after reset: streams unbound, unarmed, empty (R352, R360, R382; log 5). -/
def Egress.reset : Egress := ⟨[], [], [], [], 0, none, 0, 0, 0, 0, 0, 0, 0⟩

/-- Device CSRs after reset (R316, R385, R390; log 6). -/
def Device.reset : Device :=
  { kvtBase := 0, logh := 0, logn := 8, kvtOvf := 0, dmaw := Vector.replicate 256 ⟨0, 0⟩, lock := false, attempts := 0,
    rollback := Config.rollbackFuse, failstep := 0, boot := .waiting, fwDigest := 0, fwVersion := 0,
    packets := [], throttled := false }

/-- The clock at its start (log 1 to 3). -/
def Clock.reset : Clock := ⟨0, [], [], 0, 1, ⟨0, 0, 0⟩⟩

/-- The machine right after reset: the boot state (R385). -/
def State.reset : State :=
  { cores := Vector.replicate 96 .reset, mem := .reset, accs := [], kiln := ⟨[], [], [0, 0, 0, 0]⟩, col := .reset,
    egress := .reset, dev := .reset, host := ⟨[], []⟩, clk := .reset }

end Sys2Proof.Machine
end

