-- ==== Sys2Proof/Machine/Ops.lean ====
section
/-! DEFINITION. The named operations over the state: memory, the parts of a core, timed steps, event records, region
faults, the trap of a context and the return from it, and the delivery of tokens with its credits. -/

namespace Sys2Proof.Machine

/-! ## Memory (R11, R241, R243, R244) -/

/-- What an unlisted address reads as (log 4, DESIGN CHOICE). -/
def Memory.unlisted : Byte := 0

/-- Lookup in a rising list. -/
def cellAt (a : Nat) : List Host.Cell → Byte
  | [] => Memory.unlisted
  | (k, v) :: rest => if k == a then v else cellAt a rest

/-- The cells of bytes from an address on that are not what an unlisted address reads as. -/
def cellRun (a : Nat) : List Byte → List Host.Cell
  | [] => []
  | v :: rest => if v == Memory.unlisted then cellRun (a + 1) rest else (a, v) :: cellRun (a + 1) rest

/-- A rising list of numbers with one added. -/
def natAdd (a : Nat) : List Nat → List Nat
  | [] => [a]
  | k :: rest => if k < a then k :: natAdd a rest else if k == a then k :: rest else a :: k :: rest

/-- A rising list of numbers with one taken out. -/
def natDel (a : Nat) : List Nat → List Nat
  | [] => []
  | k :: rest => if k == a then rest else k :: natDel a rest

/-- One byte of memory. -/
def Memory.byte (m : Memory) (a : Nat) : Byte := cellAt a m.cells

/-- n bytes from an address on, lowest address first. -/
def Memory.bytes (m : Memory) (a n : Nat) : List Byte := (List.range n).map fun i => m.byte (a + i)

/-- The memory with bytes written from an address on. -/
def Memory.putAll (m : Memory) (a : Nat) (bs : List Byte) : Memory :=
  let e := a + bs.length
  { m with cells := m.cells.filter (fun c => c.1 < a) ++ cellRun a bs ++ m.cells.filter fun c => e ≤ c.1 }

/-- The full/empty bit of the 128-byte line that holds an address (R241). -/
def Memory.isFull (m : Memory) (a : Nat) : Bool := m.full.contains (a / 128)

/-- Sets or clears the full/empty bit of an address's line (R241). -/
def Memory.setFull (m : Memory) (a : Nat) (v : Bool) : Memory :=
  { m with full := if v then natAdd (a / 128) m.full else natDel (a / 128) m.full }

/-- The 64-byte unit that holds an address is poisoned (R243). -/
def Memory.isPoison (m : Memory) (a : Nat) : Bool := m.poison.contains (a / 64)

/-- Marks or clears the poison of an address's 64-byte unit (R243). -/
def Memory.setPoison (m : Memory) (a : Nat) (v : Bool) : Memory :=
  { m with poison := if v then natAdd (a / 64) m.poison else natDel (a / 64) m.poison }

/-- A unit holds an uncorrectable error (R243). -/
def Memory.isUe (m : Memory) (a : Nat) : Bool := m.ue.contains (a / 64)

/-- A unit holds a correctable error (R309). -/
def Memory.isCe (m : Memory) (a : Nat) : Bool := m.ce.contains (a / 64)

/-- A unit written whole has new check bits: no poison and no error (R243). -/
def Memory.clean (m : Memory) (a : Nat) : Memory :=
  { m with poison := natDel (a / 64) m.poison, ue := natDel (a / 64) m.ue, ce := natDel (a / 64) m.ce }

/-- A unit written in part: its correctable error is gone, its poison stays (R243, R310). -/
def Memory.touch (m : Memory) (a : Nat) : Memory := { m with ce := natDel (a / 64) m.ce }

/-- A write of data that is not poisoned: a unit all of whose 64 bytes it replaces reads clean from then on (R243). -/
def Memory.store (m : Memory) (a : Nat) (bs : List Byte) : Memory :=
  let m := m.putAll a bs
  (List.range ((a % 64 + bs.length + 63) / 64)).foldl (fun m i =>
    let u := a / 64 * 64 + 64 * i
    if a ≤ u && u + 64 ≤ a + bs.length then m.clean u else m.touch u) m

/-- n little-endian bytes of memory as a number. -/
def Memory.nat (m : Memory) (a n : Nat) : Nat := bytesNat (m.bytes a n)

/-- Eight bytes of memory as a word. -/
def Memory.word (m : Memory) (a : Nat) : Word64 := BitVec.ofNat 64 (m.nat a 8)

/-- The keys rise strictly from a lower bound. -/
def risesFrom (lo : Nat) : List Nat → Bool
  | [] => true
  | k :: rest => lo ≤ k && risesFrom (k + 1) rest

/-- The canonical form: every list rises strictly, and no listed byte is what an unlisted one reads as. -/
def Memory.wf (m : Memory) : Bool :=
  risesFrom 0 (m.cells.map Prod.fst) && m.cells.all (fun c => c.2 != Memory.unlisted) &&
    risesFrom 0 m.full && risesFrom 0 m.poison && risesFrom 0 m.ue && risesFrom 0 m.ce

/-! ## Parts of the state -/

/-- A core. -/
def State.core (s : State) (c : Fin 96) : Core := s.cores[c]

/-- Changes a core. -/
def State.onCore (s : State) (c : Fin 96) (f : Core → Core) : State := { s with cores := s.cores.set c (f s.cores[c]) }

/-- A region. -/
def State.region (s : State) (c : Fin 96) (r : Fin 8) : Region := s.cores[c].regions[r]

/-- Changes a region. -/
def State.onRegion (s : State) (c : Fin 96) (r : Fin 8) (f : Region → Region) : State :=
  s.onCore c fun k => { k with regions := k.regions.set r (f k.regions[r]) }

/-- A context. -/
def State.ctx (s : State) (c : Fin 96) (x : Fin 4) : Context := s.cores[c].ctxs[x]

/-- Changes a context. -/
def State.onCtx (s : State) (c : Fin 96) (x : Fin 4) (f : Context → Context) : State :=
  s.onCore c fun k => { k with ctxs := k.ctxs.set x (f k.ctxs[x]) }

/-- Element e(ex,ey) as a number (R237: the number of its paired tile). -/
def elemNo (ex ey : Nat) : Fin 32 := Fin.ofNat 32 (8 * ey + ex)

/-- Index k of a region names an element (R20). -/
def Region.hasK (r : Region) (k : Nat) : Bool := k % 4 < r.w && k / 4 < r.h && k < 16

/-- The element of index k (R20). -/
def Region.elem (r : Region) (k : Nat) : Fin 32 := elemNo (r.ex0 + k % 4) (r.ey0 + k / 4)

/-- The element indexes of a region in ascending order. -/
def Region.ks (r : Region) : List Nat := (List.range 16).filter r.hasK

/-- The slots of a region that lie on its elements, in ascending order (R21). -/
def Region.slotIdx (r : Region) : List (Fin 128) := (List.finRange 128).filter fun i => r.hasK (i.val / 8)

/-- The element that holds a site's slot. -/
def State.elemAt (s : State) (x : Site) : Fin 32 := (s.region x.core x.unit).elem (x.slot.val / 8)

/-- An element. -/
def State.elem (s : State) (c : Fin 96) (e : Fin 32) : Element := s.cores[c].elems[e]

/-- Changes an element. -/
def State.onElem (s : State) (c : Fin 96) (e : Fin 32) (f : Element → Element) : State :=
  s.onCore c fun k => { k with elems := k.elems.set e (f k.elems[e]) }

/-- The position of a slot in its element. -/
def slotPos (i : Fin 128) : Fin 8 := Fin.ofNat 8 i.val

/-- A slot. -/
def State.slot (s : State) (x : Site) : Slot := (s.elem x.core (s.elemAt x)).slots[slotPos x.slot]

/-- Changes a slot. -/
def State.onSlot (s : State) (x : Site) (f : Slot → Slot) : State :=
  s.onElem x.core (s.elemAt x) fun e => { e with slots := e.slots.set (slotPos x.slot) (f e.slots[slotPos x.slot]) }

/-- The head of the element that holds a slot. -/
def State.head (s : State) (x : Site) : Option Head := (s.elem x.core (s.elemAt x)).head

/-- Changes the head of the element that holds a slot, when there is one. -/
def State.onHead (s : State) (x : Site) (f : Head → Head) : State :=
  s.onElem x.core (s.elemAt x) fun e => { e with head := e.head.map f }

/-- The site of a region's slot. -/
def siteOf (c : Fin 96) (r : Fin 8) (i : Fin 128) : Site := ⟨c, r, i⟩

/-- The slot of the region's rotation head, if it has one (R61). -/
def State.headSlot (s : State) (c : Fin 96) (r : Fin 8) : Option (Fin 128) :=
  (s.region c r).ks.findSome? fun k => ((s.elem c ((s.region c r).elem k)).head).map Head.slot

/-- The head of the region a site lies in, with its slot (R61). -/
def State.regionHead (s : State) (c : Fin 96) (r : Fin 8) : Option Head :=
  (s.headSlot c r).bind fun i => s.head (siteOf c r i)

/-- A port of a slot. -/
def Slot.port (t : Slot) : PortName → Port
  | .a => t.a
  | .b => t.b
  | .c => t.c

/-- Changes a port of a slot. -/
def Slot.onPort (t : Slot) (p : PortName) (f : Port → Port) : Slot :=
  match p with
  | .a => { t with a := f t.a }
  | .b => { t with b := f t.b }
  | .c => { t with c := f t.c }

/-- The configuration of a handle. -/
def State.cfg (s : State) (h : Word64) : Option Cfg := s.kiln.cfgs.find? fun c => c.handle == h

/-- Changes the configuration of a handle. -/
def State.onCfg (s : State) (h : Word64) (f : Cfg → Cfg) : State :=
  { s with kiln := { s.kiln with cfgs := s.kiln.cfgs.map fun c => if c.handle == h then f c else c } }

/-- Changes one element of a list. -/
def onIdx {α : Type} (i : Nat) (f : α → α) (xs : List α) : List α := xs.modify i f

/-- The configuration of a site's region. -/
def State.cfgOf (s : State) (x : Site) : Option Cfg := s.cfg (s.region x.core x.unit).handle

/-- Changes an access. -/
def State.onAcc (s : State) (id : Nat) (f : Access → Access) : State :=
  { s with accs := s.accs.map fun a => if a.id == id then f a else a }

/-- An access by its number. -/
def State.acc (s : State) (id : Nat) : Option Access := s.accs.find? fun a => a.id == id

/-- Takes an access off the list. -/
def State.dropAcc (s : State) (id : Nat) : State := { s with accs := s.accs.filter fun a => a.id != id }

/-! ## Time and free values (log 1, 2) -/

/-- A step of the device due d cycles from now. -/
def State.later (s : State) (d : Nat) (i : Instr) : State :=
  { s with clk := { s.clk with pending := s.clk.pending ++ [(s.clk.now + d, i)] } }

/-- A step that comes later in the present cycle. -/
def State.soon (s : State) (i : Instr) : State :=
  { s with clk := { s.clk with agenda := s.clk.agenda ++ [.event i] } }

/-- The counter of free values moves on by n. -/
def State.tickBy (s : State) (n : Nat) : State := { s with clk := { s.clk with fresh := s.clk.fresh + n } }

/-- The counter of free values moves on. -/
def State.tickFresh (s : State) : State := s.tickBy 1

/-- The next n free bytes; `tickBy n` follows their use. -/
def State.freeBytes (s : State) (n : Nat) : List Byte := (List.range n).map fun i => Config.freeByte (s.clk.fresh + i)

/-- A delay of at least `least` cycles, the part above it being free (R9, R211, R256). -/
def State.laterFree (s : State) (least : Nat) (i : Instr) : State :=
  (s.later (least + Config.freeDelay s.clk.fresh) i).tickFresh

/-- A new number for an access, a transfer or a result. -/
def State.newId (s : State) : Nat := s.clk.ids

/-- The counter of numbers moves on. -/
def State.tickId (s : State) : State := { s with clk := { s.clk with ids := s.clk.ids + 1 } }

/-! ## Records (R188, R288, R292, R304) -/

/-- The fields CY, CX, EX, EY, REGION at bits [55:41], and HSLOT at [63:57], of a record. -/
def placeBits (c : Fin 96) (ex ey : Nat) (r : Fin 8) (hslot : Nat) : BitVec 64 :=
  BitVec.ofNat 7 hslot ++ 0#1 ++ BitVec.ofNat 4 (c.val / 8) ++ BitVec.ofNat 3 (c.val % 8) ++ BitVec.ofNat 3 ex ++
    BitVec.ofNat 2 ey ++ BitVec.ofNat 3 r.val ++ 0#41

/-- The element coordinates of a slot of a region. -/
def Region.at_ (r : Region) (i : Fin 128) : Nat × Nat := (r.ex0 + i.val / 8 % 4, r.ey0 + i.val / 8 / 4)

/-- The poster of a record, as R188 orders posters: core, region, slot. -/
def posterKey (r : Record) : Nat :=
  1024 * (8 * (r.extractLsb' 52 4).toNat + (r.extractLsb' 49 3).toNat) + 128 * (r.extractLsb' 41 3).toNat +
    (r.extractLsb' 57 7).toNat

/-- The posters of the records that an event queue has taken in the present cycle. -/
def Context.keysNow (t : Context) (now : Nat) : List Nat := if t.evAt == now then t.evKeys else []

/-- A record enters a context's event queue, or is lost when the queue is full: behind every record of earlier cycles, and
behind those of the present cycle whose poster does not come after its own (R188). -/
def Context.enter (t : Context) (now key : Nat) (r : Record) : Context :=
  let keys := (t.keysNow now).drop ((t.keysNow now).length - t.evq.length)
  let old := t.evq.length - keys.length
  let n := (keys.takeWhile fun k => k ≤ key).length
  let q := t.evq.take (old + n) ++ r :: t.evq.drop (old + n)
  let t := { t with evAt := now, evKeys := (keys.take n ++ key :: keys.drop n).take (64 - old), evq := q.take 64 }
  if q.length ≤ 64 then t else { t with ovf := true, lost := if t.lost == 0xFFFFFF then t.lost else t.lost + 1 }

/-- A record enters a context's event queue (R188); one without a location has no place among the posters, and counts as the
first. -/
def State.pushEvent (s : State) (c : Fin 96) (x : Fin 4) (r : Record) (located : Bool) : State :=
  s.onCtx c x fun t => t.enter s.clk.now (if located then posterKey r else 0) r

/-- A record for the collector, in the cycle it is raised (R292). -/
def State.collect (s : State) (r : CRec) : State := s.soon (.collectorRecord r)

/-- ADDR of a record that has none (R294). -/
def noAddr : BitVec 54 := 0x3FFFFFFFFFFFFF

/-- The CODE of a record, bits [127:120] (R188). -/
def recordCode (r : Record) : BitVec 8 := r.extractLsb' 120 8

/-- A collector record with a place and no address. -/
def placedRec (handle : Word64) (asid : BitVec 12) (cause : BitVec 8) (aux : BitVec 32) (c : Fin 96) (ex ey : Nat)
    (r : Nat) (hslot : Nat) (agent : BitVec 3) : CRec :=
  { handle, addr := noAddr, asid, cause, parked := false, wr := false, aux, hslot := BitVec.ofNat 7 hslot,
    cy := BitVec.ofNat 4 (c.val / 8), cx := BitVec.ofNat 3 (c.val % 8), ex := BitVec.ofNat 3 ex,
    ey := BitVec.ofNat 2 ey, region := BitVec.ofNat 3 r, agent, acc := 0 }

/-- A record of a configuration posted to a context; to the collector as an orphan when the context's ASID differs from
the configuration's (R188, R304).  `located` says that the record carries a location at bits [63:41]. -/
def State.postTo (s : State) (c : Fin 96) (x : Fin 4) (asid : BitVec 12) (r : Record) (located : Bool) : State :=
  if (s.ctx c x).asid == asid then s.pushEvent c x r located
  else s.collect
    { handle := r.extractLsb' 192 64, addr := noAddr, asid := asid, cause := 0x39, parked := false, wr := false,
      aux := (recordCode r).setWidth 32,
      hslot := if located then r.extractLsb' 57 7 else 0, cy := if located then r.extractLsb' 52 4 else 0,
      cx := if located then r.extractLsb' 49 3 else 0, ex := if located then r.extractLsb' 46 3 else 0,
      ey := if located then r.extractLsb' 44 2 else 0, region := if located then r.extractLsb' 41 3 else 0,
      agent := 7, acc := 0 }

/-- A record posted to the owner of a configuration. -/
def State.post (s : State) (cfg : Cfg) (r : Record) (located : Bool) : State := s.postTo cfg.core cfg.ctx cfg.asid r located

/-! ## Faults of a region (R139, R288, R289) -/

/-- The collector cause of a fault in a firing (R288, R295). -/
def regionCause (c : Cause) : BitVec 8 :=
  match c.toNat with
  | 1 => 0x11
  | 3 => 0x12
  | 4 => 0x13
  | _ => 0x10

/-- A region's fault: it takes effect at the end of the cycle (R289).  A fault raised after the region entered FAULTED, or
after a pre-empted one was marked (R306), posts nothing and is counted in REGLATER (R289, R403). -/
def Region.raise (g : Region) (f : RFault) : Region :=
  if g.st == .faulted || g.markFault then { g with later := if g.later == 255 then 255 else g.later + 1 }
  else { g with pend := g.pend ++ [f] }

/-- A region fault (R289). -/
def State.regionFault (s : State) (c : Fin 96) (r : Fin 8) (slot : Fin 128) (cause : BitVec 8) (addr : Word64)
    (collect : Bool) : State :=
  s.onRegion c r fun g => g.raise ⟨slot, cause, addr, collect⟩

/-- A fault in a firing: the slot's when the instruction is head-driven (its void results carry the cause, R94), else
the region's (R139). -/
def State.firingFault (s : State) (x : Site) (c : Cause) : State :=
  if (s.slot x).driven then s else s.regionFault x.core x.unit x.slot (regionCause c) 0 true

/-- The region fault record (R290). -/
def faultRecord (s : State) (g : Region) (c : Fin 96) (r : Fin 8) (f : RFault) (nlater : Nat) : Record :=
  let asid := ((s.cfg g.handle).map Cfg.asid).getD 0
  let p := g.at_ f.slot
  g.handle ++ f.addr ++ 0x40#8 ++ f.cause ++ asid ++ BitVec.ofNat 8 (min nlater 255) ++ 0#28 ++
    placeBits c p.1 p.2 r f.slot.val

/-! ## Guard and link drops (R204, R205) -/

/-- A guard report (R205). -/
def guardRecord (c : Fin 96) (r : Fin 8) (g : GuardRep) : Record :=
  g.handle ++ g.count ++ g.first ++ g.code ++ g.link ++ g.sten ++ g.dten ++ BitVec.ofBool g.offg ++ g.dex ++ g.dey ++
    0#39 ++ placeBits c g.ex.toNat g.ey.toNat r g.slot.val

/-- An open report is posted to the owner and to the collector (R204, R288). -/
def State.postGuard (s : State) (c : Fin 96) (r : Fin 8) (g : GuardRep) : State :=
  match s.cfg g.handle with
  | none => s
  | some cfg => (s.post cfg (guardRecord c r g) true).collect
      (placedRec g.handle cfg.asid (if g.code == 0x30 then 0x20 else 0x21) g.count c g.ex.toNat g.ey.toNat r.val g.slot.val
        g.agent)

/-- Every open report of a region's configuration is posted: it leaves MAPPED (R204). -/
def State.postGuards (s : State) (c : Fin 96) (r : Fin 8) : State :=
  let q := s.region c r
  ((q.guards.filter fun g => g.handle == q.handle).foldl (fun s g => s.postGuard c r g) s).onRegion c r fun q => { q with
    guards := q.guards.filter fun g => g.handle != q.handle }

/-- The lowest slot's fault of a cycle. -/
def lowestFault : List RFault → Option RFault
  | [] => none
  | f :: rest => match lowestFault rest with
    | some g => some (if g.slot < f.slot then g else f)
    | none => some f

/-- The AGENT code of a fault's slot (R294): 0 for a memory operator's slot, 1 for the head's, 2 for any other. -/
def State.slotAgent (s : State) (c : Fin 96) (r : Fin 8) (i : Fin 128) : BitVec 3 :=
  if i.val % 8 == 7 then 0 else if s.headSlot c r == some i then 1 else 2

/-- The one record of the faults that a region raised in a cycle, for the lowest slot's (R289, R290): to the owner's event
queue, and to the collector. -/
def State.postFaults (s : State) (g : Region) (c : Fin 96) (r : Fin 8) (f : RFault) (agent : BitVec 3) : State :=
  match s.cfg g.handle with
  | none => s
  | some cfg =>
    let p := g.at_ f.slot
    let s' := s.post cfg (faultRecord s g c r f (g.pend.length - 1)) true
    if f.collect then s'.collect (placedRec g.handle cfg.asid f.cause 0 c p.1 p.2 r.val f.slot.val agent) else s'

/-- The faults a region raised in the cycle that has ended take it to FAULTED, with one record (R289).  A pre-empted
region is marked instead, and resumes into FAULTED (R306). -/
def State.settleFaults (s : State) (c : Fin 96) (r : Fin 8) : State :=
  let g := s.region c r
  match lowestFault g.pend with
  | none => s
  | some f =>
    ((s.postGuards c r).onRegion c r fun g => { g with
      pend := [], st := if g.st == .evicting then g.st else .faulted
      markFault := g.markFault || g.st == .evicting }).postFaults g c r f (s.slotAgent c r f.slot)

/-! ## Traps of a context and the return from one (R191, R196, R301) -/

/-- The block of a context stops; its register ranges and queue operations in progress, those of the slot that stopped it
apart, still complete (R191). -/
def Context.leaveBlock (t : Context) (slot : Option (Fin 128)) : Context :=
  let left := t.blk.toList.filterMap fun b =>
    let reps := b.reps.filter fun r => slot != some r.slot
    if reps.isEmpty then none else some (t.gen, { b with reps := reps })
  { t with blk := none, gen := t.gen + 1, drains := t.drains ++ left }

/-- A context's trap: its block stops, TRAPINFO and TRAPVAL are set, it enters TRAPPED, and a trap record goes to the
collector.  No register write of the block takes effect (R191, R301). -/
def State.trap (s : State) (c : Fin 96) (x : Fin 4) (slot : Fin 128) (cause : BitVec 8) (val : Word64) : State :=
  let t := s.ctx c x
  (s.onCtx c x fun t => { t.leaveBlock (some slot) with
    st := .trapped, trapCause := cause, trapSlot := BitVec.ofNat 7 slot.val, trapVal := val }).collect
    { handle := 0, addr := noAddr, asid := t.asid, cause := 0x38, parked := false, wr := false,
      aux := cause.setWidth 32, hslot := BitVec.ofNat 7 slot.val, cy := BitVec.ofNat 4 (c.val / 8),
      cx := BitVec.ofNat 3 (c.val % 8), ex := 0, ey := 0, region := BitVec.ofNat 3 x.val, agent := 3, acc := 0 }

/-- A context begins to fetch the block its BPTR names (R189, R383, R384). -/
def State.startFetch (s : State) (c : Fin 96) (x : Fin 4) : State :=
  let t := s.ctx c x
  (s.onCtx c x fun t => { t with st := .run, blk := none, gen := t.gen + 1, stopReq := false }).laterFree 1
    (.blockFetch c x (t.gen + 1))

/-- A trapped block's prefixed range goes on in the block that runs again, not beside it (R195, R196). -/
def Context.handRep (t : Context) : Context :=
  { t with drains := (t.drains.map fun d => (d.1, { d.2 with reps := d.2.reps.filter fun r => !r.shown })).filter fun d =>
      !d.2.reps.isEmpty }

/-- The return from a trap (ERET, R196): with an address the context resumes at that block, without one the trapped
block runs again from its start, REPST being kept (R195). -/
def State.resumeTrapped (s : State) (c : Fin 96) (x : Fin 4) (addr : Option (BitVec 54)) : State :=
  let s := match addr with
    | some a => s.onCtx c x fun t => { t with bptr := a.extractLsb' 6 48, repActive := false }
    | none => s.onCtx c x Context.handRep
  s.startFetch c x

/-! ## Tenants (R198, R199) -/

/-- The tenant of an element. -/
def Core.tenant (k : Core) (ex ey : Nat) : BitVec 2 := (k.guardRow.toList.getD ey 0).extractLsb' (2 * ex) 2

/-- The tenant of a context. -/
def Core.ctxTenant (k : Core) (x : Fin 4) : BitVec 2 := k.guardPt.extractLsb' (2 * x.val) 2

/-- The tenant of the matrix island. -/
def Core.matrixTenant (k : Core) : BitVec 2 := k.guardPt.extractLsb' 8 2

/-- The tenant of the streamer island. -/
def Core.streamerTenant (k : Core) : BitVec 2 := k.guardPt.extractLsb' 10 2

/-! ## Long channels (R36, R37, R370) -/

/-- A bit field of a channel record. -/
def Chan.fld (c : Chan) (lo n : Nat) : Nat := (c.rec_.extractLsb' lo n).toNat

/-- DEPTH of a channel. -/
def Chan.depth (c : Chan) : Nat := 16 * (c.fld 56 8 + 1)
/-- The burst of a channel. -/
def Chan.burst (c : Chan) : Nat := 2 ^ c.fld 54 2
/-- SKIND. -/
def Chan.skind (c : Chan) : Nat := c.fld 52 2
/-- DKIND. -/
def Chan.dkind (c : Chan) : Nat := c.fld 50 2
/-- DSLOT. -/
def Chan.dslot (c : Chan) : Fin 128 := Fin.ofNat 128 (c.fld 43 7)
/-- DPORT. -/
def Chan.dport (c : Chan) : PortName := portNamed (BitVec.ofNat 2 (c.fld 41 2))
/-- DENT. -/
def Chan.dent (c : Chan) : Nat := c.fld 35 6
/-- DLINK. -/
def Chan.dlink (c : Chan) : Nat := c.fld 32 3
/-- SENT. -/
def Chan.sent (c : Chan) : Nat := c.fld 26 6
/-- SLINK. -/
def Chan.slink (c : Chan) : Nat := c.fld 23 3

/-- The channel bound to an out-link of an entry block's region: its index in image order (R37). -/
def Cfg.outChan (g : Cfg) (entry link : Nat) : Option Nat :=
  g.chans.findIdx? fun c => c.skind == 0 && c.sent == entry && c.slink == link

/-- An out-link of a region that no channel uses is unbound (R202). -/
def State.boundChan (s : State) (x : Site) (link : Nat) : Option Nat :=
  (s.cfgOf x).bind fun g => g.outChan (s.region x.core x.unit).entry link

/-! ## Positions and firing counts (R84, R123) -/

/-- The start of the firing counts that a position belongs to. -/
def Head.epochAt (h : Head) (d : Nat) : Epoch := (h.epochs.find? fun e => e.first ≤ d).getD ⟨0, h.pcur, 0⟩

/-- The head issues a position. -/
def Head.issue (h : Head) : Head :=
  { h with
    issued := h.issued + 1, made := h.made + 1, pos := if h.pos + 1 == h.pcur then 0 else h.pos + 1
    rotnum := if h.pos + 1 == h.pcur then h.rotnum + 1 else h.rotnum }

/-- A rotation starts, under a period and from a ROTNUM on: every firing count of the slots it drives restarts. -/
def Head.restart (h : Head) (period : Nat) (rot : BitVec 32) : Head :=
  { h with
    pcur := period, rotnum := rot, pos := 0, issued := 0
    epochs := ⟨h.made, period, rot⟩ :: h.epochs.filter fun e => e.first < h.made }

/-- The later of two positions. -/
def laterPos : Option Nat → Option Nat → Option Nat
  | some a, some b => some (max a b)
  | some a, .none => some a
  | .none, b => b

/-- Where the tokens of some entries come from: the latest position, and the first culprit. -/
def originIn (es : List Entry) : Origin :=
  es.foldl (fun o e => ⟨laterPos o.pos e.src.pos, o.culprit.or e.src.culprit⟩) .none

/-- Where a firing comes from that pops some entries of each port: the position of what it pops, else of what stands at its ports,
else of its last firing. -/
def State.originOf (s : State) (x : Site) (pops : PortName → Nat) : Origin :=
  let u := s.slot x
  let popped := originIn ([PortName.a, .b, .c].flatMap fun p => (u.port p).q.take (pops p))
  let shown := originIn ([PortName.a, .b, .c].flatMap fun p => (u.port p).q.take 1)
  ⟨(popped.pos.or shown.pos).or u.last, popped.culprit⟩

/-- The start of the firing counts that a position gives a slot. -/
def State.epochOf (s : State) (x : Site) (d : Option Nat) : Nat :=
  match d, s.regionHead x.core x.unit with
  | some d, some h => (h.epochAt d).first
  | _, _ => (s.slot x).epoch

/-- The firing count of a slot at a firing that a position drives (R84). -/
def State.firingCount (s : State) (x : Site) (d : Option Nat) : Nat :=
  if s.epochOf x d == (s.slot x).epoch then (s.slot x).fires else 0

/-! ## Targets, latency and credits (R29) -/

/-- The path latency D between two slots of a region (R29). -/
def pathD (src dst : Fin 128) : Nat :=
  let k := src.val / 8
  let k' := dst.val / 8
  let dist (x y : Nat) : Nat := (x - y) + (y - x)
  if k == k' then (if src.val % 8 < 5 && dst.val == src.val + 1 then 1 else 2)
  else 2 + dist (k % 4) (k' % 4) + dist (k / 4) (k' / 4)

/-- D of a target; 2 to `exit` and to an out-link. -/
def targetD (src : Fin 128) (t : Target) : Nat := if t.isLink then 2 else pathD src t.idx

/-- A target takes credits: a slot's port, or an out-link bound to a channel.  `exit` and an unbound out-link always
have room (R41, R202). -/
def State.counted (s : State) (x : Site) (t : Target) : Bool :=
  if t.isLink then t.slot.toNat < 8 && (s.boundChan x t.slot.toNat).isSome else true

/-- A rewritten target whose predecessor has not yet returned all its credits (R197). -/
def Slot.held (t : Slot) (second : Bool) : Bool := (if second then t.hold1 else t.hold0).isSome

/-- At least n credits stand at a valid target (R24, R29). -/
def State.room (s : State) (x : Site) (second : Bool) (t : Target) (n : Nat) : Bool :=
  !t.v || (!(s.slot x).held second && (!s.counted x t || n ≤ (if second then (s.slot x).cred1 else (s.slot x).cred0)))

/-- A token sent on one target: its credit is taken and it arrives after L + D (R29). -/
def State.send (s : State) (x : Site) (second : Bool) (t : Target) (lat : Nat) (stamp : Stamp) (tok : Token) : State :=
  if !t.v then s
  else
    let n := if s.counted x t then 1 else 0
    let s := s.onSlot x fun u =>
      if second then { u with cred1 := u.cred1 - n, sent1 := u.sent1 + 1 }
      else { u with cred0 := u.cred0 - n, sent0 := u.sent0 + 1 }
    s.later (lat + targetD x.slot t) (.tokenArrival x t tok (s.region x.core x.unit).gen stamp)

/-- At most one token for each target. -/
def State.sendBoth (s : State) (x : Site) (t0 t1 : Target) (lat : Nat) (stamp : Stamp) (e : Emit) : State :=
  let s := match e.t0 with
    | some tok => s.send x false t0 lat stamp tok
    | none => s
  match e.t1 with
  | some tok => s.send x true t1 lat stamp tok
  | none => s

/-- The same token for both targets. -/
def Emit.both (t : Token) : Emit := ⟨some t, some t⟩

/-- Nothing for either target. -/
def Emit.none : Emit := ⟨.none, .none⟩

/-- The producer's output and slot that feed a port. -/
def Feeder.source : Feeder → Option (Fin 128 × OutPort)
  | .slot i second => some (i, if second then .t1 else .t0)
  | .drain i => some (i, .drain)
  | _ => Option.none

/-- The credits of n popped entries return to their producer after D (R29). -/
def State.returnCredits (s : State) (x : Site) (f : Feeder) (n : Nat) : State :=
  match f.source with
  | some (i, o) =>
    let gen := (s.region x.core x.unit).gen
    (List.range n).foldl (fun s _ => s.later (pathD i x.slot) (.creditReturn (x.at_ i) o gen)) s
  | none => s

/-- The first n entries of a port by the former feeders they came from; and what is then left of those (R197). -/
def splitFormer : List (Feeder × Nat) → Nat → List (Feeder × Nat) × List (Feeder × Nat)
  | [], _ => ([], [])
  | (f, k) :: rest, n =>
    if n < k then ([(f, n)], (f, k - n) :: rest)
    else
      let r := splitFormer rest (n - k)
      ((f, k) :: r.1, r.2)

/-- The feeder's target is a rewritten one that still waits (R197). -/
def State.feederHeld (s : State) (x : Site) (f : Feeder) : Bool :=
  match f with
  | .slot i second => (s.slot (x.at_ i)).held second
  | _ => false

/-- The credits of n entries popped from a port return (R24, R29): those of a former feeder to it, and all of them to the
feeder the port has now, once that has counted them (R197). -/
def State.payBack (s : State) (x : Site) (q : Port) (n : Nat) : State :=
  let s := (splitFormer q.former n).1.foldl (fun s p => s.returnCredits x p.1 p.2) s
  if s.feederHeld x q.feeder then s else s.returnCredits x q.feeder n

/-- A head's port a takes carries from the delay line in front of it while it has room (R83). -/
def State.refill (s : State) (x : Site) : State :=
  match s.head x with
  | none => s
  | some h =>
    let n := min h.delay.length (8 - (s.slot x).a.q.length)
    if h.slot != x.slot || n == 0 then s
    else
      (s.onSlot x fun u => { u with a := { u.a with q := u.a.q ++ h.delay.take n } }).onHead x fun h =>
        { h with delay := h.delay.drop n, dlhead := if h.cap == 0 then 0 else (h.dlhead + n) % h.cap }

/-- The beat of its block that the oldest entry of a port will be once the entries `q` are gone (R35). -/
def beatAfter (burst beat : Nat) (q : List Entry) : Nat :=
  q.foldl (fun b e => if e.tok.eos then 0 else (b + 1) % burst) beat

/-- Pops n entries of a port (R24, R29). -/
def State.pop (s : State) (x : Site) (p : PortName) (n : Nat) : State :=
  let q := (s.slot x).port p
  let k := min n q.q.length
  ((s.onSlot x fun u => u.onPort p fun q => { q with
    q := q.q.drop n, popped := q.popped + k, beat := beatAfter q.burst q.beat (q.q.take k), former := (splitFormer q.former k).2 }).payBack x q k).refill x

/-- The entries of a port up to and including its first end-of-stream (R31). -/
def throughEos (q : List Entry) : Nat :=
  match q.findIdx? fun e => e.tok.eos with
  | some i => i + 1
  | none => 0

end Sys2Proof.Machine
end

