-- ==== Sys2Proof/Machine/BlockCheck.lean ====
section
/-! DEFINITION. The checks of a block that need more than one word: its header (R58, R59), the place of a word (R17, R20, R74,
R210, R257), its targets and producers (R28, R36, R67), bursts (R35, R56), counters and presets (R39, R55, R76), the rotation
(R61, R82, R97, R98, R101, R111, R120, R122, R173, R246) and the sinks (R62). -/

namespace Sys2Proof.Machine

/-! ## Headers (R58, R59) -/

/-- A field of a header. -/
def hdrField (h : BitVec 128) (lo n : Nat) : Nat := (h.extractLsb' lo n).toNat

/-- KIND. -/
def hdrKind (h : BitVec 128) : Nat := hdrField h 124 4
/-- COUNT. -/
def hdrCount (h : BitVec 128) : Nat := hdrField h 117 7
/-- W as a width. -/
def hdrW (h : BitVec 128) : Nat := hdrField h 115 2 + 1
/-- H as a height. -/
def hdrH (h : BitVec 128) : Nat := hdrField h 113 2 + 1
/-- ROT. -/
def hdrRot (h : BitVec 128) : Bool := h.getLsbD 112
/-- P: the period less one. -/
def hdrP (h : BitVec 128) : Nat := hdrField h 104 8
/-- SINKS. -/
def hdrSinks (h : BitVec 128) : Nat := hdrField h 80 8
/-- MODE. -/
def hdrMode (h : BitVec 128) : Nat := hdrField h 76 4
/-- PRIO. -/
def hdrPrio (h : BitVec 128) : Nat := hdrField h 72 4
/-- NBW. -/
def hdrNbw (h : BitVec 128) : Nat := hdrField h 64 8
/-- SUCC0..3 as signed offsets in units of 64 bytes (R57). -/
def hdrSucc (h : BitVec 128) (i : Nat) : Int := (h.extractLsb' (16 * i) 16).toInt

/-- The checks a header fails by itself, one REASON each (R58, R59). -/
def headerReasons (h : BitVec 128) : List Reason :=
  let fld (bad : Bool) : List Reason := if bad then [0x11] else []
  let ctl := hdrKind h == 2
  (if hdrKind h == 1 || ctl then [] else [0x10]) ++
    fld (1 < hdrMode h) ++ fld (3 < hdrPrio h) ++ fld (64 < hdrNbw h) ++ fld (!hdrRot h && hdrP h != 0) ++
    (if ctl then fld (hdrField h 115 2 != 0) ++ fld (hdrField h 113 2 != 0) ++ fld (hdrRot h) ++
      fld (hdrRot h && hdrP h != 0) ++ fld (hdrField h 96 8 != 0) ++ fld (hdrField h 88 8 != 0) ++ fld (hdrSinks h != 0) ++
      fld (hdrMode h == 1) ++ fld (hdrNbw h != 0 && hdrNbw h ≤ 64)
    else [])

/-! ## Words -/

/-- The opcode of a word. -/
def opOf (w : Word64) : Nat := (w.extractLsb' 56 8).toNat

/-- How many port fields the opcode's format has (R68, R73). -/
def opPorts (op : Nat) : Nat :=
  if op == 0x19 || op == 0xC9 then 0
  else if op == 0x14 || op == 0x57 then 1
  else if (0x80 ≤ op && op ≤ 0xA4) || (0xB0 ≤ op && op ≤ 0xB6) || (0xBB ≤ op && op ≤ 0xBE) || op == 0x60 || op == 0x62 ||
    (0x67 ≤ op && op ≤ 0x6A) then 2
  else 3

/-- The control of a port of a word (R68). -/
def wordPort (w : Word64) : PortName → PortCtl
  | .a => if 1 ≤ opPorts (opOf w) then portOf w 22 else ⟨0, 0⟩
  | .b => if 2 ≤ opPorts (opOf w) then portOf w 16 else ⟨0, 0⟩
  | .c => if 3 ≤ opPorts (opOf w) then portOf w 10 else ⟨0, 0⟩

/-- The valid targets of a word that name a slot. -/
def slotTargets (w : Word64) : List Target :=
  if w == 0 then [] else [targetOf w 38, targetOf w 28].filter fun t => t.v && !t.isLink

/-- The out-links a word targets. -/
def linkTargets (w : Word64) : List Nat :=
  if w == 0 then []
  else ([targetOf w 38, targetOf w 28].filter fun t => t.v && t.isLink && t.slot.toNat < 8).map fun t => t.slot.toNat

/-- The place an opcode is legal in, by the position of its slot (R17, R74). -/
def placeOk (ctl : Bool) (op j : Nat) : Bool :=
  if 0xC0 ≤ op then ctl
  else if ctl then false
  else if op < 0x30 || (0x40 ≤ op && op < 0x60) then j < 6
  else if op < 0x40 || op == 0xB7 then j == 5
  else if op < 0x71 || op == 0xBE then j == 6
  else if op < 0x80 || (0xB8 ≤ op && op ≤ 0xBA) then j < 6
  else j == 7

/-- An island command's port is reached from its element (R74, R210, R257). -/
def islandOk (w : Word64) (ex ey : Nat) : Bool :=
  let isl := (w.extractLsb' 8 8).toNat
  let streamer := opOf w == 0xA3 || opOf w == 0xA4
  if streamer then ex == 7 && isl == 0x10 + ey else ex == 0 && isl == ey

/-- The first preset word and the counters that a word claims: first counter and levels (R39, R55, R181, R247). -/
def wordClaims (w : Word64) : Option (Nat × Nat × Nat) :=
  let win : Nat × Nat × Nat := ((w.extractLsb' 6 6).toNat, (w.extractLsb' 2 2).toNat, (w.extractLsb' 4 2).toNat + 1)
  match decode w with
  | .instr (.lctr f) => some ((f.params.extractLsb' 10 6).toNat, 0, (f.params.extractLsb' 8 2).toNat + 1)
  | .instr (.ld f) => if modLow f.mod == 3 then some win else none
  | .instr (.st f) => if modLow f.mod == 3 then some win else none
  | _ => none

/-- The port whose need and pop are the burst that feeds it: a store's data port (R246), DQT's port a (R158). -/
def burstPort (w : Word64) : Option PortName :=
  if [0x81, 0x83, 0x85, 0x88].contains (opOf w) then some .b else if opOf w == 0x42 then some .a else none

/-- The port through which a word reads a scaled operand (R35). -/
def scaledPort (w : Word64) : Option PortName :=
  if !tagScaled (w.extractLsb' 52 4) then none
  else if [0x18, 0x42, 0x58].contains (opOf w) then some .a
  else none

/-- A word that is legal only in a block with a rotation (R98, R101, R111, R246). -/
def needsRot (w : Word64) : Bool :=
  (0x71 ≤ opOf w && opOf w ≤ 0x7A) || ([0x80, 0x81, 0x83].contains (opOf w) && (w.extractLsb' 48 4) == 2)

/-- A memory operator that writes, RPOP and an island command that writes scratch among them (R122, R254; log 114). -/
def isWriter (w : Word64) : Bool :=
  [0x81, 0x83, 0x85, 0x86, 0x88, 0x89, 0xA0, 0xA2, 0xA3, 0xA4, 0xB6, 0xBB].contains (opOf w)

/-- A STEER whose exit flag is set (R120, R173). -/
def isExitSteer (w : Word64) : Bool := opOf w == 0x60 && w.getLsbD 0

/-- An RHEAD of the lookahead form. -/
def isLaHead (w : Word64) : Bool := opOf w == 0x70 && w.getLsbD 9

/-- A COUNT whose sink flag is set (R62). -/
def isSink (w : Word64) : Bool := opOf w == 0x67 && w.getLsbD 15

/-! ## The block -/

/-- What the checks of a block read: its header, origin, words, burst entries, the burst of the channel bound to an
out-link, the in-links that feed it, its preset words, the drain target of its rotation, and the configuration's reins. -/
structure BlockCtx where
  hdr : BitVec 128
  ex0 : Nat
  ey0 : Nat
  words : List Word64
  bursts : List (BitVec 16)
  outBurst : List (Nat × Nat)
  inLinks : List (Nat × Fin 128 × PortName × Nat)
  presets : List Word64
  drain : Option Target
  nrein : Nat

/-- The word of a slot. -/
def BlockCtx.word (b : BlockCtx) (i : Fin 128) : Word64 := b.words.getD i.val 0

/-- Control blocks have no regions. -/
def BlockCtx.ctl (b : BlockCtx) : Bool := hdrKind b.hdr == 2

/-- The slot lies on an element of the shape (R20). -/
def BlockCtx.has (b : BlockCtx) (i : Fin 128) : Bool :=
  b.ctl || (i.val / 8 % 4 < hdrW b.hdr && i.val / 8 / 4 < hdrH b.hdr)

/-- The slots that hold an instruction on an element of the shape. -/
def BlockCtx.live (b : BlockCtx) : List (Fin 128) := (List.finRange 128).filter fun i => b.has i && b.word i != 0

/-- The slot of the block's first RHEAD. -/
def BlockCtx.head (b : BlockCtx) : Option (Fin 128) := b.live.find? fun i => opOf (b.word i) == 0x70

/-- The burst of a producer (R56). -/
def BlockCtx.burst (b : BlockCtx) (i : Fin 128) : Nat :=
  match b.bursts.find? fun e => (e.extractLsb' 14 2 == 1 || e.extractLsb' 14 2 == 2) && (e.extractLsb' 0 7).toNat == i.val with
  | some e => if e.extractLsb' 14 2 == 1 then 2 else 4
  | none => 1

/-- The valid drain target, with the head's slot (R86). -/
def BlockCtx.drainTarget (b : BlockCtx) : Option (Fin 128 × Target) :=
  match b.head, b.drain with
  | some i, some t => if t.v then some (i, t) else none
  | _, _ => none

/-- The out-links that the slot's head drains to (R36, R86). -/
def BlockCtx.drainLinks (b : BlockCtx) (i : Fin 128) : List Nat :=
  match b.drainTarget with
  | some (h, t) => if h == i && t.isLink && t.slot.toNat < 8 then [t.slot.toNat] else []
  | none => []

/-- The drain target of the slot's head breaks R66: bits without V, or a reserved link code. -/
def BlockCtx.drainReason (b : BlockCtx) (i : Fin 128) : Option Reason :=
  if b.head != some i then none
  else match b.drain with
    | some t => firstBad [need (t.v || t.blank) 0x07, need (!(t.v && t.isLink) || t.slot ≤ 8) 0x03]
    | none => none

/-- The out-links a slot's producers name. -/
def BlockCtx.outLinks (b : BlockCtx) (i : Fin 128) : List Nat := linkTargets (b.word i) ++ b.drainLinks i

/-- The slots that hold RHEAD, ascending, those of absent elements among them (R61). -/
def BlockCtx.rheads (b : BlockCtx) : List (Fin 128) := (List.finRange 128).filter fun i => opOf (b.word i) == 0x70

/-- A slot's RHEAD is the one that R61 names: the second of several, the only one when its period is not the header's, or
the first of a block without a rotation. -/
def BlockCtx.rheadBad (b : BlockCtx) (i : Fin 128) : Bool :=
  match hdrRot b.hdr, b.rheads with
  | true, [h] => h == i && ((b.word h).extractLsb' 0 8).toNat != hdrP b.hdr
  | true, _ :: h :: _ => h == i
  | false, h :: _ => h == i
  | _, [] => false

/-- The producers of the block in ascending slots: slot and target; the drain target counts as the head's (R28). -/
def BlockCtx.producers (b : BlockCtx) : List (Fin 128 × Target) :=
  b.live.flatMap fun i => (slotTargets (b.word i)).map (fun t => (i, t)) ++
    match b.drainTarget with
    | some (h, t) => if h == i && !t.isLink then [(h, t)] else []
    | none => []

/-- The in-links that feed a port: those the header enables and whose port is used (R36, R37). -/
def BlockCtx.feeds (b : BlockCtx) : List (Nat × Fin 128 × PortName × Nat) :=
  b.inLinks.filter fun l => (b.hdr.extractLsb' 96 8).getLsbD l.1 && b.has l.2.1 && (wordPort (b.word l.2.1) l.2.2.1).used

/-- What feeds a port, and with which burst (R28, R35). -/
def BlockCtx.feeder (b : BlockCtx) (i : Fin 128) (p : PortName) : Feeder × Nat :=
  match b.producers.find? fun q => q.2.idx == i && portNamed q.2.port == p with
  | some (j, t) =>
    let w := b.word j
    if targetOf w 38 == t then (.slot j false, b.burst j)
    else if targetOf w 28 == t then (.slot j true, b.burst j)
    else (.drain j, b.burst j)
  | none => match b.feeds.find? fun l => l.2.1 == i && l.2.2.1 == p with
    | some l => (.link (BitVec.ofNat 3 l.1), l.2.2.2)
    | none => (.none, 1)

/-- The slots a slot's targets name. -/
def BlockCtx.succs (b : BlockCtx) (i : Fin 128) : List (Fin 128) := (slotTargets (b.word i)).map Target.idx

/-- The slots reached from a list, not passing through those that `stop`. -/
def BlockCtx.reach (b : BlockCtx) (stop : Fin 128 → Bool) : Nat → List (Fin 128) → List (Fin 128)
  | 0, seen => seen
  | fuel + 1, seen =>
    let fresh := (((seen.filter fun i => !stop i).flatMap b.succs).filter fun i => !seen.contains i).eraseDups
    if fresh.isEmpty then seen else b.reach stop fuel (seen ++ fresh)

/-- The slots driven by a head: reached from its targets without passing through it again (R82). -/
def BlockCtx.driven (b : BlockCtx) : List (Fin 128) :=
  match b.head with
  | some h => ((b.reach (· == h) 128 (b.succs h).eraseDups)).filter (· != h)
  | none => []

/-- The slots reached from the head's T0 alone. -/
def BlockCtx.fromT0 (b : BlockCtx) (h : Fin 128) : List (Fin 128) :=
  let t := targetOf (b.word h) 38
  if t.v && !t.isLink then b.reach (· == h) 128 [t.idx] else []

/-- The slots of the loop path: reached from T0, and reaching the head's port a (R82). -/
def BlockCtx.loopPath (b : BlockCtx) (h : Fin 128) : List (Fin 128) :=
  (b.fromT0 h).filter fun i => i != h && (b.reach (· == h) 128 [i]).any fun j =>
    (slotTargets (b.word j)).any fun t => t.idx == h && t.port == 0

/-! ## The checks of one word (R76) -/

/-- Nothing, or the REASON when the condition fails. -/
def BlockCtx.targetsBad (b : BlockCtx) (i : Fin 128) : Option Reason :=
  let drain := match b.drainTarget with
    | some (h, t) => if h == i && !t.isLink then [t] else []
    | none => []
  firstBad [
    need ((slotTargets (b.word i) ++ drain).all fun t =>
      t.port != 3 && b.has t.idx && b.word t.idx != 0 && (wordPort (b.word t.idx) (portNamed t.port)).used) 0x07,
    need (b.ctl || (b.outLinks i).all fun l => (b.hdr.extractLsb' 88 8).getLsbD l) 0x09]

/-- R28: a target of this slot is also a target of a lower slot, or is fed by an in-link. -/
def BlockCtx.sharedBad (b : BlockCtx) (i : Fin 128) : Option Reason :=
  let mine := (b.producers.filter fun q => q.1 == i).map Prod.snd
  let same (t u : Target) : Bool := t.slot == u.slot && t.port == u.port
  need (b.ctl || (mine.all fun t =>
    (b.producers.all fun q => !(q.1 < i && same q.2 t)) && (mine.filter (same t)).length == 1 &&
      b.feeds.all fun l => !(l.2.1 == t.idx && l.2.2.1 == portNamed t.port))) 0x08

/-- R35, R158 and R246: needs and pops against the burst that feeds a port. -/
def BlockCtx.burstBad (b : BlockCtx) (i : Fin 128) : Option Reason :=
  let w := b.word i
  firstBad [
    need (match scaledPort w with
      | some p => (wordPort w p).needN % (b.feeder i p).2 == 0 && (wordPort w p).popN % (b.feeder i p).2 == 0
      | none => true) 0x0A,
    need (match burstPort w with
      | some p => (wordPort w p).exact (b.feeder i p).2
      | none => true) 0x04]

/-- R39, R55 and R76: counters claimed by a lower slot of the element, and the presets named. -/
def BlockCtx.countersBad (b : BlockCtx) (i : Fin 128) : Option Reason :=
  match wordClaims (b.word i) with
  | none => none
  | some (pre, first, levels) =>
    let taken := b.live.any fun j => j < i && j.val / 8 == i.val / 8 && match wordClaims (b.word j) with
      | some (_, f, n) => f < first + levels && first < f + n
      | none => false
    firstBad [need (!taken) 0x0B, need ((List.range levels).all fun k => match b.presets[pre + k]? with
      | some w => w.extractLsb' 48 16 == 0
      | none => false) 0x0C]

/-- R61, R97, R98, R101, R111, R120, R122, R173: what a word asks of the block's rotation. -/
def BlockCtx.rotationBad (b : BlockCtx) (i : Fin 128) : Option Reason :=
  let w := b.word i
  let rot := hdrRot b.hdr
  let head := b.head
  let headWord := (head.map b.word).getD 0
  let la := isLaHead headWord
  firstBad [
    need (rot || !needsRot w) 0x0D,
    need (!b.rheadBad i) 0x0D,
    need (opOf w != 0x71 || (targetOf w 38).idx == head.getD 0) 0x07,
    need (!isExitSteer w || la) 0x07,
    need (opOf w != 0x70 || match b.feeder i .a with
      | (.slot j _, _) => (b.fromT0 i).contains j
      | _ => true) 0x07,
    need (!isLaHead w || ((b.loopPath i).filter fun j => isExitSteer (b.word j)).length == 1) 0x07,
    need (!la || !isWriter w || match head with
      | some h => !(b.reach (fun j => j == h || isExitSteer (b.word j)) 128 (b.succs h).eraseDups).contains i
      | none => true) 0x07]

/-- The next word is one that REP may prefix (R195). -/
def BlockCtx.repBad (b : BlockCtx) (i : Fin 128) : Option Reason :=
  need (opOf (b.word i) != 0xD3 || (i.val < 127 && [0xCC, 0xCD, 0xD4, 0xD5].contains (opOf (b.words.getD (i.val + 1) 0)))) 0x05

/-- R56 and R35: the burst of a producer agrees with the channel of its out-link. -/
def BlockCtx.channelBad (b : BlockCtx) (i : Fin 128) : Option Reason :=
  need ((b.outLinks i).all fun l => match b.outBurst.find? fun p => p.1 == l with
    | some p => p.2 == b.burst i
    | none => true) 0x17

/-- The first check that the word of a slot fails (R76; the order among REASONs is log 11's). -/
def BlockCtx.wordReason (b : BlockCtx) (i : Fin 128) : Option Reason :=
  let w := b.word i
  if w == 0 then none
  else if !b.has i then some 0x06
  else
    let op := opOf w
    let place := need (placeOk b.ctl op (i.val % 8)) 0x05
    let e := (b.ex0 + i.val / 8 % 4, b.ey0 + i.val / 8 / 4)
    match decode w with
    | .reserved r => if r == 0x01 then some r else firstBad [place, some r]
    | _ => firstBad [place, need (op != 0xBE || (w.extractLsb' 0 5).toNat < b.nrein) 0x03,
        need (op / 16 != 10 || islandOk w e.1 e.2) 0x05, b.drainReason i, b.targetsBad i,
        if b.ctl then b.repBad i
        else firstBad [b.sharedBad i, b.burstBad i, b.countersBad i, b.rotationBad i, b.channelBad i]]

/-- A burst entry fails (R56): the slot it is charged to. -/
def BlockCtx.entryBad (b : BlockCtx) (k : Nat) (e : BitVec 16) : Option (Fin 128) :=
  let kind := e.extractLsb' 14 2
  let sl : Fin 128 := Fin.ofNat 128 (e.extractLsb' 0 7).toNat
  if kind == 0 then (if e == 0 then none else some 0)
  else
    let twice := (b.bursts.take k).any fun d => d.extractLsb' 14 2 != 0 && d.extractLsb' 0 7 == e.extractLsb' 0 7
    let w := b.word sl
    if kind == 3 || e.extractLsb' 7 7 != 0 || twice || w == 0 || !(targetOf w 38).v then some sl else none

/-- A failure: slot, word, whether it is the header's, REASON. -/
abbrev BadWord := Fin 128 × Word64 × Bool × Reason

/-- The failures of a fabric or control block (R76, R79): the header's first, then one for each failing slot, ascending.
Two in-links on one port are charged to SLOT 0 (R28).
A burst entry's failure carries the instruction word of the slot it names (log 105, DESIGN CHOICE: R79 asks for the first
failing word, which here is a burst word that holds four entries). -/
def BlockCtx.failures (b : BlockCtx) : List BadWord :=
  let hi : Word64 := b.hdr.extractLsb' 64 64
  let noHead := !b.ctl && hdrRot b.hdr && b.rheads.isEmpty
  let sinks := !b.ctl && ((List.finRange 128).filter fun i => isSink (b.word i)).length != hdrSinks b.hdr
  let entries := if b.ctl then [] else (b.bursts.zipIdx).filterMap fun e => b.entryBad e.2 e.1
  let links := (b.feeds.zipIdx).any fun l => (b.feeds.take l.2).any fun m => m.2.1 == l.1.2.1 && m.2.2.1 == l.1.2.2.1
  let none_ : List BadWord := []
  (if noHead then [(0, hi, true, 0x0D)] else none_) ++ (if sinks then [(0, hi, true, 0x0E)] else none_) ++
    (List.finRange 128).filterMap fun i =>
      if entries.contains i then some (i, b.word i, false, 0x17)
      else match b.wordReason i with
        | some r => some (i, b.word i, false, r)
        | none => if links && !b.ctl && i == 0 then some (0, b.word 0, false, 0x08) else none

/-- The element a failure blocks: that of its slot, or the origin's (R20, R62, R77). -/
def BlockCtx.blames (b : BlockCtx) (f : BadWord) : Nat := if f.2.2.1 || !b.has f.1 then 0 else f.1.val / 8

end Sys2Proof.Machine
end

