-- ==== Sys2Proof/Machine/Space.lean ====
section
/-! DEFINITION. The address spaces: granules and tiles (R236, R237), the physical map (R244), the ember store (R104) and
the rotation area of a head (R85). -/

namespace Sys2Proof.Machine

/-- The first byte of core n's SRAM window (R244). -/
def sramWindow (c : Fin 96) : Nat := 0x4000000000 + 0x1000000 * c.val

/-- The physical address of a tile's byte (R244). -/
def tileAddr (c : Fin 96) (tile off : Nat) : Nat := sramWindow c + 0x40000 * tile + off

/-- The physical address of an ember offset (R244). -/
def emberAddr (c : Fin 96) (off : Nat) : Nat := sramWindow c + 0x800000 + off

/-- A scratch granule reserved for long-channel buffers (R38). -/
def State.reserved (s : State) (c : Fin 96) (q : Nat) : Bool :=
  s.kiln.cfgs.any fun g => g.granules.any fun p => p.1 == c && p.2 == q

/-- A tile's scratch bytes: its scratch levels without the reserved ones (R38, R237). -/
def State.scratchBytes (s : State) (c : Fin 96) (tile : Nat) : Nat :=
  65536 * ((List.range 3).filter fun l => 32 * l + tile < (s.core c).poolS && !s.reserved c (32 * l + tile)).length

/-- The bytes of a core's ember store (R104, R237). -/
def State.emberBytes (s : State) (c : Fin 96) : Nat := 65536 * (s.core c).poolE

/-- What a physical address is (R244). -/
inductive Phys where
  | dram (column off : Nat)
  | scratch (core : Fin 96) (tile off : Nat)
  | ember (core : Fin 96) (off : Nat)
  | peer (window off : Nat)
  | unserved
  deriving DecidableEq, Repr

/-- The physical map, with the tile bytes that are not scratch and the ember bytes beyond the store unserved (R244). -/
def State.phys (s : State) (a : Nat) : Phys :=
  if a < 0x3000000000 then .dram (a / 0x80000000) (a % 0x80000000)
  else if h : 0x4000000000 ≤ a ∧ a < 0x4060000000 then
    let c : Fin 96 := ⟨(a - 0x4000000000) / 0x1000000, by omega⟩
    let w := (a - 0x4000000000) % 0x1000000
    if w < 0x800000 then
      if w % 0x40000 < s.scratchBytes c (w / 0x40000) then .scratch c (w / 0x40000) (w % 0x40000) else .unserved
    else if w - 0x800000 < s.emberBytes c then .ember c (w - 0x800000) else .unserved
  else if 0x800000000000 ≤ a ∧ a < 0x1000000000000 then
    .peer ((a - 0x800000000000) / 0x8000000000) (a % 0x8000000000)
  else .unserved

/-- The capacity of a head's delay line (R83). -/
def Head.capacity (pmax lnat : Nat) : Nat := if lnat == 0 then pmax else pmax - lnat

/-- The size of a rotation area (R85). -/
def rotationSize (pmax cap : Nat) : Nat := (128 + 16 * pmax + 68 * pmax + 68 * cap + 1023) / 1024 * 1024

/-- The rotation area of the head whose element is paired with a tile: its first offset and its size. -/
def State.rotationArea (s : State) (c : Fin 96) (tile : Fin 32) : Option (Nat × Nat) :=
  match (s.elem c tile).head with
  | some h =>
    let size := rotationSize h.pmax h.cap
    some (s.scratchBytes c tile.val - size, size)
  | none => none

/-- A write of n bytes at a tile offset touches the tile's rotation area (R85). -/
def State.hitsRotation (s : State) (c : Fin 96) (tile : Fin 32) (off n : Nat) : Bool :=
  match s.rotationArea c tile with
  | some (lo, size) => off < lo + size && lo < off + n
  | none => false

/-! ## The bytes of a rotation area, computed from the head (R85, R86, R88) -/

/-- STATE of a slot table entry as a number. -/
def SState.code : SState → Nat
  | .empty => 0
  | .live => 1
  | .held => 2
  | .drain => 3
  | .fault => 4
  | .banked => 5

/-- The state of a number; a number not written reads as EMPTY. -/
def SState.ofCode : Nat → SState
  | 1 => .live
  | 2 => .held
  | 3 => .drain
  | 4 => .fault
  | 5 => .banked
  | _ => .empty

/-- HSTATE as a number (R86). -/
def HState.code : HState → Nat
  | .idle => 0
  | .run => 1
  | .banking => 2
  | .banked => 3
  | .unbanking => 4
  | .rerotating => 5
  | .retiring => 6

/-- A slot table entry as 128 bits (R88). -/
def SEntry.bits (e : SEntry) : BitVec 128 :=
  e.key ++ e.admrot ++ e.passes ++ e.holds ++ e.fcause ++ e.ctag ++ BitVec.ofBool e.fh ++ BitVec.ofBool e.sv ++
    BitVec.ofBool e.em ++ BitVec.ofBool e.late ++ 0#13 ++ BitVec.ofNat 3 e.st.code

/-- A slot table entry from 128 bits (R88). -/
def SEntry.ofBits (b : BitVec 128) : SEntry :=
  ⟨b.extractLsb' 96 32, b.extractLsb' 64 32, b.extractLsb' 40 24, b.extractLsb' 32 8, b.extractLsb' 24 8,
    b.extractLsb' 20 4, b.getLsbD 19, b.getLsbD 18, b.getLsbD 17, b.getLsbD 16, SState.ofCode (b.extractLsb' 0 3).toNat⟩

/-- The all-zero entry: EMPTY (R88). -/
def SEntry.zero : SEntry := ⟨0, 0, 0, 0, 0, 0, false, false, false, false, .empty⟩

/-- The counters and the descriptor, bytes 0..127 of a rotation area (R86). -/
def Head.descriptor (h : Head) : List Byte :=
  natBytes 16 ((h.pmax - 1) * 2 ^ 120 + (h.pcur - 1) * 2 ^ 112 + h.pos * 2 ^ 104 + min h.lnat 255 * 2 ^ 96 +
      h.drain.bits.toNat * 2 ^ 86 + (if h.relight then 2 ^ 85 else 0) + h.hstate.code * 2 ^ 82) ++
    natBytes 4 h.rotnum.toNat ++ natBytes 4 h.kcount.toNat ++ natBytes 4 h.kbase.toNat ++ natBytes 4 h.ebase.toNat ++
    List.replicate 32 0 ++ natBytes 2 h.dlhead ++ natBytes 2 h.delay.length ++ List.replicate 44 0 ++
    natBytes 4 h.discards.toNat ++ natBytes 4 h.rejects.toNat ++ natBytes 4 h.lates.toNat ++
    natBytes 4 h.faults.toNat

/-- The carry in entry j of the delay line's circular buffer (R85). -/
def Head.delayEntry (h : Head) (j : Nat) : Option Token :=
  (h.delay[(j + h.cap - h.dlhead) % max h.cap 1]?).map Entry.tok

/-- The bytes of a rotation area in their order (R85): descriptor, slot table, shadow payloads from the next multiple of
64, shadow sidebands, delay line. -/
def Head.area (h : Head) : List Byte :=
  let table := h.table.flatMap fun e => natBytes 16 e.bits.toNat
  let pad : Nat := (128 + table.length + 63) / 64 * 64 - (128 + table.length)
  h.descriptor ++ table ++ List.replicate pad (0 : Byte) ++ h.shadow.flatMap Token.bytes ++
    h.shadow.flatMap (fun t => natBytes 4 t.sideWord.toNat) ++
    (List.range h.cap).flatMap fun j => match h.delayEntry j with
      | some t => t.bytes ++ natBytes 4 t.sideWord.toNat
      | none => List.replicate 68 (0 : Byte)

/-- A byte of memory as a load reads it: the bytes of a rotation area come from its head (R85). -/
def State.readByte (s : State) (a : Nat) : Byte :=
  match s.phys a with
  | .scratch c tile off =>
    match s.rotationArea c (Fin.ofNat 32 tile), (s.elem c (Fin.ofNat 32 tile)).head with
    | some (lo, size), some h => if lo ≤ off && off < lo + size then h.area.getD (off - lo) 0 else s.mem.byte a
    | _, _ => s.mem.byte a
  | _ => s.mem.byte a

/-- n bytes of memory as loads read them. -/
def State.readBytes (s : State) (a n : Nat) : List Byte := (List.range n).map fun i => s.readByte (a + i)

/-- Changes the memory. -/
def State.onMem (s : State) (f : Memory → Memory) : State := { s with mem := f s.mem }

/-- A record of the ember store holds n bytes at an offset (R104). -/
def State.emberHas (s : State) (c : Fin 96) (off n : Nat) : Bool := off % 128 == 0 && off + n ≤ s.emberBytes c

/-- Writes bytes into the ember store. -/
def State.emberWrite (s : State) (c : Fin 96) (off : Nat) (bs : List Byte) : State :=
  s.onMem fun m => m.store (emberAddr c off) bs

/-- Reads bytes from the ember store. -/
def State.emberRead (s : State) (c : Fin 96) (off n : Nat) : List Byte := s.mem.bytes (emberAddr c off) n

end Sys2Proof.Machine
end

