-- ==== Sys2Proof/Machine/Snapshot.lean ====
section
/-! DEFINITION. Snapshots while data flows (R111..R115): which ports are marked, joins and their timers, the records of
an image, and its closing. -/

namespace Sys2Proof.Machine

/-- The targets of a slot's word, none for NOP. -/
def wordTargets (w : Word64) : List Target :=
  if w == 0 then [] else [targetOf w 38, targetOf w 28].filter fun t => t.v

/-- The slots a slot's targets name, within the block. -/
def State.succs (s : State) (x : Site) : List (Fin 128) :=
  ((wordTargets (s.slot x).word).filter fun t => !t.isLink).map Target.idx

/-- Slots reached from a list in at most `fuel` rounds of targets; `stop` is not passed through. -/
def State.reach (s : State) (x : Site) (stop : Fin 128 → Bool) : Nat → List (Fin 128) → List (Fin 128)
  | 0, seen => seen
  | fuel + 1, seen =>
    let next := (seen.filter fun i => !stop i).flatMap fun i => s.succs (x.at_ i)
    let fresh := (next.filter fun i => !seen.contains i).eraseDups
    if fresh.isEmpty then seen else s.reach x stop fuel (seen ++ fresh)

/-- Every slot reachable along targets from a slot's own targets. -/
def State.downstream (s : State) (x : Site) : List (Fin 128) := s.reach x (fun _ => false) 128 (s.succs x).eraseDups

/-- The slot is the block's rotation head. -/
def State.isHead (s : State) (x : Site) : Bool := s.headSlot x.core x.unit == some x.slot

/-- A port that a marker will reach, or that an in-link feeds (R112); the head ignores markers on port a. -/
def State.markedPort (s : State) (x : Site) (sn : Snapshot) (p : PortName) : Bool :=
  if p == .a && s.isHead x then false
  else match ((s.slot x).port p).feeder with
    | .slot i _ => i == sn.mark || sn.members.contains i
    | .link _ => true
    | _ => false

/-- The marked ports of a slot. -/
def State.markedPorts (s : State) (x : Site) (sn : Snapshot) : List PortName :=
  [PortName.a, .b, .c].filter (s.markedPort x sn)

/-- The marker of a port has arrived (R112). -/
def Port.arrived (p : Port) : Bool := !p.marks.isEmpty

/-- The marker of a port is reached: that many tokens have been popped (R112). -/
def Port.reached (p : Port) : Bool :=
  match p.marks with
  | m :: _ => m ≤ p.popped
  | [] => false

/-- A join holds a port whose marker has arrived: a firing that would pop past the marker waits (R113). -/
def State.snapHolds (s : State) (x : Site) (p : PortName) (n : Nat) : Bool :=
  match (s.slot x).snap with
  | .join _ => match ((s.slot x).port p).marks with
    | m :: _ => m < ((s.slot x).port p).popped + n
    | [] => false
  | _ => false

/-- The image offset of the next record after the slot records (R105, R115). -/
def Snapshot.nextOff (sn : Snapshot) : Nat := sn.off + 128 + 128 * (sn.pm1 + 1) + 128 * sn.recs

/-- The 128 bytes of a further record (R115). -/
def furtherRecord (payload side : List Byte) (kind slot port pos : Nat) : List Byte :=
  payload ++ side ++ [BitVec.ofNat 8 kind, BitVec.ofNat 8 slot, BitVec.ofNat 8 port, 0] ++ natBytes 4 pos ++
    List.replicate 52 0

/-- Writes a further record of the open snapshot; one beyond the capacity is dropped and sets OVER (R115). -/
def State.snapRecord (s : State) (c : Fin 96) (r : Fin 8) (bs : List Byte) : State :=
  match (s.region c r).snap with
  | none => s
  | some sn =>
    if sn.recs < sn.cap then
      let s := if s.emberHas c sn.nextOff 128 then s.emberWrite c sn.nextOff bs else s
      s.onRegion c r fun g => { g with snap := some { sn with recs := sn.recs + 1 } }
    else s.onRegion c r fun g => { g with snap := some { sn with overflow := true } }

/-- A port as a number (R115). -/
def portNum : PortName → Nat
  | .a => 0
  | .b => 1
  | .c => 2

/-- A record of a token at a port (R115). -/
def State.snapToken (s : State) (x : Site) (kind : Nat) (p : PortName) (pos : Nat) (t : Token) : State :=
  s.snapRecord x.core x.unit (furtherRecord t.bytes (natBytes 4 t.sideWord.toNat) kind x.slot.val (portNum p) pos)

/-- Records entries of a port, positions counted on from `pos`. -/
def State.snapEntries (s : State) (x : Site) (kind : Nat) (p : PortName) (pos : Nat) : List Entry → State
  | [] => s
  | e :: rest => (s.snapToken x kind p pos e.tok).snapEntries x kind p (pos + 1) rest

/-- The loop counters of an element as the payload of a KIND 2 record (R115). -/
def counterBytes (e : Element) : List Byte :=
  e.ctr.toList.flatMap fun k =>
    natBytes 2 k.limit.toNat ++ natBytes 2 k.idx.toNat ++ natBytes 4 k.stride.toNat ++ natBytes 4 k.acc.toNat ++
      List.replicate 4 0

/-- The tokens that running values hold as such (R159, R330). -/
def runTokens : Run → List Token
  | .block ins _ _ _ beats => ins ++ beats
  | .kapp data => data
  | _ => []

/-- Running values that are not tokens: their payload's layout is not the manual's to give, so it is free (log 12). -/
def State.snapRun (s : State) (x : Site) : State :=
  let u := s.slot x
  match u.run with
  | .idle => s
  | .block .. | .kapp _ => (runTokens u.run).foldl (fun s t =>
      s.snapRecord x.core x.unit (furtherRecord t.bytes (natBytes 4 t.sideWord.toNat) 5 x.slot.val 0xFF 0)) s
  | _ => (s.snapRecord x.core x.unit (furtherRecord (s.freeBytes 64) (List.replicate 4 0) 5 x.slot.val 0xFF 0)).tickBy 64

/-- A word that claims loop counters: LCTR, and LD or ST in the .W form (R181, R247). -/
def claimsCounters (w : Word64) : Bool :=
  match decode w with
  | .instr (.lctr _) => true
  | .instr (.ld f) => modLow f.mod == 3
  | .instr (.st f) => modLow f.mod == 3
  | _ => false

/-- A port read with pop 0: its needed entries are kept by peeking (R26, R113). -/
def keptEntries (w : Word64) (p : PortName) (q : Port) : List Entry :=
  let pc := match p with
    | .a => portOf w 22
    | .b => portOf w 16
    | .c => portOf w 10
  if pc.used && pc.popN == 0 then q.q.take pc.needN else []

/-- A slot records its inter-firing state (R113): counters, running values, entries kept by peeking. -/
def State.snapState (s : State) (x : Site) : State :=
  let u := s.slot x
  let s := if claimsCounters u.word then s.snapRecord x.core x.unit
      (furtherRecord (counterBytes (s.elem x.core (s.elemAt x))) (List.replicate 4 0) 2 x.slot.val 0xFF 0) else s
  let s := s.snapRun x
  [PortName.a, .b, .c].foldl (fun s p =>
    s.snapEntries x 4 p (u.port p).popped (keptEntries u.word p (u.port p))) s

/-- The tokens an out-link has sent when a marker that leaves now reaches it: those that have, and those on their way ahead of it
(R112). -/
def State.sentBy (s : State) (x : Site) (link : Nat) : Nat :=
  let g := s.region x.core x.unit
  g.outsent.toList.getD link 0 + (s.clk.pending.filter fun p => match p.2 with
    | .tokenArrival y t tok gen _ => y == x && t.isLink && t.slot.toNat == link && gen == g.gen && tok.parityOk
    | _ => false).length

/-- The marker goes to a valid target, over the reserved path; at an out-link it ends, and OUTCNT is taken (R112, R113). -/
def State.markTarget (s : State) (x : Site) (t : Target) (pos : Nat) : State :=
  if !t.v then s
  else if !t.isLink then
    s.later (pathD x.slot t.idx) (.markerArrival (x.at_ t.idx) (portNamed t.port) pos (s.region x.core x.unit).gen)
  else
    let n := s.sentBy x t.slot.toNat
    s.onRegion x.core x.unit fun g => { g with snap := g.snap.map fun sn => { sn with outcnt := sn.outcnt.set t.slot.toNat n } }

/-- The marker goes to both targets. -/
def State.sendMarkers (s : State) (x : Site) : State :=
  let u := s.slot x
  if u.word == 0 then s else (s.markTarget x (targetOf u.word 38) u.sent0).markTarget x (targetOf u.word 28) u.sent1

/-- A head takes its marker: the carries of the next PCUR positions are copied (R114), and the image has the ROTNUM of this point
(R105; log 117, DEDUCED).  A lookahead head has no slots to copy (R120). -/
def State.startCopies (s : State) (x : Site) : State :=
  match s.head x with
  | some h =>
    if !s.isHead x || (s.slot x).word.getLsbD 9 then s
    else (s.onHead x fun h => { h with copies := h.pcur }).onRegion x.core x.unit fun g => { g with
      snap := g.snap.map fun sn => { sn with rot := h.rotnum } }
  | none => s

/-- Everything is done: every member has forwarded or taken the marker with no late marker outstanding, and the head
has copied its records (R115). -/
def State.snapComplete (s : State) (c : Fin 96) (r : Fin 8) (sn : Snapshot) : Bool :=
  (sn.members.all fun i => match (s.slot (siteOf c r i)).snap with
    | .done => true
    | _ => false) &&
  (match s.headSlot c r with
    | some i => ((s.head (siteOf c r i)).map Head.copies).getD 0 == 0
    | none => true)

/-- The closing is started when everything is done. -/
def State.snapCheckClose (s : State) (c : Fin 96) (r : Fin 8) : State :=
  match (s.region c r).snap with
  | some sn => if s.snapComplete c r sn then s.soon (.snapshotClose c r) else s
  | none => s

/-- A slot's snapshot moves on after a firing, an arrival or a delivery (R113): it forwards when every marker is reached
and the results of earlier firings have left, and stops recording a late port when its marker is reached. -/
def State.snapProgress (s : State) (x : Site) : State :=
  match (s.region x.core x.unit).snap with
  | none => s
  | some sn =>
    let u := s.slot x
    match u.snap with
    | .done => s
    | .late ps =>
      let rest := ps.filter fun p => !(u.port p.1).reached
      let s := s.onSlot x fun u => { u with snap := if rest.isEmpty then .done else .late rest }
      if rest.isEmpty then s.snapCheckClose x.core x.unit else s
    | _ =>
      if x.slot == sn.mark || !sn.members.contains x.slot then s
      else if u.rob.isEmpty && (s.markedPorts x sn).all fun p => (u.port p).arrived && (u.port p).reached then
        ((((s.snapState x).sendMarkers x).startCopies x).onSlot x fun u => { u with snap := .done }).snapCheckClose
          x.core x.unit
      else s

/-- The tokens a late port pops are recorded until its marker is reached (R113). -/
def State.snapPopped (s : State) (x : Site) (p : PortName) (es : List Entry) : State :=
  match (s.slot x).snap with
  | .late ps => match ps.find? fun q => q.1 == p with
    | some (_, from_) =>
      let q := (s.slot x).port p
      let keep := (es.zipIdx).filter fun e => from_ ≤ q.popped + e.2 &&
        (match q.marks with
          | m :: _ => q.popped + e.2 < m
          | [] => true)
      keep.foldl (fun s e => s.snapToken x 3 p (q.popped + e.2) e.1.tok) s
    | none => s
  | _ => s

/-- Pops n entries of a port; those of a late port are recorded (R113). -/
def State.take (s : State) (x : Site) (p : PortName) (n : Nat) : State :=
  if n == 0 then s
  else if (s.region x.core x.unit).snap.isNone then s.pop x p n
  else (s.snapPopped x p (((s.slot x).port p).q.take n)).pop x p n

/-- A marker arrives at a port (R112): a slot with two or more marked ports starts its timer at the first (R113). -/
def State.markerArrives (s : State) (x : Site) (p : PortName) (pos gen : Nat) : State :=
  let g := s.region x.core x.unit
  match g.snap with
  | none => s
  | some sn =>
    if g.gen != gen then s
    else
      let s := s.onSlot x fun u => u.onPort p fun q => { q with marks := q.marks ++ [pos] }
      let s := if s.markedPort x sn p then
          match (s.slot x).snap with
          | .off =>
            if 2 ≤ (s.markedPorts x sn).length then
              let win := max 16 (s.core x.core).snapwin.toNat
              (s.onSlot x fun u => { u with snap := .join (s.clk.now + win) }).later win (.snapWindowExpiry x gen)
            else s
          | _ => s
        else s
      s.snapProgress x

/-- The ports of a slot that in-links feed count as marked at the snapshot's opening, behind every token the in-link has
delivered (R112). -/
def State.linksMarked (s : State) (x : Site) (gen : Nat) : State :=
  [PortName.a, .b, .c].foldl (fun s p =>
    let q := (s.slot x).port p
    match q.feeder with
    | .link _ => if s.isHead x && p == .a then s else s.markerArrives x p (q.popped + q.q.length) gen
    | _ => s) s

/-- A join's timer expires before every marker has arrived (R113): it records its state and its channels, forwards the marker
unaligned and resumes.  Where every marker has arrived it goes on holding. -/
def State.joinExpires (s : State) (x : Site) (gen : Nat) : State :=
  let g := s.region x.core x.unit
  match g.snap, (s.slot x).snap with
  | some sn, .join d =>
    if g.gen != gen || s.clk.now < d || (s.markedPorts x sn).all fun p => ((s.slot x).port p).arrived then s
    else
      let u := s.slot x
      let s := s.snapState x
      -- tokens still unconsumed before the marker of each held port, and those in the late ports
      let s := (s.markedPorts x sn).foldl (fun s p =>
        let q := u.port p
        match q.marks with
        | m :: _ => s.snapEntries x 3 p q.popped (q.q.take (m - q.popped))
        | [] => s.snapEntries x 3 p q.popped q.q) s
      let s := s.onRegion x.core x.unit fun g => { g with snap := g.snap.map fun n => { n with unaligned := true } }
      let lates := ((s.markedPorts x sn).filter fun p => !(u.port p).arrived).map fun p =>
        (p, (u.port p).popped + (u.port p).q.length)
      (((s.sendMarkers x).startCopies x).onSlot x fun u =>
        { u with snap := if lates.isEmpty then .done else .late lates }).snapProgress x
  | _, _ => s

/-- The header of a rotation image (R105). -/
def imageHeader (outcnt incnt : List Nat) (rot : BitVec 32) (xrecs mark pm1 : Nat) (ovr unaligned snap valid : Bool) :
    List Byte :=
  natBytes 5 (0x100 + (if ovr then 8 else 0) + (if unaligned then 4 else 0) + (if snap then 2 else 0) +
      (if valid then 1 else 0)) ++
    natBytes 1 pm1 ++ natBytes 2 mark ++ natBytes 4 xrecs ++ natBytes 4 rot.toNat ++
    (incnt ++ List.replicate (8 - incnt.length) 0).flatMap (natBytes 4) ++
    (outcnt ++ List.replicate (8 - outcnt.length) 0).flatMap (natBytes 4) ++ List.replicate 48 0

/-- The snapshot closes (R115): header last, then SNAPSHOT CLOSED with the ROTNUM of this point (R124; log 117, DEDUCED). -/
def State.closeSnapshot (s : State) (c : Fin 96) (r : Fin 8) : State :=
  let g := s.region c r
  match g.snap with
  | none => s
  | some sn =>
    if !s.snapComplete c r sn then s
    else
      let bs := imageHeader sn.outcnt sn.incnt sn.rot sn.recs sn.id.toNat sn.pm1 sn.overflow sn.unaligned true true
      let s := if s.emberHas c sn.off 128 then s.emberWrite c sn.off bs else s
      let s := (s.onRegion c r fun g => { g with snap := none })
      let s := g.slotIdx.foldl (fun s i => s.onSlot (siteOf c r i) fun u =>
        { u with
          snap := .off, a := { u.a with marks := [] }, b := { u.b with marks := [] }, c := { u.c with marks := [] } }) s
      match s.cfg g.handle with
      | none => s
      | some cfg =>
        let hs := (s.headSlot c r).getD 0
        let p := g.at_ hs
        let rot := ((s.regionHead c r).map Head.rotnum).getD 0
        s.post cfg (g.handle ++ 0#32 ++ rot ++ 0x26#8 ++ 0xFF#8 ++ 0#4 ++
          (if sn.unaligned then 1#4 else 0#4) ++ 0#8 ++ sn.id.setWidth 32 ++ placeBits c p.1 p.2 r hs.val) true

end Sys2Proof.Machine
end

