-- ==== Sys2Proof/Machine/Fire.lean ====
section
/-! DEFINITION. The firing rule (R24..R32, R45): how the ports of a slot stand, what holds a firing back, and the one
operation by which a firing pops, delivers, counts and reports its fault.  Every fabric instruction is written over
`State.attempt`; an instruction whose conditions do not hold leaves the state as it is and is looked at again in the
next cycle. -/

namespace Sys2Proof.Machine

/-- What a step of the machine answers. -/
abbrev Done := Host.Outcome State Fault Refusal

/-- The targets and port controls of a word. -/
structure Io where
  t0 : Target
  t1 : Target
  a : PortCtl
  b : PortCtl
  c : PortCtl
  deriving DecidableEq, Repr

/-- The control of an unused port. -/
def noPort : PortCtl := ⟨0, 0⟩

end Sys2Proof.Machine

namespace Sys2Proof

open Machine

/-- Targets and ports of FA. -/
def FA.io (f : FA) : Io := ⟨f.t0, f.t1, f.a, f.b, f.c⟩
/-- Targets and ports of FI. -/
def FI.io (f : FI) : Io := ⟨f.t0, f.t1, f.a, noPort, noPort⟩
/-- Targets of FK. -/
def FK.io (f : FK) : Io := ⟨f.t0, f.t1, noPort, noPort, noPort⟩
/-- Targets and ports of FM. -/
def FM.io (f : FM) : Io := ⟨f.t0, f.t1, f.a, f.b, noPort⟩
/-- Targets and ports of FO. -/
def FO.io (f : FO) : Io := ⟨f.t0, f.t1, f.a, f.b, noPort⟩
/-- Targets and ports of FT. -/
def FT.io (f : FT) : Io := ⟨f.t0, f.t1, f.a, f.b, noPort⟩

end Sys2Proof

namespace Sys2Proof.Machine

/-- The control of a port. -/
def Io.ctl (io : Io) : PortName → PortCtl
  | .a => io.a
  | .b => io.b
  | .c => io.c

/-- The three ports. -/
def ports : List PortName := [.a, .b, .c]

/-- The used ports. -/
def Io.used (io : Io) : List PortName := ports.filter fun p => (io.ctl p).used

/-- The used ports that pop. -/
def Io.popping (io : Io) : List PortName := io.used.filter fun p => (io.ctl p).popN != 0

/-- How a port stands: too few entries; its need of data; at end (R31). -/
inductive PortSt where
  | wait | data | fin
  deriving DecidableEq, Repr

/-- How a list of entries stands to a need. -/
def entriesSt (q : List Entry) (n : Nat) : PortSt :=
  if (q.take n).any (fun e => e.tok.eos) then .fin else if n ≤ q.length then .data else .wait

/-- What the ports of an instruction call for. -/
inductive Kind where
  /-- nothing yet -/
  | wait
  /-- the firing of R24 -/
  | fire
  /-- the end firing of R31 -/
  | fin
  /-- the stream-length fault of R32 -/
  | mismatch
  deriving DecidableEq, Repr

/-- The rule of R24, R27, R31 and R32 from how the used ports stand; `st` of a port and whether it pops. -/
def kindOf (fired : Bool) (us : List (PortSt × Bool)) : Kind :=
  if us.isEmpty then (if fired then .wait else .fire)
  else
    let pops := (us.filter Prod.snd).map Prod.fst
    if us.all fun u => u.1 == .data then .fire
    else if !pops.isEmpty && pops.all (· == .fin) then .fin
    else if pops.contains .fin && pops.contains .data then .mismatch
    else .wait

/-- How a port of a slot stands. -/
def State.portSt (s : State) (x : Site) (io : Io) (p : PortName) : PortSt :=
  entriesSt ((s.slot x).port p).q (io.ctl p).needN

/-- What a slot's ports call for. -/
def State.kind (s : State) (x : Site) (io : Io) : Kind :=
  kindOf (s.slot x).fired (io.used.map fun p => (s.portSt x io p, (io.ctl p).popN != 0))

/-- The entries a firing reads of a port, oldest first (R24). -/
def State.ents (s : State) (x : Site) (io : Io) (p : PortName) : List Token :=
  (((s.slot x).port p).q.take (io.ctl p).needN).map Entry.tok

/-- The oldest token of a port. -/
def State.front (s : State) (x : Site) (p : PortName) : Option Token := (((s.slot x).port p).q.head?).map Entry.tok

/-- The burst of the edge that feeds a port, and the beat of its block that the oldest entry is (R35). -/
def State.edgeAt (s : State) (x : Site) (p : PortName) : Nat × Nat := (((s.slot x).port p).burst, ((s.slot x).port p).beat)

/-- The burst of the edge that feeds a port (R35). -/
def State.burstAt (s : State) (x : Site) (p : PortName) : Nat := ((s.slot x).port p).burst

/-! ## What holds a slot back -/

/-- The slot lies in a MAPPED region, on an element that is not blocked, in a core that is not halted, and waits for no
credits of a rewritten target (R23, R77, R197, R307). -/
def State.live (s : State) (x : Site) : Bool :=
  let g := s.region x.core x.unit
  g.st == .mapped && g.hasK (x.slot.val / 8) && !(s.elem x.core (s.elemAt x)).blocked && !(s.core x.core).hfab &&
    !(s.slot x).held false && !(s.slot x).held true

/-- A source that a rein may govern (R341): RHEAD, LCTR, or an instruction with no used port. -/
def isSource (w : Word64) : Bool :=
  match decode w with
  | .instr (.rhead _) => true
  | .instr (.rheadLa _) => true
  | .instr (.lctr _) => true
  | .instr (.const _) => true
  | .instr (.lane f) => !f.a.used
  | .instr (.coord f) => !f.a.used
  | _ => false

/-- The source a rein names: entry block and slot (R343). -/
def sourceId (entry : Nat) (i : Fin 128) : BitVec 13 := BitVec.ofNat 13 (entry * 128 + i.val)

/-- The weights in force of the reins that govern a slot (R341, R344). -/
def State.weights (s : State) (x : Site) : List Nat :=
  match s.cfgOf x with
  | none => []
  | some g =>
    if g.reins.isEmpty || !isSource (s.slot x).word then []
    else
      let me := sourceId (s.region x.core x.unit).entry x.slot
      g.reins.flatMap fun r => (if r.psrc == me then [r.pEff] else []) ++ (if r.csrc == me then [r.cEff] else [])

/-- The rein window has room for one more firing (R344). -/
def State.reinOk (s : State) (x : Site) : Bool := (s.weights x).all fun w => (s.slot x).winUsed < w

/-- What one firing does: entries popped, tokens delivered (`then_` follows `out`, R180),
the new running values, the beats of a burst in
progress, the cycle of the next emission, a place taken in the reorder buffer, its fault, and where it comes from when that is not what it
pops. -/
structure Shot where
  pa : Nat := 0
  pb : Nat := 0
  pc : Nat := 0
  out : Emit := Emit.none
  then_ : Emit := Emit.none
  run : Run
  beat : Nat := 0
  ready : Nat := 0
  rob : Option Rob := none
  cause : Option Cause := none
  fin : Bool := false
  origin : Option Origin := none

/-- The pop of a port. -/
def Shot.pop (sh : Shot) : PortName → Nat
  | .a => sh.pa
  | .b => sh.pb
  | .c => sh.pc

/-- Everything that can hold a firing back: the slot is live, its targets have n0 and n1 free entries, an open snapshot
does not hold a port it pops, and its rein has weight left (R24, R45, R113, R344). -/
def State.canShoot (s : State) (x : Site) (io : Io) (n0 n1 : Nat) (sh : Shot) : Bool :=
  s.live x && s.room x false io.t0 n0 && s.room x true io.t1 n1 &&
    (ports.all fun p => !s.snapHolds x p (sh.pop p)) && (sh.fin || s.reinOk x)

/-- The firing itself: pops, running values and counts, deliveries after L + D, and the fault (R24, R29, R84, R139). -/
def State.shoot (s : State) (x : Site) (io : Io) (lat : Nat) (sh : Shot) : State :=
  let o := sh.origin.getD (s.originOf x sh.pop)
  let n := s.firingCount x o.pos
  let here := s.epochOf x o.pos
  let out : Origin := ⟨o.pos, if sh.cause.isSome then some x.slot else o.culprit⟩
  let s := ((s.take x .a sh.pa).take x .b sh.pb).take x .c sh.pc
  let stamp : Stamp := ⟨(s.slot x).count, out⟩
  let s := s.onSlot x fun u => { u with
    fired := true, run := sh.run, beat := sh.beat, ready := sh.ready, rob := u.rob ++ sh.rob.toList
    count := if sh.fin then u.count else u.count + 1
    fires := if sh.fin then 0 else n + 1, epoch := here, last := o.pos
    flight := u.flight ++ sh.rob.toList.map fun r => (r.id, out)
    winUsed := if sh.fin then u.winUsed else u.winUsed + 1 }
  let s := (s.sendBoth x io.t0 io.t1 lat stamp sh.out).sendBoth x io.t0 io.t1 lat stamp sh.then_
  let s := match sh.cause with
    | some c => s.firingFault x c
    | none => s
  s.snapProgress x

/-- A firing when nothing holds it back. -/
def State.attempt (s : State) (x : Site) (io : Io) (lat n0 n1 : Nat) (sh : Shot) : State :=
  if s.canShoot x io n0 n1 sh then s.shoot x io lat sh else s

/-- A firing that takes a place in the reorder buffer, numbered by the counter of numbers. -/
def State.attemptId (s : State) (x : Site) (io : Io) (n0 n1 : Nat) (sh : Shot) : State :=
  if s.canShoot x io n0 n1 sh then (s.shoot x io 0 sh).tickId else s

/-- Through the first end-of-stream of a port that pops; nothing of any other (R31). -/
def State.endPop (s : State) (x : Site) (io : Io) (p : PortName) : Nat :=
  if (io.ctl p).popN == 0 then 0 else throughEos ((s.slot x).port p).q

/-- The end firing of R31. -/
def State.endShot (s : State) (x : Site) (io : Io) : Shot :=
  { pa := s.endPop x io .a, pb := s.endPop x io .b, pc := s.endPop x io .c, out := .both eosToken, run := .idle,
    fin := true }

/-- The pop of a port in a firing that R32 makes faulty: only ports that hold data pop. -/
def State.dataPop (s : State) (x : Site) (io : Io) (p : PortName) : Nat :=
  if s.portSt x io p == .data then (io.ctl p).popN else 0

/-- The payload and TAG of a void result: those of port a's oldest entry, else zero and the result tag (R129). -/
def voidFrom (a : Option Token) (tag : BitVec 4) (c : Cause) : Token :=
  match a with
  | some t => if t.eos then voidToken zeroLanes tag c else voidToken t.lanes t.tag c
  | none => voidToken zeroLanes tag c

/-- The oldest entry of port a when the port is used. -/
def State.base (s : State) (x : Site) (io : Io) : Option Token := if io.a.used then s.front x .a else none

/-- The faulting firing of R32 with its void results (R139). -/
def State.mismatchShot (s : State) (x : Site) (io : Io) (tag : BitVec 4) : Shot :=
  { pa := s.dataPop x io .a, pb := s.dataPop x io .b, pc := s.dataPop x io .c
    out := .both (voidFrom (s.base x io) tag causeLength), run := (s.slot x).run, beat := (s.slot x).beat
    cause := some causeLength }

/-- The plain firing rule: end firings and mismatches as R31 and R32 say, `sh` for the firing of R24. -/
def State.plain (s : State) (x : Site) (io : Io) (lat : Nat) (tag : BitVec 4) (sh : Shot) : State :=
  match s.kind x io with
  | .wait => s
  | .fin => s.attempt x io lat 1 1 (s.endShot x io)
  | .mismatch => s.attempt x io lat 1 1 (s.mismatchShot x io tag)
  | .fire => s.attempt x io lat 1 1 sh

/-! ## Lane operations: one token for one firing (R26, R128, R129, R139) -/

/-- The cause of the first void entry read. -/
def firstVoid (ts : List Token) : Option Cause := (ts.find? Token.void).map Token.cause

/-- The token a computing firing delivers and its fault: void entries first, then poison, then the operation. -/
def laneOut (base : Option Token) (tag : BitVec 4) (reads : List Token) (passPoison : Bool) (r : Result) :
    Token × Option Cause :=
  match firstVoid reads with
  | some c => (voidFrom base tag c, none)
  | none =>
    if !passPoison && reads.any Token.poisoned then (poisonToken, none)
    else match r with
      | .ok t => (t, none)
      | .error c => (voidFrom base tag c, some c)

/-- The firing of a lane operation that has computed its token. -/
def State.laneShot (s : State) (x : Site) (io : Io) (r : Token × Option Cause) : Shot :=
  { pa := io.a.popN, pb := io.b.popN, pc := io.c.popN, out := .both r.1, run := (s.slot x).run, cause := r.2 }

/-- A lane operation that reads the oldest entry of each used port (R26). -/
def State.laneOp (s : State) (io : Io) (lat : Nat) (tag : BitVec 4) (passPoison : Bool)
    (op : List Token → List Token → List Token → Result) : State :=
  let x := s.clk.focus
  let as := s.ents x io .a
  let bs := s.ents x io .b
  let cs := s.ents x io .c
  s.plain x io lat tag (s.laneShot x io
    (laneOut (s.base x io) tag (as.take 1 ++ bs.take 1 ++ cs.take 1) passPoison (op as bs cs)))

/-- A lane operation that reads every entry of ports a and b, and the oldest of c (R160, R164). -/
def State.wideOp (s : State) (io : Io) (lat : Nat) (tag : BitVec 4)
    (op : List Token → List Token → List Token → Result) : State :=
  let x := s.clk.focus
  let as := s.ents x io .a
  let bs := s.ents x io .b
  let cs := s.ents x io .c
  s.plain x io lat tag (s.laneShot x io (laneOut (s.base x io) tag (as ++ bs ++ cs.take 1) false (op as bs cs)))

end Sys2Proof.Machine
end

