-- ==== Sys2Proof/Machine/Access.lean ====
section
/-! DEFINITION. Memory accesses from issue to result (R239..R245, R263..R277, R305): who owns a result, translation and its
refusals, parking, the order in which accesses are performed, region tags, and the delivery of results. -/

namespace Sys2Proof.Machine

/-! ## The owner of an access (R117, R305) -/

/-- A site's region still holds an entry block of a configuration. -/
def State.holds (s : State) (x : Site) (h : Word64) (entry : Nat) : Bool :=
  let g := s.region x.core x.unit
  g.handle == h && g.entry == entry && g.st != .free && g.st != .loading

/-- The placement of an entry block. -/
def State.place (s : State) (h : Word64) (entry : Nat) : Option Place := (s.cfg h).bind fun g => g.places[entry]?

/-- Changes the placement of an entry block. -/
def State.onPlace (s : State) (h : Word64) (entry : Nat) (f : Place → Place) : State :=
  s.onCfg h fun g => { g with places := g.places.modify entry f }

/-- Changes one slot of an element. -/
def Element.onSlot (e : Element) (j : Fin 8) (f : Slot → Slot) : Element := { e with slots := e.slots.set j (f e.slots[j]) }

/-- The element that holds an owner's element k (R117). -/
def State.tagged (s : State) (o : Owner) : Option (Fin 96 × Fin 32) :=
  (List.finRange 96).findSome? fun c => (List.finRange 32).findSome? fun e =>
    if (s.elem c e).owner == some o then some (c, e) else none

/-- The evicted state of a pre-empted owner's element k (R118). -/
def State.evictedElem (s : State) (h : Word64) (entry k : Nat) : Option Element :=
  (s.place h entry).bind fun p => (p.evicted.find? fun q => q.k == k).map Evicted.elem

/-- Changes a slot wherever its owner's state stands: in its region, in the elements a pre-empted region left, or in an
eviction record (R305). -/
def State.onOwned (s : State) (x : Site) (h : Word64) (entry : Nat) (f : Slot → Slot) : State :=
  let k := x.slot.val / 8
  if s.holds x h entry then s.onSlot x f
  else if (s.evictedElem h entry k).isSome then
    s.onPlace h entry fun p => { p with
      evicted := p.evicted.map fun q => if q.k == k then { q with elem := q.elem.onSlot (slotPos x.slot) f } else q }
  else if ((s.place h entry).bind Place.kept).isNone then s
  else match s.tagged ⟨h, entry, k⟩ with
    | some (c, e) => s.onElem c e fun e => e.onSlot (slotPos x.slot) f
    | none => s

/-- A slot wherever its owner's state stands. -/
def State.ownedSlot (s : State) (x : Site) (h : Word64) (entry : Nat) : Option Slot :=
  let k := x.slot.val / 8
  if s.holds x h entry then some (s.slot x)
  else match s.evictedElem h entry k with
    | some e => some e.slots[slotPos x.slot]
    | none => (s.tagged ⟨h, entry, k⟩).map fun q => (s.elem q.1 q.2).slots[slotPos x.slot]

/-- Changes a region wherever its owner's state stands. -/
def State.onOwnedRegion (s : State) (x : Site) (h : Word64) (entry : Nat) (f : Region → Region) : State :=
  if s.holds x h entry then s.onRegion x.core x.unit f
  else s.onPlace h entry fun p => { p with kept := p.kept.map f }

/-- The region of an owner. -/
def State.ownedRegion (s : State) (x : Site) (h : Word64) (entry : Nat) : Region :=
  if s.holds x h entry then s.region x.core x.unit else ((s.place h entry).bind Place.kept).getD .blank

/-- A region fault of an owner's access, in its region or in the region that a pre-empted owner keeps (R289, R306). -/
def State.ownerFault (s : State) (x : Site) (h : Word64) (entry : Nat) (cause : BitVec 8) (addr : Word64)
    (collect : Bool) : State :=
  s.onOwnedRegion x h entry fun g => g.raise ⟨x.slot, cause, addr, collect⟩

/-- The faults that a pre-empted entry block's late results raised in the cycle that has ended mark its kept region, with one
record (R289, R306). -/
def State.settleKept (s : State) (h : Word64) (entry : Nat) : State :=
  match s.place h entry with
  | none => s
  | some p => match p.kept with
    | none => s
    | some g => match lowestFault g.pend with
      | none => s
      | some f =>
        (s.onPlace h entry fun p => { p with kept := p.kept.map fun g => { g with pend := [], markFault := true } }).postFaults
          g p.core p.region f 0

/-! ## Tags (R242) -/

/-- A tag is allocated. -/
def State.takeTag (s : State) (x : Site) (id : Nat) : State :=
  s.onRegion x.core x.unit fun g => { g with tags := g.tags ++ [⟨id, false⟩] }

/-- The tags freed, and those that stay: a tag is freed when it is done and every earlier one has been freed. -/
def splitTags : List TagUse → List Nat × List TagUse
  | [] => ([], [])
  | t :: rest =>
    if t.done then
      let r := splitTags rest
      (t.id :: r.1, r.2)
    else ([], t :: rest)

/-- A result stands in an owner's reorder buffer. -/
def State.give (s : State) (x : Site) (h : Word64) (entry : Nat) (id : Nat) (res : List Emit) : State :=
  s.onOwned x h entry fun u => { u with rob := u.rob.map fun r => if r.id == id then { r with res := some res } else r }

/-- DONE's token (R253). -/
def doneTok : Token := i32Token []

/-- An access has been performed: its tag is freed with every tag that only waited for it, and DONE tokens of freed
tags become known (R242, R253). -/
def State.freeTag (s : State) (x : Site) (h : Word64) (entry : Nat) (id : Nat) : State :=
  let g := s.ownedRegion x h entry
  let r := splitTags (g.tags.map fun t => if t.id == id then { t with done := true } else t)
  let s := s.onOwnedRegion x h entry fun g => { g with tags := r.2 }
  r.1.foldl (fun s i => match s.acc i with
    | some a => if a.kind == .done then (s.give x h entry i [.both doneTok]).dropAcc i else s
    | none => s) s

/-! ## Records of an access (R292, R294) -/

/-- Where an agent stands, for a record: handle, core, EX, EY, REGION, HSLOT and AGENT. -/
structure Where where
  handle : Word64
  core : Fin 96
  ex : Nat
  ey : Nat
  region : Nat
  hslot : Nat
  agent : BitVec 3

/-- The place of an agent. -/
def State.whereIs (s : State) : Agent → Where
  | .op x h e =>
    let p := (s.ownedRegion x h e).at_ x.slot
    ⟨h, x.core, p.1, p.2, x.unit.val, x.slot.val, 0⟩
  | .ctx c k sl _ => ⟨0, c, 0, 0, k.val, sl.val, 3⟩
  | .line c i _ =>
    match (s.core c).streamer.xfers.find? fun t => t.id == i with
    | some t =>
      let p := (s.ownedRegion t.req.site t.req.handle t.req.entry).at_ t.req.site.slot
      ⟨t.req.handle, c, p.1, p.2, t.req.site.unit.val, t.req.site.slot.val, 5⟩
    | none => ⟨0, c, 0, 0, 0, 0, 5⟩
  | .completion c r h => ⟨h, c, (s.region c r).ex0, (s.region c r).ey0, r.val, 0, 7⟩
  | .fetch c k _ => ⟨0, c, 0, 0, k.val, 0, 3⟩
  | .image h => ⟨h, 0, 0, 0, 0, 0, 6⟩

/-- A collector record of an access. -/
def State.accRec (s : State) (a : Access) (cause : BitVec 8) (addr : BitVec 54) (parked : Bool) (asid : BitVec 12) :
    CRec :=
  let w := s.whereIs a.agent
  { handle := w.handle, addr := addr, asid := asid, cause := cause, parked := parked, wr := parked && a.wr, aux := 0
    hslot := BitVec.ofNat 7 w.hslot, cy := BitVec.ofNat 4 (w.core.val / 8), cx := BitVec.ofNat 3 (w.core.val % 8)
    ex := BitVec.ofNat 3 w.ex, ey := BitVec.ofNat 2 w.ey, region := BitVec.ofNat 3 w.region, agent := w.agent
    acc := if parked then a.id else 0 }

/-- The core an agent belongs to. -/
def Agent.core : Agent → Fin 96
  | .op x _ _ => x.core
  | .ctx c _ _ _ => c
  | .line c _ _ => c
  | .completion c _ _ => c
  | .fetch c _ _ => c
  | .image _ => 0

/-- A saturating count of 32 bits. -/
def satInc32 (n : BitVec 32) : BitVec 32 := if n == 0xFFFFFFFF then n else n + 1

/-- The core whose memory an address lies in: its column or its SRAM window; core 0 for any other. -/
def State.homeCore (s : State) (a : Nat) : Fin 96 :=
  match s.phys a with
  | .dram c _ => Fin.ofNat 96 c
  | .scratch c _ _ => c
  | .ember c _ => c
  | _ => 0

/-- A read meets the error marks of a unit (R243, R309): an uncorrectable one is reported by the record given, and both
kinds are counted in the ECC_STAT of the memory's core. -/
def State.meetUnit (s : State) (r : CRec) (pa : Nat) : State :=
  let c := s.homeCore pa
  let s := if s.mem.isCe pa then s.onCore c fun k => { k with eccCe := satInc32 k.eccCe } else s
  if s.mem.isUe pa then
    (s.onCore c fun k => { k with eccUe := satInc32 k.eccUe }).collect { r with addr := BitVec.ofNat 54 (pa / 64 * 64) }
  else s

/-- The record of an uncorrectable error met from outside: AGENT 7, no handle. -/
def outsideRec : CRec := { placedRec 0 0 0x40 0 0 0 0 0 0 7 with hslot := 0 }

/-- A read of an access meets the error marks of a unit, with cause 0x40. -/
def State.meetErrors (s : State) (a : Access) (pa : Nat) : State := s.meetUnit (s.accRec a 0x40 0 false 0) pa

/-! ## Translation (R263..R268) -/

/-- What a translation answers. -/
inductive Walk where
  /-- a page: its frame, whether of 32 MiB, its permissions -/
  | page (frame : Nat) (big r w : Bool)
  /-- refused with a cause -/
  | refuse (cause : BitVec 8)
  deriving DecidableEq, Repr

/-- The causes of R268 and R295. -/
def causeNoAsid : BitVec 8 := 0x01
/-- No valid leaf. -/
def causeNotMapped : BitVec 8 := 0x02
/-- Permission missing. -/
def causePerm : BitVec 8 := 0x03
/-- Malformed entry, or a table outside DRAM. -/
def causeBadPte : BitVec 8 := 0x04
/-- Virtual address above 54 bits. -/
def causeAddr : BitVec 8 := 0x08
/-- Column-space address outside the local column. -/
def causeColumn : BitVec 8 := 0x09
/-- Physical address not served. -/
def causeNoSram : BitVec 8 := 0x0A
/-- Peer window refused. -/
def causePeer : BitVec 8 := 0x0B
/-- Misaligned. -/
def causeAlign : BitVec 8 := 0x0C
/-- Outside the scratch bytes or the ember store. -/
def causeRange : BitVec 8 := 0x0D
/-- A store into a rotation area. -/
def causeRotation : BitVec 8 := 0x14

/-- A cause parks its access (R268, R295). -/
def parks (c : BitVec 8) : Bool := c ≤ 0x05

/-- An address lies in DRAM (R244). -/
def inDram (a : Nat) : Bool := a < 0x3000000000

/-- Bits [47:13] of an entry, in place (R264, R265). -/
def pteAddr (w : Word64) : Nat := (w.extractLsb' 13 35).toNat * 8192

/-- The table index of a level (R265). -/
def walkIndex (level va : Nat) : Nat :=
  match level with
  | 0 => va / 2 ^ 45 % 512
  | 1 => va / 2 ^ 35 % 1024
  | 2 => va / 2 ^ 25 % 1024
  | _ => va / 2 ^ 16 % 512

/-- A unit whose bytes cannot be used: poisoned, or with an uncorrectable error (R243). -/
def Memory.spoilt (m : Memory) (a : Nat) : Bool := m.isPoison a || m.isUe a

/-- One level of the walk (R265): the table of `level`, with `left` levels below it.  An entry in a spoilt unit is refused as
malformed (log 30). -/
def State.walkFrom (s : State) (va : Nat) : (left : Nat) → (table : Nat) → Walk
  | left, table =>
    let level := 3 - left
    let a := table + 8 * walkIndex level va
    let w := s.mem.word a
    let leaf := w.getLsbD 1
    if s.mem.spoilt a then .refuse causeBadPte
    else if !w.getLsbD 0 then .refuse causeNotMapped
    else if w.extractLsb' 48 16 != 0 || w.extractLsb' 4 9 != 0 then .refuse causeBadPte
    else if leaf then
      if level < 2 || (level == 2 && w.extractLsb' 13 12 != 0) || (level == 3 && w.extractLsb' 13 3 != 0) then
        .refuse causeBadPte
      else .page (pteAddr w) (level == 2) (w.getLsbD 2) (w.getLsbD 3)
    else if !inDram (pteAddr w) then .refuse causeBadPte
    else match left with
      | 0 => .refuse causeBadPte
      | left + 1 => s.walkFrom va left (pteAddr w)

/-- The table entries that a walk reads from a table on: it goes on below an entry that names a further table. -/
def State.walkReads (s : State) (va : Nat) : (left : Nat) → (table : Nat) → List Nat
  | left, table =>
    let a := table + 8 * walkIndex (3 - left) va
    let w := s.mem.word a
    a :: match left with
      | 0 => []
      | left + 1 =>
        if s.mem.spoilt a || !w.getLsbD 0 || w.extractLsb' 48 16 != 0 || w.extractLsb' 4 9 != 0 || w.getLsbD 1 ||
          !inDram (pteAddr w) then [] else s.walkReads va left (pteAddr w)

/-- Every entry that the walk of a core's tables for an ASID reads. -/
def State.entriesRead (s : State) (c : Fin 96) (asid : BitVec 12) (va : Nat) : List Nat :=
  let a := (s.core c).ttbase.toNat * 8192 + 8 * asid.toNat
  if !inDram a then []
  else
    let w := s.mem.word a
    a :: (if s.mem.spoilt a || !w.getLsbD 0 || !inDram (pteAddr w) then [] else s.walkReads va 3 (pteAddr w))

/-- A walk of a core's tables for an ASID (R264, R265). -/
def State.walk (s : State) (c : Fin 96) (asid : BitVec 12) (va : Nat) : Walk :=
  let a := (s.core c).ttbase.toNat * 8192 + 8 * asid.toNat
  if !inDram a || s.mem.spoilt a then .refuse causeBadPte
  else
    let w := s.mem.word a
    if !w.getLsbD 0 then .refuse causeNoAsid
    else if !inDram (pteAddr w) then .refuse causeBadPte
    else s.walkFrom va 3 (pteAddr w)

/-- A cache entry answers a virtual address (R266). -/
def TlbEntry.hits (t : TlbEntry) (asid : BitVec 12) (va : Nat) : Bool :=
  t.asid == asid && (if t.big then va / 0x2000000 == t.page else va / 0x10000 == t.page)

/-- The physical address of a virtual one in a page. -/
def inPage (frame : Nat) (big : Bool) (va : Nat) : Nat := if big then frame + va % 0x2000000 else frame + va % 0x10000

/-- The page of a virtual address for an access that reads or writes, from the core's translation cache, or by a walk that
fills it unless it is refused (R265, R266, log 8); the entries that a walk reads meet their error marks (R243, R309). -/
def State.pageOf (s : State) (rec_ : CRec) (c : Fin 96) (asid : BitVec 12) (rd wr : Bool) (va : Nat) : State × Walk :=
  match (s.core c).tlb.find? fun t => t.hits asid va with
  | some t => (s, .page t.frame t.big t.r t.w)
  | none =>
    let s' := ((s.entriesRead c asid va).map (· / 64)).eraseDups.foldl (fun s u => s.meetUnit rec_ (64 * u)) s
    match s.walk c asid va with
    | .refuse e => (s', .refuse e)
    | .page f big r w =>
      let t : TlbEntry := ⟨asid, (if big then va / 0x2000000 else va / 0x10000), big, f, r, w⟩
      if (wr && !w) || (rd && !r) then (s', .refuse causePerm)
      else (s'.onCore c fun k => { k with tlb := (k.tlb ++ [t]).drop (k.tlb.length + 1 - 4096) }, .page f big r w)

/-- A peer window refuses an access (R390): `rd` and `wr` say what it does. -/
def State.windowRefuses (s : State) (asid : BitVec 12) (w : Nat) (rd wr : Bool) : Bool :=
  let d := (s.dev.dmaw.toList.getD w ⟨0, 0⟩).ctl
  let kind := d.extractLsb' 42 2
  let port := d.extractLsb' 32 4
  !d.getLsbD 63 || d.extractLsb' 44 12 != asid || (wr && !d.getLsbD 62) || (rd && !d.getLsbD 61) || kind == 3 ||
    (kind == 2 && 2 ≤ port)

/-- The address at the peer (R390). -/
def State.peerAddr (s : State) (w off : Nat) : Word64 := (s.dev.dmaw.toList.getD w ⟨0, 0⟩).base + BitVec.ofNat 64 off

/-- The fabric, port and destination of a window (R390). -/
def State.peerVia (s : State) (w : Nat) : PeerVia :=
  let d := (s.dev.dmaw.toList.getD w ⟨0, 0⟩).ctl
  ⟨d.extractLsb' 42 2, d.extractLsb' 32 4, d.extractLsb' 0 32⟩

/-- A physical address refuses an access (R244, R390, R252, R85). -/
def State.physRefuses (s : State) (asid : BitVec 12) (rd wr amo : Bool) (pa n : Nat) : Option (BitVec 8) :=
  match s.phys pa with
  | .peer w _ => if amo || s.windowRefuses asid w rd wr then some causePeer else none
  | .unserved => some causeNoSram
  | .scratch c tile off => if wr && s.hitsRotation c (Fin.ofNat 32 tile) off n then some causeRotation else none
  | .ember .. | .dram .. => none

/-- Translates one piece (R265, R268, R247): a cause, or its physical address.  `rec_` reports an error that a walk meets. -/
def State.translate (s : State) (rec_ : CRec) (c : Fin 96) (asid : BitVec 12) (rd wr amo column : Bool) (va : Word64) (n : Nat) :
    State × Except (BitVec 8) Nat :=
  if va.extractLsb' 54 10 != 0 then (s, .error causeAddr)
  else
    let r := s.pageOf rec_ c asid rd wr va.toNat
    match r.2 with
    | .refuse e => (r.1, .error e)
    | .page f big pr pw =>
      if (wr && !pw) || (rd && !pr) then (r.1, .error causePerm)
      else
        let pa := inPage f big va.toNat
        if column && !(inDram pa && pa / 0x80000000 == c.val) then (r.1, .error causeColumn)
        else match r.1.physRefuses asid rd wr amo pa n with
          | some e => (r.1, .error e)
          | none => (r.1, .ok pa)

/-! ## Kinds of access -/

/-- An access reads. -/
def AKind.reads : AKind → Bool
  | .store .. | .storeLanes .. | .ringPush .. | .kstore _ | .kexit .. => false
  | _ => true

/-- An access is an atomic read-modify-write. -/
def AKind.isAmo : AKind → Bool
  | .amo .. => true
  | _ => false

/-- A write that may be posted at the core's network port (R274). -/
def AKind.posts : AKind → Bool
  | .store .. | .storeLanes .. | .kstore _ => true
  | _ => false

/-- The serving core or window of an address, for posted writes (R274). -/
def State.destination (s : State) (a : Nat) : Nat :=
  match s.phys a with
  | .dram c _ => c
  | .scratch c _ _ => c.val
  | .ember c _ => c.val
  | .peer w _ => 96 + w
  | .unserved => 352

/-- An address is served outside a core. -/
def State.leaves (s : State) (c : Fin 96) (a : Nat) : Bool := s.destination a != c.val

/-- The site of an access of a fabric slot. -/
def Access.site (a : Access) : Option Site :=
  match a.agent with
  | .op x _ _ => some x
  | _ => none

/-- Two accesses of one operator or of one context (R272). -/
def Agent.same (a b : Agent) : Bool :=
  match a, b with
  | .op x h e, .op y h' e' => x == y && h == h' && e == e'
  | .ctx c k _ _, .ctx c' k' _ _ => c == c' && k == k'
  | _, _ => false

/-- Two accesses whose writes share a posted queue: one region's, or one context's (R274). -/
def Agent.shares (a b : Agent) : Bool :=
  match a, b with
  | .op x h e, .op y h' e' => x.core == y.core && x.unit == y.unit && h == h' && e == e'
  | .ctx c k _ _, .ctx c' k' _ _ => c == c' && k == k'
  | _, _ => false

/-- Two pieces may touch the same byte. -/
def Piece.meets (p q : Piece) : Bool :=
  match p.pa, q.pa with
  | some a, some b => a < b + q.len && b < a + p.len
  | _, _ => true

/-- An access has not been performed, nor accepted by the network port. -/
def Stage.open_ : Stage → Bool
  | .walk | .ready | .wait | .parked _ => true
  | _ => false

/-- An access waits: parked, an LDS without its full bit, or a put without an entry. -/
def Stage.waits : Stage → Bool
  | .parked _ | .wait | .entry => true
  | _ => false

/-- A write that is accepted and not yet performed, or performed at a peer that has not acknowledged it (R274, R275). -/
def Stage.unseen : Stage → Bool
  | .posted | .peer => true
  | _ => false

/-- The region of an access is in indirect mode (R245). -/
def State.indirect (s : State) (a : Access) : Bool :=
  match a.agent with
  | .op x h e => (s.ownedRegion x h e).hdr.extractLsb' 76 4 == 1
  | _ => false

/-- An operation at the table controller. -/
def AKind.isTable : AKind → Bool
  | .page .. | .pageAppend .. => true
  | _ => false

/-- An operation at the table controller or the hold queue: those of one operator arrive there in firing order (R320, log 23,
R358). -/
def AKind.inOrder : AKind → Bool
  | .page .. | .pageAppend .. | .egress .. => true
  | _ => false

/-- An earlier access b holds a back (R245, R248, R268, R272, R274, R320, R358).  A page instruction, whose entries and page bytes
it finds only as it is performed, waits for every posted write of its region. -/
def State.holdsBack (s : State) (a b : Access) : Bool :=
  (a.agent.same b.agent && ((a.kind.inOrder && b.kind.inOrder && b.stage.open_) || b.stage.waits || (b.stage == Stage.walk) ||
    ((b.stage == .ready || b.stage == .posted) && a.pieces.any fun p => b.pieces.any p.meets))) ||
  (a.agent.shares b.agent && b.stage == .posted && (a.kind.isTable || a.pieces.any fun p => b.pieces.any fun q =>
    match p.pa, q.pa with
    | some u, some v => s.destination u == s.destination v
    | _, _ => false)) ||
  (s.indirect a && s.indirect b && a.agent.core == b.agent.core && (b.stage == .ready || b.stage == .posted))

/-- STF releases at core scope, and EGVER at system scope, what its region issued before it (R280, R358). -/
def State.stfWaits (s : State) (a : Access) : Bool :=
  let releases := match a.kind with
    | .store _ full => full
    | .egress w _ => w.extractLsb' 56 8 == 0xBC
    | _ => false
  releases && (s.accs.takeWhile fun b => b.id != a.id).any fun b => a.agent.shares b.agent && b.stage.unseen

/-- An access that the gather unit has begun and not ended: some of its lines are performed (R245). -/
def Access.begun (a : Access) : Bool := a.stage == .ready && !a.held && !a.bads.isEmpty

/-- An access must wait for earlier ones, and at the gather unit for one that is in progress. -/
def State.accBlocked (s : State) (a : Access) : Bool :=
  s.stfWaits a || ((s.accs.takeWhile fun b => b.id != a.id).any fun b => !b.held && b.kind != .done && s.holdsBack a b) ||
    (s.indirect a && s.accs.any fun b => b.id != a.id && b.begun && s.indirect b && a.agent.core == b.agent.core)

/-- Writes that a launch releases are not yet visible (R284). -/
def State.releasing (s : State) (g : Cfg) : Bool := g.after.any fun i => (s.acc i).isSome

/-! ## Issue -/

/-- An access begins: it is translated when its addresses are virtual. -/
def State.issue (s : State) (a : Access) : State :=
  { s with accs := s.accs ++ [a] }.laterFree 1 (if a.stage == Stage.walk then .walkComplete a.id else .accessPerform a.id)

/-- Pieces of n bytes from an address on. -/
def piecesFrom (va : Word64) (pa : Option Nat) (n count : Nat) : List Piece :=
  (List.range count).map fun i => ⟨va + BitVec.ofNat 64 (n * i), n, pa.map fun a => a + n * i⟩

/-! ## Full bits (R241, R248, R250) -/

/-- Sets the full bits of lines and wakes the LDS that wait on them. -/
def State.fillLines (s : State) (lines : List Nat) : State :=
  let s := s.onMem fun m => lines.foldl (fun m l => m.setFull (128 * l) true) m
  let waiting := s.accs.filter fun a => a.stage == .wait && !a.held && match a.kind, a.pieces with
    | .loadFull .., p :: _ => match p.pa with
      | some pa => lines.contains (pa / 128)
      | none => false
    | _, _ => false
  waiting.foldl (fun s a => s.soon (.ldsWake a.id)) s

/-- The 128-byte lines that n bytes from an address on touch. -/
def linesOf (a n : Nat) : List Nat := if n == 0 then [] else (List.range ((a + n - 1) / 128 - a / 128 + 1)).map fun i => a / 128 + i

/-- An address has full bits: it lies in a tile (R241). -/
def State.hasFull (s : State) (a : Nat) : Bool :=
  match s.phys a with
  | .scratch .. => true
  | _ => false

/-! ## Reading and writing at the serving controller -/

/-- A message leaves the device. -/
def State.emit (s : State) (m : OutMsg) : State := { s with host := { s.host with out := s.host.out ++ [m] } }

/-- A read at a peer leaves the device (R287, R390). -/
def State.askPeer (s : State) (pa n : Nat) : State :=
  match s.phys pa with
  | .peer w off => s.emit (.peerRead (s.peerVia w) (s.peerAddr w off) n)
  | _ => s

/-- Reads n bytes; a read at a peer leaves the device, and its bytes are free (R287, R390). -/
def State.readPhys (s : State) (pa n : Nat) : State × List Byte :=
  match s.phys pa with
  | .peer w off => ((s.tickBy n).emit (.peerRead (s.peerVia w) (s.peerAddr w off) n), s.freeBytes n)
  | _ => (s, s.readBytes pa n)

/-- Writes bytes; those for a peer leave the device (R287, R390). -/
def State.writePhys (s : State) (pa : Nat) (bs : List Byte) : State :=
  match s.phys pa with
  | .peer w off => s.emit (.peerWrite (s.peerVia w) (s.peerAddr w off) bs)
  | _ => s.onMem fun m => m.store pa bs

/-- An address lies in a peer window. -/
def State.atPeer (s : State) (pa : Nat) : Bool :=
  match s.phys pa with
  | .peer .. => true
  | _ => false

/-- A write of an agent at a peer waits for the peer's acknowledgement (R275, R283). -/
def State.awaitAck (s : State) (agent : Agent) (pa : Nat) : State :=
  if !s.atPeer pa then s
  else
    let a : Access :=
      { id := s.newId, agent := agent, kind := .store [] false, asid := 0, wr := true, virt := false, column := false, addr := 0
        pieces := [], data := [], bads := [], poison := false, stage := .peer, held := false }
    ({ s with accs := s.accs ++ [a] }.tickId).laterFree 1 (.accessPerform a.id)

/-- Marks the units of written bytes as poisoned (R249). -/
def State.poisonUnits (s : State) (pa n : Nat) : State :=
  match s.phys pa with
  | .peer .. | .unserved => s
  | _ => s.onMem fun m => (List.range ((pa % 64 + n + 63) / 64)).foldl (fun m i => m.setPoison (pa + 64 * i) true) m

/-! ## Results -/

/-- A result that is known at once takes its place in order (R240, R255); L is at least 4 (R256). -/
def robNow (id now : Nat) (res : List Emit) : Rob := ⟨id, some res, [], now + 4⟩

/-- A result still to come. -/
def robLater (id now : Nat) : Rob := ⟨id, none, [], now + 4⟩

/-- Nothing in the region still holds a result back: its due cycle, and the accesses it waits for (R178, R275). -/
def State.robReady (s : State) (r : Rob) : Bool :=
  r.res.isSome && r.due ≤ s.clk.now && r.after.all fun i => (s.acc i).isNone

/-- The firings whose results stand in a slot's reorder buffer; a result with number 0 belongs to the firing of the one after
it (R261). -/
def Slot.firingsHeld (u : Slot) : Nat := (u.rob.filter fun r => r.id != 0).length

/-- Where a result of the reorder buffer comes from. -/
def Slot.originFor (u : Slot) (id : Nat) : Origin := ((u.flight.find? fun p => p.1 == id).map Prod.snd).getD ⟨u.last, none⟩

/-- The slot without its oldest result. -/
def Slot.popRob (u : Slot) : Slot := { u with rob := u.rob.drop 1, flight := u.flight.filter fun p => u.rob.head?.map Rob.id != some p.1 }

/-- Delivers the next step of a slot's oldest result, or takes it off when it has none left (R240). -/
def State.deliverResult (s : State) (x : Site) : State :=
  let u := s.slot x
  match u.rob with
  | [] => s
  | r :: rest =>
    if !s.robReady r then s
    else match r.res with
    | some (e :: es) =>
      let t0 := targetOf u.word 38
      let t1 := targetOf u.word 28
      if s.room x false t0 (if e.t0.isSome then 1 else 0) && s.room x true t1 (if e.t1.isSome then 1 else 0) then
        let s := s.sendBoth x t0 t1 0 ⟨u.count - u.firingsHeld, u.originFor r.id⟩ e
        (s.onSlot x fun u => if es.isEmpty then u.popRob else { u with rob := { r with res := some es } :: rest }).snapProgress x
      else s
    | _ => (s.onSlot x Slot.popRob).snapProgress x

end Sys2Proof.Machine
end

