-- ==== Sys2Proof/Machine/Fabric.lean ====
section
/-! DEFINITION. The fabric's own steps (R24, R29..R41, R197, R202..R205): tokens arriving at ports, `exit` and out-links,
credits, drops and their reports, and long channels. -/

namespace Sys2Proof.Machine

/-! ## Drops (R36, R202..R205) -/

/-- Two drops go to one report: of one link, by one configuration. -/
def GuardRep.same (p q : GuardRep) : Bool := p.link == q.link && p.handle == q.handle

/-- A drop on a link of a region: it opens a report or adds to the open one; at the greatest count it is posted. -/
def State.drop (s : State) (c : Fin 96) (r : Fin 8) (rep : GuardRep) : State :=
  let g := s.region c r
  match g.guards.find? rep.same with
  | none =>
    (s.onRegion c r fun g => { g with guards := g.guards ++ [{ rep with count := 1, last := s.clk.now }] }).later 256
      (.guardReportPost c r rep.link)
  | some q =>
    let q' := { q with count := q.count + 1, last := s.clk.now }
    if q'.count == 0xFFFFFFFF then
      (s.postGuard c r q').onRegion c r fun g => { g with guards := g.guards.filter fun q => !rep.same q }
    else s.onRegion c r fun g => { g with guards := g.guards.map fun q => if rep.same q then q' else q }

/-- GUARD_REPORT_POST (R204): a report is posted when 256 cycles have passed without a new drop. -/
def execGuardReportPost (core : Fin 96) (region : Fin 8) (link : BitVec 7) (s : State) : Done :=
  let due (q : GuardRep) : Bool := q.link == link && q.last + 256 ≤ s.clk.now
  let s := (((s.region core region).guards.filter due).foldl (fun s q => s.postGuard core region q) s).onRegion core region
    fun g => { g with guards := g.guards.filter fun q => !due q }
  match (s.region core region).guards.find? fun q => q.link == link with
  | none => .next s
  | some q => .next (s.later (q.last + 256 - s.clk.now) (.guardReportPost core region link))

/-- Where an out-link leaves a region: the element, and the element beyond it, none off the grid (R202). -/
def Region.linkEnd (g : Region) (link : Nat) : (Nat × Nat) × Option (Nat × Nat) :=
  let second := link % 2 == 1
  match link / 2 with
  | 0 =>
    let x := if second then g.ex0 + g.w - 1 else g.ex0
    ((x, g.ey0), if g.ey0 == 0 then none else some (x, g.ey0 - 1))
  | 1 =>
    let y := if second then g.ey0 + g.h - 1 else g.ey0
    ((g.ex0 + g.w - 1, y), if g.ex0 + g.w < 8 then some (g.ex0 + g.w, y) else none)
  | 2 =>
    let x := if second then g.ex0 + g.w - 1 else g.ex0
    ((x, g.ey0 + g.h - 1), if g.ey0 + g.h < 4 then some (x, g.ey0 + g.h) else none)
  | _ =>
    let y := if second then g.ey0 + g.h - 1 else g.ey0
    ((g.ex0, y), if g.ex0 == 0 then none else some (g.ex0 - 1, y))

/-- A token at an unbound out-link is dropped: a guard drop towards another tenant, else a link drop (R202, R203). -/
def State.dropOut (s : State) (x : Site) (link fires : Nat) : State :=
  let g := s.region x.core x.unit
  let k := s.core x.core
  let e := g.linkEnd link
  let mine := k.tenant e.1.1 e.1.2
  let theirs := match e.2 with
    | some p => k.tenant p.1 p.2
    | none => mine
  let d := e.2.getD (0, 0)
  s.drop x.core x.unit
    { handle := g.handle, agent := s.slotAgent x.core x.unit x.slot
      link := BitVec.ofNat 7 link, code := if theirs != mine then 0x30 else 0x31, count := 0, first := BitVec.ofNat 32 fires
      slot := x.slot, sten := mine, dten := theirs, offg := e.2.isNone, dex := BitVec.ofNat 3 d.1
      dey := BitVec.ofNat 2 d.2, ex := BitVec.ofNat 3 e.1.1, ey := BitVec.ofNat 2 e.1.2, last := 0 }

/-- A token that reaches a disabled in-link is dropped there (R36, R205). -/
def State.dropIn (s : State) (c : Fin 96) (r : Fin 8) (link : Nat) : State :=
  let g := s.region c r
  let e := (g.linkEnd link).1
  let t := (s.core c).tenant e.1 e.2
  s.drop c r
    { handle := g.handle, agent := 7, link := BitVec.ofNat 7 (8 + link), code := 0x31, count := 0, first := 0, slot := 0, sten := t, dten := t
      offg := false, dex := 0, dey := 0, ex := BitVec.ofNat 3 e.1, ey := BitVec.ofNat 2 e.2, last := 0 }

/-! ## Arrivals (R29, R30, R34, R41) -/

/-- A token that fails parity at a slot (R34, R94): where a rotation carries it, a void token of zero payload with cause 0x01
stands for it; elsewhere the region faults and nothing enters. -/
def State.parityFails (s : State) (x : Site) (carried : Bool) : State × Option Token :=
  if carried then (s, some (voidToken zeroLanes 0 causeParity))
  else (s.regionFault x.core x.unit x.slot 0x11 0 true, none)

/-- A rotation carries the tokens of a port: a head-driven slot's, and the carries at the head's port a (R82, R94). -/
def State.carriesIn (s : State) (x : Site) (p : PortName) : Bool :=
  (s.slot x).driven || (p == .a && (s.head x).any fun h => h.slot == x.slot)

/-- A rotation carries what a slot delivers: a head-driven slot, or the head itself (R82, R94). -/
def State.carriesOut (s : State) (x : Site) : Bool := (s.slot x).driven || (s.head x).any fun h => h.slot == x.slot

/-- A token enters a port behind every entry still there (R24, R30); the back edge of a head goes through its delay line
(R83). -/
def State.enterPort (s : State) (x : Site) (p : PortName) (t : Token) (o : Origin) : State :=
  let e : Entry := ⟨t, s.clk.now, o⟩
  match s.head x with
  | some h =>
    if h.slot == x.slot && p == .a && (8 ≤ (s.slot x).a.q.length || !h.delay.isEmpty) then
      s.onHead x fun h => { h with delay := h.delay ++ [e] }
    else s.onSlot x fun u => u.onPort p fun q => { q with q := q.q ++ [e] }
  | none => s.onSlot x fun u => u.onPort p fun q => { q with q := q.q ++ [e] }

/-- The entries a port can hold: 8, and the delay line's in front of a head's port a (R24, R83). -/
def State.portCap (s : State) (x : Site) (p : PortName) : Nat :=
  match s.head x with
  | some h => if h.slot == x.slot && p == .a then 8 + h.cap else 8
  | none => 8

/-- The entries a port holds, with those in the delay line in front of it. -/
def State.portHas (s : State) (x : Site) (p : PortName) : Nat :=
  ((s.slot x).port p).q.length + match s.head x with
    | some h => if h.slot == x.slot && p == .a then h.delay.length else 0
    | none => 0

/-- A token reaches a port: parity and a ninth entry are checked on entry (R30, R34).  The void token that stands for a ninth
entry enters all the same, and is a ninth entry itself (log 109, DESIGN CHOICE: R94 has it enter, R30 gives it no place). -/
def State.arrive (s : State) (y : Site) (p : PortName) (t : Token) (o : Origin) : State :=
  if t.parityOk && s.portHas y p < s.portCap y p then s.enterPort y p t o
  else
    let r := s.parityFails y (s.carriesIn y p)
    match r.2 with
    | some v => r.1.enterPort y p v ⟨o.pos, some y.slot⟩
    | none => r.1.payBack y ((s.slot y).port p) 1

/-- The posted writes of a region that a token crossing a channel releases (R276). -/
def State.releases (s : State) (x : Site) : List Nat :=
  let g := s.region x.core x.unit
  (s.accs.filter fun a => a.stage == .posted && (Agent.op x g.handle g.entry).shares a.agent).map Access.id

/-- A token enters the out-link of a long channel: parity, the count of R112, its place in the channel (R37, R276). -/
def State.enterChannel (s : State) (x : Site) (second : OutPort) (ch link : Nat) (t : Token) : State :=
  let r := s.region x.core x.unit
  let h := r.handle
  let after := s.releases x
  let put (s : State) (t : Token) : State :=
    (s.onCfg h fun g => { g with
      chans := g.chans.modify ch fun c => { c with out := c.out ++ [⟨t, after, some ⟨x.slot, second, r.entry, r.mapAt⟩⟩] } }).onRegion
      x.core x.unit fun g => { g with outsent := g.outsent.set! link (g.outsent.toList.getD link 0 + 1) }
  if t.parityOk then put s t
  else
    let r := s.parityFails x (s.carriesOut x)
    match r.2 with
    | some v => put r.1 v
    | none => r.1.later 2 (.creditReturn x second (s.region x.core x.unit).gen)

/-- A token reaches `exit`: the first one with a value sets the exit value, until the region is COMMITTING (R41). -/
def State.setExit (s : State) (c : Fin 96) (r : Fin 8) (v : BitVec 2) : State :=
  s.onRegion c r fun g => if g.st != .committing && g.exitV.isNone then { g with exitV := some v } else g

/-- Which output of a slot a target is: the first, the second, or a head's drain. -/
def State.outputOf (s : State) (x : Site) (t : Target) : OutPort :=
  let w := (s.slot x).word
  if targetOf w 38 == t then .t0 else if targetOf w 28 == t then .t1 else .drain

/-- The element of a slot accepts no tokens (R77). -/
def State.blockedAt (s : State) (x : Site) : Bool := (s.elem x.core (s.elemAt x)).blocked

/-- TOKEN_ARRIVAL (R29, R34, R41, R202): a token reaches what its producer's target names.  Before a blocked element it
waits: nothing is lost (R77). -/
def execTokenArrival (src : Site) (tgt : Target) (tok : Token) (gen : Nat) (stamp : Stamp) (s : State) : Done :=
  let g := s.region src.core src.unit
  if g.gen != gen || g.st == .free || g.st == .loading then .next s
  else if !tgt.isLink && s.blockedAt (src.at_ tgt.idx) then .next (s.later 1 (.tokenArrival src tgt tok gen stamp))
  else if !tgt.isLink then .next (s.arrive (src.at_ tgt.idx) (portNamed tgt.port) tok stamp.origin)
  else if tgt.slot == 8 then
    .next (if !tok.parityOk then (s.parityFails src (s.carriesOut src)).1
      else if tok.void || tok.eos then s else s.setExit src.core src.unit ((tok.lane 0).extractLsb' 0 2))
  else match s.boundChan src tgt.slot.toNat with
    | some ch => .next (s.enterChannel src (s.outputOf src tgt) ch tgt.slot.toNat tok)
    | none => .next (if tok.eos then s else s.dropOut src tgt.slot.toNat stamp.made)

/-! ## Credits (R29, R197) -/

/-- The occupancy of a rewritten target's port: the entries of its former feeders, those on their way included (R197). -/
def State.occupied (s : State) (x : Site) (t : Target) : Nat :=
  if t.isLink then 0 else ((((s.slot (x.at_ t.idx)).port (portNamed t.port)).former).map Prod.snd).sum

/-- The credits of a new target: its port's entries less those occupied (R29, R83, R197). -/
def State.credits (s : State) (x : Site) (t : Target) : Nat :=
  if t.isLink then 8 else s.portCap (x.at_ t.idx) (portNamed t.port) - s.occupied x t

/-- A credit comes back to an output (R29); while the output's old target still owes credits, it pays those (R197). -/
def State.credit (s : State) (x : Site) (o : OutPort) : State :=
  let u := s.slot x
  match o with
  | .drain => s.onHead x fun h => { h with drainCred := h.drainCred + 1 }
  | .t0 => match u.hold0 with
    | some n =>
      if n ≤ 1 then s.onSlot x fun u => { u with hold0 := none, cred0 := s.credits x (targetOf u.word 38) }
      else s.onSlot x fun u => { u with hold0 := some (n - 1) }
    | none => s.onSlot x fun u => { u with cred0 := u.cred0 + 1 }
  | .t1 => match u.hold1 with
    | some n =>
      if n ≤ 1 then s.onSlot x fun u => { u with hold1 := none, cred1 := s.credits x (targetOf u.word 28) }
      else s.onSlot x fun u => { u with hold1 := some (n - 1) }
    | none => s.onSlot x fun u => { u with cred1 := u.cred1 + 1 }

/-- CREDIT_RETURN (R24, R29). -/
def execCreditReturn (src : Site) (which : OutPort) (gen : Nat) (s : State) : Done :=
  let g := s.region src.core src.unit
  if g.gen != gen || g.st == .free || g.st == .loading then .next s else .next (s.credit src which)

/-! ## Long channels (R36, R37, R276) -/

/-- Changes a channel of a configuration. -/
def State.onChan (s : State) (h : Word64) (i : Nat) (f : Chan → Chan) : State :=
  s.onCfg h fun g => { g with chans := g.chans.modify i f }

/-- A channel of a configuration. -/
def State.chan (s : State) (h : Word64) (i : Nat) : Option Chan := (s.cfg h).bind fun g => g.chans[i]?

/-- The credit of a token that left an out-link goes to the slot that sent it (R29): to its region, or, while the owner is
pre-empted, to what the owner takes back at resumption; a mapping that is over takes none. -/
def State.payCreditor (s : State) (h : Word64) (q : Creditor) : State :=
  match s.place h q.entry with
  | none => s
  | some p =>
    let g := s.region p.core p.region
    if p.st == .placed && g.st != .free && g.st != .loading && g.handle == h && g.mapAt == q.mapAt then
      s.later 2 (.creditReturn ⟨p.core, p.region, q.slot⟩ q.out g.gen)
    else if p.kept.any fun k => k.mapAt == q.mapAt then
      s.onPlace h q.entry fun p => { p with owed := p.owed ++ [(q.slot, q.out)] }
    else s

/-- The physical address of a channel's buffer entry n, in the granules that the configuration reserved on the buffer's core,
in the order of their reservation (R38; log 112, DEDUCED). -/
def Cfg.bufferAddr (g : Cfg) (c : Chan) (n : Nat) : Option Nat :=
  let at_ := c.base + 128 * n
  ((g.granules.filter fun p => p.1 == c.core)[at_ / 65536]?).map fun p =>
    tileAddr c.core (p.2 % 32) (65536 * (p.2 / 32) + at_ % 65536)

/-- A token as a buffer entry holds it: payload, sideband, zeros (R33, R38). -/
def bufferBytes (t : Token) : List Byte := t.bytes ++ natBytes 4 t.sideWord.toNat ++ List.replicate 60 0

/-- A token is written into the buffer entry that is next (R38). -/
def State.bufferPut (s : State) (h : Word64) (c : Chan) (t : Token) : State :=
  match (s.cfg h).bind fun g => g.bufferAddr c c.next with
  | some a => s.onMem fun m => m.store a (bufferBytes t)
  | none => s

/-- The oldest token at the out-link passes into the buffer once what it releases is visible and an entry is free; its
credit returns. -/
def State.chanFill (s : State) (h : Word64) (i : Nat) : State :=
  match s.chan h i with
  | none => s
  | some c => match c.out with
    | [] => s
    | t :: rest =>
      if (t.after.any fun a => (s.acc a).isSome) || c.depth ≤ c.buf.length then s
      else
        let s := (s.bufferPut h c t.tok).onChan h i fun c => { c with
          out := rest, buf := c.buf ++ [t.tok], next := (c.next + 1) % c.depth }
        match t.src with
        | some q => s.payCreditor h q
        | none => s

/-- The region an in-link leads to, when a block is mapped there. -/
def State.chanDest (s : State) (h : Word64) (c : Chan) : Option Site :=
  (s.place h c.dent).bind fun p =>
    if c.dkind == 0 && p.st == .placed && (s.region p.core p.region).st == .mapped then
      some ⟨p.core, p.region, c.dslot⟩ else none

/-- The oldest token of the buffer leaves the in-link: dropped when the block does not enable it; kept while the port it
names is unused or has no room; else it enters the port, its parity checked (R34, R36, R37). -/
def State.chanDrain (s : State) (h : Word64) (i : Nat) : State :=
  match s.chan h i with
  | none => s
  | some c => match c.buf, s.chanDest h c with
    | t :: rest, some y =>
      let g := s.region y.core y.unit
      let p := c.dport
      let s' := s.onChan h i fun c => { c with buf := rest }
      if !(g.hdr.extractLsb' 96 8).getLsbD c.dlink then s'.dropIn y.core y.unit c.dlink
      else if !g.hasK (y.slot.val / 8) || ((s.slot y).port p).feeder != .link (BitVec.ofNat 3 c.dlink) ||
          (s.elem y.core (s.elemAt y)).blocked || s.portCap y p ≤ s.portHas y p then s
      else
        (s'.onRegion y.core y.unit fun g => { g with
          insent := g.insent.set! c.dlink (g.insent.toList.getD c.dlink 0 + 1) }).arrive y p t .none
    | _, _ => s

/-- LONG_CHANNEL_DELIVERY (R37): tokens move on, one at each end. -/
def execLongChannelDelivery (handle : Word64) (chan : Nat) (s : State) : Done :=
  .next (((s.onChan handle chan fun c => { c with moving := false }).chanDrain handle chan).chanFill handle chan)

/-- A channel with content begins a delivery, its latency free (R37). -/
def State.chanStart (s : State) (h : Word64) (i : Nat) : State :=
  match s.chan h i with
  | some c =>
    if c.moving || (c.out.isEmpty && c.buf.isEmpty) then s
    else (s.onChan h i fun c => { c with moving := true }).laterFree 1 (.longChannelDelivery h i)
  | none => s

end Sys2Proof.Machine
end

