-- ==== Sys2Proof/Machine/Control.lean ====
section
/-! DEFINITION. The control core (R184..R196): allotments, the firing rule of a control block, results, register ranges,
queues, waits, the fetch, start and commit of a block, and what stops a context. -/

namespace Sys2Proof

/-- Targets and ports of FC. -/
def FC.io (f : FC) : Machine.Io := ⟨f.t0, f.t1, f.a, f.b, f.c⟩

end Sys2Proof

namespace Sys2Proof.Machine

/-! ## Contexts and registers (R184..R187) -/

/-- The context of a control-core site. -/
def ctxOf (x : Site) : Fin 4 := Fin.ofNat 4 x.unit.val

/-- The site of a slot of a context's block. -/
def ksite (c : Fin 96) (k : Fin 4) (i : Fin 128) : Site := ⟨c, Fin.ofNat 8 k.val, i⟩

/-- Registers of an allotment code (R185). -/
def allotOf (code : Nat) : Nat :=
  match code with
  | 0 => 0
  | 1 => 8
  | 2 => 16
  | _ => 32

/-- The allotment of a context in a CTXPART value (R185). -/
def allotIn (part : BitVec 8) (k : Nat) : Nat := allotOf (part.extractLsb' (2 * k) 2).toNat

/-- The allotment of a context. -/
def Core.allot (q : Core) (k : Fin 4) : Nat := allotIn q.ctxpart k.val

/-- The first physical register of a context (R185). -/
def Core.regBase (q : Core) (k : Fin 4) : Nat := ((List.range k.val).map (allotIn q.ctxpart)).sum

/-- A register of a context. -/
def Core.sreg (q : Core) (k : Fin 4) (r : Nat) : Word64 := q.sregs.toList.getD (q.regBase k + r) 0

/-- Writes a register of a context; its parity is then good. -/
def State.setSreg (s : State) (c : Fin 96) (k : Fin 4) (r : Nat) (v : Word64) : State :=
  s.onCore c fun q => { q with
    sregs := q.sregs.set! (q.regBase k + r) v, sbad := q.sbad &&& ~~~(1#64 <<< (q.regBase k + r)) }

/-- The trap causes of R191. -/
def trapAllot : BitVec 8 := 0x01
/-- A misaligned address. -/
def trapAlign : BitVec 8 := 0x02
/-- A privileged instruction or CSR write without PRIV. -/
def trapPriv : BitVec 8 := 0x03
/-- An undefined CSR number. -/
def trapBadCsr : BitVec 8 := 0x04
/-- The call stack. -/
def trapStack : BitVec 8 := 0x05
/-- A second branch. -/
def trapBranch2 : BitVec 8 := 0x06
/-- An unbound queue. -/
def trapQunbound : BitVec 8 := 0x07
/-- A block that does not run. -/
def trapBadBlock : BitVec 8 := 0x08
/-- A refused access. -/
def trapAccess : BitVec 8 := 0x09

/-- A trap of a site's context with a value. -/
def State.ktrapVal (s : State) (x : Site) (cause : BitVec 8) (v : Word64) : State := s.trap x.core (ctxOf x) x.slot cause v

/-- A trap to which the manual gives no TRAPVAL: the value is free. -/
def State.ktrap (s : State) (x : Site) (cause : BitVec 8) : State :=
  (s.ktrapVal x cause (Config.freeWord s.clk.fresh)).tickFresh

/-- A context stops with its block uncommitted, as a CANCEL has it (R299, R309): as for a trap, operations in progress
complete. -/
def State.kcancel (s : State) (c : Fin 96) (k : Fin 4) : State :=
  s.onCtx c k fun t => { t.leaveBlock none with st := .stopped, stopReq := false }

/-- A context stops between two repetitions, which REPST keeps (R195, R302). -/
def State.kstop (s : State) (c : Fin 96) (k : Fin 4) : State :=
  s.onCtx c k fun t => { t with st := .stopped, blk := none, gen := t.gen + 1, stopReq := false }

/-- Something happens to a block that has trapped and whose operations still complete (R191): it acts as the context's block for
the while.  Register writes and tokens of it come to nothing; a fault of its own ends it; REPST follows it while the context is
still TRAPPED. -/
def State.onDrain (s : State) (c : Fin 96) (k : Fin 4) (g : Nat) (f : State → State) : State :=
  let t := s.ctx c k
  match t.drains.find? fun d => d.1 == g with
  | none => s
  | some d =>
    let rest := t.drains.filter fun e => e.1 != g
    let r := f (s.onCtx c k fun t => { t with blk := some d.2, gen := g, st := .run })
    if (r.ctx c k).gen != g then s.onCtx c k fun t => { t with drains := rest }
    else r.onCtx c k fun u =>
      let left := u.blk.toList.filterMap fun b => if b.reps.isEmpty then none else some (g, b)
      let u := { u with blk := t.blk, gen := t.gen, st := t.st, drains := rest ++ left }
      if t.st == .trapped then u
      else { u with repActive := t.repActive, repSlot := t.repSlot, repRemain := t.repRemain, repIndex := t.repIndex }

/-- An access of a trapped block is refused or cancelled: its range ends there. -/
def State.kdropped (s : State) (c : Fin 96) (k : Fin 4) (g id : Nat) : State :=
  s.onDrain c k g fun s => s.onCtx c k fun t => { t with
    blk := t.blk.map fun b => { b with reps := b.reps.filter fun r => r.wait != some id } }

/-! ## Blocks, slots and ports (R24, R189) -/

/-- The block a context runs. -/
def State.kblk (s : State) (x : Site) : Option KBlock := (s.ctx x.core (ctxOf x)).blk

/-- Changes the block a context runs. -/
def State.onBlk (s : State) (x : Site) (f : KBlock → KBlock) : State :=
  s.onCtx x.core (ctxOf x) fun t => { t with blk := t.blk.map f }

/-- A port of a control slot. -/
def KSlot.port (u : KSlot) : PortName → KPort
  | .a => u.a
  | .b => u.b
  | .c => u.c

/-- Changes a port of a control slot. -/
def KSlot.onPort (u : KSlot) (p : PortName) (f : KPort → KPort) : KSlot :=
  match p with
  | .a => { u with a := f u.a }
  | .b => { u with b := f u.b }
  | .c => { u with c := f u.c }

/-- Changes a slot of a block. -/
def KBlock.onSlot (b : KBlock) (i : Fin 128) (f : KSlot → KSlot) : KBlock := { b with slots := b.slots.set i (f b.slots[i]) }

/-- The entry of a port that a firing takes, when it stands there (R29). -/
def KPort.front (p : KPort) (now : Nat) : Option KTok :=
  match p.q with
  | e :: _ => if e.1 ≤ now then some e.2 else none
  | [] => none

/-- The entries of a port that its producer counts: those in it and those whose credits are on their way. -/
def KPort.taken (p : KPort) (now : Nat) : Nat := p.q.length + (p.freed.filter (now < ·)).length

/-- Takes the oldest entry; its credit is back after D = 1 (R184). -/
def KPort.pop (p : KPort) (now : Nat) : KPort := ⟨p.q.drop 1, (p.freed.filter (now < ·)) ++ [now + 1]⟩

/-- A target has room beside n results on their way (R24). -/
def KBlock.room (b : KBlock) (now : Nat) (t : Target) (n : Nat) : Bool :=
  !t.v || t.isLink || (b.slots[t.idx].port (portNamed t.port)).taken now + n < 8

/-- The slot is prefixed by a REP (R195). -/
def KBlock.prefixed (b : KBlock) (i : Fin 128) : Bool := 0 < i.val && opOf (b.slots.toList.getD (i.val - 1) b.slots[0]).word == 0xD3

/-- A range instruction, which REP may prefix (R195). -/
def isRange (op : Nat) : Bool := op == 0xCC || op == 0xCD || op == 0xD4 || op == 0xD5

/-- The instruction of a slot can fire (R24, R189, R195): its ports hold entries or it is a source that has not fired, its
targets have room, and a prefixed one has its count and no other repetition in progress. -/
def KBlock.can (b : KBlock) (now : Nat) (io : Io) (i : Fin 128) : Bool :=
  let u := b.slots[i]
  let n := u.rob.length
  (if io.used.isEmpty then !u.fired else io.used.all fun p => ((u.port p).front now).isSome) &&
    b.room now io.t0 n && b.room now io.t1 n &&
    (!(b.prefixed i && isRange (opOf u.word)) || (b.counts.any (·.slot == i) && !b.reps.any KRep.shown))

/-- Targets and ports of a control word. -/
def kwordIo (w : Word64) : Io := ⟨targetOf w 38, targetOf w 28, wordPort w .a, wordPort w .b, wordPort w .c⟩

/-- The instruction of a site can fire: its context runs and is not halted (R184, R307). -/
def State.kcan (s : State) (x : Site) (io : Io) : Bool :=
  (s.ctx x.core (ctxOf x)).st == .run && !(s.core x.core).hctx.getLsbD (ctxOf x).val &&
    match s.kblk x with
    | some b => b.can s.clk.now io x.slot
    | none => false

/-! ## Firings and results (R189, R192) -/

/-- What a firing reads: operands a, b and c, whether one is void, and what a REP gave it. -/
structure KIn where
  a : KTok
  b : KTok
  c : KTok
  void : Bool
  rep : Option KCount

/-- The operand of a port; an unused port gives zero. -/
def KSlot.operand (u : KSlot) (now : Nat) (io : Io) (p : PortName) : KTok :=
  if (io.ctl p).used then ((u.port p).front now).getD ⟨0, true⟩ else ⟨0, false⟩

/-- The operands of a slot's firing. -/
def KBlock.reads (b : KBlock) (now : Nat) (io : Io) (i : Fin 128) : KIn :=
  let u := b.slots[i]
  let pa := u.operand now io .a
  let pb := u.operand now io .b
  let pc := u.operand now io .c
  let rep := if b.prefixed i && isRange (opOf u.word) then b.counts.find? (·.slot == i) else none
  ⟨pa, pb, pc, pa.void || pb.void || pc.void || (rep.any fun q => q.count.isNone), rep⟩

/-- The block after a slot's operands have been taken. -/
def KBlock.takes (b : KBlock) (now : Nat) (io : Io) (i : Fin 128) : KBlock :=
  let b := b.onSlot i fun u => io.used.foldl (fun u p => u.onPort p fun q => q.pop now) { u with fired := true }
  if b.prefixed i && isRange (opOf b.slots[i].word) then { b with counts := b.counts.eraseP (·.slot == i) } else b

/-- A place for a result, known or not, that leaves no sooner than `lat` cycles from now. -/
def State.kplace (s : State) (x : Site) (lat : Nat) (res : Option KTok) : State :=
  let e : KRob := ⟨s.newId, res, s.clk.now + lat⟩
  (s.onBlk x fun b => b.onSlot x.slot fun u => { u with rob := u.rob ++ [e] }).tickId

/-- The void result. -/
def voidK : KTok := ⟨0, true⟩

/-- A token that a firing reads has bad parity (R189). -/
def KBlock.spoilt (b : KBlock) (io : Io) (i : Fin 128) : Bool := io.used.any fun p => b.bad.contains (i, p)

/-- A parity failure of a scalar register, or of a control token (log 50), stops the context and is reported with cause 0x11
(R189, R309). -/
def State.kparity (s : State) (x : Site) : State :=
  let asid := (s.ctx x.core (ctxOf x)).asid
  (s.kcancel x.core (ctxOf x)).collect (placedRec 0 asid 0x11 0 x.core 0 0 (ctxOf x).val x.slot.val 3)

/-- A firing (R24, R189): when it can be made, the operands are taken; a void one gives a void result if the instruction
delivers one; else `act` follows. -/
def State.kfire (s : State) (io : Io) (lat : Nat) (delivers : Bool) (act : State → KIn → State) : State :=
  let x := s.clk.focus
  if !s.kcan x io then s
  else match s.kblk x with
  | none => s
  | some b =>
    if b.spoilt io x.slot then s.kparity x
    else
    let r := b.reads s.clk.now io x.slot
    let s := s.onBlk x fun b => b.takes s.clk.now io x.slot
    if r.void then (if delivers then s.kplace x lat (some voidK) else s) else act s r

/-- A firing whose result is a function of its operands (R192). -/
def State.kop (s : State) (io : Io) (lat : Nat) (f : KIn → Word64) : State :=
  s.kfire io lat true fun s r => s.kplace s.clk.focus lat (some ⟨f r, false⟩)

/-- A pending result of a site becomes known. -/
def State.kgive (s : State) (x : Site) (id : Nat) (t : KTok) : State :=
  s.onBlk x fun b => b.onSlot x.slot fun u => { u with
    rob := u.rob.map fun r => if r.id == id then { r with res := some t } else r }

/-- A result goes to one target: `exit` takes the first that is not void (R41, R190). -/
def KBlock.put (b : KBlock) (now : Nat) (t : Target) (v : KTok) : KBlock :=
  if !t.v then b
  else if t.isLink then (if b.exitV.isNone && !v.void then { b with exitV := some (v.val.extractLsb' 0 2) } else b)
  else b.onSlot t.idx fun u => u.onPort (portNamed t.port) fun q => { q with q := q.q ++ [(now + 1, v)] }

/-- The oldest result of a slot leaves when it is known and due and its targets have room. -/
def KBlock.deliver (b : KBlock) (now : Nat) (i : Fin 128) : KBlock :=
  let u := b.slots[i]
  match u.rob with
  | ⟨_, some v, due⟩ :: rest =>
    let t0 := targetOf u.word 38
    let t1 := targetOf u.word 28
    if due ≤ now && b.room now t0 0 && b.room now t1 0 then
      ((b.onSlot i fun u => { u with rob := rest }).put now t0 v).put now t1 v
    else b
  | _ => b

/-! ## Queues (R194, R276, R371) -/

/-- The channel bound to a queue of a context in a direction. -/
def State.queueOf (s : State) (c : Fin 96) (k : Fin 4) (q : Nat) (send : Bool) : Option (Word64 × Nat) :=
  let b := (s.ctx c k).qbind.toList.getD q .none
  if b.v && b.dir == send then some (b.handle, b.chan.toNat) else none

/-- The posted writes of a context that a token it sends releases (R276). -/
def State.kreleases (s : State) (c : Fin 96) (k : Fin 4) : List Nat :=
  (s.accs.filter fun a => a.stage.unseen && match a.agent with
    | .ctx c' k' _ _ => c == c' && k == k'
    | _ => false).map Access.id

/-- A queue's channel gives credit. -/
def State.queueRoom (s : State) (q : Word64 × Nat) : Bool :=
  match s.chan q.1 q.2 with
  | some ch => ch.out.length < 8
  | none => false

/-- The token a queue carries for a value (R194). -/
def queueTok (v : KTok) : Token :=
  let t := lanesToken [v.val.extractLsb' 0 32, v.val.extractLsb' 32 32] 0
  if v.void then t.voided 0 else t

/-- The value of a token received (R194). -/
def queueVal (t : Token) : KTok := ⟨(t.lane 1) ++ (t.lane 0), t.void⟩

/-- Sends a value to a queue's channel. -/
def State.queueSend (s : State) (c : Fin 96) (k : Fin 4) (q : Word64 × Nat) (v : KTok) : State :=
  let after := s.kreleases c k
  s.onChan q.1 q.2 fun ch => { ch with out := ch.out ++ [⟨queueTok v, after, none⟩] }

/-- Takes the oldest token of a queue's channel. -/
def State.queueTake (s : State) (q : Word64 × Nat) : Option (State × KTok) :=
  match s.chan q.1 q.2 with
  | some ch => match ch.buf with
    | t :: rest => some (s.onChan q.1 q.2 fun ch => { ch with buf := rest }, queueVal t)
    | [] => none
  | none => none

/-- Register r stands for a queue (R187, R194). -/
def State.mapped (s : State) (c : Fin 96) (k : Fin 4) (r : Nat) : Bool :=
  (s.ctx c k).qmap && (s.core c).allot k == 32 && 24 ≤ r && r < 32

/-! ## Reading and writing registers (R186, R189, R194, R309) -/

/-- What a read of a register answers. -/
inductive KRead where
  | trap (cause : BitVec 8)
  | parity
  | wait
  | val (s : State) (v : KTok)

/-- A read of a register as it stood at block start; a queue-mapped one takes an entry, once in a block, and waits where the
read made for it at block start still waits. -/
def State.kread (s : State) (x : Site) (r : Int) : KRead :=
  let c := x.core
  let k := ctxOf x
  let a := (s.core c).allot k
  if r < 0 || (a : Int) ≤ r then .trap trapAllot
  else
    let r := r.toNat
    match s.kblk x with
    | none => .wait
    | some b =>
      if s.mapped c k r then
        match b.qregs.find? fun q => q.1 == r with
        | some q => .val s q.2
        | none => match s.queueOf c k (r - 24) false with
          | none => .trap trapQunbound
          | some q => if b.wants.contains r then .wait else match s.queueTake q with
            | some (s, v) => .val (s.onBlk x fun b => { b with qregs := b.qregs ++ [(r, v)] }) v
            | none => .wait
      else if (s.core c).sbad.getLsbD ((s.core c).regBase k + r) then .parity
      else .val s ⟨b.regs.getD r 0, false⟩

/-- The reads that a block made at its start take their entries, each as it comes (R194). -/
def State.kfill (s : State) (c : Fin 96) (k : Fin 4) : State :=
  match (s.ctx c k).blk with
  | none => s
  | some b => b.wants.foldl (fun s r => match (s.queueOf c k (r - 24) false).bind s.queueTake with
    | some (s, v) => s.onCtx c k fun t => { t with blk := t.blk.map fun b => { b with
        qregs := b.qregs ++ [(r, v)], wants := b.wants.filter (· != r) } }
    | none => s) s

/-- A register write kept for the commit; a void value writes nothing (R190, R194). -/
def State.kwrite (s : State) (x : Site) (rep reg : Nat) (v : KTok) : State :=
  if v.void then s else s.onBlk x fun b => { b with writes := b.writes ++ [⟨x.slot, rep, reg, v⟩] }

/-- The trap of a write to a register: beyond the allotment, or a queue-mapped one whose queue is not bound to send. -/
def State.kwriteTrap (s : State) (x : Site) (r : Int) : Option (BitVec 8) :=
  if r < 0 || ((s.core x.core).allot (ctxOf x) : Int) ≤ r then some trapAllot
  else if s.mapped x.core (ctxOf x) r.toNat && (s.queueOf x.core (ctxOf x) (r.toNat - 24) true).isNone then some trapQunbound
  else none

/-! ## Accesses of a context (R193, R272) -/

/-- A context's access of n bytes under its ASID. -/
def State.kaccess (s : State) (x : Site) (kind : AKind) (va : Word64) (data : List Byte) (wr : Bool) (pieces : List Piece) :
    State :=
  let t := s.ctx x.core (ctxOf x)
  (s.issue { id := s.newId, agent := .ctx x.core (ctxOf x) x.slot t.gen, kind := kind, asid := t.asid, wr := wr, virt := true
             column := false, addr := va, pieces := pieces, data := data, bads := [], poison := false, stage := .walk
             held := false }).tickId

/-! ## Register ranges (R194, R195) -/

/-- Changes one repetition in progress. -/
def State.onRep (s : State) (x : Site) (id : Nat) (f : KRep → KRep) : State :=
  s.onBlk x fun b => { b with reps := b.reps.map fun r => if r.id == id then f r else r }

/-- REPST shows a prefixed repetition (R195). -/
def State.showRep (s : State) (x : Site) (r : KRep) : State :=
  if !r.shown then s
  else s.onCtx x.core (ctxOf x) fun t => { t with
    repActive := true, repSlot := BitVec.ofNat 7 r.slot.val, repRemain := BitVec.ofNat 6 r.remain
    repIndex := BitVec.ofNat 6 r.index }

/-- The range instruction has ended: its completion token is known, and REPST clears.  QRECV, which delivers the value of
each repetition, delivers here only when it had none. -/
def State.endRep (s : State) (x : Site) (r : KRep) : State :=
  let s := s.onBlk x fun b => { b with reps := b.reps.filter (·.id != r.id) }
  let s := if r.shown then s.onCtx x.core (ctxOf x) fun t => { t with
      repActive := false, repSlot := 0, repRemain := 0, repIndex := 0 } else s
  let recv := match s.kblk x with
    | some b => opOf b.slots[x.slot].word == 0xD5
    | none => false
  if recv then (if r.index == 0 then s.kplace x 0 (some ⟨0, false⟩) else s) else s.kgive x r.id ⟨0, false⟩

/-- One repetition has been performed. -/
def State.advanceRep (s : State) (x : Site) (r : KRep) : State :=
  let r' := { r with index := r.index + 1, remain := r.remain - 1, wait := none }
  let s := s.onRep x r.id fun _ => r'
  if r'.remain == 0 then s.endRep x r' else s.showRep x r'

/-- The register of a repetition (R195). -/
def KRep.reg (r : KRep) (w : Word64) : Int := ((w.extractLsb' 5 5).toNat : Int) + r.index * r.stride

/-- A read made at block start still waits for an entry of a queue: it comes before a QRECV (R194). -/
def State.kwanted (s : State) (x : Site) (q : Nat) : Bool := (s.kblk x).any fun b => b.wants.contains (24 + q)

/-- One repetition of a range instruction (R194, R195). -/
def State.repStep (s : State) (x : Site) (r : KRep) (w : Word64) : State :=
  let reg := r.reg w
  let va := r.base + BitVec.ofNat 64 (8 * r.index)
  let c := x.core
  let k := ctxOf x
  let q := (w.extractLsb' 48 3).toNat
  let store (s : State) (id : Nat) : State := s.onRep x r.id fun r => { r with wait := some id }
  match opOf w with
  | 0xCC =>
    if va.toNat % 8 != 0 then s.ktrap x trapAlign
    else match s.kread x reg with
    | .trap e => s.ktrap x e
    | .parity => s.kparity x
    | .wait => s
    | .val s v =>
      if v.void then s.advanceRep x r
      else (store s s.newId).kaccess x (.kstore v.val) va (natBytes 8 v.val.toNat) true [⟨va, 8, none⟩]
  | 0xCD =>
    if va.toNat % 8 != 0 then s.ktrap x trapAlign
    else match s.kwriteTrap x reg with
    | some e => s.ktrap x e
    | none => (store s s.newId).kaccess x .kload va [] false [⟨va, 8, none⟩]
  | 0xD4 =>
    if reg < 0 || ((s.core c).allot k : Int) ≤ reg then s.ktrap x trapAllot
    else match s.queueOf c k q true with
    | none => s.ktrap x trapQunbound
    | some ch =>
      if !s.queueRoom ch then s
      else match s.kread x reg with
      | .trap e => s.ktrap x e
      | .parity => s.kparity x
      | .wait => s
      | .val s v => (s.queueSend c k ch v).advanceRep x r
  | _ => match s.kwriteTrap x reg with
    | some e => s.ktrap x e
    | none => match s.queueOf c k q false with
      | none => s.ktrap x trapQunbound
      | some ch => if s.kwanted x q then s else match s.queueTake ch with
        | none => s
        | some (s, v) => ((s.kplace x 0 (some v)).kwrite x r.index reg.toNat v).advanceRep x r

/-- One repetition of each range instruction of a context's block that does not wait for an access. -/
def State.repAll (s : State) (c : Fin 96) (k : Fin 4) : State :=
  let t := s.ctx c k
  match t.blk with
  | none => s
  | some b => b.reps.foldl (fun s r =>
      if r.wait.isSome || (s.ctx c k).gen != t.gen then s
      else
        let x := ksite c k r.slot
        if r.remain == 0 then s.endRep x r else s.repStep x r b.slots[r.slot].word) s

/-- REP_REPETITION (R195): one repetition of each range instruction of a context, and of the blocks it has left by a trap
(R191). -/
def execRepRepetition (core : Fin 96) (ctx : Fin 4) (s : State) : Done :=
  let t := s.ctx core ctx
  let s := t.drains.foldl (fun s d => s.onDrain core ctx d.1 fun s => s.repAll core ctx) s
  if t.st != .run || (s.core core).hctx.getLsbD ctx.val then .next s else .next (s.repAll core ctx)

/-- The firing of a range instruction (R194, R195): its repetitions begin, at REPST's INDEX when the block runs again. -/
def State.range (s : State) (f : FC) : State :=
  s.kfire f.io 1 true fun s r =>
    let x := s.clk.focus
    let t := s.ctx x.core (ctxOf x)
    let id := s.newId
    let resume := match s.kblk x with
      | some b => if r.rep.isSome && t.repSlot.toNat == x.slot.val then b.resume else none
      | none => none
    let n := match r.rep with
      | some q => q.count.getD 0
      | none => 1
    let index := (resume.map Prod.fst).getD 0
    let remain := (resume.map Prod.snd).getD n
    let rep : KRep := ⟨x.slot, id, r.a.val, index, remain, (r.rep.map KCount.stride).getD 0, r.rep.isSome, none⟩
    if 32 < n then s.ktrap x trapAllot
    else
      let s := s.onBlk x fun b => { b with
        reps := b.reps ++ [rep], resume := if resume.isSome then none else b.resume }
      let s := if opOf (((s.kblk x).map fun b => b.slots[x.slot].word).getD 0) == 0xD5 then s.tickId else s.kplace x 0 none
      s.showRep x rep

/-! ## Waits (R194, R196, R302) -/

/-- A firing that waits: its result has a place and what it waits for is listed. -/
def State.kwaits (s : State) (x : Site) (what : KWaitFor) : State :=
  let id := s.newId
  (s.onBlk x fun b => { b with waits := b.waits ++ [⟨x.slot, id, what⟩] }).kplace x 1 none

/-- The wait has ended with a result. -/
def State.kawake (s : State) (x : Site) (id : Nat) (v : KTok) : State :=
  (s.onBlk x fun b => { b with waits := b.waits.filter (·.id != id) }).kgive x id v

/-- A wait ends when what it waits for is there. -/
def State.kpoll (s : State) (c : Fin 96) (k : Fin 4) (w : KWait) : State :=
  let x := ksite c k w.slot
  let t := s.ctx c k
  match w.what with
  | .record word pop => match t.evq with
    | r :: rest =>
      let s := if pop then s.onCtx c k fun t => { t with evq := rest } else s
      s.kawake x w.id ⟨r.extractLsb' (64 * word) 64, false⟩
    | [] => s
  | .event _ => if t.evq.isEmpty then s else s.kawake x w.id ⟨1, false⟩
  | .reg r => match s.kread x r with
    | .trap e => s.ktrap x e
    | .parity => s.kparity x
    | .wait => s
    | .val s v => s.kawake x w.id v
  | .stop k' old => if (s.ctx c k').st == .run then s else s.kawake x w.id ⟨old, false⟩

/-- What a context's block does by itself in a cycle: waits end, and results leave. -/
def State.ktend (s : State) (c : Fin 96) (k : Fin 4) : State :=
  let t := s.ctx c k
  match t.blk with
  | none => s
  | some b =>
    let s := b.waits.foldl (fun s w => if (s.ctx c k).gen == t.gen then s.kpoll c k w else s) (s.kfill c k)
    let all (b : KBlock) : KBlock := (List.finRange 128).foldl (fun b i => b.deliver s.clk.now i) b
    s.onCtx c k fun t => { t with blk := t.blk.map all }

/-- WFE_TIMEOUT (R196): a WFE whose limit has passed delivers 0. -/
def execWfeTimeout (core : Fin 96) (ctx : Fin 4) (slot : Fin 128) (gen : Nat) (s : State) : Done :=
  let t := s.ctx core ctx
  match t.blk with
  | some b =>
    if t.gen != gen then .next s
    else match b.waits.find? fun w => w.slot == slot && match w.what with
      | .event d => d ≤ s.clk.now
      | _ => false with
    | some w => .next (s.kawake (ksite core ctx slot) w.id ⟨if t.evq.isEmpty then 0 else 1, false⟩)
    | none => .next s
  | none => .next s

/-! ## Fetch and start of a block (R189) -/

/-- A failure report (R79). -/
def failureReport (handle word : Word64) (baddr : BitVec 48) (reason : Reason) (slot : Nat) (hdr : Bool) (place : BitVec 64)
    (src : BitVec 2) (entry nbad : Nat) : Record :=
  let low : BitVec 64 := (BitVec.ofNat 7 slot ++ BitVec.ofBool hdr ++ (place.extractLsb' 41 15) ++ src ++
    BitVec.ofNat 6 entry ++ BitVec.ofNat 8 (min nbad 255) ++ 0#25)
  handle ++ word ++ 0x10#8 ++ baddr ++ reason ++ low

/-- A word that a context or the kiln reads; one of a poisoned unit is free (R243). -/
def State.plainWord (s : State) (pa i : Nat) : Word64 :=
  if s.atPeer pa || s.mem.spoilt pa then Config.freeWord (s.clk.fresh + i)
  else BitVec.ofNat 64 (bytesNat (s.readBytes pa 8))

/-- The 64-byte lines that n bytes from an aligned address on occupy. -/
def lineVas (va : Word64) (n : Nat) : List Word64 := (List.range ((n + 63) / 64)).map fun i => va + BitVec.ofNat 64 (64 * i)

/-- Translates lines in order; the first that is refused stops it, with its address and cause. -/
def State.translateAll (s : State) (rec_ : CRec) (c : Fin 96) (asid : BitVec 12) : List Word64 → State × Except (Word64 × BitVec 8) (List Nat)
  | [] => (s, .ok [])
  | va :: rest =>
    let r := s.translate rec_ c asid true false false false va 64
    match r.2 with
    | .error e => (r.1, .error (va, e))
    | .ok pa =>
      let t := r.1.translateAll rec_ c asid rest
      match t.2 with
      | .error e => (t.1, .error e)
      | .ok pas => (t.1, .ok (pa :: pas))

/-- A fetch refused at an address: parked with AGENT 3, or the trap ACCESS (R189). -/
def State.fetchRefused (s : State) (c : Fin 96) (k : Fin 4) (va : Word64) (cause : BitVec 8) : State :=
  let t := s.ctx c k
  if parks cause then
    let a : Access :=
      { id := s.newId, agent := .fetch c k t.gen, kind := .fetchBlock, asid := t.asid, wr := false, virt := true
        column := false, addr := va, pieces := [⟨va, 64, none⟩], data := [], bads := [], poison := false
        stage := .parked cause, held := false }
    ({ s with accs := s.accs ++ [a] }.tickId).collect
      (s.accRec a cause (BitVec.ofNat 54 (va.toNat / 65536 * 65536)) true t.asid)
  else s.ktrapVal (ksite c k 0) trapAccess va

/-- A block that fails its checks (R189): the report to the context and the collector, and the trap BADBLOCK. -/
def State.badBlock (s : State) (c : Fin 96) (k : Fin 4) (f : BadWord) (nbad : Nat) : State :=
  let t := s.ctx c k
  let place := placeBits c 0 0 0 0
  let r := failureReport 0 f.2.1 t.bptr f.2.2.2 (if f.2.2.1 then 0 else f.1.val) f.2.2.1 place 1 0 nbad
  ((s.pushEvent c k r true).collect (placedRec 0 t.asid 0x29 (f.2.2.2.setWidth 32) c 0 0 k.val (if f.2.2.1 then 0 else f.1.val) 3)).ktrap
    (ksite c k (if f.2.2.1 then 0 else f.1)) trapBadBlock

/-- A slot of a control block at its start. -/
def KSlot.holding (w : Word64) : KSlot := ⟨w, ⟨[], []⟩, ⟨[], []⟩, ⟨[], []⟩, false, []⟩

/-- The registers that a word reads at block start, as KRD, KSTM or QSEND, with every repetition that its REP names in the word
itself (R194, R195). -/
def startReads (words : List Word64) (i : Nat) : List Nat :=
  let w := words.getD i 0
  let ra := (w.extractLsb' 5 5).toNat
  let op := opOf w
  let rep := if i == 0 then 0 else words.getD (i - 1) 0
  if op == 0xCE then [ra]
  else if op != 0xCC && op != 0xD4 then []
  else if opOf rep != 0xD3 then [ra]
  else if (wordPort rep .a).used then []
  else (List.range (rep.extractLsb' 4 6).toNat).filterMap fun (j : Nat) =>
    let r : Int := (ra : Int) + (j : Int) * (rep.extractLsb' 0 4).toInt
    if r < 0 then none else some r.toNat

/-- The block starts (R189, R195): every register read sees the value it holds now; a read of a queue-mapped register that is
bound to receive waits for an entry (R194). -/
def State.startBlock (s : State) (c : Fin 96) (k : Fin 4) (hdr : BitVec 128) (words : List Word64) : State :=
  let q := s.core c
  let regs := (List.range (q.allot k)).map (q.sreg k)
  s.onCtx c k fun t => { t with
    blk := some {
      hdr := hdr, addr := t.bptr ++ 0#6, slots := Vector.ofFn fun i => KSlot.holding (words.getD i.val 0), regs := regs
      qregs := [], writes := [], branch := none, push := none, pop := false, exitV := none, halt := false, counts := []
      reps := [], waits := []
      resume := if t.repActive then some (t.repIndex.toNat, t.repRemain.toNat) else none
      wants := ((List.range words.length).flatMap (startReads words)).eraseDups.filter fun r =>
        s.mapped c k r && (s.queueOf c k (r - 24) false).isSome
      bad := [] } }

/-- The words of a block whose lines have been translated; reads meet the error marks (R243). -/
def State.fetchWords (s : State) (a : Access) (pas : List Nat) (count : Nat) : State × List Word64 :=
  let s := pas.foldl (fun s pa => (s.meetErrors a pa).askPeer pa 64) s
  (s.tickBy (8 * pas.length), (List.range (count + 3)).map fun i => s.plainWord (pas.getD (i / 8) 0 + 8 * (i % 8)) i)

/-- A posted write of a context meets a line that its fetch reads: the fetch is performed after it (R272). -/
def State.ownWrites (s : State) (c : Fin 96) (k : Fin 4) (pas : List Nat) : Bool :=
  s.accs.any fun b => b.stage == .posted && (match b.agent with
    | .ctx c' k' _ _ => c == c' && k == k'
    | _ => false) && pas.any fun pa => b.pieces.any (Piece.meets ⟨0, 64, some pa⟩)

/-- BLOCK_FETCH (R189): header, checks, words, checks, start. -/
def execBlockFetch (core : Fin 96) (ctx : Fin 4) (gen : Nat) (s : State) : Done :=
  let t := s.ctx core ctx
  if t.gen != gen || t.st != .run || t.blk.isSome then .next s
  else
    let va : Word64 := (t.bptr ++ 0#6 : BitVec 54).setWidth 64
    let a : Access :=
      { id := 0, agent := .fetch core ctx gen, kind := .fetchBlock, asid := t.asid, wr := false, virt := true, column := false
        addr := va, pieces := [], data := [], bads := [], poison := false, stage := .ready, held := false }
    let rec_ := s.accRec a 0x40 0 false 0
    let again : State := s.later 1 (.blockFetch core ctx gen)
    let h := s.translateAll rec_ core t.asid [va]
    match h.2 with
    | .error e => .next (h.1.fetchRefused core ctx e.1 e.2)
    | .ok pas =>
      if s.ownWrites core ctx pas then .next again
      else
      let w := h.1.fetchWords a pas 5
      let hdr : BitVec 128 := w.2.getD 1 0 ++ w.2.getD 0 0
      let bad := headerReasons hdr
      if hdrKind hdr == 1 then .next (w.1.ktrap (ksite core ctx 0) trapBadBlock)
      else if !bad.isEmpty then
        .next (w.1.badBlock core ctx (0, hdr.extractLsb' 64 64, true, bad.headD 0) bad.length)
      else
        let n := hdrCount hdr
        let r := w.1.translateAll rec_ core t.asid ((lineVas va (24 + 8 * n)).drop 1)
        match r.2 with
        | .error e => .next (r.1.fetchRefused core ctx e.1 e.2)
        | .ok more =>
          if s.ownWrites core ctx more then .next again
          else
          let f := r.1.fetchWords a (pas ++ more) n
          let words := (w.2.drop 2).take 6 ++ f.2.drop 8
          let words := words.take (n + 1)
          let blk : BlockCtx := ⟨hdr, 0, 0, words, [], [], [], [], none, 0⟩
          match blk.failures with
          | [] => .next ((f.1.startBlock core ctx hdr words).kfill core ctx)
          | b :: rest => .next (f.1.badBlock core ctx b (rest.length + 1))

/-! ## Commit (R190) -/

/-- Nothing in the block can happen any more (R190). -/
def KBlock.quiet (b : KBlock) (now : Nat) : Bool :=
  b.reps.isEmpty && b.waits.isEmpty && (List.finRange 128).all fun i =>
    let u := b.slots[i]
    u.word == 0 || (u.rob.isEmpty && !b.can now (kwordIo u.word) i && ports.all fun p =>
      ((u.port p).q.all fun e => e.1 ≤ now) && (u.port p).freed.all (· ≤ now))

/-- A write goes into a list in order, before those it does not come after. -/
def insertWrite (w : KWrite) : List KWrite → List KWrite
  | [] => [w]
  | v :: rest => if w.slot < v.slot || (w.slot == v.slot && w.rep ≤ v.rep) then w :: v :: rest else v :: insertWrite w rest

/-- The writes of a block in the order they take effect: ascending slot, then repetition. -/
def KBlock.ordered (b : KBlock) : List KWrite := b.writes.foldr insertWrite []

/-- A write takes effect: a queue-mapped register sends (R194). -/
def State.kapply (s : State) (c : Fin 96) (k : Fin 4) (w : KWrite) : State :=
  if s.mapped c k w.reg then match s.queueOf c k (w.reg - 24) true with
    | some q => s.queueSend c k q w.val
    | none => s
  else s.setSreg c k w.reg w.val.val

/-- The values the commit sends to each queue all have room. -/
def State.kcommitRoom (s : State) (c : Fin 96) (k : Fin 4) (ws : List KWrite) : Bool :=
  (List.range 8).all fun q =>
    let n := (ws.filter fun w => s.mapped c k w.reg && w.reg == 24 + q).length
    n == 0 || match s.queueOf c k q true with
      | some ch => match s.chan ch.1 ch.2 with
        | some h => h.out.length == 0 || h.out.length + n ≤ 8
        | none => true
      | none => true

/-- The successor (R190): a branch's target, else the exit value's offset; zero stops. -/
def KBlock.successor (b : KBlock) : Word64 :=
  match b.branch with
  | some a => a
  | none =>
    let off := hdrSucc b.hdr (b.exitV.getD 0).toNat
    if off == 0 then 0 else BitVec.ofInt 64 ((b.addr.toNat : Int) + 64 * off)

/-- The end of a block (R190): writes, call stack, successor.  A branch address beyond 54 bits is refused as its fetch
would be. -/
def State.kcommit (s : State) (c : Fin 96) (k : Fin 4) (b : KBlock) : State :=
  let s := b.ordered.foldl (fun s w => s.kapply c k w) s
  let s := s.onCtx c k fun t => { t with
    blk := none, gen := t.gen + 1
    stack := (if b.pop then t.stack.dropLast else t.stack) ++ (b.push.map fun a => a.extractLsb' 6 48).toList }
  let next := b.successor
  let stopped : State := s.onCtx c k fun t => { t with st := .stopped, stopReq := false }
  if b.halt || next == 0 then stopped
  else
    let go (s : State) : State := s.onCtx c k fun t => { t with bptr := next.extractLsb' 6 48 }
    if next.extractLsb' 54 10 != 0 then (go s).ktrapVal (ksite c k 0) trapAccess next
    else if (s.ctx c k).stopReq then go stopped
    else (go s).startFetch c k

/-- CONTROL_BLOCK_COMMIT (R190): a quiescent block commits once its sends have room. -/
def execControlBlockCommit (core : Fin 96) (ctx : Fin 4) (s : State) : Done :=
  let t := s.ctx core ctx
  match t.blk with
  | none => .next s
  | some b =>
    if t.st != .run || (s.core core).hctx.getLsbD ctx.val || !b.quiet s.clk.now || !s.kcommitRoom core ctx b.ordered then
      .next s
    else .next (s.kcommit core ctx b)

/-- CONTEXT_STOP (R302): a context asked to stop does so while it fetches, between two repetitions, or at a wait. -/
def execContextStop (core : Fin 96) (ctx : Fin 4) (s : State) : Done :=
  let t := s.ctx core ctx
  let here := match t.blk with
    | none => true
    | some b => (b.reps.any fun r => r.shown && r.wait.isNone) || b.waits.any fun w => match w.what with
      | .record .. => true
      | .event _ => true
      | _ => false
  if t.st == .run && t.stopReq && here then .next (s.kstop core ctx) else .next s

/-! ## The engine (R184) -/

/-- The slots of a context's block that can fire, ascending. -/
def State.kready (s : State) (c : Fin 96) (k : Fin 4) : List (Fin 128) :=
  match (s.ctx c k).blk with
  | none => []
  | some b =>
    if (s.ctx c k).st != .run || (s.core c).hctx.getLsbD k.val then []
    else (List.finRange 128).filter fun i => b.slots[i].word != 0 && b.can s.clk.now (kwordIo b.slots[i].word) i

/-- The firings of a core's engine in a cycle, and the context whose turn is next (R184): at most two, round-robin, the
second of one context only when no other is ready. -/
def State.kchoose (s : State) (c : Fin 96) : List Site × Fin 4 :=
  let turn := (s.core c).turn
  let order : List (Fin 4) := (List.finRange 4).map fun i => turn + i
  let ready := (order.map fun k => (k, s.kready c k)).filter fun p => !p.2.isEmpty
  match ready with
  | [] => ([], turn)
  | [(k, i :: j :: _)] => ([ksite c k i, ksite c k j], k + 1)
  | [(k, i :: _)] => ([ksite c k i], k + 1)
  | (k, i :: _) :: (k', j :: _) :: _ => ([ksite c k i, ksite c k' j], k' + 1)
  | _ => ([], turn)

end Sys2Proof.Machine
end

