-- ==== Sys2Proof/Machine/Head.lean ====
section
/-! DEFINITION. Rotation heads and slot commands (R82..R110, R114, R120, R121, R124): the pass of a position, admission,
slot faults, rotation commands, banking and relighting, retirement, and the lookahead head. -/

namespace Sys2Proof.Machine

/-! ## Records (R124) and faults of a slot (R94) -/

/-- The site of the rotation head of a region. -/
def State.headSite (s : State) (c : Fin 96) (r : Fin 8) : Option Site := (s.headSlot c r).map (siteOf c r)

/-- A rotation event record of the head at x (R124), with the slot that HSLOT names: the head's, or the faulting instruction's. -/
def rotRecord (s : State) (x : Site) (hslot : Fin 128) (code : BitVec 8) (slot : BitVec 8) (key : BitVec 32) (bef aft : SState)
    (fc : BitVec 8) (aux : BitVec 32) : Record :=
  let g := s.region x.core x.unit
  let p := g.at_ hslot
  let rot := ((s.head x).map Head.rotnum).getD 0
  g.handle ++ key ++ rot ++ code ++ slot ++ BitVec.ofNat 4 bef.code ++ BitVec.ofNat 4 aft.code ++ fc ++ aux ++
    placeBits x.core p.1 p.2 x.unit hslot.val

/-- A rotation event goes to the collector (R288, R294). -/
def State.headCollect (s : State) (x : Site) (hslot : Fin 128) (cause : BitVec 8) (aux : BitVec 32) : State :=
  let g := s.region x.core x.unit
  match s.cfg g.handle with
  | none => s
  | some cfg =>
    let p := g.at_ hslot
    s.collect (placedRec g.handle cfg.asid cause aux x.core p.1 p.2 x.unit.val hslot.val (s.slotAgent x.core x.unit hslot))

/-- Posts a rotation event of the head to the owner (R124). -/
def State.headPost (s : State) (x : Site) (code : BitVec 8) (slot : BitVec 8) (key : BitVec 32) (bef aft : SState)
    (fc : BitVec 8) (aux : BitVec 32) : State :=
  match s.cfg (s.region x.core x.unit).handle with
  | none => s
  | some cfg => s.post cfg (rotRecord s x x.slot code slot key bef aft fc aux) true

/-- An entry of the slot table. -/
def Head.entry (h : Head) (sl : Nat) : SEntry := h.table.getD sl .zero

/-- The head with an entry of the slot table changed. -/
def Head.onEntry (h : Head) (sl : Nat) (f : SEntry → SEntry) : Head := { h with table := h.table.modify sl f }

/-- The slot number as a record holds it. -/
def slotByte (sl : Nat) : BitVec 8 := BitVec.ofNat 8 (min sl 255)

/-- The SLOT FAULT record to the owner and to the collector, with the faulting instruction's slot, or the head's where none is
known (R94, R124, R288). -/
def State.postSlotFault (s : State) (x : Site) (sl : Nat) (e : SEntry) (fc : Cause) (hslot : Fin 128) : State :=
  match s.cfg (s.region x.core x.unit).handle with
  | none => s
  | some cfg =>
    (s.post cfg (rotRecord s x hslot 0x20 (slotByte sl) e.key e.st .fault fc 0) true).headCollect x hslot 0x18 (fc.setWidth 32)

/-- Slot sl becomes FAULT with a cause (R94). -/
def State.slotFault (s : State) (x : Site) (sl : Nat) (fc : Cause) (culprit : Option (Fin 128)) : State :=
  match s.head x with
  | none => s
  | some h =>
    let e := h.entry sl
    (s.onHead x fun h => { (h.onEntry sl fun e => { e with st := .fault, fcause := fc }) with faults := h.faults + 1 }).postSlotFault x
      sl e fc (culprit.getD x.slot)

/-- A return that is a fault of its slot: a carry sent as data that comes back void; in a HELD or EMPTY slot one that
carries a cause (R90, R94). -/
def faultyReturn (e : SEntry) (ret : Option Token) : Option Cause :=
  match ret with
  | none => none
  | some t =>
    if !t.void then none
    else match e.st with
      | .live | .drain => if e.sv then none else some (if t.cause == 0 then 0x05 else t.cause)
      | .held | .empty => if t.cause == 0 then none else some t.cause
      | _ => none

/-- The slot whose fault made the carry at the front of port a void. -/
def State.culprit (s : State) (x : Site) : Option (Fin 128) := (s.slot x).a.q.head?.bind fun e => e.src.culprit

/-- The fault check of a pass (R90). -/
def State.checkReturn (s : State) (x : Site) (sl : Nat) (ret : Option Token) (culprit : Option (Fin 128)) : State :=
  match s.head x with
  | none => s
  | some h => match faultyReturn (h.entry sl) ret with
    | some c => s.slotFault x sl c culprit
    | none => s

/-! ## Ember records (R103..R105) -/

/-- A slot record: carry with VOID and EOS clear, sideband, entry (R103). -/
def slotRecord (carry : Token) (e : SEntry) : List Byte :=
  let t := Token.seal { carry with void := false, eos := false, mark := false, cause := 0 }
  t.bytes ++ natBytes 4 t.sideWord.toNat ++ natBytes 16 e.bits.toNat ++ List.replicate 44 0

/-- A slot record read back: its carry, its entry, and whether its parity holds (R103, R107). -/
def readSlotRecord (bs : List Byte) : Token × SEntry × Bool :=
  let t := tokenOf (bs.take 64) (BitVec.ofNat 32 (bytesNat ((bs.drop 64).take 4)))
  (t, SEntry.ofBits (BitVec.ofNat 128 (bytesNat ((bs.drop 68).take 16))), t.parityOk)

/-- A read of the ember store that meets no spoilt unit (R243). -/
def State.emberClean (s : State) (c : Fin 96) (off n : Nat) : Bool :=
  (List.range ((n + 63) / 64)).all fun i => !s.mem.spoilt (emberAddr c (off + 64 * i))

/-- A read of the head's in the ember store meets the error marks of its units (R243, R309). -/
def State.emberMeet (s : State) (x : Site) (off n : Nat) : State :=
  let g := s.region x.core x.unit
  let p := g.at_ x.slot
  let rec_ := placedRec g.handle 0 0x40 0 x.core p.1 p.2 x.unit.val x.slot.val 1
  (List.range ((n + 63) / 64)).foldl (fun s i => s.meetUnit rec_ (emberAddr x.core (off + 64 * i))) s

/-- The ember offset a BANK or UNBANK names (R106, R107). -/
def imageOffset (h : Head) (lane0 : Lane) : Nat := if lane0 == 0xFFFFFFFF then h.ebase.toNat else lane0.toNat

/-! ## Commands (R99, R100) -/

/-- The status codes of R99. -/
inductive Status where
  | done | noEffect | badSlot | late | emberErr | fault
  deriving DecidableEq, Repr

/-- A status as a number. -/
def Status.code : Status → Nat
  | .done => 0
  | .noEffect => 1
  | .badSlot => 2
  | .late => 3
  | .emberErr => 4
  | .fault => 5

/-- The status token (R99). -/
def statusTok (st : Status) (slot rot : Lane) (bef aft : SState) (key : BitVec 32) : Token :=
  i32Token [BitVec.ofNat 32 st.code, slot, rot, BitVec.ofNat 32 bef.code, BitVec.ofNat 32 aft.code, key]

/-- A result of a reorder buffer becomes known. -/
def State.resolve (s : State) (x : Site) (id : Nat) (res : List Emit) : State :=
  s.onSlot x fun u => { u with rob := u.rob.map fun r => if r.id == id then { r with res := some res } else r }

/-- The status of a command is delivered in its place (R99). -/
def State.answer (s : State) (cmd : Cmd) (t : Token) : State := s.resolve cmd.site cmd.seq [.both t]

/-- The status of a command that waits for the head's ember writes (R99). -/
def State.answerAfterWrites (s : State) (x : Site) (cmd : Cmd) (t : Token) : State :=
  (s.onHead x fun h => { h with writes := h.writes ++ [⟨cmd.site, cmd.seq, t⟩] }).laterFree 1
    (.emberWriteDone x.core x.unit (s.region x.core x.unit).gen)

/-- Any rotation (R92, R99). -/
def anyRot : Lane := 0xFFFFFFFF

/-- The command names this rotation or an earlier one, or any. -/
def QCmd.rotOk (q : QCmd) (r : BitVec 32) : Bool := q.cmd.lane1 == anyRot || q.cmd.lane1 ≤ r

/-- The command is applied in a later rotation than it named. -/
def QCmd.isLate (q : QCmd) (r : BitVec 32) : Bool := q.cmd.lane1 != anyRot && q.cmd.lane1 < r

/-- A slot command due at a pass of slot sl in rotation r (R99). -/
def QCmd.dueAt (q : QCmd) (now sl : Nat) (r : BitVec 32) : Bool :=
  !q.cmd.kind.isRotation && q.cmd.lane0.toNat == sl && q.at_ < now && q.rotOk r

/-- What a slot command does to its slot (R100): status, entry after, and whether the stream is released. -/
def slotEffect (k : CmdKind) (e : SEntry) : Status × SEntry × Bool :=
  match k, e.st with
  | .shld, .live => (.done, { e with st := .held, fh := true }, false)
  | .shld, .held => if e.fh then (.noEffect, e, false) else (.done, { e with fh := true }, false)
  | .shldU, .held => if e.fh then (.done, { e with fh := false }, false) else (.noEffect, e, false)
  | .srel, .live => (.done, e, true)
  | .srel, .held => (.done, e, true)
  | .sclr, .fault => (.done, .zero, false)
  | .sclr, .empty => (.done, .zero, false)
  | .sclr, .banked => (.done, .zero, false)
  | .sevc, .live => (.done, { e with st := .banked }, false)
  | .sevc, .held => (.done, { e with st := .banked }, false)
  | .sevc, .fault => (.done, { e with st := .banked }, false)
  | _, _ => (.noEffect, e, false)

/-- A command that is applied late is counted (R99). -/
def State.countLate (s : State) (x : Site) (late : Bool) : State :=
  s.onHead x fun h => { h with lates := if late then h.lates + 1 else h.lates }

/-- Applies one slot command at the pass of slot sl (R99, R100): LATES and LATE tell of every command, whatever its status; true when
it releases the stream. -/
def State.applySlotCmd (s : State) (x : Site) (sl : Nat) (ret : Option Token) (q : QCmd) : State × Bool :=
  match s.head x with
  | none => (s, false)
  | some h =>
    let e := h.entry sl
    let r := slotEffect q.cmd.kind e
    let off := h.kbase.toNat + 128 * e.key.toNat
    let writes := q.cmd.kind == .sevc && r.1 == .done
    let st := if writes && (h.kcount ≤ e.key || !s.emberHas x.core off 128) then Status.emberErr else r.1
    let late := q.isLate h.rotnum
    let e' := { (if st == .done then r.2.1 else e) with late := late }
    let t := statusTok (if late && st == .done then .late else st) q.cmd.lane0 h.rotnum e.st
      (if r.2.2 && st == .done then .drain else e'.st) e.key
    let s := (s.onHead x fun h => h.onEntry sl fun _ => e').countLate x late
    if writes && st == .done then
      let carry := if e.st == .fault then h.shadow.getD sl eosToken else (ret.getD (h.shadow.getD sl eosToken))
      ((s.emberWrite x.core off (slotRecord carry e)).answerAfterWrites x q.cmd t, false)
    else (s.answer q.cmd t, r.2.2 && st == .done)

/-- Applies the slot commands due at a pass, in queue order. -/
def State.applyDue (s : State) (x : Site) (sl : Nat) (ret : Option Token) : List QCmd → State × Bool
  | [] => (s, false)
  | q :: rest =>
    let a := s.applySlotCmd x sl ret q
    let b := a.1.applyDue x sl ret rest
    (b.1, a.2 || b.2)

/-- A command completes without effect. -/
def State.noEffect (s : State) (x : Site) (st : Status) (cmd : Cmd) : State :=
  match s.head x with
  | none => s
  | some h =>
    if cmd.kind.isRotation then s.answer cmd (statusTok st anyRot h.rotnum .empty .empty 0)
    else
      let e := h.entry cmd.lane0.toNat
      s.answer cmd (statusTok st cmd.lane0 h.rotnum e.st e.st e.key)

/-- Takes the queued commands that meet a condition off the queue. -/
def State.takeQueued (s : State) (x : Site) (p : QCmd → Bool) : State :=
  s.onHead x fun h => { h with queue := h.queue.filter fun q => !p q }

/-! ## The drain target (R86, R91) -/

/-- The drain target has room. -/
def State.drainRoom (s : State) (x : Site) (h : Head) : Bool := !h.drain.v || !s.counted x h.drain || 0 < h.drainCred

/-- A carry goes to the drain target with VOID cleared; an invalid drain target drops it (R86, R91). -/
def State.sendDrain (s : State) (x : Site) (t : Token) : State :=
  match s.head x with
  | none => s
  | some h =>
    if !h.drain.v then s
    else (s.onHead x fun h => { h with drainCred := h.drainCred - 1 }).later (targetD x.slot h.drain)
      (.tokenArrival x h.drain t.unvoided (s.region x.core x.unit).gen ⟨(s.slot x).count, .none⟩)

/-! ## Admission (R92, R93) -/

/-- A rejection (R92). -/
def State.reject (s : State) (x : Site) (sa : Lane) (key : Lane) : State :=
  match s.head x with
  | none => s
  | some h =>
    let st := (h.entry sa.toNat).st
    (s.onHead x fun h => { h with rejects := h.rejects + 1 }).headPost x 0x21 (slotByte sa.toNat) key st st 0 0

/-- The source of an admission token: 0 zero, 1 ember, 2 value (R98). -/
def admSource (t : Token) : Nat := ((t.lane 3).extractLsb' 4 2).toNat

/-- The head starts the ember read of the request at the front of port c (R93). -/
def State.startEmberRead (s : State) (x : Site) : State :=
  match s.head x, s.front x .c with
  | some h, some t =>
    if t.eos || t.void || admSource t != 1 || h.read.isSome then s
    else
      let key := t.lane 0
      let off := h.kbase.toNat + 128 * key.toNat
      let ok := key < h.kcount && s.emberHas x.core off 128
      let r := readSlotRecord (s.emberRead x.core off 128)
      let good := ok && r.2.2 && r.2.1.key == key && s.emberClean x.core off 128
      ((if ok then s.emberMeet x off 128 else s).onHead x fun h => { h with read := some ⟨key, false, good, r.1, false⟩ }).laterFree 1
        (.emberReadDone x.core x.unit (s.region x.core x.unit).gen)
  | _, _ => s

/-- What admission does at a pass: the initial carry when the slot is admitted, and whether port c is popped. -/
structure Admit where
  carry : Option Token
  pop : Bool

/-- No admission, and the token stays. -/
def Admit.no : Admit := ⟨none, false⟩

/-- The entry of an admitted stream (R92); FCAUSE is cleared too (log 116, DESIGN CHOICE: R92 does not name it). -/
def admitted (old : SEntry) (key : Lane) (r : BitVec 32) (ctag : BitVec 4) (em late : Bool) : SEntry :=
  { old with
    key := key, admrot := r, passes := 0, holds := 0, fcause := 0, ctag := ctag, fh := false, em := em, late := late }

/-- Tries admission at the pass of slot sl in rotation r (R92, R93).  The EMBER ERROR record has FCAUSE 0, as the slot has (log 116,
DESIGN CHOICE: R88 names 0x06, which R93 keeps out of the slot). -/
def State.tryAdmit (s : State) (x : Site) (sl : Nat) (r : BitVec 32) : State × Admit :=
  match s.head x, s.front x .c with
  | some h, some t =>
    if t.eos then (s, .no)
    else if t.void then (s, ⟨none, true⟩)
    else
      let key := t.lane 0
      let sa := t.lane 1
      let ra := t.lane 2
      let ctag : BitVec 4 := (t.lane 3).extractLsb' 0 4
      let e := h.entry sl
      let due := sa.toNat == sl && (ra == anyRot || ra ≤ r)
      let unread (s : State) : State := s.onHead x fun h => { h with read := none }
      let enter (ctag : BitVec 4) (em late : Bool) (carry : Token) : State × Admit :=
        ((unread s).onHead x fun h => { (h.onEntry sl fun e => admitted e key r ctag em late) with
            lates := if late then h.lates + 1 else h.lates }, ⟨some carry, true⟩)
      if h.pcur ≤ sa.toNat then ((unread s).reject x sa key, ⟨none, true⟩)
      else if !due then (s, .no)
      else if e.st != .empty && e.st != .banked then ((unread s).reject x sa key, ⟨none, true⟩)
      else
        let late := ra != anyRot && ra < r
        match admSource t with
        | 1 => match h.read with
          | some rd =>
            if !rd.done then (s.onHead x fun h => { h with read := some { rd with late := true } }, .no)
            else if !rd.ok then
              (((unread s).reject x sa key).headPost x 0x27 (slotByte sa.toNat) key e.st e.st 0
                (h.kbase + 128 * key), ⟨none, true⟩)
            else enter rd.carry.tag true (late || rd.late) rd.carry.unvoided
          | none => (s, .no)
        | 2 => enter ctag false late (dataToken (Vector.replicate 16 (t.lane 4)) ctag)
        | _ => enter ctag false late (dataToken zeroLanes ctag)
  | _, _ => (s, .no)

/-! ## The pass (R89..R91) -/

/-- What the row of R91 gives: the tokens for T0 and T1, the state after, whether the feed entry is discarded, and the
carry that drains. -/
structure Row where
  t0 : Token
  t1 : Token
  st : SState
  discard : Bool
  drain : Option Token

/-- A bubble: void, payload zero, TAG 0x0. -/
def bubble : Token := voidToken zeroLanes 0 0

/-- The row of the pass (R91): the slot's entry, the initial carry of an admission, the carry and the feed entry.  A void x has the
feed's payload and TAG and no cause (log 116, DESIGN CHOICE: R91 says void alone). -/
def rowOf (e : SEntry) (adm ret : Option Token) (feed : Token) : Row :=
  let x := if feed.void then feed.voided 0 else feed
  let car := ret.getD bubble
  match adm with
  | some c => if feed.void then ⟨c.voided 0, x, .held, false, none⟩ else ⟨c, x, .live, false, none⟩
  | none =>
    match e.st with
    | .empty | .banked => ⟨bubble, x.voided 0, e.st, !feed.void, none⟩
    | .live => if feed.void then ⟨car.voided 0, x, .held, false, none⟩ else ⟨car.unvoided, x, .live, false, none⟩
    | .held =>
      if e.fh then ⟨car.voided 0, x.voided 0, .held, !feed.void, none⟩
      else if feed.void then ⟨car.voided 0, x, .held, false, none⟩
      else ⟨car.unvoided, x, .live, false, none⟩
    | .drain => ⟨bubble, x.voided 0, .empty, !feed.void, ret⟩
    | .fault => ⟨bubble, x.voided 0, .fault, !feed.void, none⟩

/-- The entry after the row (R88, R90): passes and holds counted.  When it becomes EMPTY all of it but SV and LATE is zero (log 116,
DESIGN CHOICE: R88 says so of KEY alone). -/
def entryAfter (e : SEntry) (st : SState) (sv : Bool) : SEntry :=
  match st with
  | .empty => { SEntry.zero with sv := sv, late := e.late }
  | .live => { e with
      st := st, sv := sv, passes := if e.passes == 0xFFFFFF then e.passes else e.passes + 1, holds := 0 }
  | .held => { e with st := st, sv := sv, holds := if e.holds == 255 then 255 else e.holds + 1 }
  | _ => { e with st := st, sv := sv }

/-- A slot record of an open snapshot, copied at the pass (R114). -/
def State.copySlot (s : State) (x : Site) (sl : Nat) (ret : Option Token) : State :=
  match s.head x, (s.region x.core x.unit).snap with
  | some h, some sn =>
    if h.copies == 0 then s
    else
      let off := sn.off + 128 + 128 * sl
      let bs := slotRecord (ret.getD (h.shadow.getD sl eosToken)) (h.entry sl)
      let s := if s.emberHas x.core off 128 then s.emberWrite x.core off bs else s
      let s := s.onHead x fun h => { h with copies := h.copies - 1 }
      if h.copies == 1 then s.snapCheckClose x.core x.unit else s
  | _, _ => s

/-- The carry of the slot now due: none in a first round that has none, else the front of port a (R89, R90). -/
def State.returning (s : State) (x : Site) (h : Head) : Option Token :=
  if h.issued < h.pcur then (h.firstCarry.getD h.pos none) else s.front x .a

/-- The conditions of R89 on the ports: a feed entry, a request unless the form does not wait, and from the second round
on the slot's carry; a DRAIN slot's pass also waits for room at the drain target (log 46, DESIGN CHOICE: R89 does not list it). -/
def State.passReady (s : State) (x : Site) (f : FA) (h : Head) : Bool :=
  (match s.front x .b with
    | some t => !t.eos
    | none => false) &&
  (!f.c.used || f.imm.getLsbD 8 || (s.front x .c).isSome) &&
  (h.issued < h.pcur || (s.front x .a).isSome) &&
  (!(h.entry h.pos).st == .drain || s.drainRoom x h)

/-- The position's firing: what it pops and delivers. -/
def passShot (pa pc made : Nat) (row : Row) : Shot :=
  { pa := pa, pb := 1, pc := pc, out := ⟨some row.t0, some row.t1⟩, run := .idle, origin := some ⟨some made, none⟩ }

/-- One position (R90): commands due, the carry, admission, the row, shadow and SV. -/
def State.headPass (s : State) (x : Site) (f : FA) (h : Head) : State :=
  let sl := h.pos
  let r := h.rotnum
  let firstRound := h.issued < h.pcur
  let ret := s.returning x h
  let feed := (s.front x .b).getD bubble
  let due := h.queue.filter fun q => q.dueAt s.clk.now sl r
  let s := s.copySlot x sl ret
  let s := s.takeQueued x fun q => q.dueAt s.clk.now sl r
  let a := s.applyDue x sl ret due
  let s := a.1.checkReturn x sl ret (if firstRound then none else s.culprit x)
  let before := (((s.head x).getD h).entry sl).st
  let m := s.tryAdmit x sl r
  let s := m.1
  let e := ((s.head x).getD h).entry sl
  let row := rowOf e m.2.carry ret feed
  let st := if a.2 && (row.st == .live || row.st == .held) then SState.drain else row.st
  let s := if m.2.carry.isSome && e.late then s.headPost x 0x22 (slotByte sl) e.key before st 0 0 else s
  let e1 := entryAfter e row.st row.t0.void
  let e' : SEntry := { e1 with st := st }
  let keep := st == .live || st == .held || st == .drain
  let s := s.onHead x fun h => { h.issue with
    table := h.table.set sl e', shadow := if keep then h.shadow.set sl row.t0 else h.shadow
    discards := if row.discard then h.discards + 1 else h.discards }
  let s := match row.drain with
    | some t => s.sendDrain x t
    | none => s
  s.shoot x f.io 0 (passShot (if firstRound then 0 else 1) (if m.2.pop then 1 else 0) h.made row)

/-! ## Rotation commands (R106, R107, R109) -/

/-- The REROT operand's remap table (R109): MAP[s′], none for 0xFF.  Bytes beyond the tile's scratch are free. -/
def State.remap (s : State) (x : Site) (h : Head) (cmd : Cmd) : List (Option Nat) :=
  let n := cmd.lane0.toNat
  let tile := (s.elemAt x).val
  (List.range n).map fun i =>
    if cmd.lane2 == anyRot then (if i < min n h.pcur then some i else none)
    else
      let off := cmd.lane2.toNat + i
      let b := if off < s.scratchBytes x.core tile then s.readByte (tileAddr x.core tile off)
        else Config.freeByte (s.clk.fresh + i)
      if b == 0xFF then none else some b.toNat

/-- REROT fails (R109). -/
def rerotFails (h : Head) (cmd : Cmd) (map : List (Option Nat)) : Bool :=
  let n := cmd.lane0.toNat
  let named := map.filterMap id
  n == 0 || h.pmax < n || named.any (h.pcur ≤ ·) || !named.Nodup ||
    (List.range h.pcur).any fun o =>
      ((h.entry o).st == .live || (h.entry o).st == .held || (h.entry o).st == .fault) && !named.contains o

/-- A rotation command applied at a boundary (R99, R106, R107, R109); the remap table of a REROT is read here, once. -/
def State.applyRotation (s : State) (x : Site) (q : QCmd) : State :=
  match s.head x with
  | none => s
  | some h =>
    let late := q.isLate h.rotnum
    let begin_ (st : HState) (map : List (Option Nat)) : State := s.onHead x fun h => { h with
      hstate := st, busy := some (q.cmd, late), map := map, taken := [], left := h.pcur }
    match q.cmd.kind with
    | .bank =>
      if s.emberHas x.core (imageOffset h q.cmd.lane0) (128 + 128 * h.pcur) then begin_ .banking []
      else (s.noEffect x .emberErr q.cmd).countLate x late
    | .rerot =>
      if q.cmd.lane0.toNat == 0 || h.pmax < q.cmd.lane0.toNat || rerotFails h q.cmd (s.remap x h q.cmd) then
        ((((s.noEffect x .fault q.cmd).countLate x late).headPost x 0x23 0xFF 0 .empty .empty 0 0).headCollect x x.slot 0x19
          q.cmd.lane0).tickBy 256
      else (begin_ .rerotating (s.remap x h q.cmd)).tickBy 256
    | _ => (s.noEffect x .noEffect q.cmd).countLate x late

/-- A command due at a boundary of rotation r (R99): a rotation command, or a slot command without a pass of its own. -/
def QCmd.dueBoundary (q : QCmd) (now pcur : Nat) (r : BitVec 32) : Bool :=
  q.at_ < now && q.rotOk r && (q.cmd.kind.isRotation || pcur ≤ q.cmd.lane0.toNat)

/-- The first command due at the boundary: rotation commands first (R99). -/
def Head.nextBoundary (h : Head) (now : Nat) : Option QCmd :=
  match h.queue.find? fun q => q.cmd.kind.isRotation && q.dueBoundary now h.pcur h.rotnum with
  | some q => some q
  | none => h.queue.find? fun q => q.dueBoundary now h.pcur h.rotnum

/-- The queue without the first entry equal to one. -/
def State.dequeue (s : State) (x : Site) (q : QCmd) : State := s.onHead x fun h => { h with queue := h.queue.erase q }

/-- One carry taken back by BANK or REROT, with the fault check of R106: from port a, or at a boundary before which the rotation has
issued nothing, the one its first round would have taken.  DRAIN slots drain at a REROT (R109). -/
def State.takeBack (s : State) (x : Site) (f : FA) (h : Head) (drains : Bool) : State :=
  let sl := h.pcur - h.left
  let needDrain := drains && (h.entry sl).st == .drain
  let keep (s : State) (c : Option Token) : State := s.onHead x fun h => { h with taken := h.taken ++ [c], left := h.left - 1 }
  if h.issued == 0 then
    let c := h.firstCarry.getD sl none
    if needDrain && !s.drainRoom x h then s
    else match c with
      | some t => keep (if needDrain then s.sendDrain x t else s) c
      | none => keep s none
  else match s.front x .a with
  | none => s
  | some t =>
    let sh : Shot := { pa := 1, run := .idle, fin := true }
    if needDrain && !s.drainRoom x h || !s.canShoot x f.io 0 0 sh then s
    else
      let s := s.checkReturn x sl (some t) (s.culprit x)
      (keep (if needDrain then s.sendDrain x t else s) (some t.unvoided)).shoot x f.io 0 sh

/-- The carry of a slot that a banking or rerotating head holds: the one taken back, for a FAULT slot its shadow (R94, R106). -/
def Head.held (h : Head) (sl : Nat) : Token :=
  if (h.entry sl).st == .fault then h.shadow.getD sl eosToken else (h.taken.getD sl none).getD (h.shadow.getD sl eosToken)

/-- Every queued slot command of a head that enters BANKED completes NOEFFECT (R99). -/
def State.dropSlotCmds (s : State) (x : Site) (h : Head) : State :=
  (h.queue.filter fun q => !q.cmd.kind.isRotation).foldl (fun s q => s.noEffect x .noEffect q.cmd)
    (s.takeQueued x fun q => !q.cmd.kind.isRotation)

/-- The status of the rotation command in progress. -/
def doneStatus (h : Head) (late : Bool) : Token := statusTok (if late then .late else .done) anyRot h.rotnum .empty .empty 0

/-- BANK ends (R106): records in slot order, the header last, BANKED; queued slot commands complete NOEFFECT (R99). -/
def State.finishBank (s : State) (x : Site) (h : Head) (cmd : Cmd) (late : Bool) : State :=
  let off := imageOffset h cmd.lane0
  let s := (List.range h.pcur).foldl (fun s sl =>
    s.emberWrite x.core (off + 128 + 128 * sl) (slotRecord (h.held sl) (h.entry sl))) s
  let s := s.emberWrite x.core off (imageHeader [] [] h.rotnum 0 0 (h.pcur - 1) false false false true)
  let s := s.onHead x fun h => { h with
    hstate := .banked, busy := none, taken := [], firstCarry := [], lates := if late then h.lates + 1 else h.lates
    table := h.table.mapIdx fun i e => if i < h.pcur && e.st != .empty then { e with st := .banked } else e }
  ((s.dropSlotCmds x h).headPost x 0x24 0xFF 0 .empty .empty 0 (BitVec.ofNat 32 off)).answerAfterWrites x cmd (doneStatus h late)

/-- REROT ends (R109): entries and shadows permuted, the new period, first-round carries from the shadows. -/
def State.finishRerot (s : State) (x : Site) (h : Head) (cmd : Cmd) (late : Bool) : State :=
  let n := cmd.lane0.toNat
  let old (i : Nat) : Option Nat := (h.map.getD i none).filter fun o => (h.entry o).st != .drain
  let entry (i : Nat) : SEntry := ((old i).map h.entry).getD .zero
  let carry (i : Nat) : Option Token := (old i).map h.held
  let s := s.onHead x fun h => { h.restart n h.rotnum with
    hstate := .run, busy := none, map := [], taken := []
    table := (List.range h.pmax).map fun i => if i < n then entry i else .zero
    shadow := (List.range h.pmax).map fun i => (carry i).getD (h.shadow.getD i eosToken)
    firstCarry := (List.range n).map carry
    lates := if late then h.lates + 1 else h.lates }
  s.answer cmd (doneStatus h late)

/-- BANKING and REROTATING: carries are taken back, then the command ends. -/
def State.headBusy (s : State) (x : Site) (f : FA) (h : Head) : State :=
  match h.busy with
  | none => s
  | some (cmd, late) =>
    let rer := h.hstate == .rerotating
    if 0 < h.left then s.takeBack x f h rer
    else if rer then s.finishRerot x h cmd late
    else s.finishBank x h cmd late

/-- UNBANK begins its reads; at `emberReadDone` it checks and relights (R107). -/
def State.startUnbank (s : State) (x : Site) (cmd : Cmd) : State :=
  (s.onHead x fun h => { h with hstate := .unbanking, back := h.hstate, busy := some (cmd, false) }).laterFree 1
    (.emberReadDone x.core x.unit (s.region x.core x.unit).gen)

/-- The image of an UNBANK: its header's period and rotation, and its records; none when a check fails (R107). -/
def State.readImage (s : State) (c : Fin 96) (h : Head) (off : Nat) :
    Option (Nat × BitVec 32 × List (Token × SEntry × Bool)) :=
  if !s.emberHas c off 128 || !s.emberClean c off 128 then none
  else
    let hd := s.emberRead c off 128
    let p := bytesNat ((hd.drop 5).take 1) + 1
    let rot := BitVec.ofNat 32 (bytesNat ((hd.drop 12).take 4))
    let ok := bytesNat (hd.take 1) % 2 == 1 && bytesNat ((hd.drop 1).take 1) == 1 && p ≤ h.pmax &&
      s.emberHas c off (128 + 128 * p) && s.emberClean c (off + 128) (128 * p)
    if !ok then none
    else
      let recs := (List.range p).map fun sl => readSlotRecord (s.emberRead c (off + 128 + 128 * sl) 128)
      if recs.all fun r => r.2.2 then some (p, rot, recs) else none

/-- UNBANK ends (R107): relit from the image, or EMBERERR with nothing changed; a head that is BANKED again completes the slot
commands queued meanwhile (R99). -/
def State.finishUnbank (s : State) (x : Site) (h : Head) (cmd : Cmd) : State :=
  let off := imageOffset h cmd.lane0
  let image := s.readImage x.core h off
  let s := if s.emberHas x.core off 128 then s.emberMeet x off (128 + 128 * ((image.map Prod.fst).getD 0)) else s
  match image with
  | none =>
    let s := (s.onHead x fun h => { h with hstate := h.back, busy := none }).noEffect x .emberErr cmd
    if h.back == .banked then s.dropSlotCmds x h else s
  | some (p, rot, recs) =>
    let s := s.onHead x fun h => { h.restart p rot with
      hstate := .run, busy := none
      table := (List.range h.pmax).map fun i => ((recs[i]?).map fun r => r.2.1).getD .zero
      shadow := (List.range h.pmax).map fun i => ((recs[i]?).map fun r => r.1).getD (h.shadow.getD i eosToken)
      firstCarry := recs.map fun r => some r.1 }
    let s := s.answer cmd (statusTok .done anyRot rot .empty .empty 0)
    s.headPost x 0x25 0xFF 0 .empty .empty 0 (BitVec.ofNat 32 off)

/-- A rotation command in the queue of an IDLE or BANKED head applies at once (R99). -/
def State.idleCommand (s : State) (x : Site) (h : Head) : Option State :=
  (h.queue.find? fun q => q.cmd.kind.isRotation).map fun q =>
    let s := s.dequeue x q
    if q.cmd.kind == .unbank then s.startUnbank x q.cmd else s.noEffect x .noEffect q.cmd

/-! ## Retirement (R95) -/

/-- Retirement begins: the carries outstanding are those of the positions issued in the last PCUR. -/
def State.startRetire (s : State) (x : Site) : State :=
  s.onHead x fun h => { h with
    hstate := .retiring, left := min h.issued h.pcur, cDone := false, retireEos := false, taken := [] }

/-- Takes back one outstanding carry (R95 step 2). -/
def State.retireCarry (s : State) (x : Site) (f : FA) (h : Head) : State :=
  let sl := (h.pos + h.pcur - h.left) % max h.pcur 1
  let keep := (h.entry sl).st == .live || (h.entry sl).st == .held || (h.entry sl).st == .drain
  let sh : Shot := { pa := 1, run := .idle, fin := true }
  match s.front x .a with
  | none => s
  | some t =>
    if keep && !s.drainRoom x h || !s.canShoot x f.io 0 0 sh then s
    else
      let s := s.copySlot x sl (some t)
      let s := if keep then s.sendDrain x t else s
      (s.onHead x fun h => { h with left := h.left - 1 }).shoot x f.io 0 sh

/-- Steps 3 to 5: streams leave the table, port c is emptied, the feed's end-of-stream goes. -/
def State.retireRequests (s : State) (x : Site) (f : FA) : State :=
  let s := s.onHead x fun h => { h with
    table := h.table.map fun e => if e.st == .live || e.st == .held || e.st == .drain then SEntry.zero else e }
  let sh : Shot := { pc := 1, run := .idle, fin := true }
  if !f.c.used then s.onHead x fun h => { h with cDone := true }
  else match s.front x .c with
  | none => s
  | some t =>
    if !s.canShoot x f.io 0 0 sh then s
    else if t.eos then (s.onHead x fun h => { h with cDone := true, read := none }).shoot x f.io 0 sh
    else
      let s := s.onHead x fun h => { h with read := none }
      (if t.void then s else s.reject x (t.lane 1) (t.lane 0)).shoot x f.io 0 sh

/-- Step 8: the head is IDLE with its counts at zero. -/
def Head.idled (h : Head) : Head :=
  { h.restart h.pcur 0 with
    hstate := .idle, firstCarry := [], faults := 0, lates := 0
    rejects := 0, discards := 0, retireEos := false, cDone := false }

/-- One step of retirement (R95). -/
def State.headRetiring (s : State) (x : Site) (f : FA) (h : Head) : State :=
  if 0 < h.left then s.retireCarry x f h
  else if !h.cDone then s.retireRequests x f
  else if !h.retireEos then
    let sh : Shot := { pb := 1, out := .both eosToken, run := .idle, fin := true }
    if s.canShoot x f.io 1 1 sh then (s.onHead x fun h => { h with retireEos := true }).shoot x f.io 0 sh else s
  else match s.front x .a with
  | none => s
  | some t =>
    let sh : Shot := { pa := 1, run := .idle, fin := true }
    if !s.canShoot x f.io 0 0 sh then s
    else if t.eos then (s.onHead x Head.idled).shoot x f.io 0 sh
    else s.shoot x f.io 0 sh

/-! ## The head's step -/

/-- RUN: retirement begins, a command applies at the boundary, or a position is issued (R89, R95, R99).  A command at a boundary waits
until the first position after it could be issued: feed, request, carry and room (log 46, DEDUCED). -/
def State.headRun (s : State) (x : Site) (f : FA) (h : Head) : State :=
  let s := s.startEmberRead x
  let h := (s.head x).getD h
  if (s.front x .b).any Token.eos then s.startRetire x
  else if !s.passReady x f h || !s.canShoot x f.io 1 1 { pb := 1, run := .idle, fin := true } then s
  else match (if h.pos == 0 then h.nextBoundary s.clk.now else none) with
  | some q =>
    let s := s.dequeue x q
    if q.cmd.kind.isRotation then s.applyRotation x q else (s.noEffect x .badSlot q.cmd).countLate x (q.isLate h.rotnum)
  | none =>
    if s.reinOk x && !s.snapHolds x .a 1 && !s.snapHolds x .c 1 then s.headPass x f h else s

/-- One step of a head of the plain forms. -/
def State.headStep (s : State) (x : Site) (f : FA) : State :=
  match s.head x with
  | none => s
  | some h =>
    if h.slot != x.slot || !s.live x then s
    else match h.hstate with
    | .run => s.headRun x f h
    | .idle => match s.idleCommand x h with
      | some s' => s'
      | none => match s.front x .b with
        | some t => if t.eos then s.startRetire x else s.onHead x fun h => { h with hstate := .run }
        | none => s
    | .banked => (s.idleCommand x h).getD s
    | .banking | .rerotating => s.headBusy x f h
    | .unbanking => s
    | .retiring => s.headRetiring x f h

/-! ## The lookahead head (R120, R121) -/

/-- A returned iteration, or the end-of-stream, is taken from port a and discarded. -/
def State.laReturn (s : State) (x : Site) (f : FA) : State :=
  let sh : Shot := { pa := 1, run := .idle, fin := true }
  match s.front x .a with
  | none => s
  | some t =>
    if !s.canShoot x f.io 0 0 sh then s
    else (s.onHead x fun h => { h with laOut := if t.eos then h.laOut else h.laOut - 1 }).shoot x f.io 0 sh

/-- The lookahead head's own step: an iteration issued, the feed discarded after an exit, or the end. -/
def State.laIssue (s : State) (x : Site) (f : FA) (h : Head) : State :=
  let drop : Shot := { pb := 1, run := .idle, fin := true }
  if h.hstate == .retiring then
    let sh : Shot := { out := .both eosToken, run := .idle, fin := true }
    if h.laOut == 0 && s.canShoot x f.io 1 1 sh then
      (s.onHead x fun h => { h.restart h.pcur 0 with hstate := .idle, laExit := false }).shoot x f.io 0 sh
    else s
  else match s.front x .b with
  | none => s
  | some t =>
    if t.eos then
      if s.canShoot x f.io 0 0 drop then (s.onHead x fun h => { h with hstate := .retiring }).shoot x f.io 0 drop else s
    else if h.laExit then s.attempt x f.io 0 0 0 drop
    else
      let sh : Shot := { pb := 1, out := .both t, run := .idle, origin := some ⟨some h.made, none⟩ }
      if h.laOut < f.mod.toNat + 1 && s.canShoot x f.io 1 1 sh then
        (s.onHead x fun h => { h.issue with hstate := .run, laOut := h.laOut + 1 }).shoot x f.io 0 sh
      else s

/-- One step of a lookahead head. -/
def State.laStep (s : State) (x : Site) (f : FA) : State :=
  match s.head x with
  | none => s
  | some h =>
    if h.slot != x.slot || !s.live x then s
    else
      let s := s.laReturn x f
      match s.head x with
      | some h => s.laIssue x f h
      | none => s

/-! ## The instructions of chapter 04 -/

/-- RHEAD (R97): the head's step, one position when R89 allows it. -/
def execRhead (f : FA) (s : State) : Done := .next (s.headStep s.clk.focus f)

/-- RHEAD.LA (R97, R120). -/
def execRheadLa (f : FA) (s : State) : Done := .next (s.laStep s.clk.focus f)

/-- SADM's token (R98): VOID follows the request. -/
def sadmTok (f : FA) (t : Token) : Token :=
  let k : Lane := (modTag f.mod).setWidth 32 ||| ((f.mod.extractLsb' 0 2).setWidth 32 <<< 4)
  let out := i32Token [t.lane 0, t.lane 1, t.lane 2, k, t.lane 3]
  if t.void then out.voided t.cause else out

/-- SADM (R98): a request of a tag other than I32 or RAW32 is a format fault. -/
def execSadm (f : FA) (s : State) : Done :=
  let x := s.clk.focus
  let t := oldest (s.ents x f.io .a)
  let o : Token × Option Cause := if t.void || t.wordTag then (sadmTok f t, none)
    else (voidFrom (some t) 7 causeFormat, some causeFormat)
  .next (s.plain x f.io 1 7 (s.laneShot x f.io o))

/-- The free delay of a result whose latency is not fixed, at least `least` cycles. -/
def State.dueIn (s : State) (least : Nat) : Nat := s.clk.now + least + Config.freeDelay s.clk.fresh

/-- A command's firing (R99, R101): its operand goes to the head's queue 3 cycles later, when the queue has room; a void
operand gives a void status at once, another tag a format fault. -/
def State.command (s : State) (k : CmdKind) (f : FA) : State :=
  let x := s.clk.focus
  match s.kind x f.io with
  | .fin => if (s.slot x).rob.isEmpty then s.attempt x f.io 0 1 1 (s.endShot x f.io) else s
  | .fire =>
    let t := oldest (s.ents x f.io .a)
    let id := s.newId
    let base : Shot := { pa := 1, run := .idle }
    if t.void || !t.wordTag then
      let c := if t.void then t.cause else causeFormat
      s.attemptId x f.io 1 1 { base with
        rob := some ⟨id, some [.both (voidFrom (some t) 7 c)], [], 0⟩, cause := if t.void then none else some c }
    else match s.headSite x.core x.unit, s.regionHead x.core x.unit with
    | some y, some h =>
      let sh : Shot := { base with rob := some ⟨id, none, [], 0⟩ }
      if h.queue.length + h.inflight < 16 && s.canShoot x f.io 1 1 sh then
        ((((s.shoot x f.io 0 sh).tickId).onHead y fun h => { h with inflight := h.inflight + 1 }).later 3
          (.commandEnqueue x.core x.unit ⟨k, x, id, t.lane 0, t.lane 1, t.lane 2⟩ (s.region x.core x.unit).gen))
      else s
    | _, _ => s
  | _ => s

/-- SEVC (R99..R101). -/
def execSevc (f : FA) (s : State) : Done := .next (s.command .sevc f)
/-- SHLD (R99..R101). -/
def execShld (f : FA) (s : State) : Done := .next (s.command .shld f)
/-- SHLD.U (R99..R101). -/
def execShldU (f : FA) (s : State) : Done := .next (s.command .shldU f)
/-- SREL (R99..R101). -/
def execSrel (f : FA) (s : State) : Done := .next (s.command .srel f)
/-- SCLR (R99..R101). -/
def execSclr (f : FA) (s : State) : Done := .next (s.command .sclr f)
/-- BANK (R99, R101, R106). -/
def execBank (f : FA) (s : State) : Done := .next (s.command .bank f)
/-- UNBANK (R99, R101, R107). -/
def execUnbank (f : FA) (s : State) : Done := .next (s.command .unbank f)
/-- REROT (R99, R101, R109). -/
def execRerot (f : FA) (s : State) : Done := .next (s.command .rerot f)

/-- SSTAT's token (R102). -/
def sstatTok (h : Head) (lane0 : Lane) : Token :=
  let tail : List Lane := [BitVec.ofNat 32 h.pcur, h.rotnum, BitVec.ofNat 32 h.pos, BitVec.ofNat 32 h.hstate.code]
  if lane0 == anyRot then
    i32Token ([0, anyRot, h.discards, h.rejects, h.lates, h.faults] ++ tail ++
      [BitVec.ofNat 32 (h.table.filter fun e => e.st != .empty).length])
  else if h.pmax ≤ lane0.toNat then i32Token ([2, lane0, 0, 0, 0, 0] ++ tail)
  else
    let b := (h.entry lane0.toNat).bits
    i32Token ([0, lane0, b.extractLsb' 0 32, b.extractLsb' 32 32, b.extractLsb' 64 32, b.extractLsb' 96 32] ++ tail)

/-- SSTAT (R101, R102): it reads at its firing and delivers no sooner than 4 cycles later. -/
def execSstat (f : FA) (s : State) : Done :=
  let x := s.clk.focus
  match s.kind x f.io, s.regionHead x.core x.unit with
  | .fin, _ =>
    if (s.slot x).rob.isEmpty then .next (s.attempt x f.io 0 1 1 (s.endShot x f.io)) else .next s
  | .fire, some h =>
    let t := oldest (s.ents x f.io .a)
    let o : Token × Option Cause := if t.void then (voidFrom (some t) 7 t.cause, none)
      else if t.wordTag then (sstatTok h (t.lane 0), none)
      else (voidFrom (some t) 7 causeFormat, some causeFormat)
    let sh : Shot := { pa := 1, run := .idle, rob := some ⟨s.newId, some [.both o.1], [], s.dueIn 4⟩, cause := o.2 }
    if s.canShoot x f.io 1 1 sh then .next ((s.shoot x f.io 0 sh).tickId.tickFresh) else .next s
  | _, _ => .next s

/-! ## MARK (R111) -/

/-- MARK opens a snapshot with a trigger token (R111, R112): the marker leaves at once on the reserved path, after every
data token forwarded before; every slot downstream is a member. -/
def State.openSnapshot (s : State) (x : Site) (t : Token) : State :=
  let members := s.downstream x
  let gen := (s.region x.core x.unit).gen
  let h := s.regionHead x.core x.unit
  let inCount (g : Region) (l : Nat) : Nat := g.insent.toList.getD l 0
  let s := s.onRegion x.core x.unit fun g => { g with
    snap := some {
      mark := x.slot, id := (t.lane 0).extractLsb' 0 16, off := (t.lane 1).toNat, cap := (t.lane 2).toNat, recs := 0
      overflow := false, unaligned := false, members := members
      incnt := (List.range 8).map (inCount g), outcnt := (List.range 8).map fun l => g.outsent.toList.getD l 0
      rot := (h.map Head.rotnum).getD 0, pm1 := (h.map fun h => h.pcur - 1).getD 0 } }
  let s := (s.sendMarkers x).onSlot x fun u => { u with snap := .done }
  let s := members.foldl (fun s i => s.linksMarked (x.at_ i) gen) s
  (members.foldl (fun s i => s.snapProgress (x.at_ i)) s).snapCheckClose x.core x.unit

/-- What MARK does of a trigger: nothing while a snapshot of its block is open. -/
def execMark (f : FA) (s : State) : Done :=
  let x := s.clk.focus
  match s.front x .b, s.front x .a with
  | some t, _ =>
    if !t.eos && (s.region x.core x.unit).snap.isNone then
      let sh : Shot := { pb := 1, run := .idle }
      if !s.canShoot x f.io 0 0 sh then .next s
      else if t.void then .next (s.shoot x f.io 1 sh)
      else .next ((s.shoot x f.io 1 sh).openSnapshot x t)
    else match s.front x .a with
    | none => .next s
    | some d =>
      if d.eos then
        if t.eos then .next (s.attempt x f.io 1 1 1 { pa := 1, pb := 1, out := .both eosToken, run := .idle, fin := true })
        else .next s
      else .next (s.attempt x f.io 1 1 1 { pa := 1, out := .both d, run := .idle })
  | none, some d =>
    if d.eos then .next s else .next (s.attempt x f.io 1 1 1 { pa := 1, out := .both d, run := .idle })
  | none, none => .next s

/-! ## The device's own steps of chapter 04 -/

/-- The word of a region's head as RHEAD. -/
def State.headWord (s : State) (x : Site) : Option (FA × Bool) :=
  match decode (s.slot x).word with
  | .instr (.rhead f) => some (f, false)
  | .instr (.rheadLa f) => some (f, true)
  | _ => none

/-- SLOT_PASS (R90): the head of a region issues its next position. -/
def execSlotPass (core : Fin 96) (region : Fin 8) (s : State) : Done :=
  match s.headSite core region with
  | none => .next s
  | some x => match s.headWord x, s.head x with
    | some (f, false), some h => if s.live x && h.hstate == .run then .next (s.headRun x f h) else .next s
    | some (f, true), _ => .next (s.laStep x f)
    | _, _ => .next s

/-- HEAD_RETIRE (R95): one step of a retiring head. -/
def execHeadRetire (core : Fin 96) (region : Fin 8) (s : State) : Done :=
  match s.headSite core region with
  | none => .next s
  | some x => match s.headWord x, s.head x with
    | some (f, false), some h => if s.live x && h.hstate == .retiring then .next (s.headRetiring x f h) else .next s
    | _, _ => .next s

/-- COMMAND_ENQUEUE (R99): the operand enters the queue; a slot command that finds the head BANKED completes NOEFFECT. -/
def execCommandEnqueue (core : Fin 96) (region : Fin 8) (cmd : Cmd) (gen : Nat) (s : State) : Done :=
  match s.headSite core region with
  | none => .next s
  | some x =>
    if (s.region core region).gen != gen then .next s
    else
      let s := s.onHead x fun h => { h with inflight := h.inflight - 1 }
      match s.head x with
      | none => .next s
      | some h =>
        if h.hstate == .banked && !cmd.kind.isRotation then .next (s.noEffect x .noEffect cmd)
        else .next (s.onHead x fun h => { h with queue := h.queue ++ [⟨cmd, s.clk.now⟩] })

/-- EMBER_READ_DONE (R93, R107): an admission's record is there, or an UNBANK's image is checked and relit; while the core's fabric is
halted it waits (R307). -/
def execEmberReadDone (core : Fin 96) (region : Fin 8) (gen : Nat) (s : State) : Done :=
  match s.headSite core region with
  | none => .next s
  | some x =>
    if (s.region core region).gen != gen then .next s
    else if (s.core core).hfab then .next (s.later 1 (.emberReadDone core region gen))
    else match s.head x with
    | none => .next s
    | some h =>
      match h.hstate, h.busy with
      | .unbanking, some (cmd, _) => .next (s.finishUnbank x h cmd)
      | _, _ => .next (s.onHead x fun h => { h with read := h.read.map fun r => { r with done := true } })

/-- EMBER_WRITE_DONE (R99, R110): the status that waited for the head's ember writes is delivered. -/
def execEmberWriteDone (core : Fin 96) (region : Fin 8) (gen : Nat) (s : State) : Done :=
  match s.headSite core region with
  | none => .next s
  | some x =>
    if (s.region core region).gen != gen then .next s
    else match (s.head x).map Head.writes with
    | some (w :: rest) =>
      .next ((s.onHead x fun h => { h with writes := rest }).resolve w.site w.seq [.both w.status])
    | _ => .next s

/-- MARKER_ARRIVAL (R112, R113). -/
def execMarkerArrival (dst : Site) (port : PortName) (pos : Nat) (gen : Nat) (s : State) : Done :=
  .next (s.markerArrives dst port pos gen)

/-- SNAP_WINDOW_EXPIRY (R113). -/
def execSnapWindowExpiry (site : Site) (gen : Nat) (s : State) : Done := .next (s.joinExpires site gen)

/-- SNAPSHOT_CLOSE (R115). -/
def execSnapshotClose (core : Fin 96) (region : Fin 8) (s : State) : Done := .next (s.closeSnapshot core region)

end Sys2Proof.Machine
end

