-- ==== Sys2Proof/Machine/Int.lean ====
section
/-! DEFINITION. The integer class (R143..R148) and PHASE (R123). -/

namespace Sys2Proof.Machine

/-- IADD (R143). -/
def execIadd (f : FA) (s : State) : Done :=
  .next (s.laneOp f.io 1 (modTag f.mod) false (intArith (fun x y _z => x + y) f))

/-- ISUB (R143). -/
def execIsub (f : FA) (s : State) : Done :=
  .next (s.laneOp f.io 1 (modTag f.mod) false (intArith (fun x y _z => x - y) f))

/-- IMUL (R143). -/
def execImul (f : FA) (s : State) : Done :=
  .next (s.laneOp f.io 3 (modTag f.mod) false (intArith (fun x y _z => x * y) f))

/-- IMULH (R143). -/
def execImulh (f : FA) (s : State) : Done :=
  .next (s.laneOp f.io 3 (modTag f.mod) false (intArith (fun x y _z => x * y / (2 ^ tagWidth (modTag f.mod) : Nat)) f))

/-- IMAD (R143). -/
def execImad (f : FA) (s : State) : Done :=
  .next (s.laneOp f.io 3 (modTag f.mod) false (intArith (fun x y z => x * y + z) f))

/-- INEG (R143). -/
def execIneg (f : FA) (s : State) : Done :=
  .next (s.laneOp f.io 1 (modTag f.mod) false (intArith (fun x _y _z => -x) f))

/-- IABS (R143). -/
def execIabs (f : FA) (s : State) : Done :=
  .next (s.laneOp f.io 1 (modTag f.mod) false (intArith (fun x _y _z => (x.natAbs : Int)) f))

/-- IMIN (R143). -/
def execImin (f : FA) (s : State) : Done :=
  .next (s.laneOp f.io 1 (modTag f.mod) false (intArith (fun x y _z => min x y) f))

/-- IMAX (R143). -/
def execImax (f : FA) (s : State) : Done :=
  .next (s.laneOp f.io 1 (modTag f.mod) false (intArith (fun x y _z => max x y) f))

/-- A bit operation on what ports a and b hold (R143): their tokens may carry any format. -/
def State.bitOp (s : State) (v : Nat → Nat → Nat → Nat) (f : FA) (as bs _cs : List Token) : Result :=
  intBits v f (s.edgeAt s.clk.focus .a) (s.edgeAt s.clk.focus .b) as bs

/-- AND (R143). -/
def execAnd (f : FA) (s : State) : Done :=
  .next (s.laneOp f.io 1 (modTag f.mod) false (s.bitOp (fun _w x y => x &&& y) f))

/-- OR (R143). -/
def execOr (f : FA) (s : State) : Done :=
  .next (s.laneOp f.io 1 (modTag f.mod) false (s.bitOp (fun _w x y => x ||| y) f))

/-- XOR (R143). -/
def execXor (f : FA) (s : State) : Done :=
  .next (s.laneOp f.io 1 (modTag f.mod) false (s.bitOp (fun _w x y => x ^^^ y) f))

/-- NOT (R143). -/
def execNot (f : FA) (s : State) : Done :=
  .next (s.laneOp f.io 1 (modTag f.mod) false (s.bitOp (fun w x _y => 2 ^ w - 1 - x) f))

/-- SHL (R143). -/
def execShl (f : FA) (s : State) : Done :=
  .next (s.laneOp f.io 1 (modTag f.mod) false (s.bitOp (fun w x y => if w ≤ y then 0 else x * 2 ^ y % 2 ^ w) f))

/-- SHR (R143). -/
def execShr (f : FA) (s : State) : Done :=
  .next (s.laneOp f.io 1 (modTag f.mod) false (s.bitOp (fun w x y => if w ≤ y then 0 else x / 2 ^ y) f))

/-- SAR (R143). -/
def execSar (f : FA) (s : State) : Done :=
  .next (s.laneOp f.io 1 (modTag f.mod) false (s.bitOp (fun w x y => sarBits w x y) f))

/-- ROTL (R143). -/
def execRotl (f : FA) (s : State) : Done :=
  .next (s.laneOp f.io 1 (modTag f.mod) false (s.bitOp (fun w x y => rotlBits w x y) f))

/-- CLZ (R143). -/
def execClz (f : FA) (s : State) : Done :=
  .next (s.laneOp f.io 1 (modTag f.mod) false (s.bitOp (fun w x _y => w - bitLen x) f))

/-- POPC (R143). -/
def execPopc (f : FA) (s : State) : Done :=
  .next (s.laneOp f.io 1 (modTag f.mod) false (s.bitOp (fun w x _y => popCount w x) f))

/-- ICMP (R144). -/
def execIcmp (f : FA) (s : State) : Done :=
  .next (s.laneOp f.io 1 (modTag f.mod) false (fun as bs _cs => icmpTok f as bs))

/-- SEL (R145). -/
def execSel (f : FA) (s : State) : Done :=
  .next (s.laneOp f.io 1 (modTag f.mod) false (fun as bs cs => selTok f as bs cs))

/-- BFX (R146). -/
def execBfx (f : FI) (s : State) : Done :=
  .next (s.laneOp f.io 1 (modTag f.mod) false (fun as _bs _cs => bfxTok f as))

/-- BFI (R146). -/
def execBfi (f : FA) (s : State) : Done :=
  .next (s.laneOp f.io 1 (modTag f.mod) false (fun as bs _cs => bfiTok f as bs))

/-- MOV (R147).  A poisoned operand passes a plain RAW32 declaration unchanged, and is a format fault of MOV.AS. -/
def execMov (f : FA) (s : State) : Done :=
  .next (s.laneOp f.io 1 (modTag f.mod) (modV f.mod || modTag f.mod == 0)
    (fun as _bs _cs => movTok f (s.edgeAt s.clk.focus .a) as))

/-- CONST (R148): a one-shot source (R27). -/
def execConst (f : FK) (s : State) : Done :=
  .next (s.laneOp f.io 1 (modTag f.mod) false
    (fun _ _ _ => .ok (mapLanes (modTag f.mod) fun _ => constLane (f.mod.extractLsb' 0 2) f.imm)))

/-- What a trigger that may carry any format lets through: its token is still read (R24, R125, R133). -/
def State.triggered (s : State) (t : Token) (as : List Token) : Result := do
  checkShape (s.edgeAt s.clk.focus .a) (as.take 1)
  .ok t

/-- LANE (R148). -/
def execLane (f : FA) (s : State) : Done :=
  .next (s.laneOp f.io 1 (modTag f.mod) false (fun as _ _ => s.triggered (laneTok (modTag f.mod)) as))

/-- The lanes of COORD (R148). -/
def coordTok (s : State) (x : Site) : Token :=
  let k := x.slot.val / 8
  let p := (s.region x.core x.unit).at_ x.slot
  i32Token ([x.core.val % 8, x.core.val / 8, p.1, p.2, x.unit.val, k, x.core.val].map (BitVec.ofNat 32))

/-- COORD (R148). -/
def execCoord (f : FA) (s : State) : Done :=
  .next (s.laneOp f.io 1 (modTag f.mod) false (fun as _ _ => s.triggered (coordTok s s.clk.focus) as))

/-- The phase of a firing of a slot, and the ROTNUM of the position that drives it (R84, R123): its firing count, counted from the
start that the position belongs to, modulo the period from there on.  In a block without a rotation they are 0 and the firing
count; for a firing that no position drives, the ROTNUM is free (log 116, DESIGN CHOICE). -/
def phaseOf (s : State) (x : Site) (d : Option Nat) : Nat × Lane :=
  let n := s.firingCount x d
  match s.regionHead x.core x.unit, d with
  | some h, some d =>
    let e := h.epochAt d
    (n % max e.period 1, e.rot + BitVec.ofNat 32 ((d - e.first) / max e.period 1))
  | some h, none => (n % max h.pcur 1, Config.undrivenRot n)
  | none, _ => (0, BitVec.ofNat 32 n)

/-- The position that drives the firing of a slot with the pops its ports name. -/
def State.driver (s : State) (x : Site) (io : Io) : Option Nat := (s.originOf x fun p => (io.ctl p).popN).pos

/-- PHASE's token, VOID when any input is (R123). -/
def phaseTok (s : State) (x : Site) (d : Option Nat) (r : Bool) (as : List Token) : Token :=
  let p := phaseOf s x d
  let t := if r then i32Token [BitVec.ofNat 32 p.1, p.2] else mapLanes 7 fun _ => BitVec.ofNat 32 p.1
  match firstVoid as with
  | some c => t.voided c
  | none => t

/-- What a PHASE firing delivers, and its fault: an input of any format is still read (R123, R125, R133). -/
def phaseOut (s : State) (x : Site) (f : FA) : Token × Option Cause :=
  let as := (s.ents x f.io .a).take 1
  let t := phaseTok s x (s.driver x f.io) (modV f.mod) as
  match firstVoid as, s.triggered t as with
  | none, .error c => (voidFrom (s.base x f.io) 7 c, some c)
  | _, _ => (t, none)

/-- PHASE (R123). -/
def execPhase (f : FA) (s : State) : Done :=
  let x := s.clk.focus
  .next (s.plain x f.io 1 7 (s.laneShot x f.io (phaseOut s x f)))

end Sys2Proof.Machine
end

