-- ==== Sys2Proof/Machine/Router.lean ====
section
/-! DEFINITION. The router operators (R171..R183) with the loop counters (R39, R55).  L is 0 for every one of them. -/

namespace Sys2Proof.Machine

/-! ## Loop counters (R39, R55) -/

/-- A counter loaded from a preset word (R55). -/
def presetCounter (w : Word64) : Counter := ⟨w.extractLsb' 0 16, w.extractLsb' 16 32, 0, 0⟩

/-- Counters first.. of a site's element, loaded from preset words preset.. of its block. -/
def State.loadCounters (s : State) (x : Site) (first levels preset : Nat) : State :=
  let ps := (s.region x.core x.unit).presets
  s.onElem x.core (s.elemAt x) fun e => { e with
    ctr := Vector.ofFn fun i : Fin 4 =>
      if first ≤ i.val && i.val < first + levels then presetCounter (ps.getD (preset + (i.val - first)) 0)
      else e.ctr[i] }

/-- The counters in use. -/
def countersUsed (e : Element) (first levels : Nat) : List Counter := (e.ctr.toList.drop first).take levels

/-- The value the counters present: the sum of their ACCs modulo 2^32. -/
def counterSum (e : Element) (first levels : Nat) : Lane :=
  (countersUsed e first levels).foldl (fun a k => a + k.acc) 0

/-- One step of a list of counters, the innermost first; true when the highest one wraps (R39). -/
def stepCounters : List Counter → List Counter × Bool
  | [] => ([], true)
  | k :: rest =>
    if k.idx < k.limit then ({ k with idx := k.idx + 1, acc := k.acc + k.stride } :: rest, false)
    else
      let r := stepCounters rest
      ({ k with idx := 0, acc := 0 } :: r.1, r.2)

/-- The step leaves the counters exhausted. -/
def counterLast (e : Element) (first levels : Nat) : Bool := (stepCounters (countersUsed e first levels)).2

/-- Steps the counters in use of a site's element. -/
def State.stepCtr (s : State) (x : Site) (first levels : Nat) : State :=
  s.onElem x.core (s.elemAt x) fun e =>
    let cs := (stepCounters (countersUsed e first levels)).1
    { e with ctr := Vector.ofFn fun i : Fin 4 =>
        if first ≤ i.val && i.val < first + levels then cs.getD (i.val - first) .zero else e.ctr[i] }

/-! ## Control tokens and faults (R171) -/

/-- A decision, credit or trigger token: lane 0, zero when void; none when its tag is a format fault. -/
def control (t : Token) : Option Lane := if t.void then some 0 else if t.wordTag then some (t.lane 0) else none

/-- The front of a port: nothing, end-of-stream, or a data token. -/
inductive Front where
  | empty | eos | data (t : Token)
  deriving DecidableEq, Repr

/-- The front of a port of a slot. -/
def State.frontOf (s : State) (x : Site) (p : PortName) : Front :=
  match s.front x p with
  | none => .empty
  | some t => if t.eos then .eos else .data t

/-- The front is a data token. -/
def Front.isData : Front → Bool
  | .data _ => true
  | _ => false

/-- One for a port whose front is a data token, else zero. -/
def Front.one (f : Front) : Nat := if f.isData then 1 else 0

/-- The void result of a faulting router firing (R171). -/
def State.routerVoid (s : State) (x : Site) (c : Cause) : Token := voidFrom (s.front x .a) 0 c

/-- A data token made void by its void decision (R174, R176). -/
def markVoid (t d : Token) : Token := if d.void && !t.void then t.voided d.cause else t

/-- The end-of-stream token for both targets. -/
def eosBoth : Emit := .both eosToken

/-- The next beat of a burst: zero after its last (R171). -/
def nextBeat (u : Slot) (burst : Nat) : Nat := if u.beat + 1 < burst then u.beat + 1 else 0

/-- The decision is popped with the last beat. -/
def lastPop (u : Slot) (burst : Nat) : Nat := if u.beat + 1 < burst then 0 else 1

/-- Head-driven slots keep their faults to the rotation (R94). -/
def State.isDriven (s : State) (x : Site) : Bool := (s.slot x).driven

/-! ## STEER (R174, R120, R121) -/

/-- A returned iteration is counted back to the lookahead head; `leave` says that it left the loop (R121). -/
def State.loopReturn (s : State) (x : Site) (leave : Bool) : State :=
  match s.headSlot x.core x.unit with
  | some i => s.onHead (x.at_ i) fun h => { h with laOut := h.laOut - 1, laExit := h.laExit || leave }
  | none => s

/-- A firing of STEER to one arm: credit is needed there only (R172). -/
def steerShot (arm : Bool) (t : Token) (pb beat : Nat) (run : Run) (c : Option Cause) (pa : Nat) : Shot :=
  { pa := pa, pb := pb, out := if arm then ⟨none, some t⟩ else ⟨some t, none⟩, run := run, beat := beat, cause := c }

/-- A stream-length fault of STEER: its void result goes where the decision would send a token, arm 0 when the decision port is at
end or the decision is one that faults; an exit latch that is set discards it (R32, R171, R174). -/
def steerBroken (s : State) (x : Site) (f : FO) (a d : Option Token) : State :=
  let u := s.slot x
  let arm := match d.bind control with
    | some v => v != 0
    | none => false
  let sh := steerShot arm (match a with
    | some t => voidFrom (some t) 0 causeLength
    | none => s.routerVoid x causeLength) (if d.isSome then 1 else 0) u.beat u.run (some causeLength) (if a.isSome then 1 else 0)
  if u.run == .exit then
    if s.canShoot x f.io 0 0 { sh with out := .none } then
      let t := s.shoot x f.io 0 { sh with out := .none }
      if a.isSome then t.loopReturn x false else t
    else s
  else s.attempt x f.io 0 (if arm then 0 else 1) (if arm then 1 else 0) sh

/-- STEER. -/
def execSteer (f : FO) (s : State) : Done :=
  let x := s.clk.focus
  let u := s.slot x
  let exit := f.params.getLsbD 0
  let burst := s.burstAt x .a
  match s.frontOf x .a, s.frontOf x .b with
  | .eos, .eos => .next (s.attempt x f.io 0 1 1 { pa := 1, pb := 1, out := eosBoth, run := .idle, fin := true })
  | .data a, .eos => .next (steerBroken s x f (some a) none)
  | .eos, .data d => .next (steerBroken s x f none (some d))
  | .data a, .data d =>
    if u.run == .exit then
      let sh : Shot := { pa := 1, pb := lastPop u burst, run := .exit, beat := nextBeat u burst }
      if s.canShoot x f.io 0 0 sh then .next ((s.shoot x f.io 0 sh).loopReturn x false) else .next s
    else match control d with
    | none =>
      .next (s.attempt x f.io 0 1 0 (steerShot false (voidFrom (some a) 0 causeFormat) 1 0 u.run (some causeFormat) 1))
    | some v =>
      let arm := v != 0
      let leave := arm && exit
      let done := nextBeat u burst == 0
      let sh := steerShot arm (markVoid a d) (lastPop u burst) (nextBeat u burst) (if leave && done then .exit else u.run)
        none 1
      if s.canShoot x f.io (if arm then 0 else 1) (if arm then 1 else 0) sh then
        if leave then .next ((s.shoot x f.io 0 sh).loopReturn x true) else .next (s.shoot x f.io 0 sh)
      else .next s
  | _, _ => .next s

/-! ## CARRY and INV (R175) -/

/-- The closing stage: pops the end-of-stream of each port still open; a data token there is a stream-length fault.
`fb` and `fc` are the fronts of the ports still open, `.empty` standing for a port already closed. -/
def State.closing (s : State) (x : Site) (io : Io) (fb fc : Front) (bDone cDone : Bool) (last : Bool → Bool → Run) :
    State :=
  if fb.isData || fc.isData then
    s.attempt x io 0 1 1 { pb := fb.one, pc := fc.one, out := .both (s.routerVoid x causeLength)
                           run := .loop true bDone cDone, cause := some causeLength }
  else if fb == .eos || fc == .eos then
    s.attempt x io 0 0 0 { pb := (if fb == .eos then 1 else 0), pc := (if fc == .eos then 1 else 0)
                           run := last (bDone || fb == .eos) (cDone || fc == .eos), fin := true }
  else s

/-- CARRY and INV from FRESH: a's token, or the end-of-stream and CLOSING. -/
def State.freshEnd (s : State) (x : Site) (io : Io) (cDone : Bool) : State :=
  s.attempt x io 0 1 1 { pa := 1, out := eosBoth, run := .loop true false cDone, fin := true }

/-- CARRY in LOOP with an end-of-stream at b or c (R32, R175): data at the other port is popped, then port a's, until
all three are at end and the end firing follows. -/
def carryBroken (s : State) (x : Site) (f : FA) (fb fc : Front) : State :=
  let bad (pa pb pc : Nat) : State := s.attempt x f.io 0 1 1
    { pa := pa, pb := pb, pc := pc, out := .both (s.routerVoid x causeLength), run := (s.slot x).run
      beat := (s.slot x).beat, cause := some causeLength }
  if fb.isData || fc.isData then bad 0 fb.one fc.one
  else if !s.isDriven x then bad 0 0 0
  else if fb == .eos && fc == .eos then
    match s.frontOf x .a with
    | .data _ => bad 1 0 0
    | .eos => s.attempt x f.io 0 1 1 { pa := 1, pb := 1, pc := 1, out := eosBoth, run := .idle, fin := true }
    | .empty => s
  else s

/-- CARRY in LOOP (R175); a decision that faults is taken as a stop (log 15). -/
def carryLoop (s : State) (x : Site) (f : FA) : State :=
  let u := s.slot x
  let burst := s.burstAt x .b
  let fb := s.frontOf x .b
  let fc := s.frontOf x .c
  if fb == .eos || fc == .eos then carryBroken s x f fb fc
  else match fc with
  | .data d => match control d with
    | none => s.attempt x f.io 0 1 1 { pc := 1, out := .both (s.routerVoid x causeFormat), run := .idle
                                       cause := some causeFormat }
    | some v =>
      if v == 0 && u.beat == 0 then s.attempt x f.io 0 1 1 { pc := 1, run := .idle }
      else match fb with
      | .data b => s.attempt x f.io 0 1 1 { pb := 1, pc := lastPop u burst, out := .both b, run := .loop false false false
                                            beat := nextBeat u burst }
      | _ => s
  | _ => s

/-- CARRY. -/
def execCarry (f : FA) (s : State) : Done :=
  let x := s.clk.focus
  let u := s.slot x
  match u.run with
  | .loop true bD cD => .next (s.closing x f.io (if bD then .empty else s.frontOf x .b) (if cD then .empty else s.frontOf x .c)
      bD cD (fun b c => if b && c then .idle else .loop true b c))
  | .loop false _ _ => .next (carryLoop s x f)
  | _ => match s.frontOf x .a with
    | .empty => .next s
    | .eos => .next (s.freshEnd x f.io false)
    | .data a =>
      let n := nextBeat u (s.burstAt x .a)
      .next (s.attempt x f.io 0 1 1 { pa := 1, out := .both a, beat := n
                                      run := if n == 0 then .loop false false false else .idle })

/-- INV in LOOP (R175): a copy of a for each continue, b and a popped at a stop. -/
def invLoop (s : State) (x : Site) (f : FO) : State :=
  let u := s.slot x
  let burst := s.burstAt x .a
  let q := ((s.slot x).port .a).q
  match s.frontOf x .b with
  | .empty => s
  | .eos => match s.frontOf x .a with
    | .data a => s.attempt x f.io 0 1 1 { pa := 1, out := .both (voidFrom (some a) 0 causeLength), run := u.run
                                          cause := some causeLength }
    | .eos => s.attempt x f.io 0 1 1 { pa := 1, pb := 1, out := eosBoth, run := .idle, fin := true }
    | .empty => s
  | .data d => match control d with
    | none => s.attempt x f.io 0 1 1 { pa := min burst q.length, pb := 1, out := .both (s.routerVoid x causeFormat)
                                       run := .idle, cause := some causeFormat }
    | some v =>
      if v == 0 && u.beat == 0 then s.attempt x f.io 0 1 1 { pa := min burst q.length, pb := 1, run := .idle }
      else match q[u.beat]? with
      | some e => s.attempt x f.io 0 1 1 { pb := lastPop u burst, out := .both e.tok, run := .loop false false false
                                           beat := nextBeat u burst }
      | none => s

/-- INV. -/
def execInv (f : FO) (s : State) : Done :=
  let x := s.clk.focus
  let u := s.slot x
  match u.run with
  | .loop true _ _ => .next (s.closing x f.io (s.frontOf x .b) .empty false true (fun b _ => if b then .idle else .loop true b true))
  | .loop false _ _ => .next (invLoop s x f)
  | _ => match s.frontOf x .a, ((s.slot x).port .a).q[u.beat]? with
    | .eos, _ => .next (s.freshEnd x f.io true)
    | .data _, some e =>
      let n := nextBeat u (s.burstAt x .a)
      .next (s.attempt x f.io 0 1 1 { out := .both e.tok, beat := n
                                      run := if n == 0 then .loop false false false else .idle })
    | _, _ => .next s

/-! ## MERGE and AMRG (R176, R177) -/

/-- MERGE's end: the end-of-stream of each arm is popped as it arrives, then one is delivered (R176). -/
def mergeEnd (s : State) (x : Site) (f : FA) (aD bD : Bool) : State :=
  let fa := if aD then .empty else s.frontOf x .a
  let fb := if bD then .empty else s.frontOf x .b
  if aD && bD then s.attempt x f.io 0 1 1 { out := eosBoth, run := .idle, fin := true }
  else if fa.isData || fb.isData then
    let v := voidFrom (if fa.isData then s.front x .a else none) 0 causeLength
    s.attempt x f.io 0 1 1 { pa := fa.one, pb := fb.one, out := .both v, run := .merge aD bD, cause := some causeLength }
  else if fa == .eos || fb == .eos then
    s.attempt x f.io 0 0 0 { pa := (if fa == .eos then 1 else 0), pb := (if fb == .eos then 1 else 0)
                             run := .merge (aD || fa == .eos) (bD || fb == .eos), fin := true }
  else s

/-- MERGE with a decision: arm 1 when `arm` holds. -/
def mergeTake (s : State) (x : Site) (f : FA) (d : Token) (arm : Bool) : State :=
  let u := s.slot x
  let p := if arm then PortName.b else .a
  let burst := s.burstAt x p
  match s.frontOf x p with
  | .empty => s
  | .eos => s.attempt x f.io 0 1 1 { pc := 1, out := .both (s.routerVoid x causeLength), run := .idle
                                     cause := some causeLength }
  | .data t => s.attempt x f.io 0 1 1 { pa := (if arm then 0 else 1), pb := (if arm then 1 else 0), pc := lastPop u burst
                                        out := .both (markVoid t d), run := .idle, beat := nextBeat u burst }

/-- MERGE with a decision that faults: it names arm 0, whose token goes with it (R171). -/
def mergeBad (s : State) (x : Site) (f : FA) : State :=
  match s.frontOf x .a with
  | .empty => s
  | .eos => s.attempt x f.io 0 1 1 { pc := 1, out := .both (s.routerVoid x causeFormat), run := .idle
                                     cause := some causeFormat }
  | .data _ => s.attempt x f.io 0 1 1 { pa := 1, pc := 1, out := .both (s.routerVoid x causeFormat), run := .idle
                                        cause := some causeFormat }

/-- MERGE. -/
def execMerge (f : FA) (s : State) : Done :=
  let x := s.clk.focus
  match (s.slot x).run with
  | .merge aD bD => .next (mergeEnd s x f aD bD)
  | _ => match s.frontOf x .c with
    | .empty => .next s
    | .eos => .next (s.attempt x f.io 0 0 0 { pc := 1, run := .merge false false, fin := true })
    | .data d => match control d with
      | none => .next (mergeBad s x f)
      | some v => .next (mergeTake s x f d (v != 0))

/-- The used port whose data front arrived first, a before b before c (R177). -/
def earliest (s : State) (x : Site) : List PortName → Option (PortName × Entry)
  | [] => none
  | p :: rest =>
    let later := earliest s x rest
    match ((s.slot x).port p).q.head? with
    | none => later
    | some e =>
      if e.tok.eos then later
      else match later with
        | none => some (p, e)
        | some q => if q.2.arr < e.arr then some q else some (p, e)

/-- The number of a port, for a burst in progress. -/
def portIndex : PortName → Nat
  | .a => 0
  | .b => 1
  | .c => 2

/-- Pops of one port. -/
def onePop (p q : PortName) (n : Nat) : Nat := if p == q then n else 0

/-- A delivery of AMRG from port p; a burst goes on from the same port (R171). -/
def amrgTake (s : State) (x : Site) (f : FA) (p : PortName) (t : Token) : State :=
  let n := nextBeat (s.slot x) (s.burstAt x p)
  s.attempt x f.io 0 1 1 { pa := onePop p .a 1, pb := onePop p .b 1, pc := onePop p .c 1, out := .both t
                           run := if n == 0 then .idle else .part (portIndex p), beat := n }

/-- AMRG. -/
def execAmrg (f : FA) (s : State) : Done :=
  let x := s.clk.focus
  let io := f.io
  match (s.slot x).run with
  | .part k =>
    let p := if k == 0 then PortName.a else if k == 1 then .b else .c
    match s.frontOf x p with
    | .data t => .next (amrgTake s x f p t)
    | _ => .next s
  | _ => match earliest s x io.used with
    | some (p, e) => .next (amrgTake s x f p e.tok)
    | none =>
      if !io.used.isEmpty && io.used.all fun p => s.frontOf x p == .eos then
        .next (s.attempt x io 0 1 1 { pa := (if io.a.used then 1 else 0), pb := (if io.b.used then 1 else 0)
                                      pc := (if io.c.used then 1 else 0), out := eosBoth, run := .idle, fin := true })
      else .next s

/-! ## CINCH (R178) and DROP (R179) -/

/-- The port CINCH copies (R178). -/
def cinchSel (f : FA) : PortName := portNamed (f.imm.extractLsb' 0 2)

/-- The copy CINCH delivers: SEL's oldest entry, void when any entry read is void (R178). -/
def cinchTok (s : State) (x : Site) (f : FA) : Token :=
  let t := oldest (s.ents x f.io (cinchSel f))
  match firstVoid (ports.flatMap (s.ents x f.io)) with
  | some c => t.voided c
  | none => t

/-- Writes of a region that are accepted and not yet performed (R274); at system scope also those that a peer has not yet
acknowledged (R275). -/
def State.unperformed (s : State) (c : Fin 96) (r : Fin 8) (system : Bool) : List Nat :=
  (s.accs.filter fun a => (a.stage == .posted || (system && a.stage == .peer)) && match a.agent with
    | .op y _ _ => y.core == c && y.unit == r
    | _ => false).map Access.id

/-- CINCH: with a scope above the region, its delivery waits for the effects its region has issued (R178, R275). -/
def execCinch (f : FA) (s : State) : Done :=
  let x := s.clk.focus
  let io := f.io
  let t := cinchTok s x f
  let sh : Shot := { pa := io.a.popN, pb := io.b.popN, pc := io.c.popN, run := .idle }
  if f.imm.extractLsb' 2 2 == 0 then .next (s.plain x io 0 0 { sh with out := .both t })
  else if s.kind x io == .fire then
    .next (s.attemptId x io 1 1
      { sh with rob := some ⟨s.newId, some [.both t], s.unperformed x.core x.unit (f.imm.extractLsb' 2 2 == 3), 0⟩ })
  else if (s.slot x).rob.isEmpty then .next (s.plain x io 0 0 sh) else .next s

/-- DROP and DROP.V (R179): without a valid target nothing is delivered. -/
def execDrop (f : FA) (s : State) : Done :=
  let x := s.clk.focus
  match s.frontOf x .a with
  | .empty => .next s
  | .eos => .next (s.attempt x f.io 0 1 1 { pa := 1, out := eosBoth, run := .idle, fin := true })
  | .data t => .next (s.attempt x f.io 0 1 1
      { pa := 1, out := if modV f.mod && !t.void then .both t else .none, run := .idle })

/-! ## COUNT (R180) and the sinks of a block (R40) -/

/-- A sink reports; after the last one the region controller enters COMMITTING, and open reports are posted (R40, R204). -/
def State.sinkReport (s : State) (x : Site) : State :=
  let g := s.region x.core x.unit
  if g.sinks.contains x.slot then s
  else
    let n := (g.hdr.extractLsb' 80 8).toNat
    let s := s.onRegion x.core x.unit fun g => { g with sinks := g.sinks ++ [x.slot] }
    if g.sinks.length + 1 == n && g.st == .mapped then
      ((s.postGuards x.core x.unit).onRegion x.core x.unit fun g => { g with st := .committing }).later 1 (.regionCommit x.core x.unit)
    else s

/-- COUNT's counts and whether it has reported. -/
def countsOf : Run → Lane × Lane × Bool
  | .count n v r => (n, v, r)
  | _ => (0, 0, false)

/-- A count that saturates at 2^32 − 1. -/
def satInc (n : Lane) : Lane := if n == 0xFFFFFFFF then n else n + 1

/-- COUNT. -/
def execCount (f : FO) (s : State) : Done :=
  let x := s.clk.focus
  let k := countsOf (s.slot x).run
  match s.frontOf x .a with
  | .empty => .next s
  | .data t => .next (s.attempt x f.io 0 1 1
      { pa := 1, run := if t.void then .count k.1 (satInc k.2.1) k.2.2 else .count (satInc k.1) k.2.1 k.2.2 })
  | .eos =>
    let sink := f.params.getLsbD 15
    let sh : Shot := { pa := 1, out := .both (i32Token [k.1, k.2.1]), then_ := eosBoth
                       run := .count 0 0 (k.2.2 || sink), fin := true }
    if s.canShoot x f.io 2 2 sh then
      if sink && !k.2.2 then .next ((s.shoot x f.io 0 sh).sinkReport x) else .next (s.shoot x f.io 0 sh)
    else .next s

/-! ## LCTR (R181) -/

/-- LEVELS of an LCTR. -/
def lctrLevels (f : FO) : Nat := (f.params.extractLsb' 8 2).toNat + 1

/-- PRESET of an LCTR. -/
def lctrPreset (f : FO) : Nat := (f.params.extractLsb' 10 6).toNat

/-- The token of one step: base plus the counters' value, and their positions (R181). -/
def lctrTok (e : Element) (levels : Nat) (base : Lane) : Token :=
  let cs := countersUsed e 0 levels
  i32Token ((base + counterSum e 0 levels) :: cs.map fun k => k.idx.setWidth 32)

/-- One step of a pass; the counters stand loaded. -/
def lctrStep (s : State) (x : Site) (f : FO) (base : Lane) : State :=
  let lv := lctrLevels f
  let e := s.elem x.core (s.elemAt x)
  let last := counterLast e 0 lv
  let run : Run := if !last then .pass base true false else if f.a.used then .idle else .pass 0 false false
  let sh : Shot := { pa := if last && f.a.used then 1 else 0, out := .both (lctrTok e lv base), run := run }
  if s.canShoot x f.io 1 1 sh then (s.shoot x f.io 0 sh).stepCtr x 0 lv else s

/-- The first step of a pass loads the counters from their preset words. -/
def lctrFirst (s : State) (x : Site) (f : FO) (base : Lane) : State :=
  if s.canShoot x f.io 1 1 { run := .idle } then
    lctrStep (s.loadCounters x 0 (lctrLevels f) (lctrPreset f)) x f base
  else s

/-- LCTR. -/
def execLctr (f : FO) (s : State) : Done :=
  let x := s.clk.focus
  match (s.slot x).run with
  | .pass base true _ => .next (lctrStep s x f base)
  | .pass _ false closed =>
    if closed then .next s
    else .next (s.attempt x f.io 0 1 1 { out := eosBoth, run := .pass 0 false true, fin := true })
  | _ =>
    if !f.a.used then .next (lctrFirst s x f 0)
    else match s.frontOf x .a with
    | .empty => .next s
    | .eos => .next (s.attempt x f.io 0 1 1 { pa := 1, out := eosBoth, run := .idle, fin := true })
    | .data t =>
      if t.void then .next (s.attempt x f.io 0 1 1 { pa := 1, out := .both (voidFrom (some t) 7 t.cause), run := .idle })
      else match control t with
      | none => .next (s.attempt x f.io 0 1 1
          { pa := 1, out := .both (voidFrom (some t) 7 causeFormat), run := .idle, cause := some causeFormat })
      | some v => .next (lctrFirst s x f v)

/-! ## EOS (R182) -/

/-- EOS's count since the last insertion, insertion due, and whether the last token it delivered was an end-of-stream: an end
firing leaves that it was (R182). -/
def eosState : Run → Nat × Bool × Bool
  | .eos n due last => (n, due, last)
  | _ => (0, false, false)

/-- EOS forwards a token, and knows whether an insertion follows: `dec` is its decision. -/
def eosForward (s : State) (x : Site) (f : FO) (t : Token) (dec : Option Lane) : State :=
  let u := s.slot x
  let k := eosState u.run
  let burst := s.burstAt x .a
  let beat := nextBeat u burst
  let n := if beat == 0 then k.1 + 1 else k.1
  let due := beat == 0 && match dec with
    | some v => v != 0
    | none => f.params != 0 && f.params.toNat ≤ n
  s.attempt x f.io 0 1 1 { pa := 1, pb := if dec.isSome then lastPop u burst else 0, out := .both t
                           run := .eos (if due then 0 else n) due false, beat := beat }

/-- EOS. -/
def execEos (f : FO) (s : State) : Done :=
  let x := s.clk.focus
  let k := eosState (s.slot x).run
  if k.2.1 then .next (s.attempt x f.io 0 1 1 { out := eosBoth, run := .eos 0 false true })
  else match s.kind x f.io, s.frontOf x .a with
  | .fin, _ =>
    let pb := if f.b.used then 1 else 0
    .next (s.attempt x f.io 0 1 1
      { pa := 1, pb := pb, out := if k.2.2 then .none else eosBoth, run := .eos 0 false true, fin := true })
  | .mismatch, _ => .next (s.attempt x f.io 0 1 1 (s.mismatchShot x f.io 0))
  | .fire, .data t =>
    if f.b.used then
      match s.frontOf x .b with
      | .data d => match control d with
        | none => .next (s.attempt x f.io 0 1 1
            { pa := 1, pb := 1, out := .both (voidFrom (some t) 0 causeFormat), run := (s.slot x).run
              cause := some causeFormat })
        | some v => .next (eosForward s x f t (some v))
      | _ => .next s
    else .next (eosForward s x f t none)
  | _, _ => .next s

/-! ## GATE (R183) -/

/-- GATE's credit, from PARAMS16 after mapping. -/
def gateCredit (f : FO) : Run → BitVec 16
  | .gate cr _ => cr
  | _ => f.params

/-- Credit with a token's lane 0 added, saturating at 65,535. -/
def addCredit (cr : BitVec 16) (v : Lane) : BitVec 16 := BitVec.ofNat 16 (min 65535 (cr.toNat + v.toNat))

/-- What GATE takes of port b: none when nothing is taken, else the credit added; a wrong tag is a format fault. -/
def gateIn (fb : Front) : Option (Option Lane) :=
  match fb with
  | .data t => some (control t)
  | _ => none

/-- GATE's firing: a credit token, a data token, or both (R183).  A credit token that faults goes alone (log 15). -/
def gateFire (s : State) (x : Site) (f : FO) (cr : BitVec 16) : State :=
  let u := s.slot x
  let burst := s.burstAt x .a
  match gateIn (s.frontOf x .b) with
  | some none => s.attempt x f.io 0 1 1 { pb := 1, run := .gate cr false, beat := u.beat, cause := some causeFormat }
  | credit =>
    let add : Lane := match credit with
      | some (some v) => v
      | _ => 0
    let pb := if credit.isSome then 1 else 0
    let only := s.attempt x f.io 0 1 1 { pb := pb, run := .gate (addCredit cr add) false, beat := u.beat }
    match s.frontOf x .a with
    | .data t =>
      let cr' := if u.beat == 0 then cr - 1 else cr
      let sh : Shot := { pa := 1, pb := pb, out := .both t, run := .gate (addCredit cr' add) false, beat := nextBeat u burst }
      if (0 < cr.toNat || u.beat != 0) && s.canShoot x f.io 1 1 sh then s.shoot x f.io 0 sh
      else if pb == 1 then only else s
    | _ => if pb == 1 then only else s

/-- GATE. -/
def execGate (f : FO) (s : State) : Done :=
  let x := s.clk.focus
  let cr := gateCredit f (s.slot x).run
  match (s.slot x).run with
  | .gate _ true => match s.frontOf x .b with
    | .empty => .next s
    | .eos => .next (s.attempt x f.io 0 0 0 { pb := 1, run := .idle, fin := true })
    | .data _ => .next (s.attempt x f.io 0 0 0 { pb := 1, run := .gate cr true, fin := true })
  | _ =>
    if s.frontOf x .a == .eos then
      .next (s.attempt x f.io 0 1 1 { pa := 1, out := eosBoth, run := .gate cr true, fin := true })
    else .next (gateFire s x f cr)

end Sys2Proof.Machine
end

