-- ==== Sys2Proof/Machine/Tasks.lean ====
section
/-! DEFINITION. The tile-task record and the sizes of operands (R217..R219), and what an entry of the task queue takes of its
rings (R216). -/

namespace Sys2Proof.Machine

/-- A field of a record's word. -/
def recFld (ls : Vector Lane 16) (i lo n : Nat) : Nat := ((ls.toList.getD i 0).extractLsb' lo n).toNat

/-- A tile-task record (R219). -/
structure TaskRec where
  aring : Nat
  bring : Nat
  k : Nat
  atag : BitVec 4
  btag : BitVec 4
  bl : Nat
  tile : Nat
  ever : BitVec 16
  zero : Bool
  keepA : Bool
  drain : Bool
  keepB : Bool
  ddst : Nat
  dtag : Nat
  drnd : BitVec 2

/-- The fields of a record. -/
def taskRec (ls : Vector Lane 16) : TaskRec :=
  let flag (i : Nat) : Bool := recFld ls 6 i 1 == 1
  { aring := recFld ls 0 0 32, bring := recFld ls 1 0 32, k := recFld ls 2 0 32, atag := BitVec.ofNat 4 (recFld ls 3 0 4)
    btag := BitVec.ofNat 4 (recFld ls 3 4 4), bl := recFld ls 3 8 2, tile := recFld ls 4 0 32
    ever := BitVec.ofNat 16 (recFld ls 5 0 16), zero := flag 0, keepA := flag 1, drain := flag 2, keepB := flag 3
    ddst := recFld ls 7 0 32, dtag := recFld ls 8 0 4, drnd := BitVec.ofNat 2 (recFld ls 8 4 2) }

/-- Lg (R217). -/
def groupLen (tag : BitVec 4) (bl : Nat) : Nat :=
  if tag == 2 then 16 else if tag == 9 then 64 else if tag == 6 then 128 * 2 ^ bl else 64 * 2 ^ bl

/-- A count of bytes rounded up to a multiple of 64. -/
def pad64 (n : Nat) : Nat := (n + 63) / 64 * 64

/-- The padded code bytes of an operand of r rows (R218). -/
def codeBytes (r k : Nat) (tag : BitVec 4) (bl : Nat) : Nat := pad64 (r * k * groupLen tag bl * tagWidth tag / 8)

/-- The bytes of an operand (R218). -/
def operandBytes (r k : Nat) (tag : BitVec 4) (bl : Nat) : Nat :=
  codeBytes r k tag bl + if tagScaled tag then pad64 (2 * r * k) else 0

/-- The request is an MDRAIN. -/
def IslandReq.isDrain (r : IslandReq) : Bool := r.word.extractLsb' 56 8 == 0xA2

/-- The rings an entry names: tile and descriptor offset. -/
def MEntry.rings (e : MEntry) : List (Nat × Nat) :=
  if e.req.isDrain then []
  else [(8 * e.req.port.val, recFld e.req.lanes 0 0 32), (8 * e.req.port.val, recFld e.req.lanes 1 0 32)]

/-- The operand bytes of an entry's rings. -/
def MEntry.needs (e : MEntry) : Nat × Nat :=
  let t := taskRec e.req.lanes
  (operandBytes 64 t.k t.atag t.bl, operandBytes 96 t.k t.btag t.bl)

/-- The rings that an entry pops when it retires (R216). -/
def MEntry.popped (e : MEntry) : List (Nat × Nat) :=
  let t := taskRec e.req.lanes
  (e.rings.zip [t.keepA, t.keepB]).filterMap fun r => if r.2 then none else some r.1

/-- The bytes an issued entry will pop of the ring whose descriptor lies at an offset of a tile (R216). -/
def MEntry.pops (e : MEntry) (tile off : Nat) : Nat :=
  let t := taskRec e.req.lanes
  if 8 * e.req.port.val != tile || e.issued.isNone || e.req.isDrain then 0
  else (if t.aring == off && !t.keepA then e.needs.1 else 0) + (if t.bring == off && !t.keepB then e.needs.2 else 0)

end Sys2Proof.Machine
end

