-- ==== Sys2Proof/Machine/Memory.lean ====
section
/-! DEFINITION. The memory operators (R246..R256): their addresses, their firings, and the results of their accesses.  A
firing takes a tag and a place in the reorder buffer; the access is performed later, at its serving controller. -/

namespace Sys2Proof.Machine

/-! ## Addresses (R247) -/

/-- A little-endian field of a configuration's image. -/
def Cfg.field (g : Cfg) (off n : Nat) : Nat := bytesNat ((g.bytes.drop off).take n)

/-- BASE0..BASE7 (R247, R369). -/
def Cfg.base (g : Cfg) (i : Nat) : Word64 := BitVec.ofNat 64 (g.field (32 + 8 * i) 8)

/-- Where a firing's access goes: the address as formed, whether virtual, whether it must lie in the local column, the
physical address when it is not virtual, and a refusal known at once. -/
structure Loc where
  addr : Word64
  virt : Bool
  column : Bool
  pa : Nat
  bad : Option (BitVec 8)
  deriving DecidableEq, Repr

/-- A scratch or ember offset (R247, R255, R85). -/
def State.locateOff (s : State) (x : Site) (ember : Bool) (p n al : Nat) (wr : Bool) : Loc :=
  let tile := s.elemAt x
  let err :=
    if p % al != 0 then some causeAlign
    else if ember then (if p + n ≤ s.emberBytes x.core then none else some causeRange)
    else if s.scratchBytes x.core tile.val < p + n then some causeRange
    else if wr && s.hitsRotation x.core tile p n then some causeRotation
    else none
  ⟨BitVec.ofNat 64 p, false, false, (if ember then emberAddr x.core p else tileAddr x.core tile.val p), err⟩

/-- The address of a firing with offset o (R247): n bytes, aligned to al. -/
def State.locate (s : State) (x : Site) (space : BitVec 4) (off : BitVec 12) (o : Lane) (n al : Nat) (wr : Bool) : Loc :=
  if space == 1 || space == 2 then
    let base := ((s.cfgOf x).map fun g => g.base (off.extractLsb' 9 3).toNat).getD 0
    let va := base + o.setWidth 64 + 64 * (off.extractLsb' 0 9).setWidth 64
    ⟨va, true, space == 1, 0, if va.toNat % al != 0 then some causeAlign else none⟩
  else s.locateOff x (space == 3) (o.toNat + 64 * off.toNat) n al wr

/-- The bytes of an access of b beats (R248): a scaled block has a slot for its scale word. -/
def accessBytes (tag : BitVec 4) (b : Nat) : Nat := if tagScaled tag then 64 * (b + 1) else 64 * b

/-! ## Firing -/

/-- The operator's accesses that stand in its tile's queue (R240). -/
def State.queued (s : State) (x : Site) : Nat :=
  (s.accs.filter fun a => !a.virt && a.stage.open_ && a.kind != .done && match a.agent with
    | .op y h e => y == x && s.holds x h e
    | _ => false).length

/-- A firing with an access may go: nothing holds it back, and a tag and a place in the queue are free (R240, R242). -/
def State.canAccess (s : State) (x : Site) (io : Io) (sh : Shot) : Bool :=
  s.canShoot x io 1 1 sh && (s.region x.core x.unit).tags.length < 64 && s.queued x < 8

/-- A firing whose result is known at once (R255). -/
def State.fireNow (s : State) (x : Site) (io : Io) (sh : Shot) (res : List Emit) : State :=
  s.attemptId x io 1 1 { sh with rob := some (robNow s.newId s.clk.now res) }

/-- The agent of a slot. -/
def State.opAgent (s : State) (x : Site) : Agent :=
  let g := s.region x.core x.unit
  .op x g.handle g.entry

/-- The ASID a slot's accesses run under (R263). -/
def State.asidOf (s : State) (x : Site) : BitVec 12 := ((s.cfgOf x).map Cfg.asid).getD 0

/-- A void result that takes port a's payload and TAG (R129), for an instruction outside R255. -/
def ofPortA (t : Token) (r : Token × Option Cause) : Token × Option Cause :=
  if r.1.void then (voidFrom (some t) 7 r.1.cause, r.2) else r

/-- A new access of a slot. -/
def State.newAccess (s : State) (x : Site) (kind : AKind) (l : Loc) (pieces : List Piece) (data : List Byte)
    (poison wr : Bool) : Access :=
  { id := s.newId, agent := s.opAgent x, kind := kind, asid := s.asidOf x, wr := wr, virt := l.virt, column := l.column
    addr := l.addr, pieces := pieces, data := data, bads := [], poison := poison
    stage := if l.virt then .walk else .ready, held := false }

/-- A firing with an access (R242, R255): a refusal known at once is a region fault and delivers nothing; otherwise the
access is issued.  `before` is the state to fire in and `post` what follows; a firing held back leaves the state alone. -/
def State.fireAccess (s before : State) (x : Site) (io : Io) (sh : Shot) (l : Loc) (kind : AKind) (pieces : List Piece)
    (data : List Byte) (poison wr : Bool) (post : State → State) : State :=
  if !before.canAccess x io sh then s
  else match l.bad with
  | some c => post ((before.shoot x io 0 sh).regionFault x.core x.unit x.slot c (if l.virt then l.addr else 0) true)
  | none =>
    let a := before.newAccess x kind l pieces data poison wr
    post (((before.shoot x io 0 { sh with rob := some (robLater a.id before.clk.now) }).takeTag x a.id).issue a).tickId

/-- An end firing waits until the earlier results have been delivered (R255). -/
def State.endWhenDone (s : State) (x : Site) (io : Io) : State :=
  if (s.slot x).rob.isEmpty then s.attempt x io 0 1 1 (s.endShot x io) else s

/-- The faulting firing of R32 whose void result keeps its place in order (R139, R240). -/
def State.mismatchNow (s : State) (x : Site) (io : Io) (tag : BitVec 4) : State :=
  s.fireNow x io { pa := s.dataPop x io .a, pb := s.dataPop x io .b, run := .idle, cause := some causeLength }
    [.both (voidToken zeroLanes tag causeLength)]

/-- The firing rule of an operator with a reorder buffer. -/
def State.memOp (s : State) (io : Io) (tag : BitVec 4) (fire : Site → State) : State :=
  let x := s.clk.focus
  match s.kind x io with
  | .wait => s
  | .fin => s.endWhenDone x io
  | .mismatch => s.mismatchNow x io tag
  | .fire => fire x

/-- An address, index, trigger or offset token (R247, R251, R255). -/
inductive Opnd where
  | void (c : Cause)
  | poison
  | bad
  | word (o : Lane)
  deriving DecidableEq, Repr

/-- Reads an operand token; a trigger's tag is not checked. -/
def operand (trigger : Bool) (t : Token) : Opnd :=
  if t.void then .void t.cause else if t.tag == 15 then .poison
  else if trigger && !t.badTag || t.wordTag then .word (t.lane 0) else .bad

/-- A trigger, of any format: it is still read (R125, R133). -/
def triggerOpnd (edge : Nat × Nat) (t : Token) : Opnd :=
  match checkShape edge [t], operand true t with
  | .error _, .word _ => .bad
  | _, o => o

/-- The result of a firing that performs no access (R255): `none` when the operand can be used. -/
def noAccess (tag : BitVec 4) : Opnd → Option (Token × Option Cause)
  | .void c => some (voidToken zeroLanes tag c, none)
  | .poison => some (poisonToken, none)
  | .bad => some (voidToken zeroLanes tag causeFormat, some causeFormat)
  | .word _ => none

/-- n copies of one result. -/
def copies (n : Nat) (t : Token) : List Emit := List.replicate n (.both t)

/-! ## The counter window and the slot-indexed form (R247) -/

/-- PRESET, levels and first counter of a .W form. -/
def windowOf (off : BitVec 12) : Nat × Nat × Nat :=
  ((off.extractLsb' 6 6).toNat, (off.extractLsb' 4 2).toNat + 1, (off.extractLsb' 2 2).toNat)

/-- A step of a .W pass: the state with the counters loaded at its first step, the offset, and whether it is the last. -/
def State.windowStep (s : State) (x : Site) (off : BitVec 12) (o : Lane) : State × Lane × Bool × Run :=
  let w := windowOf off
  let p : State × Lane := match (s.slot x).run with
    | .pass base true _ => (s, base)
    | _ => (s.loadCounters x w.2.2 w.2.1 w.1, o)
  let e := p.1.elem x.core (p.1.elemAt x)
  let last := counterLast e w.2.2 w.2.1
  (p.1, p.2 + counterSum e w.2.2 w.2.1, last, if last then .idle else .pass p.2 true false)

/-- What the variant of an LD, ST or STF gives a firing: the state to fire in, the space, the offset and OFF12 of its
address, the pop of port a, the running values, and the state after the counters have stepped. -/
structure Var where
  before : State
  space : BitVec 4
  off : BitVec 12
  o : Lane
  pa : Nat
  run : Run
  step : State → State

/-- The variants (R247): plain, .SL by the firing count, .W by the counter window. -/
def State.variant (s : State) (x : Site) (f : FM) (o : Lane) : Var :=
  match (modLow f.mod).toNat with
  | 2 => ⟨s, 0, f.off, BitVec.ofNat 32 (128 * (phaseOf s x (s.driver x f.io)).1), f.a.popN, .idle, id⟩
  | 3 =>
    let w := s.windowStep x f.off o
    ⟨w.1, 0, 0, w.2.1, if w.2.2.1 then 1 else 0, w.2.2.2, fun t => t.stepCtr x (windowOf f.off).2.2 (windowOf f.off).2.1⟩
  | _ => ⟨s, f.space, f.off, o, f.a.popN, .idle, id⟩

/-! ## LD and LDS (R248) -/

/-- What a load's access does. -/
def loadKind (f : FM) (lds : Bool) (b : Nat) : AKind :=
  if lds then .loadFull (modV f.mod) (modTag f.mod) b
  else if modLow f.mod == 1 then .loadV (modTag f.mod) b else .load (modTag f.mod) b

/-- LD.V on a line whose full bit is clear: its firing delivers void tokens, makes no access and takes no tag (R242, R248). -/
def State.loadVoid (s : State) (f : FM) (l : Loc) : Bool :=
  modLow f.mod == 1 && l.bad.isNone && s.hasFull l.pa && !s.mem.isFull l.pa

/-- The address of a load: LDS has no variants (R247, R248). -/
def State.loadVar (s : State) (x : Site) (f : FM) (lds : Bool) (o : Lane) : Var :=
  if lds then ⟨s, f.space, f.off, o, 1, .idle, id⟩ else s.variant x f o

/-- The firing of LD and LDS. -/
def loadFire (s : State) (f : FM) (lds : Bool) (x : Site) : State :=
  let tag := modTag f.mod
  let b := (s.slot x).burst
  let variant := !lds && (modLow f.mod == 2)
  let t := oldest (s.ents x f.io .a)
  let addr := if variant then triggerOpnd (s.edgeAt x .a) t else operand false t
  match noAccess tag addr, addr with
  | some r, _ => s.fireNow x f.io { pa := 1, run := .idle, cause := r.2 } (copies b r.1)
  | none, .word o =>
    let v := s.loadVar x f lds o
    let n := accessBytes tag b
    let l := v.before.locate x v.space v.off v.o n 64 false
    if !lds && s.loadVoid f l then s.fireNow x f.io { pa := v.pa, run := v.run } (copies b (voidToken zeroLanes tag 0))
    else s.fireAccess v.before x f.io { pa := v.pa, run := v.run } l (loadKind f lds b)
      (piecesFrom l.addr (if l.virt then none else some l.pa) 64 (n / 64)) [] false false v.step
  | none, _ => s

/-- LD (R246..R248). -/
def execLd (f : FM) (s : State) : Done := .next (s.memOp f.io (modTag f.mod) (loadFire s f false))

/-- LDS (R246, R248). -/
def execLds (f : FM) (s : State) : Done := .next (s.memOp f.io (modTag f.mod) (loadFire s f true))

/-- The tokens of a load (R248): b beats, the scale word on beat 0, poison where a unit read was poisoned (R243). -/
def loadBeats (tag : BitVec 4) (b : Nat) (data : List Byte) (bads : List Bool) : List Token :=
  let sc : BitVec 16 := if tagScaled tag then BitVec.ofNat 16 (bytesNat ((data.drop (64 * b)).take 2)) else 0
  (List.range b).map fun i =>
    if bads.getD i false || (tagScaled tag && bads.getD b false) then poisonToken
    else scaledToken (lanesOfBytes ((data.drop (64 * i)).take 64)) tag (if i == 0 then sc else 0)

/-! ## ST and STF (R249, R250) -/

/-- The bytes of stored data in the layout of R248. -/
def storeBytes (tag : BitVec 4) (ts : List Token) : List Byte :=
  ts.flatMap Token.bytes ++
    (if tagScaled tag then natBytes 2 (ts.headD eosToken).scale.toNat ++ List.replicate 62 0 else [])

/-- The data of a store (R127, R249, R255): a void result, a format fault, or whether it is poisoned. -/
def storeData (tag : BitVec 4) (edge : Nat × Nat) (ts : List Token) : Except (Token × Option Cause) Bool :=
  match firstVoid ts with
  | some c => .error (voidToken zeroLanes tag c, none)
  | none =>
    if ts.any Token.poisoned then .ok true
    else match (ts.forM (checkTag true tag)), wellScaled edge ts with
      | .ok _, .ok _ => .ok false
      | _, _ => .error (voidToken zeroLanes tag causeFormat, some causeFormat)

/-- The completion token of a store (R255): status and the low 32 bits of the address as formed. -/
def storeTok (poison : Bool) (addr : Word64) : Token := i32Token [if poison then 1 else 0, addr.setWidth 32]

/-- What an address, index or offset of a store comes to, with its data: void entries win over every other test (R129). -/
def storeAddr (addr : Opnd) (data : List Token) : Opnd :=
  match addr with
  | .void c => .void c
  | a => match firstVoid data with
    | some c => .void c
    | none => a

/-- The firing of ST and STF.  A firing that performs no access still takes its step of a .W pass. -/
def storeFire (s : State) (f : FM) (full : Bool) (x : Site) : State :=
  let tag := modTag f.mod
  let data := s.ents x f.io .b
  let addr : Opnd := if f.a.used then storeAddr (operand false (oldest (s.ents x f.io .a))) data else .word 0
  match noAccess tag addr, addr with
  | some r, _ => s.fireNow x f.io { pa := f.a.popN, pb := f.b.popN, run := .idle, cause := r.2 } [.both r.1]
  | none, .word o =>
    let v := s.variant x f o
    let sh : Shot := { pa := v.pa, pb := f.b.popN, run := v.run }
    match storeData tag (s.edgeAt x .b) data with
    | .error r =>
      if v.before.canShoot x f.io 1 1 sh then v.step (v.before.fireNow x f.io { sh with cause := r.2 } [.both r.1]) else s
    | .ok poison =>
      let n := accessBytes tag data.length
      let l := v.before.locate x v.space v.off v.o n 64 true
      s.fireAccess v.before x f.io sh l (.store data full)
        (piecesFrom l.addr (if l.virt then none else some l.pa) 64 (n / 64)) (storeBytes tag data) poison true v.step
  | none, _ => s

/-- ST (R246, R247, R249). -/
def execSt (f : FM) (s : State) : Done := .next (s.memOp f.io (modTag f.mod) (storeFire s f false))

/-- STF (R246, R249, R250). -/
def execStf (f : FM) (s : State) : Done := .next (s.memOp f.io (modTag f.mod) (storeFire s f true))

/-! ## LDX and STX (R248, R249, R251) -/

/-- A lane that takes no part. -/
def noLane : Lane := 0xFFFFFFFF

/-- The locations of the lanes that take part, in ascending order. -/
def State.laneLocs (s : State) (x : Site) (f : FM) (idx : Vector Lane 16) (wr : Bool) : List Loc :=
  (idx.toList.filter fun o => o != noLane).map fun o => s.locate x f.space f.off o 4 4 wr

/-- The firing of LDX and STX with an index that can be used: one 4-byte piece for each lane. -/
def lanesFire (s : State) (f : FM) (x : Site) (idx : Vector Lane 16) (sh : Shot) (kind : AKind) (data : List Byte)
    (poison wr : Bool) : State :=
  let ls := s.laneLocs x f idx wr
  let first : Loc := ls.headD (s.locate x 0 0 0 0 4 false)
  let misaligned := idx.toList.any fun o => o != noLane && o.toNat % 4 != 0
  let bad := if misaligned then some causeAlign else ls.findSome? Loc.bad
  s.fireAccess s x f.io sh { first with bad := bad, virt := first.virt && !ls.isEmpty } kind
    (ls.map fun l => ⟨l.addr, 4, if l.virt then none else some l.pa⟩) data poison wr id

/-- The firing of LDX. -/
def ldxFire (s : State) (f : FM) (x : Site) : State :=
  let t := oldest (s.ents x f.io .a)
  let sh : Shot := { pa := 1, run := .idle }
  match noAccess (modTag f.mod) (operand false t) with
  | some r => s.fireNow x f.io { sh with cause := r.2 } [.both r.1]
  | none => lanesFire s f x t.lanes sh (.loadLanes (modTag f.mod) t.lanes) [] false false

/-- LDX. -/
def execLdx (f : FM) (s : State) : Done := .next (s.memOp f.io (modTag f.mod) (ldxFire s f))

/-- The firing of STX. -/
def stxFire (s : State) (f : FM) (x : Site) : State :=
  let t := oldest (s.ents x f.io .a)
  let data := s.ents x f.io .b
  let sh : Shot := { pa := 1, pb := f.b.popN, run := .idle }
  match noAccess (modTag f.mod) (storeAddr (operand false t) data) with
  | some r => s.fireNow x f.io { sh with cause := r.2 } [.both r.1]
  | none => match storeData (modTag f.mod) (s.edgeAt x .b) data with
    | .error r => s.fireNow x f.io { sh with cause := r.2 } [.both r.1]
    | .ok poison =>
      let d := oldest data
      let bytes := (List.range 16).flatMap fun l => if t.lane l == noLane then [] else natBytes 4 (d.lane l).toNat
      lanesFire s f x t.lanes sh (.storeLanes t.lanes d.lanes) bytes poison true

/-- STX. -/
def execStx (f : FM) (s : State) : Done := .next (s.memOp f.io (modTag f.mod) (stxFire s f))

/-- The token of an LDX (R248): 0 in the lanes that read nothing. -/
def lanesLoaded (tag : BitVec 4) (idx : Vector Lane 16) (data : List Byte) (bads : List Bool) : Token :=
  if bads.any id then poisonToken
  else
    let place (l : Nat) : Nat := ((idx.toList.take l).filter fun o => o != noLane).length
    dataToken (Vector.ofFn fun l : Fin 16 =>
      if idx[l] == noLane then 0 else BitVec.ofNat 32 (bytesNat ((data.drop (4 * place l.val)).take 4))) tag

/-! ## AMO (R252, R282) -/

/-- The width of an AMO in bytes. -/
def amoBytes (m : BitVec 8) : Nat := if m.getLsbD 3 then 8 else 4

/-- The value in lanes l and l + 1 of an operand. -/
def amoLane (m : BitVec 8) (t : Token) (l : Nat) : Nat :=
  if m.getLsbD 3 then (t.lane l).toNat + 2 ^ 32 * (t.lane (l + 1)).toNat else (t.lane l).toNat

/-- F32 addition under RNE (R252). -/
def amoAddF32 (x y : Nat) : Nat := f32.round .rne ((f32.dec x).add .rne (f32.dec y))

/-- The new value of a location (R252). -/
def amoNew (m : BitVec 8) (old : Nat) (opnd : Token) : Nat :=
  let w := 8 * amoBytes m
  let v := amoLane m opnd 0
  match (m.extractLsb' 0 3).toNat with
  | 0 => if modTag m == 1 then amoAddF32 old v else (old + v) % 2 ^ w
  | 1 => if sgn w old ≤ sgn w v then old else v
  | 2 => if sgn w v ≤ sgn w old then old else v
  | 3 => old &&& v
  | 4 => old ||| v
  | 5 => old ^^^ v
  | 6 => v
  | _ => if old == amoLane m opnd 2 then v else old

/-- AMO's value token (R252). -/
def amoTok (m : BitVec 8) (old : Nat) : Token :=
  lanesToken [BitVec.ofNat 32 old, if m.getLsbD 3 then BitVec.ofNat 32 (old / 2 ^ 32) else 0] (modTag m)

/-- The operand of an AMO: its result when it is void, poisoned or of a wrong tag. -/
def amoOperand (m : BitVec 8) (t : Token) : Option (Token × Option Cause) :=
  if t.void then some (voidToken zeroLanes (modTag m) t.cause, none)
  else if t.poisoned then some (poisonToken, none)
  else match checkTag false (modTag m) t with
    | .ok _ => none
    | .error c => some (voidToken zeroLanes (modTag m) c, some c)

/-- The firing of AMO. -/
def amoFire (s : State) (f : FM) (x : Site) : State :=
  let t := oldest (s.ents x f.io .a)
  let d := oldest (s.ents x f.io .b)
  let sh : Shot := { pa := 1, pb := 1, run := .idle }
  let early := if d.void && !t.void then amoOperand f.mod d else (noAccess (modTag f.mod) (operand false t)) <|> amoOperand f.mod d
  match early with
  | some r => s.fireNow x f.io { sh with cause := r.2 } [.both r.1]
  | none =>
    let n := amoBytes f.mod
    let l := s.locate x f.space f.off (t.lane 0) n n true
    s.fireAccess s x f.io sh l (.amo f.mod d) (piecesFrom l.addr (if l.virt then none else some l.pa) n 1) [] false true id

/-- AMO. -/
def execAmo (f : FM) (s : State) : Done := .next (s.memOp f.io (modTag f.mod) (amoFire s f))

/-! ## DONE (R253) -/

/-- The firing of DONE: its tag is performed at once, and freed when every earlier one is. -/
def doneFire (s : State) (f : FM) (x : Site) : State :=
  let t := oldest (s.ents x f.io .a)
  let sh : Shot := { pa := 1, run := .idle }
  match noAccess 0 (triggerOpnd (s.edgeAt x .a) t) with
  | some r => s.fireNow x f.io { sh with cause := r.2 } [.both r.1]
  | none =>
    if !s.canAccess x f.io sh then s
    else
      let g := s.region x.core x.unit
      let l : Loc := ⟨0, false, false, 0, none⟩
      let a := { s.newAccess x .done l [] [] false false with stage := .wait }
      let s := ((s.shoot x f.io 0 { sh with rob := some (robLater a.id s.clk.now) }).takeTag x a.id)
      ({ s with accs := s.accs ++ [a] }.tickId).freeTag x g.handle g.entry a.id

/-- DONE. -/
def execDone (f : FM) (s : State) : Done := .next (s.memOp f.io 0 (doneFire s f))

/-! ## Rings (R215, R216, R254) -/

/-- A ring descriptor. -/
structure Ring where
  base : Nat
  size : Nat
  head : Nat
  tail : Nat
  deriving DecidableEq, Repr

/-- The descriptor at a tile offset. -/
def State.ringAt (s : State) (c : Fin 96) (tile off : Nat) : Ring :=
  let w (i : Nat) : Nat := bytesNat (s.readBytes (tileAddr c tile (off + 4 * i)) 4)
  ⟨w 0, w 1, w 2, w 3⟩

/-- A difference of ring counts, modulo 2^32. -/
def ringDiff (a b : Nat) : Nat := (a + 2 ^ 32 - b % 2 ^ 32) % 2 ^ 32

/-- The bytes of a ring that an RPOP has reserved and whose HEAD has not moved on yet. -/
def Access.pops (a : Access) (c : Fin 96) (tile off : Nat) : Nat :=
  match a.kind, a.agent with
  | .ringPop t d _ _ b, .op x _ _ => if x.core == c && t == tile && d == off && a.stage.open_ then 64 * b else 0
  | _, _ => 0

/-- The bytes fired RPOPs will pop of a ring. -/
def State.popping (s : State) (c : Fin 96) (tile off : Nat) : Nat := (s.accs.map fun a => a.pops c tile off).sum

/-- A pop of a ring that was issued before the one numbered n has not taken effect: pops on one ring take effect in the order of
their issue (R216). -/
def State.popBefore (s : State) (c : Fin 96) (tile off n : Nat) : Bool :=
  ((s.core c).matrix.queue.any fun q => q.issued.isSome && q.ord < n && q.popped.contains (tile, off)) ||
    s.accs.any fun a => a.id < n && a.pops c tile off != 0

/-- The unit of a descriptor cannot be used (R243). -/
def State.ringSpoilt (s : State) (c : Fin 96) (tile off : Nat) : Bool := s.mem.spoilt (tileAddr c tile off)

/-- The reservation point of a ring (R216): its HEAD with every pop that is issued and not yet performed. -/
def State.ringRes (s : State) (c : Fin 96) (tile off : Nat) : Nat :=
  ((s.ringAt c tile off).head + ((s.core c).matrix.queue.map fun e => e.pops tile off).sum + s.popping c tile off) % 2 ^ 32

/-- The bytes of a ring at a position, as 64-byte pieces of the tile. -/
def ringPieces (c : Fin 96) (tile : Nat) (r : Ring) (pos n : Nat) : List Piece :=
  (List.range n).map fun i =>
    let off := r.base + (pos + 64 * i) % 2 ^ 32 % r.size
    ⟨BitVec.ofNat 64 off, 64, some (tileAddr c tile off)⟩

/-- The refusal of a ring operation at a descriptor: misaligned, or a byte beyond the scratch bytes (R254, R255). -/
def State.ringBad (s : State) (x : Site) (desc : Nat) (pieces : List Piece) (wr : Bool) : Option (BitVec 8) :=
  let tile := s.elemAt x
  let data := pieces.findSome? fun p => (s.locateOff x false p.va.toNat 64 64 wr).bad
  if desc % 16 != 0 then some causeAlign
  else if s.scratchBytes x.core tile.val < desc + 16 then some causeRange
  else if s.hitsRotation x.core tile desc 16 then some causeRotation
  else data

/-- The slot has a ring operation that is not yet performed: a tile performs those of one descriptor one at a time. -/
def State.ringBusy (s : State) (x : Site) : Bool :=
  s.accs.any fun a => match a.kind, a.agent with
    | .ringPush .., .op y h e => y == x && s.holds x h e && a.stage.open_
    | .ringPop .., .op y h e => y == x && s.holds x h e && a.stage.open_
    | _, _ => false

/-- A firing that reads a descriptor in a spoilt unit: as with a poisoned address (R255), it makes no access and delivers poisoned
tokens; the unit is reported (R243; log 115, DEDUCED). -/
def State.fireSpoilt (s : State) (x : Site) (io : Io) (sh : Shot) (tile desc n : Nat) : State :=
  if !s.canShoot x io 1 1 sh then s
  else
    let p := (s.region x.core x.unit).at_ x.slot
    let rec_ := placedRec (s.region x.core x.unit).handle 0 0x40 0 x.core p.1 p.2 x.unit.val x.slot.val 0
    (s.fireNow x io sh (copies n poisonToken)).meetUnit rec_ (tileAddr x.core tile desc)

/-- The firing of RPUSH. -/
def rpushFire (s : State) (f : FM) (x : Site) : State :=
  let tag := modTag f.mod
  let data := s.ents x f.io .b
  let addr : Opnd := if f.a.used then storeAddr (operand false (oldest (s.ents x f.io .a))) data else .word 0
  let sh : Shot := { pa := f.a.popN, pb := f.b.popN, run := .idle }
  match noAccess tag addr, addr, storeData tag (s.edgeAt x .b) data with
  | some r, _, _ => s.fireNow x f.io { sh with cause := r.2 } [.both r.1]
  | none, .word o, .ok poison =>
    let tile := (s.elemAt x).val
    let desc := 16 * f.off.toNat + o.toNat
    let r := s.ringAt x.core tile desc
    let n := 64 * data.length
    let pieces := ringPieces x.core tile r r.tail (n / 64)
    let bad := s.ringBad x desc pieces true
    let room := n + ringDiff r.tail r.head ≤ r.size
    if s.ringBusy x then s
    else if bad.isNone && s.ringSpoilt x.core tile desc then s.fireSpoilt x f.io sh tile desc 1
    else if bad.isNone && !room then s
    else s.fireAccess s x f.io sh ⟨BitVec.ofNat 64 desc, false, false, tileAddr x.core tile desc, bad⟩ (.ringPush tile desc data)
      pieces (data.flatMap Token.bytes) poison true id
  | none, _, .error r => s.fireNow x f.io { sh with cause := r.2 } [.both r.1]
  | none, _, _ => s

/-- RPUSH. -/
def execRpush (f : FM) (s : State) : Done := .next (s.memOp f.io (modTag f.mod) (rpushFire s f))

/-- The firing of RPOP. -/
def rpopFire (s : State) (f : FM) (x : Site) : State :=
  let tag := modTag f.mod
  let b := (s.slot x).burst
  let sh : Shot := { pa := 1, run := .idle }
  let t := oldest (s.ents x f.io .a)
  match noAccess tag (operand false t), operand false t with
  | some r, _ => s.fireNow x f.io { sh with cause := r.2 } (copies b r.1)
  | none, .word o =>
    let tile := (s.elemAt x).val
    let desc := 16 * f.off.toNat + o.toNat
    let r := s.ringAt x.core tile desc
    let pos := s.ringRes x.core tile desc
    let n := 64 * b
    let pieces := ringPieces x.core tile r pos (n / 64)
    let bad := s.ringBad x desc pieces false
    if s.ringBusy x then s
    else if bad.isNone && s.ringSpoilt x.core tile desc then s.fireSpoilt x f.io sh tile desc b
    else if bad.isNone && ringDiff r.tail pos < n then s
    else s.fireAccess s x f.io sh ⟨BitVec.ofNat 64 desc, false, false, tileAddr x.core tile desc, bad⟩
      (.ringPop tile desc pos tag b) pieces [] false false id
  | none, _ => s

/-- RPOP. -/
def execRpop (f : FM) (s : State) : Done := .next (s.memOp f.io (modTag f.mod) (rpopFire s f))

end Sys2Proof.Machine
end

