-- ==== Sys2Proof/Machine/Matrix.lean ====
section
/-! DEFINITION. The matrix island (R209..R235): the commands and their request paths, the tile-task record and its checks, the
task queue and its scheduler, what an engine computes, retirement, and MTASK, MSYNC and MDRAIN. -/

namespace Sys2Proof.Machine

/-! ## Commands of an island (R211, R228) -/

/-- A result of an island command known at once keeps its place in order; L is at least 8 (R211). -/
def State.islandNow (s : State) (x : Site) (io : Io) (sh : Shot) (res : List Emit) : State :=
  s.attemptId x io 1 1 { sh with rob := some ⟨s.newId, some res, [], s.clk.now + 8⟩ }

/-- The operands of a command that sends nothing: void, poisoned, or of a wrong tag (R228); the first is port a's token, whose
payload and TAG a void completion token takes (R129). -/
def islandEarly (ts : List Token) : Option (Token × Option Cause) :=
  match firstVoid ts with
  | some c => some (voidFrom ts.head? 7 c, none)
  | none =>
    if ts.any Token.poisoned then some (poisonToken, none)
    else if ts.all Token.wordTag then none
    else some (voidFrom ts.head? 7 causeFormat, some causeFormat)

/-- The report of a command's token that its island's guard drops (R203, R205). -/
def State.islandDrop (s : State) (x : Site) (link : Nat) (mine tenant : BitVec 2) : State :=
  let g := s.region x.core x.unit
  let e := g.at_ x.slot
  s.drop x.core x.unit
    { handle := g.handle, agent := s.slotAgent x.core x.unit x.slot, link := BitVec.ofNat 7 link, code := 0x30, count := 0
      first := BitVec.ofNat 32 (s.slot x).count, slot := x.slot, sten := mine, dten := tenant, offg := false, dex := 0, dey := 0
      ex := BitVec.ofNat 3 e.1, ey := BitVec.ofNat 2 e.2, last := 0 }

/-- An island command (R203, R211, R228, R230, R257): its operand tokens; whether its request path has a free entry, without
which it fires in no way but at its end; the link and tenant of its island; how a result becomes steps for its targets; and
the island taking the request.  The results of one port leave in the order of its commands, each when its targets have room:
the oldest 16 that are known are those of the return path, and those behind them are the ones the island holds (R211). -/
def State.islandOp (s : State) (f : FT) (tokens : Site → List Token) (free : Bool) (link : Nat) (tenant : BitVec 2)
    (result : Token → List Emit) (lanes : List Token → Vector Lane 16) (send : State → IslandReq → State) : State :=
  let x := s.clk.focus
  let g := s.region x.core x.unit
  let sh : Shot := { pa := f.a.popN, pb := f.b.popN, run := .idle }
  match s.kind x f.io with
  | .wait => s
  | .fin => s.endWhenDone x f.io
  | .mismatch =>
    if !free then s
    else s.islandNow x f.io { pa := s.dataPop x f.io .a, pb := s.dataPop x f.io .b, run := .idle, cause := some causeLength }
      (result (voidFrom (s.base x f.io) 7 causeLength))
  | .fire =>
    if !free || !s.canShoot x f.io 1 1 sh then s
    else match islandEarly (tokens x) with
    | some r => s.islandNow x f.io { sh with cause := r.2 } (result r.1)
    | none =>
      let e := g.at_ x.slot
      let mine := (s.core x.core).tenant e.1 e.2
      if mine != tenant then
        (s.islandNow x f.io sh (result (voidFrom (tokens x).head? 7 0))).islandDrop x link mine tenant
      else
        let id := s.newId
        let req : IslandReq := ⟨x, g.handle, g.entry, id, Fin.ofNat 4 f.island.toNat, (s.slot x).word, lanes (tokens x)⟩
        send (s.shoot x f.io 0 { sh with rob := some ⟨id, none, [], s.clk.now + 8⟩ }).tickId req

/-- The result of a request takes its place at its command. -/
def State.answerReq (s : State) (r : IslandReq) (res : List Emit) : State := s.give r.site r.handle r.entry r.rob res

/-- Changes a core's matrix island. -/
def State.onMatrix (s : State) (c : Fin 96) (f : Matrix → Matrix) : State := s.onCore c fun k => { k with matrix := f k.matrix }

/-- The matrix island takes a request onto its path. -/
def State.matrixTake (s : State) (c : Fin 96) (r : IslandReq) : State := s.onMatrix c fun m => { m with reqs := m.reqs ++ [r] }

/-- A port's request path has a free entry of its 4 (R211). -/
def Matrix.pathFree (m : Matrix) (port : Nat) : Bool := (m.reqs.filter fun r => r.port.val == port).length < 4

/-- The words of MTASK's record after replacement (R228). -/
def replaced (mask : BitVec 8) (ts : List Token) : Vector Lane 16 :=
  let a := oldest ts
  let b := oldest (ts.drop 1)
  Vector.ofFn fun i : Fin 16 => if i.val < 8 && mask.getLsbD i.val then b.lane i.val else a.lane i.val

/-- A command of the matrix island. -/
def State.matrixOp (s : State) (f : FT) (result : Token → List Emit) (lanes : List Token → Vector Lane 16) : State :=
  let c := s.clk.focus.core
  let tokens (x : Site) : List Token :=
    if f.b.used then [oldest (s.ents x f.io .a), oldest (s.ents x f.io .b)] else [oldest (s.ents x f.io .a)]
  s.islandOp f tokens ((s.core c).matrix.pathFree (f.island.toNat % 4)) (0x10 + f.island.toNat % 4) (s.core c).matrixTenant
    result lanes fun s r => s.matrixTake c r

/-- MTASK (R228). -/
def execMtask (f : FT) (s : State) : Done := .next (s.matrixOp f (fun t => [.both t]) (replaced f.params))

/-- MSYNC (R230, R231). -/
def execMsync (f : FT) (s : State) : Done := .next (s.matrixOp f (fun t => [.both t]) fun ts => (oldest ts).lanes)

/-- MDRAIN (R230, R232): its status goes to T1. -/
def execMdrain (f : FT) (s : State) : Done := .next (s.matrixOp f (fun t => [⟨none, some t⟩]) fun ts => (oldest ts).lanes)

/-! ## Records (R219, R220) -/

/-- A reserved bit of the record is set (R219). -/
def recReserved (ls : Vector Lane 16) : Bool :=
  recFld ls 3 10 22 != 0 || recFld ls 5 16 16 != 0 || recFld ls 6 4 28 != 0 || recFld ls 8 6 26 != 0 ||
    (List.range 7).any fun i => recFld ls (9 + i) 0 32 != 0

/-- The legal pairs of operand formats (R217). -/
def pairOk (a b : BitVec 4) : Bool :=
  let f8 (t : BitVec 4) : Bool := t == 4 || t == 5 || t == 11 || t == 12
  (a == b && (a == 2 || a == 9 || a == 6)) || (f8 a && f8 b)

/-- KIND of the tile that the formats give: 0 F32, 1 I32 (R217). -/
def TaskRec.kind (r : TaskRec) : BitVec 2 := if r.atag == 9 then 1 else 0

/-- A drain format is legal for a kind (R219). -/
def drainOk (kind : BitVec 2) (dtag : Nat) : Bool := if kind == 1 then dtag == 7 else 1 ≤ dtag && dtag ≤ 3

/-- Bytes of a drained value. -/
def drainWidth (dtag : Nat) : Nat := if dtag == 2 || dtag == 3 then 2 else 4

/-- The accumulator tiles of a core (R212). -/
def naccOf (a : Nat) : Nat := (64 * a - 4) / 24

/-- BADREC (R220). -/
def TaskRec.bad (r : TaskRec) (ls : Vector Lane 16) (scratch : Nat) : Bool :=
  recReserved ls || r.k == 0 || 4096 < r.k || !pairOk r.atag r.btag || r.bl == 3 ||
    (r.bl != 0 && (r.atag == 2 || r.atag == 9)) || r.aring % 16 != 0 || r.bring % 16 != 0 || r.aring == r.bring ||
    (if r.drain then !drainOk r.kind r.dtag || r.ddst % 128 != 0 || scratch < r.ddst + 6144 * drainWidth r.dtag
     else r.ddst != 0 || r.dtag != 0 || r.drnd != 0)

/-- A ring that cannot hold the operand: its descriptor or itself beyond the scratch, overfull, or too small (R215, R220). -/
def State.ringWrong (s : State) (c : Fin 96) (tile off n : Nat) : Bool :=
  let sb := s.scratchBytes c tile
  let r := s.ringAt c tile off
  sb < off + 16 || sb < r.base + r.size || r.size < ringDiff r.tail r.head || r.size < n

/-! ## Tokens (R229, R231) -/

/-- Bits [19:16] of a tile's status (R213). -/
def Tile.bits (t : Tile) : BitVec 4 := BitVec.ofBool t.poison ++ BitVec.ofBool t.sat ++ t.kind

/-- A completion token (R229); the tile is none where it names none. -/
def taskTok (st tile : Nat) (t : Option Tile) (engine : Lane) (cycles : Nat) : Token :=
  i32Token [BitVec.ofNat 32 st, BitVec.ofNat 32 tile, ((t.map Tile.ver).getD 0).setWidth 32, engine, BitVec.ofNat 32 cycles,
    ((t.map Tile.bits).getD 0).setWidth 32]

/-- The engine of an entry that never issued. -/
def noEngine : Lane := 0xFFFFFFFF

/-- A tile's status at reset (R213); its contents are unknown. -/
def Tile.fresh : Tile := ⟨false, false, 0, 0, none⟩

/-- MSYNC's token (R231). -/
def syncTok (st tile : Nat) (t : Option Tile) : Token :=
  i32Token [BitVec.ofNat 32 st, BitVec.ofNat 32 tile, ((t.map Tile.ver).getD 0).setWidth 32,
    ((t.map Tile.bits).getD 0).setWidth 32]

/-- The request is an MSYNC. -/
def IslandReq.isSync (r : IslandReq) : Bool := opOf r.word == 0xA1

/-- The status of a request as its targets take it: MDRAIN's on T1 alone (R230). -/
def IslandReq.status (r : IslandReq) (t : Token) : List Emit := if r.isDrain then [⟨none, some t⟩] else [.both t]

/-- The rows of an MDRAIN: first and count (R232). -/
def drainRows (ls : Vector Lane 16) : Nat × Nat := (recFld ls 2 0 32, if recFld ls 3 0 32 == 0 then 64 else recFld ls 3 0 32)

/-! ## Enqueue (R220, R221) -/

/-- A request that is refused at the island: its status and the tile it names (R212, R220, R231, R232). -/
def State.refusal (s : State) (c : Fin 96) (r : IslandReq) : Option Nat :=
  let m := (s.core c).matrix
  let t := taskRec r.lanes
  let port := 8 * r.port.val
  if (s.core c).poolA == 0 then some 7
  else if r.isSync then (if m.tiles.length ≤ recFld r.lanes 0 0 32 then some 3 else none)
  else if r.isDrain then
    if 64 < (drainRows r.lanes).1 + (drainRows r.lanes).2 then some 2
    else if m.tiles.length ≤ recFld r.lanes 0 0 32 then some 3 else none
  else if t.bad r.lanes (s.scratchBytes c port) then some 2
  else if m.tiles.length ≤ t.tile then some 3
  else if s.ringWrong c port t.aring (operandBytes 64 t.k t.atag t.bl) || s.ringWrong c port t.bring (operandBytes 96 t.k t.btag t.bl) then
    some 4
  else none

/-- The tile a request names. -/
def IslandReq.tile (r : IslandReq) : Nat := if r.isSync || r.isDrain then recFld r.lanes 0 0 32 else recFld r.lanes 4 0 32

/-- An entry for an accepted request (R216, R221). -/
def State.entryOf (s : State) (c : Fin 96) (r : IslandReq) : MEntry :=
  let t := taskRec r.lanes
  if r.isDrain then ⟨r, r.tile, BitVec.ofNat 16 (recFld r.lanes 1 0 16), none, 0, 0, 0, 0, 0, 0, 0, 0⟩
  else
    let a := s.ringAt c (8 * r.port.val) t.aring
    let b := s.ringAt c (8 * r.port.val) t.bring
    ⟨r, t.tile, t.ever, none, 0, 0, a.base, a.size, b.base, b.size, 0, 0⟩

/-- The record of an uncorrectable error that a read of the island for a request meets (R243, R294). -/
def State.islandRec (s : State) (c : Fin 96) (r : IslandReq) : CRec :=
  let p := (s.ownedRegion r.site r.handle r.entry).at_ r.site.slot
  placedRec r.handle 0 0x40 0 c p.1 p.2 r.site.unit.val r.site.slot.val 4

/-- The ring descriptors of a task, by tile and offset. -/
def IslandReq.descs (r : IslandReq) : List (Nat × Nat) :=
  if r.isSync || r.isDrain then [] else [(8 * r.port.val, (taskRec r.lanes).aring), (8 * r.port.val, (taskRec r.lanes).bring)]

/-- The island reads the ring descriptors of a request, at its enqueue and at its issue (R216, R243). -/
def State.readDescs (s : State) (c : Fin 96) (r : IslandReq) : State :=
  let rec_ := s.islandRec c r
  ((r.descs.map fun d => tileAddr c d.1 d.2 / 64).eraseDups).foldl (fun s u => s.meetUnit rec_ (64 * u)) s

/-- A ring descriptor of a request lies in a spoilt unit. -/
def State.descSpoilt (s : State) (c : Fin 96) (r : IslandReq) : Bool := r.descs.any fun d => s.ringSpoilt c d.1 d.2

/-- The status and tile of a request that is refused.  A task whose descriptors are sound in form, but lie in a spoilt unit, is
refused with RINGERR (R243; log 115, DEDUCED). -/
def State.judged (s : State) (c : Fin 96) (r : IslandReq) : State × Option Nat :=
  match s.refusal c r with
  | none => (s.readDescs c r, if s.descSpoilt c r then some 4 else none)
  | some st => (if st == 4 then s.readDescs c r else s, some st)

/-- A request that has reached the island: refused, waiting for a version, or enqueued. -/
def State.enqueue (s : State) (c : Fin 96) (r : IslandReq) : State :=
  let q := s.judged c r
  let s := q.1
  match q.2 with
  | some st =>
    let named := if st == 7 || st == 3 then none else (s.core c).matrix.tiles[r.tile]?
    s.answerReq r (if r.isSync then r.status (syncTok st r.tile named) else r.status (taskTok st r.tile named noEngine 0))
  | none =>
    if r.isSync then s.onMatrix c fun m => { m with syncs := m.syncs ++ [r] }
    else
      let e := s.entryOf c r
      s.onMatrix c fun m => { m with queue := m.queue ++ [e] }

/-- The oldest request of a port. -/
def Matrix.first (m : Matrix) (port : Fin 4) : Option IslandReq := m.reqs.find? fun r => r.port == port

/-- A request may pass on: while all 64 entries are in use, only an MSYNC does (R221, R231). -/
def Matrix.passes (m : Matrix) (port : Fin 4) : Bool :=
  match m.first port with
  | some r => m.queue.length < 64 || r.isSync
  | none => false

/-- The request paths without a port's oldest. -/
def dropFirst (port : Fin 4) : List IslandReq → List IslandReq
  | [] => []
  | r :: rest => if r.port == port then rest else r :: dropFirst port rest

/-- TASK_ENQUEUE (R221): one request, from the ports in turn. -/
def execTaskEnqueue (core : Fin 96) (s : State) : Done :=
  let m := (s.core core).matrix
  match ((List.finRange 4).map fun i => m.turn + i).find? m.passes with
  | none => .next s
  | some p => match m.first p with
    | none => .next s
    | some r => .next ((s.onMatrix core fun m => { m with reqs := dropFirst p m.reqs, turn := p + 1 }).enqueue core r)

/-! ## Scheduling (R216, R222) -/

/-- d of an entry (R222). -/
def Matrix.behind (m : Matrix) (e : MEntry) : Nat := (((m.tiles.getD e.tile .fresh).ver) - e.ever).toNat

/-- The entry is stale. -/
def Matrix.stale (m : Matrix) (e : MEntry) : Bool := e.issued.isNone && 1 ≤ m.behind e && m.behind e ≤ 32767

/-- An entry's operand is present in a ring (R216). -/
def State.present (s : State) (c : Fin 96) (ring : Nat × Nat) (n : Nat) : Bool :=
  n ≤ ringDiff (s.ringAt c ring.1 ring.2).tail (s.ringRes c ring.1 ring.2)

/-- Both operands of an entry are present. -/
def State.operandsPresent (s : State) (c : Fin 96) (e : MEntry) : Bool :=
  match e.rings with
  | [a, b] => s.present c a e.needs.1 && s.present c b e.needs.2
  | _ => true

/-- The first four conditions of R222; `older` are the unissued entries before it. -/
def State.mayIssue (s : State) (c : Fin 96) (older : List MEntry) (e : MEntry) : Bool :=
  let m := (s.core c).matrix
  e.issued.isNone && m.behind e == 0 && !(m.queue.any fun q => q.issued.isSome && q.tile == e.tile) &&
    !(older.any fun q => q.rings.any fun r => e.rings.contains r) && s.operandsPresent c e

/-- The lowest free engine. -/
def Matrix.freeEngine (m : Matrix) : Option (Fin 4) :=
  (List.finRange 4).find? fun k => !m.queue.any fun e => e.issued == some k

/-- The first entry in scan order that may issue: its place in the queue. -/
def State.pick (s : State) (c : Fin 96) : List MEntry → List MEntry → Nat → Option Nat
  | _, [], _ => none
  | older, e :: rest, i =>
    if s.mayIssue c older e then some i else s.pick c (if e.issued.isNone then older ++ [e] else older) rest (i + 1)

/-- A stale entry retires (R222, R227). -/
def State.retireStale (s : State) (c : Fin 96) (e : MEntry) : State :=
  (s.onMatrix c fun m => { m with retired := m.retired + 1 }).answerReq e.req
    (e.req.status (taskTok 1 e.tile ((s.core c).matrix.tiles[e.tile]?) noEngine 0))

/-- TASK_ISSUE (R222): stale entries retire, and the first ready entry issues; a halted island issues none (R307). -/
def execTaskIssue (core : Fin 96) (s : State) : Done :=
  let m := (s.core core).matrix
  let old := m.queue.filter m.stale
  let s := old.foldl (fun s e => s.retireStale core e) s
  let s := s.onMatrix core fun m => { m with queue := m.queue.filter fun e => !m.stale e }
  let m := (s.core core).matrix
  if (s.core core).hfab then .next s
  else match s.pick core [] m.queue 0, m.freeEngine with
  | some i, some k =>
    let read := match m.queue[i]? with
      | some e => s.readDescs core e.req
      | none => s
    let s' := read.onMatrix core fun m => { m with queue := m.queue.modify i fun e =>
      let res (j : Nat) : Nat := match e.rings[j]? with
        | some r => s.ringRes core r.1 r.2
        | none => 0
      { e with issued := some k, issuedAt := s.clk.now, ord := s.clk.ids, resA := res 0, resB := res 1 } }
    .next (s'.tickId.laterFree 1 (.taskRetire core k))
  | _, _ => .next s

/-! ## Operands (R216..R218) -/

/-- An operand as an engine reads it. -/
structure Operand where
  tag : BitVec 4
  lg : Nat
  rows : Nat
  codes : Nat
  bytes : List Byte

/-- Element i of the row m of a group (R218). -/
def Operand.code (o : Operand) (g m i : Nat) : Nat :=
  let w := tagWidth o.tag
  let bit := (g * o.rows + m) * o.lg * w + i * w
  bytesNat ((o.bytes.drop (bit / 8)).take ((w + 7) / 8)) / 2 ^ (bit % 8) % 2 ^ w

/-- The scale word of a row of a group; that of a factor of 1 when the format has none (R217, R218). -/
def Operand.scale (o : Operand) (g m : Nat) : BitVec 16 :=
  if tagScaled o.tag then BitVec.ofNat 16 (bytesNat ((o.bytes.drop (o.codes + 2 * (g * o.rows + m))).take 2)) else 256

/-- A malformed scale word (R133, R225). -/
def Operand.badScale (o : Operand) (g m : Nat) : Bool := tagScaled o.tag && scaleBad o.tag (o.scale g m)

/-- The exact value of an element without its scale. -/
def Operand.value (o : Operand) (g m i : Nat) : Num :=
  let c := o.code g m i
  if o.tag == 2 then bf16.dec c else (Narrow.ofTag o.tag (scaleType (o.scale g m))).dec c

/-- X − 256 of a row's scale; none when the block is a NaN (R223, R225). -/
def Operand.exp (o : Operand) (g m : Nat) : Option Int :=
  if o.badScale g m || scaleX (o.scale g m) == 511 then none else some ((scaleX (o.scale g m) : Int) - 256)

/-! ## What an engine computes (R223..R225) -/

/-- An exact sum; of zeros it is −0 only when all are. -/
def sumNums : List Num → Num
  | [] => .fin false 0 0
  | [x] => x
  | x :: rest => x.add .rne (sumNums rest)

/-- T of a group (R223). -/
def groupSum (a b : Operand) (g m n : Nat) : Num :=
  match a.exp g m, b.exp g n with
  | some xa, some xb => (sumNums ((List.range a.lg).map fun i => (a.value g m i).mul (b.value g n i))).scale (xa + xb)
  | _, _ => .nan

/-- An output of an F32 task (R223). -/
def outF32 (a b : Operand) (k m n : Nat) (acc : Lane) : Lane :=
  (List.range k).foldl (fun acc g => BitVec.ofNat 32 (f32.round .rne ((f32.dec acc.toNat).add .rne (groupSum a b g m n)))) acc

/-- An output of an I32 task, and whether it saturated (R224). -/
def outI32 (a b : Operand) (k m n : Nat) (acc : Lane) : Lane × Bool :=
  let top : Int := 2 ^ 31 - 1
  (List.range k).foldl (fun st g =>
    let v := st.1.toInt + ((List.range a.lg).map fun i => sgn 8 (a.code g m i) * sgn 8 (b.code g n i)).sum
    (BitVec.ofInt 32 (sat v (-top) top), st.2 || top < v || v < -top)) (acc, false)

/-- The outputs of a task in tile order, and whether one saturated. -/
def taskOut (kind : BitVec 2) (a b : Operand) (k : Nat) (inc : List Lane) : List Lane × Bool :=
  let pos (i : Nat) : Lane := inc.getD i 0
  if kind == 1 then
    let rs := (List.range 6144).map fun i => outI32 a b k (i / 96) (i % 96) (pos i)
    (rs.map Prod.fst, rs.any Prod.snd)
  else ((List.range 6144).map fun i => outF32 a b k (i / 96) (i % 96) (pos i), false)

/-- An operand's bytes from its ring (R215, R216), and whether a unit read was poisoned; each such unit is reported with
AGENT 4 (R243, R294). -/
def State.readOperand (s : State) (c : Fin 96) (rec_ : CRec) (tile base size res n : Nat) : State × List Byte × Bool :=
  let at_ (i : Nat) : Nat := tileAddr c tile (base + (res + i) % 2 ^ 32 % size)
  let units := ((List.range n).map fun i => at_ i / 64).eraseDups
  let bs := (List.range n).map fun i => s.readByte (at_ i)
  let bad := units.any fun u => s.mem.spoilt (64 * u)
  (units.foldl (fun s u => s.meetUnit rec_ (64 * u)) s, bs, bad)

/-- The values of a tile; unknown ones become free values that stay (R212). -/
def State.tileVals (s : State) (c : Fin 96) (tile : Nat) : State × List Lane :=
  match ((s.core c).matrix.tiles.getD tile .fresh).vals with
  | some vs => (s, vs)
  | none =>
    let vs := (List.range 6144).map fun i => Config.freeLane (s.clk.fresh + i)
    ((s.onMatrix c fun m => { m with tiles := m.tiles.modify tile fun t => { t with vals := some vs } }).tickBy 6144, vs)

/-- Every output of a task that has read a poisoned unit (R225). -/
def poisonOut (kind : BitVec 2) : Lane := if kind == 1 then 0 else BitVec.ofNat 32 f32.canon

/-- A drained value as bytes (R227). -/
def drainVal (kind : BitVec 2) (dtag : Nat) (rm : Rnd) (v : Lane) : Nat :=
  if kind == 1 then v.toNat else (ieeeOf (BitVec.ofNat 4 dtag)).round rm (f32.dec v.toNat)

/-- The values of a tile as a drain writes them (R227). -/
def drainBytes (kind : BitVec 2) (t : TaskRec) (vs : List Lane) : List Byte :=
  vs.flatMap fun v => natBytes (drainWidth t.dtag) (drainVal kind t.dtag (Rnd.ofBits t.drnd) v)

/-- Drained bytes are written into the port tile; the lines of a rotation area are refused (R85, R227, R241). -/
def State.drainTile (s : State) (c : Fin 96) (e : MEntry) (t : TaskRec) (bytes : List Byte) : State :=
  let tile := 8 * e.req.port.val
  let lines := List.range (bytes.length / 128)
  let hit (i : Nat) : Bool := s.hitsRotation c (Fin.ofNat 32 tile) (t.ddst + 128 * i) 128
  let good := lines.filter fun i => !hit i
  let s' := good.foldl (fun s i => s.onMem fun m => m.store (tileAddr c tile (t.ddst + 128 * i)) ((bytes.drop (128 * i)).take 128)) s
  let s' := s'.fillLines (good.map fun i => (tileAddr c tile (t.ddst + 128 * i)) / 128)
  if lines.any hit then s'.ownerFault e.req.site e.req.handle e.req.entry causeRotation 0 true else s'

/-- A pop takes effect in a descriptor (R216). -/
def State.popRing (s : State) (c : Fin 96) (tile off n : Nat) : State :=
  s.onMem fun m => m.store (tileAddr c tile (off + 8)) (natBytes 4 ((s.ringAt c tile off).head + n))

/-! ## Retirement (R227) -/

/-- A task whose tile is of another kind leaves the tile as it is (R225).  With status POISON it drains all the same (R227):
its outputs when it has read a poisoned unit, and for the values of the poisoned tile, which no rule converts to a format of
the other kind, free bytes (log 66). -/
def State.otherKind (s : State) (c : Fin 96) (e : MEntry) (t : TaskRec) (read old : Bool) : State × Nat :=
  if !read && !old then (s, 5)
  else if !t.drain then (s, 6)
  else if read then (s.drainTile c e t (drainBytes t.kind t (List.replicate 6144 (poisonOut t.kind))), 6)
  else
    let n := 6144 * drainWidth t.dtag
    ((s.drainTile c e t (s.freeBytes n)).tickBy n, 6)

/-- What a task does to its tile, and its status (R223..R225, R227): the tile after, and whether it may drain.  A descriptor that has
become spoilt since the entry was accepted counts as a poisoned unit read (log 115, DEDUCED). -/
def State.runTask (s : State) (c : Fin 96) (e : MEntry) : State × Nat :=
  let t := taskRec e.req.lanes
  let tile := 8 * e.req.port.val
  let rec_ := s.islandRec c e.req
  let ra := s.readOperand c rec_ tile e.baseA e.sizeA e.resA e.needs.1
  let rb := ra.1.readOperand c rec_ tile e.baseB e.sizeB e.resB e.needs.2
  let a : Operand := ⟨t.atag, groupLen t.atag t.bl, 64, codeBytes 64 t.k t.atag t.bl, ra.2.1⟩
  let b : Operand := ⟨t.btag, groupLen t.btag t.bl, 96, codeBytes 96 t.k t.btag t.bl, rb.2.1⟩
  let poison := ra.2.2 || rb.2.2 || s.descSpoilt c e.req
  let old := (rb.1.core c).matrix.tiles.getD t.tile .fresh
  if !t.zero && old.kind != t.kind then rb.1.otherKind c e t poison old.poison
  else
    let inc := if t.zero then (rb.1, List.replicate 6144 (0 : Lane)) else rb.1.tileVals c t.tile
    let out := if poison then (List.replicate 6144 (poisonOut t.kind), false)
      else taskOut t.kind a b t.k inc.2
    let format := (List.range t.k).any fun g => ((List.range 64).any fun m => a.badScale g m) || (List.range 96).any fun n => b.badScale g n
    let pz := poison || (!t.zero && old.poison)
    let s := inc.1.onMatrix c fun m => { m with tiles := m.tiles.modify t.tile fun u =>
      ⟨pz, out.2 || (!t.zero && old.sat), t.kind, u.ver, some out.1⟩ }
    let s := if t.drain then s.drainTile c e t (drainBytes t.kind t out.1) else s
    (s, if pz then 6 else if format then 8 else 0)

/-- The data tokens of an MDRAIN (R232). -/
def drainTokens (kind : BitVec 2) (dtag : Nat) (rm : Rnd) (poison : Bool) (vs : List Lane) (r0 count : Nat) : List Token :=
  let per := if drainWidth dtag == 2 then 32 else 16
  (List.range (count * 96 / per)).map fun i =>
    if poison then poisonToken
    else elsToken (BitVec.ofNat 4 dtag) (((vs.drop (96 * r0 + per * i)).take per).map (drainVal kind dtag rm))

/-- The entry takes its leave of the queue (R227, R214). -/
def State.leave (s : State) (c : Fin 96) (e : MEntry) : State :=
  s.onMatrix c fun m => { m with queue := m.queue.filter (fun q => q.ord != e.ord || q.issued != e.issued), retired := m.retired + 1 }

/-- A task retires. -/
def State.retireTask (s : State) (c : Fin 96) (k : Fin 4) (e : MEntry) : State :=
  let t := taskRec e.req.lanes
  let tile := 8 * e.req.port.val
  let r := s.runTask c e
  let s := if t.keepA then r.1 else r.1.popRing c tile t.aring e.needs.1
  let s := if t.keepB then s else s.popRing c tile t.bring e.needs.2
  let s := s.onMatrix c fun m => { m with tiles := m.tiles.modify t.tile fun u => { u with ver := t.ever + 1 } }
  (s.leave c e).answerReq e.req [.both (taskTok r.2 t.tile ((s.core c).matrix.tiles[t.tile]?) (BitVec.ofNat 32 k.val)
    (s.clk.now - e.issuedAt))]

/-- An MDRAIN retires (R232): data, then status. -/
def State.retireDrain (s : State) (c : Fin 96) (k : Fin 4) (e : MEntry) : State :=
  let params := e.req.word.extractLsb' 0 8
  let dtag := (params.extractLsb' 0 4).toNat
  let tile := (s.core c).matrix.tiles.getD e.tile .fresh
  let tok (st : Nat) : Emit := ⟨none, some (taskTok st e.tile (some tile) (BitVec.ofNat 32 k.val) (s.clk.now - e.issuedAt))⟩
  if !drainOk tile.kind dtag then (s.leave c e).answerReq e.req [tok 2]
  else
    let v := s.tileVals c e.tile
    let rows := drainRows e.req.lanes
    let data := drainTokens tile.kind dtag (Rnd.ofBits (params.extractLsb' 4 2)) tile.poison v.2 rows.1 rows.2
    (v.1.leave c e).answerReq e.req ((data.map fun d => ⟨some d, none⟩) ++ [tok (if tile.poison then 6 else 0)])

/-- A pop on a ring this entry pops, issued earlier, has not taken effect: another entry's, or an RPOP's (R216). -/
def State.popWaits (s : State) (c : Fin 96) (e : MEntry) : Bool :=
  e.popped.any fun r => s.popBefore c r.1 r.2 e.ord

/-- TASK_RETIRE (R227): the entry of an engine retires, after the earlier pops on its rings. -/
def execTaskRetire (core : Fin 96) (engine : Fin 4) (s : State) : Done :=
  let m := (s.core core).matrix
  match m.queue.find? fun e => e.issued == some engine with
  | none => .next s
  | some e =>
    if s.popWaits core e then .next (s.later 1 (.taskRetire core engine))
    else .next (if e.req.isDrain then s.retireDrain core engine e else s.retireTask core engine e)

/-- MSYNC_COMPLETE (R231): each MSYNC whose version has been reached or passed completes. -/
def execMsyncComplete (core : Fin 96) (s : State) : Done :=
  let m := (s.core core).matrix
  let hit (r : IslandReq) : Bool :=
    ((((m.tiles.getD r.tile .fresh).ver) - BitVec.ofNat 16 (recFld r.lanes 1 0 16)).toNat) ≤ 32767
  let s := (m.syncs.filter hit).foldl (fun s r => s.answerReq r (r.status (syncTok 0 r.tile (m.tiles[r.tile]?)))) s
  .next (s.onMatrix core fun m => { m with syncs := m.syncs.filter fun r => !hit r })

end Sys2Proof.Machine
end

