-- ==== Sys2Proof/Machine/Streamer.lean ====
section
/-! DEFINITION. The streamer island (R257..R262): transfer packets, XREQ and XMC, the lines of a transfer, and its end. -/

namespace Sys2Proof.Machine

/-- Changes a core's streamer island. -/
def State.onStreamer (s : State) (c : Fin 96) (f : Streamer → Streamer) : State :=
  s.onCore c fun k => { k with streamer := f k.streamer }

/-! ## Packets (R258) -/

/-- A transfer request packet. -/
structure Packet32 where
  cookie : Lane
  rows : Nat
  reserved : Bool
  event : Bool
  full : Bool
  ctx : Fin 4
  dsp : Nat
  ssp : Nat
  stride : Nat
  len : Nat
  dst : Word64
  src : Word64

/-- The fields of a packet. -/
def packetOf (ls : Vector Lane 16) : Packet32 :=
  let w (i : Nat) : Word64 := (ls.toList.getD (i + 1) 0) ++ (ls.toList.getD i 0)
  { cookie := ls[7], rows := recFld ls 6 16 16 + 1, reserved := recFld ls 6 12 4 != 0, event := recFld ls 6 11 1 == 1
    full := recFld ls 6 10 1 == 1, ctx := Fin.ofNat 4 (recFld ls 6 8 2), dsp := recFld ls 6 4 4, ssp := recFld ls 6 0 4
    stride := recFld ls 5 0 32, len := recFld ls 4 0 32, dst := w 2, src := w 0 }

/-- The request is an XMC. -/
def IslandReq.isMulti (r : IslandReq) : Bool := opOf r.word == 0xA4

/-- W of an XMC. -/
def IslandReq.slots (r : IslandReq) : Nat := (r.word.extractLsb' 0 8).toNat

/-- The destinations of a request (R258, R261). -/
def IslandReq.dests (r : IslandReq) : List Word64 :=
  let d (i : Nat) : Word64 := (r.lanes.toList.getD (9 + 2 * i) 0) ++ (r.lanes.toList.getD (8 + 2 * i) 0)
  if r.isMulti then ([d 0, d 1, d 2, d 3]).filter (· != 0) else [(packetOf r.lanes).dst]

/-- A scratch range of a tile lies within its scratch bytes. -/
def State.scratchFits (s : State) (c : Fin 96) (a : Word64) (n : Nat) : Bool :=
  (a.extractLsb' 0 18).toNat + n ≤ s.scratchBytes c (a.extractLsb' 18 5).toNat

/-- BADREQ (R259, R261). -/
def State.badRequest (s : State) (c : Fin 96) (r : IslandReq) : Bool :=
  let p := packetOf r.lanes
  let span : Nat := if r.isMulti then min p.rows r.slots * p.len else p.rows * p.len
  p.reserved || 3 < p.dsp || 3 < p.ssp || p.len == 0 || 0x1000000 < p.len || p.len % 64 != 0 || p.stride % 64 != 0 ||
    p.src.toNat % 64 != 0 || (r.dests.any fun d => d.toNat % 64 != 0) ||
    (p.ssp == 0 && !s.scratchFits c p.src ((p.rows - 1) * p.stride + p.len)) ||
    (p.dsp == 0 && r.dests.any fun d => !s.scratchFits c d span) ||
    (r.isMulti && (r.dests.isEmpty || (p.dsp != 0 && p.dsp != 2) || !p.full))

/-! ## XREQ and XMC (R259, R261) -/

/-- A port's request path has a free entry of its 4 (R211, R257). -/
def Streamer.pathFree (m : Streamer) (port : Nat) : Bool := (m.reqs.filter fun r => r.port.val == port).length < 4

/-- A command of the streamer island; it reads port a alone. -/
def State.streamerOp (s : State) (f : FT) (result : Token → List Emit) : State :=
  let c := s.clk.focus.core
  let port := f.island.toNat % 4
  s.islandOp { f with b := noPort } (fun x => [oldest (s.ents x f.io .a)]) ((s.core c).streamer.pathFree port) (0x14 + port)
    (s.core c).streamerTenant result (fun ts => (oldest ts).lanes)
    fun s r => s.onStreamer c fun m => { m with reqs := m.reqs ++ [r] }

/-- XREQ (R259). -/
def execXreq (f : FT) (s : State) : Done := .next (s.streamerOp f fun t => [.both t])

/-- XMC (R261): it fires on port a; its permits are popped by XMC_PERMIT, and those left over by its end firing, which waits
for the end of both ports and for every earlier result. -/
def execXmc (f : FT) (s : State) : Done :=
  let x := s.clk.focus
  let q := (s.slot x).b.q
  match s.front x .a with
  | some t =>
    if t.eos then
      if (s.slot x).rob.isEmpty && throughEos q != 0 then
        .next (s.attempt x f.io 0 1 1 { pa := 1, pb := throughEos q, out := .both eosToken, run := .idle, fin := true })
      else .next s
    else .next (s.streamerOp f fun t => [⟨none, some t⟩])
  | none => .next s

/-! ## Transfers -/

/-- The 64-byte units of a row. -/
def Packet32.units (p : Packet32) : Nat := p.len / 64

/-- The units of a transfer. -/
def Transfer.total (t : Transfer) : Nat := let p := packetOf t.req.lanes; p.rows * p.units

/-- The row of a unit: XMC's tile. -/
def Transfer.row (t : Transfer) (n : Nat) : Nat := n / (packetOf t.req.lanes).units

/-- The source address of a unit. -/
def Transfer.src (t : Transfer) (n : Nat) : Word64 :=
  let p := packetOf t.req.lanes
  p.src + BitVec.ofNat 64 (t.row n * p.stride + 64 * (n % p.units))

/-- The destination addresses of a unit. -/
def Transfer.dsts (t : Transfer) (n : Nat) : List Word64 :=
  let p := packetOf t.req.lanes
  let row := if t.req.isMulti then t.row n % t.req.slots else t.row n
  t.req.dests.map fun d => d + BitVec.ofNat 64 (row * p.len + 64 * (n % p.units))

/-- A unit in a space: its address, and the physical address or refusal of a space that is not virtual (R247, R258). -/
def State.unitAt (s : State) (c : Fin 96) (space : Nat) (a : Word64) (wr : Bool) : Except (BitVec 8) (Word64 × Option Nat) :=
  match space with
  | 0 =>
    let tile := (a.extractLsb' 18 5).toNat
    let off := (a.extractLsb' 0 18).toNat
    if s.scratchBytes c tile < off + 64 then .error causeRange
    else if wr && s.hitsRotation c (Fin.ofNat 32 tile) off 64 then .error causeRotation
    else .ok (a, some (tileAddr c tile off))
  | 3 => if a.toNat + 64 ≤ s.emberBytes c then .ok (a, some (emberAddr c a.toNat)) else .error causeRange
  | _ => .ok (a, none)

/-- A transfer's result (R259). -/
def transferTok (st : Nat) (p : Packet32) (written : Nat) : Token :=
  i32Token [BitVec.ofNat 32 st, p.cookie, BitVec.ofNat 32 (min written 0xFFFFFFFF)]

/-- The transfer record (R262). -/
def transferRecord (r : IslandReq) (c : Fin 96) (st written : Nat) : Record :=
  let p := packetOf r.lanes
  r.handle ++ p.cookie ++ BitVec.ofNat 32 (min written 0xFFFFFFFF) ++ (if st == 0 then 2#8 else 3#8) ++ 0#8 ++ BitVec.ofNat 8 st ++
    0#40 ++ placeBits c 7 r.port.val r.site.unit r.site.slot.val

/-- A request ends: its completion token, and its record when the packet asks for one. -/
def State.endRequest (s : State) (c : Fin 96) (r : IslandReq) (st written : Nat) : State :=
  let p := packetOf r.lanes
  let tok := transferTok st p written
  let s := s.answerReq r (if r.isMulti then [⟨none, some tok⟩] else [.both tok])
  match s.cfg r.handle with
  | some cfg => if p.event then s.postTo c p.ctx cfg.asid (transferRecord r c st written) true else s
  | none => s

/-- TRANSFER_ACCEPT (R257): the oldest request, while fewer than 64 are held and the core is not halted (R307). -/
def execTransferAccept (core : Fin 96) (s : State) : Done :=
  let m := (s.core core).streamer
  match m.reqs with
  | [] => .next s
  | r :: rest =>
    if (s.core core).hfab || 64 ≤ m.xfers.length then .next s
    else
      let s := s.onStreamer core fun m => { m with reqs := rest }
      if s.badRequest core r then .next (s.endRequest core r 1 0)
      else
        let t : Transfer := ⟨s.newId, r, 0, [], 0, false, false, 0, 0⟩
        .next (s.onStreamer core fun m => { m with xfers := m.xfers ++ [t] }).tickId

/-- A transfer by its number. -/
def State.xfer (s : State) (c : Fin 96) (id : Nat) : Option Transfer := (s.core c).streamer.xfers.find? fun t => t.id == id

/-- Changes a transfer. -/
def State.onXfer (s : State) (c : Fin 96) (id : Nat) (f : Transfer → Transfer) : State :=
  s.onStreamer c fun m => { m with xfers := m.xfers.map fun t => if t.id == id then f t else t }

/-- Nothing of the transfer is still to be performed. -/
def Transfer.ended (t : Transfer) : Bool := t.flight.isEmpty && (t.cancelled || t.total ≤ t.next)

/-- The next unit may start: its tile's permit has been taken (R261). -/
def Transfer.permitted (t : Transfer) : Bool := !t.req.isMulti || t.row t.next < t.req.slots + t.permits

/-- The transfer has a unit to start, and is one of the 16 that move data (R257). -/
def Streamer.moves (m : Streamer) (id : Nat) : Bool :=
  (m.xfers.take 16).any fun t => t.id == id && !t.cancelled && t.next < t.total && t.permitted

/-- The 128-byte line of a unit: its row and the line of the source it lies in (log 70, DEDUCED). -/
def Transfer.lineOf (t : Transfer) (n : Nat) : Nat × Nat := (t.row n, (t.src n).toNat / 128)

/-- The lines that some units of a transfer lie in. -/
def Transfer.linesOf (t : Transfer) (ns : List Nat) : List (Nat × Nat) := (ns.map t.lineOf).eraseDups

/-- The lines in flight; each takes one of 512 tags (R257). -/
def Streamer.inFlight (m : Streamer) : Nat := (m.xfers.map fun t => (t.linesOf t.flight).length).sum

/-- The transfer's next unit has a tag: its line's own, or a free one (R257). -/
def Streamer.tagFor (m : Streamer) (t : Transfer) : Bool := (t.linesOf t.flight).contains (t.lineOf t.next) || m.inFlight < 512

/-- The active transfers that have a unit to start, from the one after the last that took a tag on (R257). -/
def Streamer.round (m : Streamer) : List Transfer :=
  let live := m.xfers.filter fun t => m.moves t.id
  live.filter (fun t => m.turn < t.id) ++ live.filter fun t => t.id ≤ m.turn

/-- A refused unit: a region fault at the command, and the transfer moves no more (R268). -/
def State.lineRefused (s : State) (c : Fin 96) (id : Nat) (n : Nat) (cause : BitVec 8) (addr : Word64) (collect : Bool) : State :=
  match s.xfer c id with
  | none => s
  | some t =>
    let t' := { t with cancelled := true, flight := t.flight.filter (· != n) }
    let s := (s.onXfer c id fun _ => t').ownerFault t.req.site t.req.handle t.req.entry cause addr collect
    if t'.ended then s.laterFree 1 (.transferComplete c id) else s

/-- TRANSFER_LINE (R257, R260): a unit starts, with its line's tag; it is translated and then performed. -/
def execTransferLine (core : Fin 96) (id line : Nat) (s : State) : Done :=
  let m := (s.core core).streamer
  match s.xfer core id with
  | none => .next s
  | some t =>
    if t.next != line || !m.moves id || !m.tagFor t then .next s
    else
      let p := packetOf t.req.lanes
      let took := !(t.linesOf t.flight).contains (t.lineOf line)
      let s := (s.onXfer core id fun t => { t with next := line + 1, flight := t.flight ++ [line] }).onStreamer core fun m => { m with
        turn := if took then id else m.turn }
      let places := s.unitAt core p.ssp (t.src line) false :: (t.dsts line).map fun d => s.unitAt core p.dsp d true
      match places.findSome? fun q => match q with
        | .error e => some e
        | .ok _ => none with
      | some e => .next (s.lineRefused core id line e 0 true)
      | none =>
        let pieces := places.filterMap fun q => match q with
          | .ok v => some (⟨v.1, 64, v.2⟩ : Piece)
          | .error _ => none
        let a : Access :=
          { id := s.newId, agent := .line core id line, kind := .copyLine, asid := ((s.cfg t.req.handle).map Cfg.asid).getD 0
            wr := true, virt := pieces.any fun q => q.pa.isNone, column := false, addr := t.src line, pieces := pieces, data := []
            bads := [], poison := false, stage := if pieces.any fun q => q.pa.isNone then .walk else .ready, held := false }
        .next (s.issue a).tickId

/-- The tile of XMC that is next to land has landed: none of its units is still to start or in flight. -/
def Transfer.lands (t : Transfer) : Bool :=
  let u := (packetOf t.req.lanes).units
  t.req.isMulti && t.tile * u < t.total && (t.tile + 1) * u ≤ t.next && t.flight.all fun n => t.row n != t.tile

/-- The landed tokens that are due, in order of tiles; they stand before the command's completion (R261). -/
def State.landed (s : State) (c : Fin 96) (id : Nat) : Nat → State
  | 0 => s
  | fuel + 1 => match s.xfer c id with
    | some t =>
      if !t.lands then s
      else
        let tok := i32Token [BitVec.ofNat 32 t.tile, if t.poison then 2 else 0]
        let e : Rob := ⟨0, some [⟨some tok, none⟩], [], 0⟩
        let s := s.onOwned t.req.site t.req.handle t.req.entry fun u => { u with
          rob := u.rob.flatMap fun r => if r.id == t.req.rob then [e, r] else [r] }
        (s.onXfer c id fun t => { t with tile := t.tile + 1 }).landed c id fuel
    | none => s

/-- Two units of one 128-byte line of a destination: the other one is still to be performed (R241, R260). -/
def Transfer.partnerDue (t : Transfer) (n : Nat) (d : Word64) : Bool :=
  let m := if d.toNat / 64 % 2 == 0 then n + 1 else n - 1
  let same := if t.req.isMulti then t.row m == t.row n else true
  m != n && m < t.total && same && (t.next ≤ m || t.flight.contains m)

/-- A unit is performed (R260): read, written to every destination, poison carried on, full bits set once a line's bytes
are performed. -/
def State.copyUnit (s : State) (a : Access) (c : Fin 96) (id n : Nat) : State :=
  match s.xfer c id, a.pieces.filterMap Piece.pa with
  | some t, src :: dsts =>
    let p := packetOf t.req.lanes
    let bad := s.mem.spoilt src
    let r := (s.meetErrors a src).readPhys src 64
    let s := dsts.foldl (fun s d =>
      let s := (s.writePhys d r.2).awaitAck (.op t.req.site t.req.handle t.req.entry) d
      if bad then s.poisonUnits d 64 else s) r.1
    let t' := { t with flight := t.flight.filter (· != n), written := t.written + 64 * dsts.length, poison := t.poison || bad }
    let s := s.onXfer c id fun _ => t'
    let fills := (dsts.zip (t.dsts n)).filter fun d => p.full && s.hasFull d.1 && !t'.partnerDue n d.2
    let s := s.fillLines (fills.map fun d => d.1 / 128)
    let s := s.landed c id (p.rows + 1)
    if t'.ended then s.laterFree 1 (.transferComplete c id) else s
  | _, _ => s

/-- A parked unit is cancelled (R260, R299). -/
def State.lineCancelled (s : State) (c : Fin 96) (id n : Nat) : State :=
  match s.xfer c id with
  | none => s
  | some t =>
    let t' := { t with cancelled := true, flight := t.flight.filter (· != n) }
    let s := s.onXfer c id fun _ => t'
    if t'.ended then s.laterFree 1 (.transferComplete c id) else s

/-- TRANSFER_COMPLETE (R260, R262). -/
def execTransferComplete (core : Fin 96) (id : Nat) (s : State) : Done :=
  match s.xfer core id with
  | none => .next s
  | some t =>
    if !t.ended then .next s
    else
      let s := s.onStreamer core fun m => { m with xfers := m.xfers.filter fun u => u.id != id }
      .next (s.endRequest core t.req (if t.cancelled then 3 else if t.poison then 2 else 0) t.written)

/-- XMC_PERMIT (R261): a transfer that waits takes a token of its command's port b; void permits count. -/
def execXmcPermit (core : Fin 96) (id : Nat) (s : State) : Done :=
  match s.xfer core id with
  | none => .next s
  | some t =>
    let x := t.req.site
    let g := s.region x.core x.unit
    if !t.req.isMulti || t.cancelled || t.total ≤ t.next || t.permitted || !s.holds x t.req.handle t.req.entry || g.st != .mapped then
      .next s
    else match s.front x .b with
    | some tok =>
      if tok.eos || s.snapHolds x .b 1 then .next s
      else .next ((s.take x .b 1).onXfer core id fun t => { t with permits := t.permits + 1 })
    | none => .next s

end Sys2Proof.Machine
end

