-- ==== Sys2Proof/Machine/Regions.lean ====
section
/-! DEFINITION. Region controllers: the blocks of an image (R53..R57, R371, R402), LOADING and its checks (R23, R75..R79), commit
and completion (R40..R43), pre-emption, eviction and restore (R117..R119, R305), REGCTL's actions (R291), and the rewriting
of slots (R197). -/

namespace Sys2Proof.Machine

/-! ## Blocks of an image (R53, R56, R369..R371, R402) -/

/-- An 8-byte word of an image. -/
def Cfg.word (g : Cfg) (off : Nat) : Word64 := BitVec.ofNat 64 (g.field off 8)

/-- The entry blocks of an image. -/
def Cfg.nent (g : Cfg) : Nat := g.field 0 1 + 1

/-- The offset of an entry block. -/
def Cfg.entryOff (g : Cfg) (i : Nat) : Nat := g.field (136 + 8 * i) 8

/-- The header of the block at an offset. -/
def Cfg.hdrAt (g : Cfg) (off : Nat) : BitVec 128 := BitVec.ofNat 128 (g.field off 16)

/-- The rotation records: bits [255:0] of each (R371). -/
def Cfg.rotations (g : Cfg) : List (BitVec 256) :=
  (List.range (g.field 4 1)).map fun i => BitVec.ofNat 256 (g.field (g.field 128 8 + 32 * i) 32)

/-- The block a rotation record names: bits [47:6] of its offset. -/
def rotNames (r : BitVec 256) : Nat := (r.extractLsb' 6 42).toNat * 64

/-- The rotation record of the block at an offset. -/
def Cfg.rotation (g : Cfg) (off : Nat) : Option (BitVec 256) := g.rotations.find? fun r => rotNames r == off

/-! ## The blocks an image reaches (R75) -/

/-- A block reached: its offset, whether it is the successor of a fabric block, whether it is an entry block, and the
entry block it descends from. -/
structure Reached where
  off : Int
  after : Bool
  isEntry : Bool
  entry : Nat
  deriving DecidableEq, Repr

/-- The header at an offset lies in the image. -/
def Cfg.inside (g : Cfg) (off : Int) : Bool := 0 ≤ off && off + 16 ≤ g.bytes.length

/-- The blocks that a block's nonzero successor offsets reach. -/
def Cfg.nexts (g : Cfg) (b : Reached) : List Reached :=
  if !g.inside b.off then []
  else
    let h := g.hdrAt b.off.toNat
    (List.range 4).filterMap fun i =>
      if hdrSucc h i == 0 then none else some ⟨b.off + 64 * hdrSucc h i, hdrKind h == 1, false, b.entry⟩

/-- Every block reached, each offset once. -/
def Cfg.walk (g : Cfg) : Nat → List Reached → List Reached → List Reached
  | 0, _, seen => seen
  | _, [], seen => seen
  | fuel + 1, b :: rest, seen =>
    if seen.any fun q => q.off == b.off then g.walk fuel rest seen else g.walk fuel (rest ++ g.nexts b) (seen ++ [b])

/-- The blocks that some entry blocks reach. -/
def Cfg.reachFrom (g : Cfg) (es : List Nat) : List Reached :=
  g.walk (8 * (g.bytes.length + 64)) (es.map fun i => ⟨g.entryOff i, false, true, i⟩) []

/-- The blocks an image reaches. -/
def Cfg.reach (g : Cfg) : List Reached := g.reachFrom (List.range g.nent)

/-! ## Data and rotations of an image (R371, R402) -/

/-- A data record (R402). -/
structure DataRec where
  src : Nat
  n : Nat
  toff : Nat
  k : Nat
  ent : Nat
  reserved : Bool
  deriving DecidableEq, Repr

/-- The data records of an image. -/
def Cfg.dataRecs (g : Cfg) : List DataRec :=
  (List.range (g.field 656 2)).map fun i =>
    let b := BitVec.ofNat 128 (g.field (g.field 648 8 + 16 * i) 16)
    let n (lo w : Nat) : Nat := (b.extractLsb' lo w).toNat
    ⟨n 64 64, n 32 32, n 14 18, n 10 4, n 4 6, n 0 4 != 0⟩

/-- The target in bits [95:86] of a rotation record (R86). -/
def rotDrain (r : BitVec 256) : Target := targetOf (r.extractLsb' 86 10 |>.setWidth 64) 0

/-- The block at an offset of an image, with what its checks read of the configuration. -/
def Cfg.block (g : Cfg) (entry ex0 ey0 off : Nat) : BlockCtx :=
  let hdr := g.hdrAt off
  let n := hdrCount hdr
  let w (o : Nat) : Word64 := g.word (off + o)
  { hdr := hdr, ex0 := ex0, ey0 := ey0, words := (List.range (n + 1)).map fun i => w (16 + 8 * i)
    bursts := (List.range (hdrNbw hdr)).flatMap fun m => (List.range 4).map fun e => (w (24 + 8 * n + 8 * m)).extractLsb' (16 * e) 16
    outBurst := (g.chans.filter fun c => c.skind == 0 && c.sent == entry).map fun c => (c.slink, c.burst)
    inLinks := (g.chans.filter fun c => c.dkind == 0 && c.dent == entry).map fun c => (c.dlink, c.dslot, c.dport, c.burst)
    presets := ((List.range 64).filter fun q => off + 32 + 8 * n + 8 * hdrNbw hdr + 8 * q ≤ g.bytes.length).map fun q =>
      w (24 + 8 * n + 8 * hdrNbw hdr + 8 * q)
    drain := (g.rotation off).map rotDrain, nrein := g.field 1 1 }

/-! ## The natural latency (R83) -/

/-- The least L of an instruction (R29, R83, R142). -/
def leastLat (w : Word64) : Nat :=
  let op := opOf w
  if [0x20, 0x21, 0x22, 0x23].contains op then 4
  else match decode w with
  | .instr (.imul _) | .instr (.imulh _) | .instr (.imad _) => 3
  | .instr (.fadd _) | .instr (.fsub _) | .instr (.fmul _) | .instr (.fma _) => 4
  | .instr (.fscl _) | .instr (.cvt _) | .instr (.rndi _) | .instr (.dqt _) | .instr (.qnt _) | .instr (.sclc _) => 2
  | .instr (.rcp _) | .instr (.rsq _) => 8
  | .instr (.exp2 _) | .instr (.log2 _) | .instr (.tcos _) | .instr (.tsin _) => 10
  | .instr (.rsum _) | .instr (.rmax _) | .instr (.rmin _) | .instr (.argmx _) => 5
  | .instr (.scan _) => 6
  | .instr (.dot _) | .instr (.rsvr _) | .instr (.accpt _) => 8
  | .instr (.rdraw _) => 6
  | .instr (.smrg _) => 4
  | _ =>
    if 0x60 ≤ op && op ≤ 0x71 then 0
    else if 0x72 ≤ op && op ≤ 0x75 then 3
    else if op == 0x76 then 4
    else if 0x77 ≤ op && op ≤ 0x79 then 3
    else if (0x80 ≤ op && op < 0x90) || (0xB0 ≤ op && op ≤ 0xB6) || (0xBB ≤ op && op ≤ 0xBD) then 4
    else if (0xA0 ≤ op && op ≤ 0xA4) || op == 0xBE then 8
    else 1

/-- One round over the loop path: the longest latency from a slot's firing to an arrival at the head's port a. -/
def BlockCtx.latRound (b : BlockCtx) (h : Fin 128) (path : List (Fin 128)) (d : List (Option Nat)) : List (Option Nat) :=
  (List.finRange 128).map fun i =>
    if !path.contains i then none
    else
      let l := leastLat (b.word i)
      (slotTargets (b.word i)).foldl (fun m t =>
        let v : Option Nat :=
          if t.idx == h && t.port == 0#2 then some (l + pathD i h)
          else (d.getD t.idx.val none).map fun r => l + pathD i t.idx + r
        match m, v with
        | some x, some y => some (max x y)
        | none, v => v
        | m, none => m) none

/-- LNAT of a rotation; 0 when the loop leaves the region (R83). -/
def BlockCtx.lnat (b : BlockCtx) (h : Fin 128) : Nat :=
  let path := b.loopPath h
  let d := (List.range (path.length + 1)).foldl (fun d _ => b.latRound h path d) (List.replicate 128 (none : Option Nat))
  let t := targetOf (b.word h) 38
  if !t.v || t.isLink then 0
  else if t.idx == h && t.port == 0 then 2
  else ((d.getD t.idx.val none).map fun r => pathD h t.idx + r).getD 0

/-! ## The head at mapping (R86, R371) -/

/-- The head that a rotation record and a block give.  The shadows hold end-of-stream tokens before any carry has been sent (log 116,
DESIGN CHOICE: R85 does not say). -/
def headAt (b : BlockCtx) (h : Fin 128) (r : BitVec 256) : Head :=
  let pmax := (r.extractLsb' 120 8).toNat + 1
  let lnat := b.lnat h
  let relight := r.getLsbD 85
  { slot := h, faults := 0, lates := 0, rejects := 0, discards := 0, ebase := r.extractLsb' 224 32
    kbase := r.extractLsb' 192 32, kcount := r.extractLsb' 160 32, rotnum := 0, made := 0, epochs := [⟨0, hdrP b.hdr + 1, 0⟩], pmax := pmax
    pcur := hdrP b.hdr + 1
    pos := 0, lnat := lnat, drain := rotDrain r, drainCred := 8, relight := relight
    hstate := if relight then .banked else .run, table := List.replicate pmax .zero, shadow := List.replicate pmax eosToken
    cap := Head.capacity pmax lnat, dlhead := 0, delay := [], firstCarry := [], issued := 0, queue := [], inflight := 0
    busy := none, map := [], back := .idle, writes := [], read := none, taken := [], left := 0, laOut := 0, laExit := false, cDone := false
    retireEos := false, copies := 0 }

/-! ## LOADING (R23, R76, R118, R402) -/

/-- The credits of a target in a freshly mapped block (R29, R83). -/
def freshCredits (head : Option (Fin 128 × Nat)) (t : Target) : Nat :=
  match head with
  | some (h, cap) => if t.v && !t.isLink && t.idx == h && t.port == 0 then 8 + cap else 8
  | none => 8

/-- A port of a freshly mapped slot. -/
def BlockCtx.freshPort (b : BlockCtx) (i : Fin 128) (p : PortName) : Port :=
  let f := b.feeder i p
  { Port.empty with feeder := f.1, burst := f.2 }

/-- A slot of a freshly mapped block. -/
def BlockCtx.freshSlot (b : BlockCtx) (driven : List (Fin 128)) (head : Option (Fin 128 × Nat)) (i : Fin 128) : Slot :=
  let w := b.word i
  { Slot.holding w with
    a := b.freshPort i .a, b := b.freshPort i .b, c := b.freshPort i .c, burst := b.burst i
    driven := driven.contains i, cred0 := freshCredits head (targetOf w 38), cred1 := freshCredits head (targetOf w 28) }

/-- The element of index k of a freshly mapped block. -/
def BlockCtx.freshElement (b : BlockCtx) (owner : Owner) (head : Option Head) (k : Nat) : Element :=
  let driven := b.driven
  let hc := head.map fun h => (h.slot, h.cap)
  { owner := some owner, blocked := false
    slots := Vector.ofFn fun j : Fin 8 => b.freshSlot driven hc (Fin.ofNat 128 (8 * k + j.val))
    ctr := Vector.replicate 4 .zero
    head := head.filter fun h => h.slot.val / 8 == k }

/-- The offset of a region's block in its image. -/
def Region.off (r : Region) (g : Cfg) : Nat := r.baddr.toNat - g.image.toNat

/-- Writes the data records of one entry block into a tile (R241, R402): the lines they touch begin as zero and full; the
tile's other scratch lines become empty. -/
def State.loadData (s : State) (g : Cfg) (c : Fin 96) (tile entry k : Nat) : State :=
  let recs := g.dataRecs.filter fun d => d.ent == entry && d.k == k
  let base := tileAddr c tile 0
  let lines := (recs.flatMap fun d => linesOf (base + d.toff) d.n).eraseDups
  let scratch := s.scratchBytes c tile
  let mine (l : Nat) : Bool := base / 128 ≤ l && l < (base + scratch) / 128
  let s := s.onMem fun m => { m with full := m.full.filter fun l => !mine l }
  let s := s.onMem fun m => lines.foldl (fun m l => (m.store (128 * l) (List.replicate 128 0)).setFull (128 * l) true) m
  s.onMem fun m => recs.foldl (fun m d => m.store (base + d.toff) ((g.bytes.drop d.src).take d.n)) m

/-- The elements of a region still hold the state of another owner (R118). -/
def State.foreign (s : State) (c : Fin 96) (r : Fin 8) : List (Fin 32) :=
  let g := s.region c r
  (g.ks.map g.elem).filter fun e => match (s.elem c e).owner with
    | some o => o.handle != g.handle || o.entry != g.entry
    | none => false

/-- An element's eviction begins, at most 48 cycles from now (R118). -/
def State.startEvictions (s : State) (c : Fin 96) (es : List (Fin 32)) : State :=
  es.foldl (fun s e => (s.later (1 + Config.freeDelay s.clk.fresh % 48) (.elementEviction c e)).tickFresh) s

/-- REGION_LOAD (R23, R76): when no element holds another owner's state, words, ports and counters are written and every
check is made; at an entry block's first mapping its data is loaded.  A halted core is mapped nothing onto (R307). -/
def execRegionLoad (core : Fin 96) (region : Fin 8) (gen : Nat) (s : State) : Done :=
  let r := s.region core region
  match s.cfg r.handle with
  | none => .next s
  | some g =>
    if r.st != .loading || r.gen != gen then .next s
    else if (s.core core).hfab || !(s.foreign core region).isEmpty then .next (s.later 1 (.regionLoad core region gen))
    else
      let off := r.off g
      let b := g.block r.entry r.ex0 r.ey0 off
      let head : Option Head := match b.head, g.rotation off with
        | some h, some rec_ => if hdrRot b.hdr then some (headAt b h rec_) else none
        | _, _ => none
      let first := ((s.place r.handle r.entry).map Place.first).getD false
      let s := r.ks.foldl (fun s k =>
        let s := s.onElem core (r.elem k) fun _ => b.freshElement ⟨r.handle, r.entry, k⟩ head k
        if first then s.loadData g core (r.elem k).val r.entry k else s) s
      let s := s.onRegion core region fun r => { r with
        hdr := b.hdr, presets := b.presets, bad := b.failures, exitV := none, sinks := [], pend := []
        snap := none, markFault := false, insent := Vector.replicate 8 0, outsent := Vector.replicate 8 0 }
      .next (s.laterFree 1 (.loadComplete core region gen))

/-! ## Records of a configuration -/

/-- A failure report goes to the owner and to the collector, with cause 0x28 when the launch fails and 0x29 when the region
does (R79, R288). -/
def State.reportFailure (s : State) (g : Cfg) (c : Fin 96) (r : Fin 8) (baddr : BitVec 54) (f : BadWord) (nbad : Nat) (src : BitVec 2) (launch : Bool) :
    State :=
  let q := s.region c r
  let hdr := f.2.2.1
  let k := if hdr || !q.hasK (f.1.val / 8) then 0 else f.1.val / 8
  let e : Nat × Nat := (q.ex0 + k % 4, q.ey0 + k / 4)
  let slot := if hdr then 0 else f.1.val
  let rec_ := failureReport g.handle f.2.1 (baddr.extractLsb' 6 48) f.2.2.2 slot hdr (placeBits c e.1 e.2 r 0) src q.entry nbad
  (s.post g rec_ true).collect (placedRec g.handle g.asid (if launch then 0x28 else 0x29) (f.2.2.2.setWidth 32) c e.1 e.2 r.val slot
    (s.slotAgent c r f.1))

/-! ## Leaving a region -/

/-- Every access of an owner that is not yet performed or accepted is taken away (R291). -/
def State.withdraw (s : State) (c : Fin 96) (r : Fin 8) : State :=
  let g := s.region c r
  let mine (a : Access) : Bool := match a.agent with
    | .op x h e => x.core == c && x.unit == r && h == g.handle && e == g.entry && !a.stage.unseen
    | .completion c' r' _ => c == c' && r == r'
    | _ => false
  { s with accs := s.accs.filter fun a => !mine a }.onRegion c r fun g => { g with tags := [] }

/-- A FREE region after another mapping: a report still open stays so (R204). -/
def Region.freed (g : Region) : Region := { Region.blank with gen := g.gen + 1, guards := g.guards }

/-- The region enters FREE and its elements hold nothing (R23). -/
def State.freeRegion (s : State) (c : Fin 96) (r : Fin 8) : State :=
  let g := s.region c r
  let s := g.ks.foldl (fun s k => s.onElem c (g.elem k) fun _ => .blank) s
  s.onRegion c r Region.freed

/-- A region leaves its configuration without completion (R77, R291, R374). -/
def State.dropRegion (s : State) (c : Fin 96) (r : Fin 8) : State :=
  let g := s.region c r
  (((s.postGuards c r).withdraw c r).freeRegion c r).onPlace g.handle g.entry fun p => { p with st := .ended }

/-- Elements that still hold the state of a pre-empted entry block are cleared. -/
def State.dropTagged (s : State) (h : Word64) : State :=
  { s with
    cores := s.cores.map fun k => { k with elems := k.elems.map fun e => match e.owner with
      | some o => if o.handle == h then .blank else e
      | none => e }
    accs := s.accs.filter fun a => match a.agent with
      | .op _ h' _ => h' != h || a.stage.unseen
      | .image h' => h' != h
      | _ => true }

/-- Queues bound to a configuration are unbound (R371). -/
def State.unbind (s : State) (h : Word64) : State :=
  { s with cores := s.cores.map fun k => { k with ctxs := k.ctxs.map fun t => { t with
      qbind := t.qbind.map fun b => if b.v && b.handle == h then .none else b } } }

/-- Every region of a configuration, and all it holds outside the cache, is let go: it is held, neither queued nor
running (R38, R77, R374). -/
def State.teardown (s : State) (h : Word64) : State :=
  let all := (List.finRange 96).flatMap fun c => (List.finRange 8).map fun r => (c, r)
  let s := all.foldl (fun s p => if (s.region p.1 p.2).handle == h && (s.region p.1 p.2).st != .free then s.dropRegion p.1 p.2 else s) s
  ((s.dropTagged h).unbind h).onCfg h fun g => { g with
    st := .held, granules := [], places := [], chans := g.chans.map fun c => ⟨c.rec_, [], [], false, 0, 0, 0⟩ }

/-- A launch fails at an entry block (R77): its regions that are MAPPED or LOADING enter FREE without completion, and the
failing one stays FAULTED. -/
def State.failLaunch (s : State) (h : Word64) (c : Fin 96) (r : Fin 8) : State :=
  let all := (List.finRange 96).flatMap fun c => (List.finRange 8).map fun r => (c, r)
  let s := all.foldl (fun s p =>
    if (s.region p.1 p.2).handle == h && ((s.region p.1 p.2).st == .mapped || (s.region p.1 p.2).st == .loading) && (p.1 != c || p.2 != r) then s.dropRegion p.1 p.2 else s) s
  s.onCfg h fun g => { g with places := g.places.map fun p => if p.st == .claimed then { p with st := .ended } else p }

/-- The windows of a source start at its mapping, at the weights in force then (R344); `entry` is the entry block that names its
region. -/
def Rein.mapped (r : Rein) (entry : Nat) : Rein :=
  let p := (r.psrc.extractLsb' 7 6).toNat == entry
  let c := (r.csrc.extractLsb' 7 6).toNat == entry
  { r with
    pCount := if p then 0 else r.pCount, pEff := if p then r.wp else r.pEff
    cCount := if c then 0 else r.cCount, cEff := if c then r.wc else r.cEff }

/-- LOAD_COMPLETE (R23, R77): MAPPED, or FAULTED with a failure report. -/
def execLoadComplete (core : Fin 96) (region : Fin 8) (gen : Nat) (s : State) : Done :=
  let r := s.region core region
  match s.cfg r.handle with
  | none => .next s
  | some g =>
    if r.st != .loading || r.gen != gen then .next s
    else
      let first := ((s.place r.handle r.entry).map Place.first).getD false
      let s := s.onPlace r.handle r.entry fun p => { p with first := false, mapped := if first then s.clk.now else p.mapped }
      match r.bad with
      | [] => .next ((s.onCfg r.handle fun g => { g with reins := g.reins.map fun q => q.mapped r.entry }).onRegion core region
          fun r => { r with st := .mapped, mapAt := s.clk.now, bad := [], last := (r.baddr, r.loads) })
      | f :: rest =>
        let b := g.block r.entry r.ex0 r.ey0 (r.off g)
        let s := r.bad.foldl (fun s f => s.onElem core (r.elem (b.blames f)) fun e => { e with blocked := true }) s
        let s := s.onRegion core region fun r => { r with st := .faulted, bad := [], later := 0 }
        let s := s.reportFailure g core region r.baddr f (rest.length + 1) (if r.loads == 0 then 0 else 1) first
        .next (if first then s.failLaunch r.handle core region else s)

/-! ## Commit and completion (R40..R43) -/

/-- The region begins to load the block at an address (R23). -/
def State.startLoad (s : State) (c : Fin 96) (r : Fin 8) (baddr : BitVec 54) (loads : Nat) : State :=
  let gen := (s.region c r).gen + 1
  (s.onRegion c r fun g => { g with
    st := .loading, baddr := baddr, loads := loads, gen := gen, tags := [], later := 0 }).laterFree 1 (.regionLoad c r gen)

/-- A memory operation of the region, or a command of it on an island, is still to complete, or an access is not yet visible
(R40, R228, R283). -/
def State.regionBusy (s : State) (c : Fin 96) (r : Fin 8) : Bool :=
  let g := s.region c r
  !g.tags.isEmpty ||
    (g.slotIdx.any fun i => i.val % 8 == 7 && (s.slot (siteOf c r i)).rob.any fun q => q.res.isNone) ||
    s.accs.any fun a => match a.agent with
      | .op x h e => x.core == c && x.unit == r && h == g.handle && e == g.entry
      | _ => false

/-- The configuration's completion word (R369). -/
def Cfg.completionWord (g : Cfg) : Word64 :=
  let w := g.word 8
  if w.getLsbD 63 then g.image + (w.extractLsb' 0 54).setWidth 64 else (w.extractLsb' 0 54).setWidth 64

/-- The release OR of completion is issued (R43). -/
def State.startCompletion (s : State) (g : Cfg) (c : Fin 96) (r : Fin 8) : State :=
  let q := s.region c r
  let cycles := s.clk.now - ((s.place q.handle q.entry).map Place.mapped).getD s.clk.now
  (s.issue { id := s.newId, agent := .completion c r q.handle, kind := .orWord (1#64 <<< q.entry), asid := g.asid, wr := true
             virt := true, column := false, addr := g.completionWord, pieces := [⟨g.completionWord, 8, none⟩]
             data := natBytes 4 (min cycles 0xFFFFFFFF), bads := [], poison := false, stage := .walk, held := false }).tickId

/-- A token on its way from a slot of a mapping to an out-link. -/
def bringsOut (c : Fin 96) (r : Fin 8) (gen : Nat) : Instr → Bool
  | .tokenArrival x t _ g _ => x.core == c && x.unit == r && g == gen && t.isLink && t.slot != 8
  | _ => false

/-- Tokens are on their way to the region's out-links: what they carry belongs to the channels beyond (R37; log 110). -/
def State.sending (s : State) (c : Fin 96) (r : Fin 8) : Bool :=
  s.clk.pending.any fun p => bringsOut c r (s.region c r).gen p.2

/-- REGION_COMMIT (R40..R42): once every access has completed, the successor is chosen and loaded, or completion begins. -/
def execRegionCommit (core : Fin 96) (region : Fin 8) (s : State) : Done :=
  let r := s.region core region
  match s.cfg r.handle with
  | none => .next s
  | some g =>
    if r.st != .committing then .next s
    else
      if s.regionBusy core region || s.sending core region then .next (s.later 1 (.regionCommit core region))
      else
        let s := s.onRegion core region fun r => { r with gen := r.gen + 1 }
        let off := hdrSucc r.hdr (r.exitV.getD 0).toNat
        if off == 0 then .next (s.startCompletion g core region)
        else
          let addr : BitVec 54 := BitVec.ofInt 54 ((r.baddr.toNat : Int) + 64 * off)
          let hdr := g.hdrAt (addr.toNat - g.image.toNat)
          if hdrW hdr != r.w || hdrH hdr != r.h then
            let s := s.onRegion core region fun r => { r with st := .faulted, later := 0 }
            .next (s.reportFailure g core region addr (0, hdr.extractLsb' 64 64, true, 0x19) 1 1 false)
          else .next (s.startLoad core region addr (r.loads + 1))

/-- The completion record (R262). -/
def completionRecord (s : State) (c : Fin 96) (r : Fin 8) (cycles : BitVec 32) : Record :=
  let g := s.region c r
  g.handle ++ cycles ++ 0#32 ++ 0x01#8 ++ BitVec.ofNat 6 g.entry ++ (g.exitV.getD 0) ++ 0#8 ++ 0#40 ++
    placeBits c g.ex0 g.ey0 r 0

/-- A configuration all of whose entry blocks have ended is torn down after completion; the kiln still holds it (R378). -/
def State.checkEnded (s : State) (h : Word64) : State :=
  match s.cfg h with
  | some g => if !g.places.isEmpty && g.places.all (fun p => p.st == .ended) then s.teardown h else s
  | none => s

/-- COMPLETION_RELEASE (R43): the OR is performed, the completion record is posted, and the region enters FREE. -/
def execCompletionRelease (core : Fin 96) (region : Fin 8) (s : State) : Done :=
  let r := s.region core region
  let mine := s.accs.find? fun a => a.stage == .ready && match a.agent with
    | .completion c q h => c == core && q == region && h == r.handle
    | _ => false
  match mine, s.cfg r.handle with
  | some a, some g =>
    match a.kind, a.pieces.filterMap Piece.pa with
    | .orWord v, [pa] =>
      if r.st != .committing then .next (s.dropAcc a.id)
      else
        let s := s.meetErrors a pa
        let old := BitVec.ofNat 64 (bytesNat (s.readBytes pa 8))
        let s := (s.writePhys pa (natBytes 8 (old ||| v).toNat)).dropAcc a.id
        let s := s.post g (completionRecord s core region (BitVec.ofNat 32 (bytesNat a.data))) true
        let s := (s.freeRegion core region).onPlace r.handle r.entry fun p => { p with st := .ended }
        .next (s.checkEnded r.handle)
    | _, _ => .next s
  | _, _ => .next s

/-- The release OR is refused, or RESUME cancels it (R43): the region faults; a cancellation goes to the event queue alone. -/
def State.completionRefused (s : State) (a : Access) (c : Fin 96) (r : Fin 8) (cause : BitVec 8) (collect : Bool) : State :=
  (s.dropAcc a.id).regionFault c r 0 cause a.addr collect

/-! ## Pre-emption (R117, R305) -/

/-- An access of a region that pre-emption withdraws and keeps for reissue. -/
def Access.withdrawable (a : Access) : Bool :=
  match a.stage with
  | .walk | .parked _ | .fated .. | .ready | .wait => true
  | _ => false

/-- The region begins to be pre-empted: it stops firing, its accesses not yet performed are withdrawn, and it enters FREE
within 16 cycles. -/
def State.preempt (s : State) (c : Fin 96) (r : Fin 8) : State :=
  let g := s.region c r
  let s := (s.postGuards c r).onRegion c r fun g => { g with st := .evicting }
  let mine (a : Access) : Bool := match a.agent with
    | .op x h e => x.core == c && x.unit == r && h == g.handle && e == g.entry && a.withdrawable && a.kind != .done
    | _ => false
  let s := { s with accs := s.accs.map fun a => if mine a then { a with held := true } else a }
  (s.later (1 + Config.freeDelay s.clk.fresh % 16) (.preemptComplete c r g.gen)).tickFresh

/-- A step of the device that brings a token or a credit to a region of a mapping. -/
def bringsTo (c : Fin 96) (r : Fin 8) (gen : Nat) : Instr → Bool
  | .tokenArrival x _ _ g _ => x.core == c && x.unit == r && g == gen
  | .creditReturn x _ g => x.core == c && x.unit == r && g == gen
  | .markerArrival x _ _ g => x.core == c && x.unit == r && g == gen
  | .commandEnqueue c' r' _ g => c == c' && r == r' && g == gen
  | .emberReadDone c' r' g => c == c' && r == r' && g == gen
  | .emberWriteDone c' r' g => c == c' && r == r' && g == gen
  | _ => false

/-- Tokens and credits that are on their way reach the state that the elements keep (R117). -/
def State.flushOne (s : State) (i : Instr) : State :=
  let done : Done := match i with
    | .tokenArrival x t tok g n => execTokenArrival x t tok g n s
    | .creditReturn x o g => execCreditReturn x o g s
    | .markerArrival x p n g => execMarkerArrival x p n g s
    | .commandEnqueue c r cmd g => execCommandEnqueue c r cmd g s
    | .emberReadDone c r g => execEmberReadDone c r g s
    | .emberWriteDone c r g => execEmberWriteDone c r g s
    | _ => .next s
  match done with
  | .next t => t
  | _ => s

/-- A pre-empted configuration returns to its queue with its waiting time kept (R379). -/
def State.requeue (s : State) (h : Word64) : State :=
  (s.onCfg h fun g => if g.st == .preempted then g else { g with st := .preempted, queuedAt := s.clk.now - g.queuedAt }).soon
    (.launchAging h)

/-- PREEMPT_COMPLETE (R117, R305): the elements keep the owner's state, and the region enters FREE. -/
def execPreemptComplete (core : Fin 96) (region : Fin 8) (gen : Nat) (s : State) : Done :=
  let r := s.region core region
  if r.st != .evicting || r.gen != gen then .next s
  else
    let mine := s.clk.pending.filter fun p => bringsTo core region gen p.2
    let s := { s with clk := { s.clk with pending := s.clk.pending.filter fun p => !bringsTo core region gen p.2 } }
    let s := mine.foldl (fun s p => s.flushOne p.2) s
    let kept := s.region core region
    let s := s.onPlace r.handle r.entry fun p => { p with st := .preempted, kept := some { kept with guards := [] }, core := core, region := region }
    let s := (s.onRegion core region Region.freed).requeue r.handle
    .next s

/-! ## Eviction and restore (R118, R119) -/

/-- Where an element's eviction record goes on a core (R118; log 75, DESIGN CHOICE): 16 KiB, and for an element with a head
40 KiB more behind the 16 KiB of every element the configuration can have there.  Each part takes the first place that no
record of the configuration has. -/
def Cfg.evictParts (g : Cfg) (c : Fin 96) (head : Bool) : List (Nat × Nat) :=
  let used := ((g.places.flatMap Place.evicted).filter fun v => v.core == c).flatMap fun v => v.parts.map Prod.fst
  let base := g.field 24 4
  let elems := min 32 ((g.shapes.map fun p => p.1 * p.2).sum)
  let pick (lo size n : Nat) : List (Nat × Nat) :=
    ((((List.range n).map fun i => lo + size * i).find? fun o => !used.contains o).map fun o => (o, size)).toList
  pick base 16384 32 ++ if head then pick (base + 16384 * elems) 40960 8 else []

/-- The bytes of part j of an eviction record; the layout is the kiln's (R118).  `seed` tells records apart. -/
def evictionBytes (seed j n : Nat) : List Byte := (List.range n).map fun i => Config.evictionByte (seed + 65536 * j + i)

/-- ELEMENT_EVICTION (R118): the state of a pre-empted owner goes to its eviction area. -/
def execElementEviction (core : Fin 96) (elem : Fin 32) (s : State) : Done :=
  let e := s.elem core elem
  match e.owner with
  | none => .next s
  | some o => match s.place o.handle o.entry, s.cfg o.handle with
    | some p, some g =>
      if p.kept.isNone then .next s
      else
        let parts := g.evictParts core e.head.isSome
        let seed := s.clk.fresh
        let s := (parts.zipIdx.foldl (fun s q =>
          if s.emberHas core q.1.1 q.1.2 then s.emberWrite core q.1.1 (evictionBytes seed q.2 q.1.2) else s) s).tickBy 131072
        .next ((s.onPlace o.handle o.entry fun p => { p with evicted := p.evicted ++ [⟨o.k, e, core, parts, seed⟩] }).onElem core elem
          fun _ => .blank)
    | _, _ => .next s

/-- ELEMENT_RESTORE (R119): the element takes back its owner's state from the record, on whichever core it was written; a
record that has changed fails its check word, a region fault of kind parity. -/
def execElementRestore (core : Fin 96) (elem : Fin 32) (s : State) : Done :=
  let mine := (List.finRange 8).find? fun r => match (s.region core r).st with
    | .free => false
    | _ => (s.region core r).ks.any fun k => (s.region core r).elem k == elem
  match mine with
  | none => .next s
  | some r =>
    let q := s.region core r
    match s.place q.handle q.entry with
    | some p =>
      match p.evicted.find? fun v => q.elem v.k == elem with
      | none => .next s
      | some v =>
        let good := v.parts.zipIdx.all fun u =>
          !s.emberHas v.core u.1.1 u.1.2 || s.emberRead v.core u.1.1 u.1.2 == evictionBytes v.seed u.2 u.1.2
        let s := (s.onElem core elem fun _ => v.elem).onPlace q.handle q.entry fun p => { p with
          evicted := p.evicted.filter fun u => u.k != v.k }
        .next (if good then s else s.regionFault core r (Fin.ofNat 128 (8 * v.k)) 0x11 0 true)
    | none => .next s

/-- A site moves with its region. -/
def movedTo (x : Site) (c : Fin 96) (r : Fin 8) : Site := ⟨c, r, x.slot⟩

/-- Requests of islands and accesses name the region their owner now lies on (R234, R305). -/
def State.moveOwner (s : State) (h : Word64) (entry : Nat) (c : Fin 96) (r : Fin 8) : State :=
  let req (q : IslandReq) : IslandReq := if q.handle == h && q.entry == entry then { q with site := movedTo q.site c r } else q
  { s with
    accs := s.accs.map fun a => match a.agent with
      | .op x h' e => if h' == h && e == entry then { a with agent := .op (movedTo x c r) h' e } else a
      | _ => a
    cores := s.cores.map fun k => { k with
      matrix := { k.matrix with
        reqs := k.matrix.reqs.map req, syncs := k.matrix.syncs.map req
        queue := k.matrix.queue.map fun e => { e with req := req e.req } }
      streamer := { k.streamer with
        reqs := k.streamer.reqs.map req, xfers := k.streamer.xfers.map fun t => { t with req := req t.req } } } }

/-- An operator's access ends without a result. -/
def State.endAccess (s : State) (x : Site) (h : Word64) (e id : Nat) (res : List Emit) : State :=
  ((s.give x h e id res).freeTag x h e id).dropAcc id

/-- A parked access of an operator is cancelled (R299, R323). -/
def State.cancelOp (s : State) (x : Site) (h : Word64) (e : Nat) (a : Access) (cause : BitVec 8) : State :=
  if cause == 5 then s.endAccess x h e a.id [.both (voidToken zeroLanes 7 0)]
  else (s.ownerFault x h e cause a.addr false).endAccess x h e a.id []

/-- Withdrawn accesses are reissued in firing order (R305).  One that had parked takes what RESUME has decided; one for which
RESUME has decided nothing stays parked (R306; log 74, DEDUCED). -/
def State.reissue (s : State) (h : Word64) (entry : Nat) : State :=
  let mine (a : Access) : Bool := a.held && match a.agent with
    | .op _ h' e => h' == h && e == entry
    | _ => false
  s.accs.foldl (fun s a =>
    if !mine a then s
    else match a.stage, a.agent with
      | .parked _, _ => s.onAcc a.id fun a => { a with held := false }
      | .fated cause cancel r, .op x h e =>
        let s := s.onAcc a.id fun a => { a with held := false, stage := .parked cause }
        if cancel then s.cancelOp x h e a cause else s.collect r
      | _, _ =>
        let st : Stage := if a.virt then .walk else if a.kind == .done then .wait else .ready
        (s.onAcc a.id fun a => { a with held := false, stage := st }).laterFree 1
          (if a.virt then .walkComplete a.id else .accessPerform a.id)) s

/-- A pre-empted entry block resumes on a region whose elements hold its state again (R117, R119, R306). -/
def State.resume (s : State) (h : Word64) (entry : Nat) (c : Fin 96) (r : Fin 8) (ex0 ey0 : Nat) : State :=
  match s.place h entry with
  | none => s
  | some p => match p.kept with
    | none => s
    | some q =>
      let gen := (s.region c r).gen + 1
      let s := s.onRegion c r fun g => { q with
        st := if q.markFault then .faulted else .mapped, ex0 := ex0, ey0 := ey0, gen := gen, later := 0, guards := g.guards }
      let s := s.onPlace h entry fun p => { p with
        st := .placed, core := c, region := r, ex0 := ex0, ey0 := ey0, kept := none, owed := [] }
      let s := p.owed.foldl (fun s o => s.later 2 (.creditReturn ⟨c, r, o.1⟩ o.2 gen)) s
      let s := (s.moveOwner h entry c r).reissue h entry
      p.evicted.foldl (fun s v => (s.region c r).elem v.k |> fun e => s.soon (.elementRestore c e)) s

/-! ## REGCTL (R291) -/

/-- A writer may RELEASE and REMAP a region: a PRIV context, or the owner. -/
def State.mayRecover (s : State) (c : Fin 96) (w : Writer) (r : Fin 8) : Bool :=
  w.priv || w.sysctl || match s.cfg (s.region c r).handle with
    | some g => g.core == w.core && g.ctx == w.ctx
    | none => false

/-- REGCTL_RELEASE. -/
def execRegctlRelease (core : Fin 96) (w : Writer) (region : Fin 8) (s : State) : Done :=
  let r := s.region core region
  if r.st != .faulted || !s.mayRecover core w region then .next s
  else .next ((s.dropRegion core region).checkEnded r.handle)

/-- REGCTL_REMAP. -/
def execRegctlRemap (core : Fin 96) (w : Writer) (region : Fin 8) (s : State) : Done :=
  let r := s.region core region
  if r.st != .faulted || !s.mayRecover core w region then .next s
  else .next ((s.withdraw core region).startLoad core region r.last.1 r.last.2)

/-- REGCTL_PREEMPT. -/
def execRegctlPreempt (core : Fin 96) (w : Writer) (region : Fin 8) (s : State) : Done :=
  let r := s.region core region
  if r.st != .mapped || !(w.priv || w.sysctl) then .next s else .next (s.preempt core region)

/-! ## Rewriting slots (R197) -/

/-- The block a region now holds, with its words as they stand. -/
def State.mappedBlock (s : State) (g : Cfg) (c : Fin 96) (r : Fin 8) : BlockCtx :=
  let q := s.region c r
  let words := (List.finRange 128).map fun i => if q.hasK (i.val / 8) then (s.slot (siteOf c r i)).word else 0
  { g.block q.entry q.ex0 q.ey0 (q.off g) with words := words }

/-- Replaced words of a list. -/
def putWords (ws : List Word64) (i : Nat) : List Word64 → List Word64
  | [] => ws
  | w :: rest => putWords (ws.set i w) (i + 1) rest

/-- The entries of a port that came from the feeder it has had, those on their way included. -/
def State.feederEntries (s : State) (x : Site) (p : PortName) : Nat :=
  let q := (s.slot x).port p
  let onWay := s.clk.pending.filter fun e => match e.2, q.feeder with
    | .tokenArrival y t _ _ _, .slot i _ => y == x.at_ i && !t.isLink && t.idx == x.slot && portNamed t.port == p
    | .tokenArrival y t _ _ _, .drain i => y == x.at_ i && !t.isLink && t.idx == x.slot && portNamed t.port == p
    | _, _ => false
  s.portHas x p + onWay.length - (q.former.map Prod.snd).sum

/-- A port takes the feeder that the rewritten block gives it; the entries of the one before it are remembered. -/
def State.refeed (s : State) (b : BlockCtx) (x : Site) (p : PortName) : State :=
  let f := b.feeder x.slot p
  let q := (s.slot x).port p
  if q.feeder == f.1 then s.onSlot x fun u => u.onPort p fun q => { q with burst := f.2 }
  else
    let n := s.feederEntries x p
    s.onSlot x fun u => u.onPort p fun q => { q with
      feeder := f.1, burst := f.2, former := if n == 0 then q.former else q.former ++ [(q.feeder, n)] }

/-- A changed target waits for the credits its predecessor still owes (R197). -/
def State.retarget (s : State) (x : Site) (second : Bool) (old : Target) : State :=
  let u := s.slot x
  let new := targetOf u.word (if second then 28 else 38)
  if old == new then s
  else
    let owed := if old.v && s.counted x old then
      (if old.isLink then 8 else s.portCap (x.at_ old.idx) (portNamed old.port)) - (if second then u.cred1 else u.cred0) else 0
    let fresh := s.credits x new
    s.onSlot x fun u =>
      if second then { u with hold1 := if owed == 0 then none else some owed, cred1 := if owed == 0 then fresh else u.cred1 }
      else { u with hold0 := if owed == 0 then none else some owed, cred0 := if owed == 0 then fresh else u.cred0 }

/-- Words are written into slots from one on; with the block's checks made on all of them, the words up to and including
the first that fails are written.  A check that the words now written fail in another slot or in the header faults the region
as well (R76, R77; log 76).  True when one failed. -/
def State.rewrite (s : State) (g : Cfg) (c : Fin 96) (r : Fin 8) (first : Nat) (ws : List Word64) : State × Bool :=
  let q := s.region c r
  let b0 := s.mappedBlock g c r
  let b := { b0 with words := putWords b0.words first ws }
  let news := (List.range ws.length).map fun i => (Fin.ofNat 128 (first + i) : Fin 128)
  let n := match news.findSome? fun i => (b.wordReason i).map fun _ => i.val - first with
    | some k => k + 1
    | none => ws.length
  let bads := b.failures.filter fun f => f.2.2.1 || !(news.drop n).contains f.1
  let upTo := ws.take n
  let b := { b0 with words := putWords b0.words first upTo }
  let changed := ((List.range upTo.length).map fun i => (Fin.ofNat 128 (first + i) : Fin 128)).filter fun i =>
    q.hasK (i.val / 8) && b0.word i != b.word i
  let driven := b.driven
  let s := changed.foldl (fun s i => s.onSlot (siteOf c r i) fun u => { u with
    word := b.word i, run := .idle, beat := 0, ready := 0, fired := false, burst := b.burst i }) s
  let s := q.slotIdx.foldl (fun s i => ports.foldl (fun s p => s.refeed b (siteOf c r i) p)
    (s.onSlot (siteOf c r i) fun u => { u with driven := driven.contains i })) s
  let s := changed.foldl (fun s i =>
    let x := siteOf c r i
    let s := (s.retarget x false (targetOf (b0.word i) 38)).retarget x true (targetOf (b0.word i) 28)
    match wordClaims (b.word i) with
    | some (pre, lo, levels) => s.loadCounters x lo levels pre
    | none => s) s
  match bads with
  | [] => (s, false)
  | f :: rest =>
    let s := bads.foldl (fun s f => s.onElem c (q.elem (b.blames f)) fun e => { e with blocked := true }) s
    let s := (s.postGuards c r).onRegion c r fun q => { q with st := .faulted, later := 0 }
    (s.reportFailure g c r q.baddr f (rest.length + 1) 2 false, true)

/-- The statuses of PRCW that write nothing (R197). -/
def State.prcwRefusal (s : State) (c : Fin 96) (k : Fin 4) (r : Fin 8) : Option Nat :=
  let q := s.region c r
  if q.st != .mapped then some 1
  else match s.cfg q.handle with
    | some g => if g.core == c && g.ctx == k then none else some 2
    | none => some 2

/-- REGION, N and SLOT of a PRCW descriptor. -/
def prcwFields (d : Word64) : Fin 8 × Nat × Nat :=
  (Fin.ofNat 8 (d.extractLsb' 11 3).toNat, (d.extractLsb' 7 4).toNat + 1, (d.extractLsb' 0 7).toNat)

/-- PRCW when its words have been read: the state after and its status (R197). -/
def State.prcwApply (s : State) (c : Fin 96) (k : Fin 4) (d : Word64) (ws : List Word64) : State × Nat :=
  let f := prcwFields d
  match s.prcwRefusal c k f.1 with
  | some st => (s, st)
  | none =>
    if 127 < f.2.2 + f.2.1 - 1 then (s, 4)
    else match s.cfg (s.region c f.1).handle with
      | none => (s, 2)
      | some g =>
        let r := s.rewrite g c f.1 f.2.2 ws
        (r.1, if r.2 then 3 else 0)

/-- PRCW.S: the exit value is set unless it already is (R197). -/
def State.prcwExit (s : State) (c : Fin 96) (k : Fin 4) (r : Fin 8) (v : BitVec 2) : State × Nat :=
  match s.prcwRefusal c k r with
  | some st => (s, st)
  | none => if (s.region c r).exitV.isSome then (s, 5) else (s.setExit c r v, 0)

end Sys2Proof.Machine
end

