-- ==== Sys2Proof/Machine/Collector.lean ====
section
/-! DEFINITION. The device fault collector (R292..R300): windows, merging, lists, and RESUME. -/

namespace Sys2Proof

/-- The location of a record and its HSLOT, in the order of R296. -/
def CRec.place (r : CRec) : BitVec 22 := r.cy ++ r.cx ++ r.ey ++ r.ex ++ r.region ++ r.hslot

/-- The key by which a list is ordered (R296). -/
def CRec.key (r : CRec) : BitVec 96 := r.asid ++ r.addr ++ r.cause ++ r.place

/-- Two records merge (R296). -/
def CRec.merges (r q : CRec) : Bool :=
  r.parked == q.parked && r.asid == q.asid && r.cause == q.cause &&
    (if r.parked then r.addr == q.addr else r.aux == q.aux && r.place == q.place)

end Sys2Proof

namespace Sys2Proof.Machine

/-! ## Windows (R293, R296, R298) -/

/-- Changes the collector. -/
def State.onCol (s : State) (f : Collector → Collector) : State := { s with col := f s.col }

/-- CAP (R297). -/
def Collector.cap (c : Collector) : Nat := if 6 ≤ c.logcap && c.logcap ≤ 12 then 2 ^ c.logcap.toNat else 64

/-- The length of a window in cycles (R293). -/
def Collector.len (c : Collector) : Nat := max 256 c.window.toNat

/-- A record merged into an entry; the first source sorts first (R296). -/
def FEntry.add (e : FEntry) (r : CRec) : FEntry :=
  { e with
    first := { (if r.parked && r.place < e.first.place then r else e.first) with wr := e.first.wr || r.wr }
    count := min 65535 (e.count + 1), accs := if r.parked then e.accs ++ [r] else e.accs }

/-- A new entry in its place in the order of the keys. -/
def insertEntry (e : FEntry) : List FEntry → List FEntry
  | [] => [e]
  | x :: rest => if e.first.key < x.first.key then e :: x :: rest else x :: insertEntry e rest

/-- A record joins a window's entries. -/
def joinEntries (r : CRec) (now : Nat) (es : List FEntry) : List FEntry :=
  if es.any fun e => r.merges e.first then es.map fun e => if r.merges e.first then e.add r else e
  else insertEntry ⟨r, 1, if r.parked then [r] else [], now⟩ es

/-- COLLECTOR_RECORD (R292, R293): a record opens a window, or joins the one that is open. -/
def execCollectorRecord (r : CRec) (s : State) : Done :=
  let now := s.clk.now
  .next (s.onCol fun c => match c.open_ with
    | none => { c with open_ := some (now, joinEntries r now []) }
    | some (t, es) => { c with open_ := some (t, joinEntries r now es) })

/-- The entries a full window keeps, and those that found it full: of the entries of its last cycle, the first in the order
of their keys fill it (R293). -/
def fitEntries (last : Nat) : Nat → List FEntry → List FEntry × List FEntry
  | _, [] => ([], [])
  | n, e :: rest =>
    if e.at_ != last then
      let r := fitEntries last n rest
      (e :: r.1, r.2)
    else match n with
      | 0 =>
        let r := fitEntries last 0 rest
        (r.1, e :: r.2)
      | n + 1 =>
        let r := fitEntries last n rest
        (e :: r.1, r.2)

/-- A window's entries at its close. -/
def Collector.fit (c : Collector) (es : List FEntry) : List FEntry × List FEntry :=
  let last := es.foldl (fun m e => max m e.at_) 0
  fitEntries last (c.cap - (es.filter fun e => e.at_ != last).length) es

/-- The window that is open closes now (R293): after its length, or with CAP entries at the end of a cycle. -/
def Collector.closes (c : Collector) (now : Nat) : Bool :=
  match c.open_ with
  | some (t, es) => t + c.len ≤ now || c.cap ≤ es.length
  | none => false

/-! ## Lists (R294, R298) -/

/-- A list entry (R294). -/
def FEntry.bits (e : FEntry) : BitVec 256 :=
  let r := e.first
  r.handle ++ r.addr ++ r.asid ++ r.cause ++ BitVec.ofNat 16 e.count ++ 0#2 ++ BitVec.ofBool r.parked ++ BitVec.ofBool r.wr ++
    r.aux ++ 0#2 ++ r.hslot ++ 0#1 ++ r.cy ++ r.cx ++ r.ex ++ r.ey ++ r.region ++ r.agent ++ 0#38

/-- The LIST READY record (R298). -/
def listRecord (seq : BitVec 16) (n : Nat) : Record := 0#64 ++ seq.setWidth 32 ++ BitVec.ofNat 32 n ++ 0x50#8 ++ 0#120

/-- A list is written, and LIST READY is posted (R298). -/
def State.writeList (s : State) (es : List FEntry) : State :=
  let base := s.col.base.toNat * 4096
  let s := if inDram base then s.onMem fun m => m.store base (es.flatMap fun e => natBytes 32 e.bits.toNat) else s
  let seq := s.col.seq + 1
  let s := s.onCol fun c => { c with
    seq := seq, nent := BitVec.ofNat 16 es.length, ready := true, current := es, listAt := c.base }
  if h : s.col.hcore.toNat < 96 then
    s.pushEvent ⟨s.col.hcore.toNat, h⟩ (Fin.ofNat 4 s.col.hctx.toNat) (listRecord seq es.length) false
  else s

/-- The records that found their window full (R298): each parked access offers its own again 256 cycles after it came, any
other is lost. -/
def State.turnAway (s : State) (e : FEntry) : State :=
  if e.first.parked then e.accs.foldl (fun s r => s.later (e.at_ + 256 - s.clk.now) (.parkedReoffer r)) s
  else s.onCol fun c => { c with lost := BitVec.ofNat 16 (min 65535 (c.lost.toNat + e.count)) }

/-- COLLECTOR_WINDOW_CLOSE (R293, R298). -/
def execCollectorWindowClose (s : State) : Done :=
  match s.col.open_ with
  | none => .next s
  | some (_, es) =>
    if !s.col.closes s.clk.now then .next s
    else
      let r := s.col.fit es
      let s := r.2.foldl State.turnAway s
      let s := s.onCol fun c => { c with open_ := none }
      if s.col.ready || !s.col.waiting.isEmpty then .next (s.onCol fun c => { c with waiting := c.waiting ++ [r.1] })
      else .next (s.writeList r.1)

/-- An access is still parked. -/
def State.isParked (s : State) (id : Nat) : Bool :=
  match s.acc id with
  | some a => match a.stage with
    | .parked _ => true
    | _ => false
  | none => false

/-- PARKED_REOFFER (R298). -/
def execParkedReoffer (r : CRec) (s : State) : Done := if s.isParked r.acc then execCollectorRecord r s else .next s

/-! ## RESUME (R299, R300, R323) -/

/-- A parked access begins afresh; a fetch and a pre-empted region's access too. -/
def State.retry (s : State) (a : Access) : State :=
  match a.agent with
  | .fetch c k g =>
    let s' := s.dropAcc a.id
    if (s.ctx c k).gen == g && (s.ctx c k).st == .run then s'.startFetch c k else s'
  | _ =>
    let st : Stage := if a.virt then .walk else .ready
    (s.onAcc a.id fun a => { a with stage := st, held := false }).laterFree 1
      (if a.virt then .walkComplete a.id else .accessPerform a.id)

/-- A parked access is cancelled. -/
def State.cancel (s : State) (a : Access) (cause : BitVec 8) : State :=
  match a.agent with
  | .op x h e => s.cancelOp x h e a cause
  | .line c t n => (s.dropAcc a.id).lineCancelled c t n
  | .ctx c k _ g => if (s.ctx c k).gen == g then (s.dropAcc a.id).kcancel c k else (s.dropAcc a.id).kdropped c k g a.id
  | .fetch c k g => if (s.ctx c k).gen == g then (s.dropAcc a.id).kcancel c k else s.dropAcc a.id
  | .completion c r _ => s.completionRefused a c r cause false
  | .image h => (s.dropAcc a.id).soon (.imageReadDone h false)

/-- The action of a list entry on one of its accesses, by the access's own record.  A withdrawn access takes a retry at once
(R300), and a cancellation or deferral at its reissue (R306; log 74, DEDUCED). -/
def State.resumeAccess (s : State) (action : Nat) (r : CRec) : State :=
  match s.acc r.acc with
  | none => s
  | some a => match a.stage with
    | .parked cause =>
      if action == 0 then s.retry a
      else if a.held then s.onAcc a.id fun a => { a with stage := .fated cause (action == 1) r }
      else if action == 1 then s.cancel a cause
      else s.collect r
    | _ => s

/-- FW_RESUME (R299, R300): every entry's ACTION is read from the list, in list order, by reads that meet error marks (R243);
then the next list may be written. -/
def execFwResume (w : Writer) (v : Word64) (s : State) : Done :=
  if !(w.priv || w.sysctl) || !s.col.ready || v.extractLsb' 0 16 != s.col.seq then .next s
  else
    let base := s.col.listAt.toNat * 4096
    let act (i : Nat) : Nat := ((s.plainWord (base + 32 * i + 8) i).extractLsb' 36 2).toNat
    let todo := s.col.current.zipIdx.map fun e => (e.1, act e.2)
    let units := ((List.range s.col.current.length).map fun i => (base + 32 * i) / 64).eraseDups
    let s := (units.foldl (fun s u => s.meetUnit outsideRec (64 * u)) s).tickBy s.col.current.length
    let s := todo.foldl (fun s e => e.1.accs.foldl (fun s r => s.resumeAccess e.2 r) s) s
    let s := s.onCol fun c => { c with ready := false, current := [] }
    match s.col.waiting with
    | [] => .next s
    | es :: rest => .next ((s.onCol fun c => { c with waiting := rest }).writeList es)

end Sys2Proof.Machine
end

