-- ==== Sys2Proof/Machine/Convert.lean ====
section
/-! DEFINITION. The conversion class (R154..R159). -/

namespace Sys2Proof.Machine

/-- An instruction that makes n part firings for each operand and pops it in the last (R154, R155, R158); `op p` computes
part p from the entries of port a. -/
def State.partOp (s : State) (f : FA) (lat n : Nat) (reads : List Token → List Token)
    (op : Nat → List Token → Result) : State :=
  let x := s.clk.focus
  let as := s.ents x f.io .a
  let p := match (s.slot x).run with
    | .part k => k
    | _ => 0
  let o := laneOut (s.base x f.io) (immTag f.imm) (reads as) false (op p as)
  s.plain x f.io lat (immTag f.imm)
    { pa := if p + 1 < n then 0 else f.a.popN, out := .both o.1, run := if p + 1 < n then .part (p + 1) else .idle
      cause := o.2 }

/-- An instruction that groups the entries of port a into one token: a void entry makes the result void with payload
zero (R129, R154). -/
def State.groupOp (s : State) (f : FA) (lat : Nat) (op : List Token → Result) : State :=
  let x := s.clk.focus
  let as := s.ents x f.io .a
  s.plain x f.io lat (immTag f.imm) (s.laneShot x f.io (laneOut none (immTag f.imm) as false (op as)))

/-- CVT (R154): one to one, narrowing, or widening by parts. -/
def execCvt (f : FA) (s : State) : Done :=
  let src := modTag f.mod
  let dst := immTag f.imm
  if 1 < narrowBy src dst then .next (s.groupOp f 2 (cvtTok f 0))
  else .next (s.partOp f 2 (widenBy src dst) id (cvtTok f))

/-- PACK (R155). -/
def execPack (f : FA) (s : State) : Done := .next (s.groupOp f 1 (packTok f))

/-- UNPK (R155). -/
def execUnpk (f : FA) (s : State) : Done :=
  .next (s.partOp f 1 (widenBy (modTag f.mod) (immTag f.imm)) (List.take 1) (unpkTok f))

/-- DQT (R158). -/
def execDqt (f : FA) (s : State) : Done := .next (s.partOp f 2 (dqtParts f) id (dqtTok f))

/-- RNDI (R156). -/
def execRndi (f : FA) (s : State) : Done :=
  .next (s.laneOp f.io 2 (modTag f.mod) false (fun as bs cs => floatOp f as bs cs rndiOp))

/-- The intakes of the block in progress, and whether it is void, with which cause, or poisoned (R157). -/
def blockOf : Run → List Token × Bool × Cause × Bool
  | .block ins v c p _ => (ins, v, c, p)
  | _ => ([], false, 0, false)

/-- The beats a block still has to emit. -/
def beatsOf : Run → List Token
  | .block _ _ _ _ bs => bs
  | _ => []

/-- The block with one more intake, and the fault of that intake: a void intake makes the block void; a format fault
makes it void and is charged to the intake (R157); a poisoned one poisons it (log 14). -/
def blockTake (f : FA) (r : Run) (t : Token) : List Token × Bool × Cause × Bool × Option Cause :=
  let b := blockOf r
  let ins := b.1 ++ [t]
  if t.void then (ins, true, if b.2.1 then b.2.2.1 else t.cause, b.2.2.2, none)
  else if t.poisoned then (ins, b.2.1, b.2.2.1, true, none)
  else match checkTag false (modTag f.mod) t with
    | .ok _ => (ins, b.2.1, b.2.2.1, b.2.2.2, none)
    | .error c => (ins, true, if b.2.1 then b.2.2.1 else c, b.2.2.2, some c)

/-- The n beats of a block that is complete: void, poisoned, or as `good` computes them (R157). -/
def blockDone (n : Nat) (tag : BitVec 4) (void : Bool) (cause : Cause) (poison : Bool) (good : List Token) :
    List Token :=
  if void then List.replicate n (voidToken zeroLanes tag cause)
  else if poison then List.replicate n poisonToken
  else good

/-- QNT and SCLC (R157, R159): intakes until the block of n intakes is complete, then its `nb` beats, one a firing, no
earlier than 4 cycles after the last intake; a partial block is completed at the end of the stream. -/
def State.blockOp (s : State) (f : FA) (n nb : Nat) (tag : BitVec 4) (good : List Token → List Token) : State :=
  let x := s.clk.focus
  let u := s.slot x
  let emit (bs : List Token) : State := match bs with
    | [] => s
    | b :: rest =>
      if s.clk.now < u.ready then s
      else s.attempt x f.io 2 1 1 { out := .both b, run := .block [] false 0 false rest, ready := u.ready }
  match beatsOf u.run with
  | b :: rest => emit (b :: rest)
  | [] =>
    match s.portSt x f.io .a, s.front x .a with
    | .data, some t =>
      let r := blockTake f u.run t
      let full := n ≤ r.1.length
      let beats := if full then blockDone nb tag r.2.1 r.2.2.1 r.2.2.2.1 (good r.1) else []
      s.attempt x f.io 2 1 1
        { pa := 1, ready := s.clk.now + 4, cause := r.2.2.2.2
          run := if full then .block [] false 0 false beats else .block r.1 r.2.1 r.2.2.1 r.2.2.2.1 [] }
    | .fin, _ =>
      let b := blockOf u.run
      if b.1.isEmpty then s.attempt x f.io 2 1 1 (s.endShot x f.io)
      else emit (blockDone nb tag b.2.1 b.2.2.1 b.2.2.2 (good b.1))
    | _, _ => s

/-- QNT (R157). -/
def execQnt (f : FA) (s : State) : Done :=
  let b := (s.slot s.clk.focus).burst
  .next (s.blockOp f (blockIntakes f b) b (immTag f.imm) (qntBeats f b))

/-- SCLC (R159). -/
def execSclc (f : FA) (s : State) : Done :=
  let b := sclcBurst f
  .next (s.blockOp f (blockIntakes f b) 1 7 (fun ins => [sclcTok f b ins]))

end Sys2Proof.Machine
end

