-- ==== Sys2Proof/Machine/KvPages.lean ====
section
/-! DEFINITION. KV pages (R314..R332): the inverted page table with its probe window and overflow lists, the four table
instructions, pages loaded with their keys rotated, and appends. -/

namespace Sys2Proof.Machine

/-! ## The table (R316, R317) -/

/-- The physical address of table entry p. -/
def State.kvEntry (s : State) (p : Nat) : Nat := s.dev.kvtBase.toNat * 4096 + 32 * p

/-- The number of entries. -/
def State.kvCount (s : State) : Nat := 2 ^ s.dev.logn.toNat

/-- An entry's 256 bits. -/
def State.kvGet (s : State) (p : Nat) : BitVec 256 := BitVec.ofNat 256 (s.mem.nat (s.kvEntry p) 32)

/-- Writes an entry. -/
def State.kvPut (s : State) (p : Nat) (e : BitVec 256) : State :=
  s.onMem fun m => m.store (s.kvEntry p) (natBytes 32 e.toNat)

/-- A field of an entry. -/
def kvField (e : BitVec 256) (lo n : Nat) : Nat := (e.extractLsb' lo n).toNat

/-- An entry with a field changed. -/
def kvSet (e : BitVec 256) (lo n v : Nat) : BitVec 256 :=
  (e &&& ~~~(BitVec.ofNat 256 (2 ^ n - 1) <<< lo)) ||| (BitVec.ofNat 256 (v % 2 ^ n) <<< lo)

/-- The reserved bits, which page instructions preserve (R317). -/
def kvReserved : BitVec 256 :=
  (0xF#256 <<< 152) ||| (BitVec.ofNat 256 (2 ^ 105 - 1) <<< 23) ||| (0x3#256 <<< 6)

/-- A zeroed entry keeps its reserved bits (R317). -/
def kvZeroed (e : BitVec 256) : BitVec 256 := e &&& kvReserved

/-- OWNER. -/
def kvOwner (e : BitVec 256) : Nat := kvField e 244 12
/-- REFCNT. -/
def kvRef (e : BitVec 256) : Nat := kvField e 232 12
/-- PBASE. -/
def kvPbase (e : BitVec 256) : Nat := kvField e 200 32
/-- SEQ. -/
def kvSeq (e : BitVec 256) : Nat := kvField e 176 24
/-- LBLK. -/
def kvLblk (e : BitVec 256) : Nat := kvField e 156 20
/-- SRC. -/
def kvSrc (e : BitVec 256) : Nat := kvField e 128 24
/-- FILL. -/
def kvFill (e : BitVec 256) : Nat := kvField e 16 7
/-- VOPEN. -/
def kvVopen (e : BitVec 256) : Nat := kvField e 12 4
/-- KOPEN. -/
def kvKopen (e : BitVec 256) : Nat := kvField e 8 4
/-- DET. -/
def kvDet (e : BitVec 256) : Bool := e.getLsbD 5
/-- STICKY. -/
def kvSticky (e : BitVec 256) : Bool := e.getLsbD 4
/-- CLIP. -/
def kvClip (e : BitVec 256) : Bool := e.getLsbD 3
/-- ALIAS. -/
def kvAlias (e : BitVec 256) : Bool := e.getLsbD 2
/-- SEALED. -/
def kvSealed (e : BitVec 256) : Bool := e.getLsbD 1
/-- V. -/
def kvValid (e : BitVec 256) : Bool := e.getLsbD 0

/-- A key: owner, sequence, logical block. -/
structure KvKey where
  owner : Nat
  seq : Nat
  lblk : Nat
  deriving DecidableEq, Repr

/-- The key in lanes l and l + 1 of a request, under an ASID. -/
def kvKey (asid : BitVec 12) (t : Token) (l : Nat) : KvKey :=
  ⟨asid.toNat, (t.lane l).toNat % 2 ^ 24, (t.lane (l + 1)).toNat % 2 ^ 20⟩

/-- A key matches an entry (R317). -/
def KvKey.matches (k : KvKey) (e : BitVec 256) : Bool :=
  kvValid e && !kvDet e && kvOwner e == k.owner && kvSeq e == k.seq && kvLblk e == k.lblk

/-- The hash of a key (R318). -/
def KvKey.hash (k : KvKey) : Word64 :=
  let k : Word64 := BitVec.ofNat 64 (k.owner * 2 ^ 44 + k.seq * 2 ^ 20 + k.lblk)
  let x := (k ^^^ (k >>> 29)) * 0xA3D271C5E94B0F37
  let x := (x ^^^ (x >>> 32)) * 0x6C1F9B8534D7A2E9
  x ^^^ (x >>> 29)

/-- The probe window of a key (R318). -/
def State.kvWindow (s : State) (k : KvKey) : List Nat :=
  let i0 := (k.hash >>> (64 - s.dev.logn.toNat)).toNat
  (List.range 8).map fun j => (i0 + j) % s.kvCount

/-- The table column (R316). -/
def State.kvColumn (s : State) : Nat := s.dev.kvtBase.toNat * 4096 / 0x80000000

/-- A walk of an overflow list (R319), of at most `fuel` nodes. -/
def State.kvWalk (s : State) (k : KvKey) : Nat → Nat → Option Nat
  | 0, _ => none
  | fuel + 1, node =>
    if node == 0 || !(inDram node && node / 0x80000000 == s.kvColumn) then none
    else
      let p := (s.mem.word (node + 8)).toNat % 2 ^ 24
      if s.kvCount ≤ p then none
      else if k.matches (s.kvGet p) then some p
      else s.kvWalk k fuel ((s.mem.word node).extractLsb' 4 44 ++ 0#4).toNat

/-- A lookup: the entry, and whether the overflow list resolved it (R318, R319). -/
def State.kvFind (s : State) (k : KvKey) : Option (Nat × Bool) :=
  match (s.kvWindow k).find? fun p => k.matches (s.kvGet p) with
  | some p => some (p, false)
  | none =>
    let head := k.hash.toNat % 2 ^ s.dev.logh.toNat
    let first := ((s.mem.word (s.dev.kvtOvf.toNat * 8 + 8 * head)).extractLsb' 4 44 ++ 0#4).toNat
    (s.kvWalk k 256 first).map fun p => (p, true)

/-- The addresses that the walk of an overflow list reads: its nodes and their entries (R319). -/
def State.kvWalkReads (s : State) (k : KvKey) : Nat → Nat → List Nat
  | 0, _ => []
  | fuel + 1, node =>
    if node == 0 || !(inDram node && node / 0x80000000 == s.kvColumn) then []
    else
      let p := (s.mem.word (node + 8)).toNat % 2 ^ 24
      if s.kvCount ≤ p then [node]
      else if k.matches (s.kvGet p) then [node, s.kvEntry p]
      else node :: s.kvEntry p :: s.kvWalkReads k fuel ((s.mem.word node).extractLsb' 4 44 ++ 0#4).toNat

/-- The addresses that a lookup reads: the window up to a match, else all of it, the list's head and the list (R318, R319). -/
def State.kvReads (s : State) (k : KvKey) : List Nat :=
  let window := s.kvWindow k
  match window.findIdx? fun p => k.matches (s.kvGet p) with
  | some i => (window.take (i + 1)).map s.kvEntry
  | none =>
    let head := s.dev.kvtOvf.toNat * 8 + 8 * (k.hash.toNat % 2 ^ s.dev.logh.toNat)
    window.map s.kvEntry ++ head :: s.kvWalkReads k 256 ((s.mem.word head).extractLsb' 4 44 ++ 0#4).toNat

/-- The entry of the page that an alias names, which PGFORK and PGFREE read too (R324, R326). -/
def State.kvSource (s : State) (k : KvKey) : List Nat :=
  match s.kvFind k with
  | some (p, _) => if kvAlias (s.kvGet p) then [s.kvEntry (kvSrc (s.kvGet p))] else []
  | none => []

/-- Reads of an access meet the error marks of their units, each unit once (R243, R309). -/
def State.meetAll (s : State) (a : Access) (at_ : List Nat) : State :=
  ((at_.map (· / 64)).eraseDups).foldl (fun s u => s.meetErrors a (64 * u)) s

/-! ## PGLK, PGFORK, PGFREE and PGBASE (R322..R327) -/

/-- A result token of I32 lanes. -/
def natToken (ns : List Nat) : Token := i32Token (ns.map (BitVec.ofNat 32))

/-- What a table instruction does: the state after and its token; no token when it must park (R323). -/
abbrev TableStep := State × Option Token

/-- PGLK's action (R322, R323). -/
def State.pglk (s : State) (asid : BitVec 12) (np : Bool) (t : Token) : TableStep :=
  match s.kvFind (kvKey asid t 0) with
  | some (p, slow) =>
    let e := s.kvGet p
    let flags := (if slow then 1 else 0) + (if kvAlias e then 2 else 0) + (if kvSealed e then 4 else 0) +
      (if kvClip e then 8 else 0) + (if kvSticky e then 16 else 0)
    (s, some (natToken [if kvAlias e then kvSrc e else p, p, kvPbase e, kvFill e, flags, 0]))
  | none => (s, if np then some (natToken [0, 0, 0, 0, 0, 1]) else none)

/-- The bits of bands below ceil(fill / 16). -/
def bandMask (fill : Nat) : Nat := 2 ^ ((fill + 15) / 16) - 1

/-- A four-bit field with bits cleared. -/
def clearBits (v mask : Nat) : Nat := v &&& (15 - mask % 16)

/-- PGFORK's action (R324, R325). -/
def State.pgfork (s : State) (asid : BitVec 12) (t : Token) : TableStep :=
  let new := kvKey asid t 2
  match s.kvFind (kvKey asid t 0) with
  | none => (s, some (natToken [2]))
  | some (p, _) =>
    if (s.kvFind new).isSome then (s, some (natToken [3]))
    else match (s.kvWindow new).find? fun q => !kvValid (s.kvGet q) with
    | none => (s, some (natToken [4]))
    | some f =>
      let pe := s.kvGet p
      let src := if kvAlias pe then kvSrc pe else p
      let e := kvZeroed (s.kvGet f)
      let e := kvSet (kvSet (kvSet (kvSet e 0 1 1) 1 1 1) 2 1 1) 244 12 new.owner
      let e := kvSet (kvSet (kvSet e 176 24 new.seq) 156 20 new.lblk) 200 32 (kvPbase pe)
      let e := kvSet (kvSet e 16 7 (kvFill pe)) 128 24 src
      let s := s.kvPut f e
      let se := s.kvGet src
      let full := kvSticky se || 4095 ≤ kvRef se
      let se' := if full then kvSet se 4 1 1 else kvSet se 232 12 (kvRef se + 1)
      let m := bandMask (kvFill se)
      let se' := kvSet (kvSet (kvSet se' 1 1 1) 8 4 (clearBits (kvKopen se) m)) 12 4 (clearBits (kvVopen se) m)
      (s.kvPut src se', some (natToken [if full then 1 else 0, f, kvRef se']))

/-- PGFREE's action (R325, R326). -/
def State.pgfree (s : State) (asid : BitVec 12) (t : Token) : TableStep :=
  match s.kvFind (kvKey asid t 0) with
  | none => (s, some (natToken [2]))
  | some (p, _) =>
    let e := s.kvGet p
    if kvAlias e then
      let s := s.kvPut p (kvZeroed e)
      let src := kvSrc e
      let se := s.kvGet src
      if kvSticky se then (s, some (natToken [0, p, kvRef se]))
      else
        let n := kvRef se - 1
        (s.kvPut src (if n == 0 && kvDet se then kvZeroed se else kvSet se 232 12 n), some (natToken [0, p, n]))
    else if kvSticky e then (s.kvPut p (kvSet e 5 1 1), some (natToken [1, p, kvRef e]))
    else if kvRef e ≤ 1 then (s.kvPut p (kvZeroed e), some (natToken [0, p, 0]))
    else (s.kvPut p (kvSet (kvSet e 232 12 (kvRef e - 1)) 5 1 1), some (natToken [0, p, kvRef e - 1]))

/-- PGBASE's action (R327). -/
def State.pgbase (s : State) (asid : BitVec 12) (add : Bool) (t : Token) : TableStep :=
  match s.kvFind (kvKey asid t 0) with
  | none => (s, some (natToken [2]))
  | some (p, _) =>
    let e := s.kvGet p
    let v := (t.lane 2).toNat
    (s.kvPut p (kvSet e 200 32 (if add then kvPbase e + v else v)), some (natToken [0, p, kvPbase e]))

/-- The addresses that a table instruction reads. -/
def State.tableReads (s : State) (word : Word64) (asid : BitVec 12) (t : Token) : List Nat :=
  let key := kvKey asid t 0
  match (word.extractLsb' 56 8).toNat with
  | 0xB1 => s.kvReads key ++ s.kvSource key ++ (if (s.kvFind key).isSome then s.kvReads (kvKey asid t 2) else [])
  | 0xB2 => s.kvReads key ++ s.kvSource key
  | _ => s.kvReads key

/-- A table instruction, one atomic action at the table controller (R320).  One that reads a spoilt unit delivers a poisoned token
and leaves the table as it is (R243; log 24). -/
def State.tableAct (s : State) (word : Word64) (asid : BitVec 12) (t : Token) : TableStep :=
  if (s.tableReads word asid t).any s.mem.spoilt then (s, some poisonToken)
  else match (word.extractLsb' 56 8).toNat with
  | 0xB0 => s.pglk asid (word.getLsbD 48) t
  | 0xB1 => s.pgfork asid t
  | 0xB2 => s.pgfree asid t
  | _ => s.pgbase asid (word.getLsbD 48) t

/-- A location that is not an address: the table is reached by its CSRs. -/
def tableLoc : Loc := ⟨0, false, false, 0, none⟩

/-- The firing of a table instruction (R321). -/
def tableFire (s : State) (f : FM) (wr : Bool) (x : Site) : State :=
  let t := oldest (s.ents x f.io .a)
  let sh : Shot := { pa := 1, run := .idle }
  match noAccess 7 (operand false t) with
  | some r => s.fireNow x f.io { sh with cause := r.2 } [.both r.1]
  | none => s.fireAccess s x f.io sh tableLoc (.page (s.slot x).word t) [] [] false wr id

/-- PGLK. -/
def execPglk (f : FM) (s : State) : Done := .next (s.memOp f.io 7 (tableFire s f false))
/-- PGFORK. -/
def execPgfork (f : FM) (s : State) : Done := .next (s.memOp f.io 7 (tableFire s f true))
/-- PGFREE. -/
def execPgfree (f : FM) (s : State) : Done := .next (s.memOp f.io 7 (tableFire s f true))
/-- PGBASE. -/
def execPgbase (f : FM) (s : State) : Done := .next (s.memOp f.io 7 (tableFire s f true))

/-! ## Pages and head tables (R314, R315, R328) -/

/-- Element bits of a page's format. -/
def PageGeo.w (g : PageGeo) : Nat := if g.tag == 6 then 4 else 8
/-- Code bytes. -/
def PageGeo.cb (g : PageGeo) : Nat := g.t * g.d * g.w / 8
/-- Scale bytes. -/
def PageGeo.sb (g : PageGeo) : Nat := 2 * (g.t / 16) * (g.d / 16)
/-- H: the smallest power of two not below the code and scale bytes. -/
def PageGeo.h (g : PageGeo) : Nat := 2 ^ (if g.cb + g.sb ≤ 1 then 0 else Nat.log2 (g.cb + g.sb - 1) + 1)
/-- PGSZ. -/
def PageGeo.size (g : PageGeo) : Nat := 2 * g.h
/-- The code bytes of one slot. -/
def PageGeo.row (g : PageGeo) : Nat := g.d * g.w / 8
/-- The scale offset of group j of band b. -/
def PageGeo.scaleOff (g : PageGeo) (b j : Nat) : Nat := g.cb + 2 * (b * (g.d / 16) + j)

/-- A head table: pairing, T, pairs and steps. -/
structure HeadTable where
  il : Bool
  t : Nat
  np : Nat
  steps : List Nat
  deriving DecidableEq, Repr

/-- The head table an instruction names, or its refusal: RANGE, or a format fault (R328). -/
def State.headTable (s : State) (x : Site) (off : BitVec 12) : Except (BitVec 8) HeadTable :=
  let tile := (s.elemAt x).val
  let o := 64 * (off.extractLsb' 0 9).toNat
  let room := s.scratchBytes x.core tile
  let at_ (i : Nat) : Nat := bytesNat (s.readBytes (tileAddr x.core tile (o + 4 * i)) 4)
  if room < o + 4 then .error causeRange
  else
    let w := BitVec.ofNat 32 (at_ 0)
    let np := (w.extractLsb' 0 8).toNat
    if w.extractLsb' 17 14 != 0 || w.extractLsb' 8 8 != 0 || np < 8 || 128 < np || np % 8 != 0 then .error 0x10
    else if room < o + 4 + 4 * np then .error causeRange
    else .ok ⟨w.getLsbD 31, if w.getLsbD 16 then 64 else 16, np, (List.range np).map fun i => at_ (i + 1)⟩

/-- BASE[OFF12[11:9]] of a slot's configuration. -/
def State.pageBase (s : State) (x : Site) (off : BitVec 12) : Word64 :=
  ((s.cfgOf x).map fun g => g.base (off.extractLsb' 9 3).toNat).getD 0

/-! ## LDK and LDV (R329) -/

/-- The 64-byte units of a half page that hold the codes of the first `fill` slots. -/
def PageGeo.codeUnits (g : PageGeo) (fill : Nat) : Nat := (fill * g.row + 63) / 64

/-- The 64-byte units that hold the scale words of their bands. -/
def PageGeo.scaleUnits (g : PageGeo) (fill : Nat) : Nat := (2 * ((fill + 15) / 16) * (g.d / 16) + 63) / 64

/-- What a load has read of a half page. -/
structure HalfPage where
  g : PageGeo
  fill : Nat
  data : List Byte
  bads : List Bool

/-- The place of a half-page offset in what was read. -/
def HalfPage.pos (p : HalfPage) (off : Nat) : Nat :=
  if off < p.g.cb then off else 64 * p.g.codeUnits p.fill + (off - p.g.cb)

/-- A byte of the half page. -/
def HalfPage.byte (p : HalfPage) (off : Nat) : Nat := (p.data.getD (p.pos off) 0).toNat

/-- A byte lies in a poisoned unit. -/
def HalfPage.bad (p : HalfPage) (off : Nat) : Bool := p.bads.getD (p.pos off / 64) false

/-- The scale word of slot t, dimension block j. -/
def HalfPage.scale (p : HalfPage) (t j : Nat) : BitVec 16 :=
  let o := p.g.scaleOff (t / 16) j
  BitVec.ofNat 16 (p.byte o + 256 * p.byte (o + 1))

/-- The code of slot t, dimension d. -/
def HalfPage.code (p : HalfPage) (t d : Nat) : Nat :=
  let i := t * p.g.d + d
  if p.g.w == 4 then p.byte (i / 2) / 16 ^ (i % 2) % 16 else p.byte i

/-- The F32 value of slot t, dimension d (R135, R329). -/
def HalfPage.value (p : HalfPage) (t d : Nat) : Nat :=
  f32.round .rne (scaledValue p.g.tag (p.scale t (d / 16)) (p.code t d))

/-- A scale word of the slots read is malformed (R133); one that lies in a poisoned unit poisons its tokens instead (R329). -/
def HalfPage.malformed (p : HalfPage) : Bool :=
  (List.range ((p.fill + 15) / 16)).any fun b => (List.range (p.g.d / 16)).any fun j =>
    !p.bad (p.g.scaleOff b j) && scaleBad p.g.tag (p.scale (16 * b) j)

/-- One rotated coordinate: a·c ± b·s, exact and then rounded once (R329). -/
def rotated (a c b s : Nat) (minus : Bool) : Nat :=
  let q := (f32.dec b).mul (f32.dec s)
  f32.round .rne (((f32.dec a).mul (f32.dec c)).add .rne (if minus then q.flip else q))

/-- The partner of a dimension, and whether it is the first of its pair (R328). -/
def partner (il : Bool) (np d : Nat) : Nat × Nat × Bool :=
  if il then (if d % 2 == 0 then (d + 1, d / 2, true) else (d - 1, d / 2, false))
  else if d < np then (d + np, d, true) else (d - np, d - np, false)

/-- Element d of slot t of a key, turned by its position (R329). -/
def HalfPage.turned (p : HalfPage) (pb : Nat) (il : Bool) (steps : List Nat) (t d : Nat) : Nat :=
  let q := partner il (p.g.d / 2) d
  let th := (pb + t) * steps.getD q.2.1 0 % 2 ^ 32
  let c := cosCode .rne th
  let sn := sinCode .rne th
  if q.2.2 then rotated (p.value t d) c (p.value t q.1) sn true
  else rotated (p.value t q.1) sn (p.value t d) c false

/-- The bytes a token is computed from touch a poisoned unit (R329). -/
def HalfPage.tokenBad (p : HalfPage) (il rot : Bool) (t j : Nat) : Bool :=
  let dims := (List.range 16).flatMap fun l => (16 * j + l) :: (if rot then [(partner il (p.g.d / 2) (16 * j + l)).1] else [])
  dims.any fun d => p.bad ((t * p.g.d + d) * p.g.w / 8) || p.bad (p.g.scaleOff (t / 16) (d / 16))

/-- The tokens of a page (R329): slot order, then dimension order. -/
def HalfPage.tokens (p : HalfPage) (pb : Nat) (il : Bool) (steps : List Nat) : List Token :=
  let rot := !steps.isEmpty
  (List.range p.fill).flatMap fun t => (List.range (p.g.d / 16)).map fun j =>
    if p.tokenBad il rot t j then poisonToken
    else dataToken (Vector.ofFn fun l : Fin 16 =>
      BitVec.ofNat 32 (if rot then p.turned pb il steps t (16 * j + l.val) else p.value t (16 * j + l.val))) 1

/-- The tokens of a finished LDK or LDV, or its format fault (R329). -/
def pageLoaded (g : PageGeo) (pb fill : Nat) (il : Bool) (steps : List Nat) (data : List Byte) (bads : List Bool) :
    Except Cause (List Token) :=
  let p : HalfPage := ⟨g, fill, data, bads⟩
  if p.malformed then .error causeFormat else .ok (p.tokens pb il steps)

/-- The firing of LDK and LDV (R328, R329). -/
def pageFire (s : State) (f : FM) (ldv : Bool) (x : Site) : State :=
  let t := oldest (s.ents x f.io .a)
  let sh : Shot := { pa := 1, run := .idle }
  let bad (r : Token × Option Cause) : State := s.fireNow x f.io { sh with cause := r.2 } [.both r.1]
  match noAccess 1 (operand false t), s.headTable x f.off with
  | some r, _ => bad r
  | none, .error c =>
    if c == causeRange then s.fireAccess s x f.io sh { tableLoc with bad := some causeRange } (.load 1 1) [] [] false false id
    else bad (voidToken zeroLanes 1 causeFormat, some causeFormat)
  | none, .ok ht =>
    let g : PageGeo := ⟨modTag f.mod, 0, ht.t, 2 * ht.np⟩
    let fill := (t.lane 3).toNat
    if ht.t < fill then bad (voidToken zeroLanes 1 causeFormat, some causeFormat)
    else if fill == 0 then s.fireNow x f.io sh []
    else
      let va := s.pageBase x f.off + BitVec.ofNat 64 ((t.lane 0).toNat * g.size + (if ldv then g.h else 0))
      let l : Loc := ⟨va, true, f.space == 1, 0, if va.toNat % 64 != 0 then some causeAlign else none⟩
      let pieces := piecesFrom va none 64 (g.codeUnits fill) ++
        piecesFrom (va + BitVec.ofNat 64 g.cb) none 64 (g.scaleUnits fill)
      s.fireAccess s x f.io sh l (.pageLoad g (t.lane 2).toNat fill ht.il (if ldv then [] else ht.steps)) pieces [] false
        false id

/-- LDK. -/
def execLdk (f : FM) (s : State) : Done := .next (s.memOp f.io 1 (pageFire s f false))
/-- LDV. -/
def execLdv (f : FM) (s : State) : Done := .next (s.memOp f.io 1 (pageFire s f true))

/-! ## KAPP (R330..R332) -/

/-- The data tokens taken in so far. -/
def kappData : Run → List Token
  | .kapp d => d
  | _ => []

/-- An intake: a token of a tag other than F32 is a format fault and makes the append void. -/
def kappIntake (t : Token) : Token × Option Cause :=
  if t.void || t.tag == 1 || t.tag == 15 then (t, none) else (t.voided causeFormat, some causeFormat)

/-- The result of a KAPP that writes nothing: void before poison (R330). -/
def kappEarly (req : Opnd) (data : List Token) : Option (Token × Option Cause) :=
  match noAccess 7 req with
  | some r => some r
  | none => match firstVoid data with
    | some c => some (voidToken zeroLanes 7 c, none)
    | none => if data.any Token.poisoned then some (poisonToken, none) else none

/-- The firing of KAPP: one data token, and with the last the request. -/
def kappFire (s : State) (f : FM) (x : Site) : State :=
  let req := oldest (s.ents x f.io .a)
  let d := kappIntake (oldest (s.ents x f.io .b))
  let data := kappData (s.slot x).run ++ [d.1]
  let last : Shot := { pa := 1, pb := 1, run := .idle, cause := d.2 }
  match s.headTable x f.off with
  | .error c =>
    if c == causeRange then s.fireAccess s x f.io last { tableLoc with bad := some causeRange } (.load 1 1) [] [] false false id
    else s.fireNow x f.io { last with cause := some causeFormat } [.both (voidToken zeroLanes 7 causeFormat)]
  | .ok ht =>
    if data.length < 2 * (2 * ht.np / 16) then s.attempt x f.io 0 1 1 { pb := 1, run := .kapp data, cause := d.2 }
    else match kappEarly (operand false req) data with
    | some r => s.fireNow x f.io { last with cause := if d.2.isSome then d.2 else r.2 } [.both r.1]
    | none =>
      let g : PageGeo := ⟨modTag f.mod, (f.mod.extractLsb' 0 2).toNat, ht.t, 2 * ht.np⟩
      s.fireAccess s x f.io last { tableLoc with column := f.space == 1 } (.pageAppend g req (s.pageBase x f.off) data) [] []
        false true id

/-- KAPP. -/
def execKapp (f : FM) (s : State) : Done := .next (s.memOp f.io 7 (kappFire s f))

/-- Translates a list of 64-byte units for an access; the first refusal stops it. -/
def State.mapUnits (s : State) (a : Access) (rd : Bool) : List Word64 → State × Except (BitVec 8 × Word64) (List (Word64 × Nat))
  | [] => (s, .ok [])
  | va :: rest =>
    let r := s.translate (s.accRec a 0x40 0 false 0) a.agent.core a.asid rd true false a.column va 64
    match r.2 with
    | .error c => (r.1, .error (c, va))
    | .ok pa =>
      let q := r.1.mapUnits a rd rest
      match q.2 with
      | .error e => (q.1, .error e)
      | .ok ps => (q.1, .ok ((va, pa) :: ps))

/-- The units that bytes [lo, lo + n) of a page touch. -/
def unitsOf (page : Word64) (lo n : Nat) : List Word64 :=
  if n == 0 then []
  else
    let a := (page + BitVec.ofNat 64 lo)
    let first := a.toNat / 64 * 64
    (List.range ((a.toNat % 64 + n + 63) / 64)).map fun i => BitVec.ofNat 64 (first + 64 * i)

/-- The physical address of a virtual byte by a list of mapped units. -/
def mapped (us : List (Word64 × Nat)) (va : Word64) : Nat :=
  match us.find? fun u => u.1.toNat == va.toNat / 64 * 64 with
  | some u => u.2 + va.toNat % 64
  | none => 0

/-- A page under an append: its virtual address, geometry and mapped units. -/
structure OpenPage where
  g : PageGeo
  va : Word64
  us : List (Word64 × Nat)

/-- The physical address of a page offset. -/
def OpenPage.pa (p : OpenPage) (off : Nat) : Nat := mapped p.us (p.va + BitVec.ofNat 64 off)

/-- Writes one byte of a page. -/
def State.pagePut (s : State) (p : OpenPage) (off : Nat) (v : Byte) : State := s.writePhys (p.pa off) [v]

/-- Reads one byte of a page; a peer's is free (R287). -/
def State.pageGet (s : State) (p : OpenPage) (off : Nat) : Nat :=
  (if s.atPeer (p.pa off) then Config.freeByte (s.clk.fresh + off) else s.readByte (p.pa off)).toNat

/-- The code of slot t, dimension d, in the half that begins at `half`. -/
def State.pageCode (s : State) (p : OpenPage) (half t d : Nat) : Nat :=
  let i := t * p.g.d + d
  if p.g.w == 4 then s.pageGet p (half + i / 2) / 16 ^ (i % 2) % 16 else s.pageGet p (half + i)

/-- Writes a code. -/
def State.putCode (s : State) (p : OpenPage) (half t d c : Nat) : State :=
  let i := t * p.g.d + d
  if p.g.w == 4 then
    let b := s.pageGet p (half + i / 2)
    s.pagePut p (half + i / 2) (BitVec.ofNat 8 (if i % 2 == 0 then b / 16 * 16 + c else b % 16 + 16 * c))
  else s.pagePut p (half + i) (BitVec.ofNat 8 c)

/-- The scale word of group j of band b. -/
def State.pageScale (s : State) (p : OpenPage) (half b j : Nat) : BitVec 16 :=
  let o := half + p.g.scaleOff b j
  BitVec.ofNat 16 (s.pageGet p o + 256 * s.pageGet p (o + 1))

/-- Writes a scale word. -/
def State.putScale (s : State) (p : OpenPage) (half b j : Nat) (w : BitVec 16) : State :=
  let o := half + p.g.scaleOff b j
  (s.pagePut p o (w.extractLsb' 0 8)).pagePut p (o + 1) (w.extractLsb' 8 8)

/-- QMAX of a format. -/
def Narrow.qmax (n : Narrow) : Num := .fin false n.qmaxInt (-(n.unit : Int))

/-- The code that a number rounds to under RNE; beyond the codes, the outermost. -/
def neCode (n : Narrow) : Num → Nat
  | .fin s m e => (n.round .rne s m e).getD (if s then n.codes.headD 0 else n.codes.getLastD 0)
  | .inf s => if s then n.codes.headD 0 else n.codes.getLastD 0
  | .nan => Narrow.canon

/-- round_ne(sat(x, -QMAX, QMAX), fmt) (R330). -/
def satCode (n : Narrow) (x : Num) : Nat :=
  neCode n (if n.qmax.cmp x.mag < 0 then (if x.neg then n.qmax.flip else n.qmax) else x)

/-- The largest magnitude of a group. -/
def groupMax (vs : List Num) : Num := vs.foldl (fun a v => if a.cmp v.mag < 0 then v.mag else a) (Num.fin false 0 0)

/-- `need` of R330: −256 for a group of zeros. -/
def needOf (n : Narrow) (amax : Num) : Int :=
  match amax with
  | .fin _ m e => if m == 0 then -256 else n.ceilExp m e
  | _ => 254

/-- A fresh band's exponent (R331). -/
def freshExp (n : Narrow) (amax : Num) : Int := if amax.isZero then 0 else sat (needOf n amax) (-256) 254

/-- A scale word (R331). -/
def scaleWord (type : Nat) (e : Int) : BitVec 16 := BitVec.ofNat 16 (type * 512 + (e + 256).toNat)

/-- Re-encodes the earlier slots of an open group and writes its new scale word (R331). -/
def State.rescale (s : State) (p : OpenPage) (half b j t : Nat) (e' : Int) : State :=
  let w := s.pageScale p half b j
  let n := Narrow.ofTag p.g.tag (scaleType w)
  let e : Int := scaleX w - 256
  let s := (List.range (t % 16)).foldl (fun s i =>
    (List.range 16).foldl (fun s l =>
      let d := 16 * j + l
      s.putCode p half (16 * b + i) d (neCode n ((n.dec (s.pageCode p half (16 * b + i) d)).scale (e - e')))) s) s
  s.putScale p half b j (scaleWord (scaleType w) e')

/-- One group of an append: the state, whether it was rescaled, and whether a value was clipped (R330). -/
def State.appendGroup (s : State) (p : OpenPage) (half t j : Nat) (open_ : Bool) (vs : List Num) : State × Bool × Bool :=
  let b := t / 16
  let n := Narrow.ofTag p.g.tag p.g.type
  let amax := groupMax vs
  let s := if t % 16 == 0 then s.putScale p half b j (scaleWord p.g.type (freshExp n amax)) else s
  let e : Int := scaleX (s.pageScale p half b j) - 256
  let need := needOf n amax
  let up := decide (e < need) && (open_ || t % 16 == 0) && decide (e < min need 254)
  let e' := if up then min need 254 else e
  let s := if up then s.rescale p half b j t e' else s
  let clipped := vs.any fun v => n.qmax.cmp (v.mag.scale (-e')) < 0
  let s := (vs.zipIdx).foldl (fun s v => s.putCode p half t (16 * j + v.2) (satCode n (v.1.scale (-e')))) s
  (s, up, clipped)

/-- One half of an append: groups rescaled and clipping. -/
def State.appendHalf (s : State) (p : OpenPage) (half t : Nat) (open_ : Bool) (data : List Token) : State × Nat × Bool :=
  (data.zipIdx).foldl (fun r d =>
    let g := r.1.appendGroup p half t d.2 open_ (d.1.lanes.toList.map fun l => f32.dec l.toNat)
    (g.1, r.2.1 + (if g.2.1 then 1 else 0), r.2.2 || g.2.2)) (s, 0, false)

/-- The bytes of a half page that hold neither codes nor scale words are written zero (R315). -/
def State.zeroPad (s : State) (p : OpenPage) (half : Nat) : State :=
  (List.range (p.g.h - (p.g.cb + p.g.sb))).foldl (fun s i => s.pagePut p (half + p.g.cb + p.g.sb + i) 0) s

/-- The entry after an append (R330). -/
def kvAppended (e : BitVec 256) (g : PageGeo) (t : Nat) (clipped : Bool) : BitVec 256 :=
  let b := 2 ^ (t / 16)
  let full := (t + 1) % 16 == 0
  let op (v : Nat) : Nat := if full then clearBits v b else if t % 16 == 0 then v ||| b else v
  let e := kvSet (kvSet (kvSet e 16 7 (t + 1)) 8 4 (op (kvKopen e))) 12 4 (op (kvVopen e))
  let e := if t + 1 == g.t then kvSet e 1 1 1 else e
  if clipped then kvSet e 3 1 1 else e

/-- The append itself, on a page whose units are mapped. -/
def State.appendTo (s : State) (p : OpenPage) (entry : Nat) (data : List Token) : State × Token :=
  let e := s.kvGet entry
  let t := kvFill e
  let n := p.g.d / 16
  let bit (v : Nat) : Bool := v / 2 ^ (t / 16) % 2 == 1
  let k := s.appendHalf p 0 t (bit (kvKopen e)) (data.take n)
  let v := k.1.appendHalf p p.g.h t (bit (kvVopen e)) (data.drop n)
  let clipped := k.2.2 || v.2.2
  let s := ((v.1.zeroPad p 0).zeroPad p p.g.h).kvPut entry (kvAppended e p.g t clipped)
  (s, natToken [if clipped then 1 else 0, entry, t, t + 1, k.2.1 + v.2.1])

/-- What an append comes to: its token, or a refusal of one of its page bytes. -/
inductive Append where
  | token (t : Token)
  | refuse (cause : BitVec 8) (va : Word64)
  deriving DecidableEq, Repr

/-- The writes of an append at a peer wait for its acknowledgement (R275). -/
def State.pageAcks (s : State) (a : Access) (p : OpenPage) : State :=
  if p.us.any fun u => s.atPeer u.2 then
    (p.us.foldl (fun s u => s.awaitAck a.agent u.2) s).tickBy p.g.size
  else s

/-- KAPP at the table controller (R330, R332).  One that reads a spoilt unit delivers a poisoned token and writes nothing (R243;
log 24): the units of its table entry, and of the codes and scale words of a band that holds tokens. -/
def State.append (s : State) (a : Access) (g : PageGeo) (req : Token) (base : Word64) (data : List Token) : State × Append :=
  let key := kvKey a.asid req 0
  let reads := s.kvReads key
  let spoilt := reads.any s.mem.spoilt
  let s := s.meetAll a reads
  if spoilt then (s, .token poisonToken)
  else match s.kvFind key with
  | none => (s, .token (natToken [2]))
  | some (p, _) =>
    let e := s.kvGet p
    let t := kvFill e
    let bad := data.any fun d => d.lanes.toList.any fun l => (f32.dec l.toNat).isNan || (f32.dec l.toNat).isInf
    if kvAlias e then (s, .token (natToken [4, p, 0, t]))
    else if g.t ≤ t then (s, .token (natToken [3, p, 0, t]))
    else if bad then (s, .token (natToken [5, p, 0, t]))
    else
      let page := base + BitVec.ofNat 64 (p * g.size)
      let t0 := t / 16 * 16
      let band (h : Nat) : List Word64 :=
        unitsOf page (h + t0 * g.row) ((t + 1 - t0) * g.row) ++ unitsOf page (h + g.scaleOff (t / 16) 0) (2 * (g.d / 16))
      let half (h : Nat) : List Word64 := band h ++ unitsOf page (h + g.cb + g.sb) (g.h - (g.cb + g.sb))
      let m := s.mapUnits a (t % 16 != 0) (half 0 ++ half g.h).eraseDups
      match m.2 with
      | .error (c, va) => (m.1, .refuse c va)
      | .ok us =>
        let old := if t % 16 == 0 then [] else (us.filter fun u => (band 0 ++ band g.h).contains u.1).map Prod.snd
        let s := m.1.meetAll a old
        if old.any m.1.mem.spoilt then (s, .token poisonToken)
        else
          let r := s.appendTo ⟨g, page, us⟩ p data
          (r.1.pageAcks a ⟨g, page, us⟩, .token r.2)

end Sys2Proof.Machine
end

