-- ==== Sys2Proof/Machine/Egress.lean ====
section
/-! DEFINITION. The egress hold queue (R352..R361) and the outbound port (R357, R382). -/

namespace Sys2Proof.Machine

/-! ## Streams and entries (R352, R354) -/

/-- The entries of the hold queue. -/
def egressCap : Nat := 16384

/-- Entries in use: held tokens, and released ones whose record has not left (R357). -/
def Egress.used (g : Egress) : Nat := g.held.length + g.out.length

/-- A stream's state; unbound and zero for one that has none. -/
def Egress.stream (g : Egress) (i : Nat) : Stream := (g.streams.find? fun t => t.id == i).getD ⟨i, none, 0, 0, 0⟩

/-- Inserts a stream in ascending order; one in its reset state is not listed. -/
def putStream (t : Stream) : List Stream → List Stream
  | [] => if t == ⟨t.id, none, 0, 0, 0⟩ then [] else [t]
  | u :: rest =>
    if u.id < t.id then u :: putStream t rest
    else
      let tail := (u :: rest).filter fun v => v.id != t.id
      if t == ⟨t.id, none, 0, 0, 0⟩ then tail else t :: tail

/-- Changes the egress queue. -/
def State.onEgress (s : State) (f : Egress → Egress) : State := { s with egress := f s.egress }

/-- Changes a stream. -/
def Egress.onStream (g : Egress) (i : Nat) (f : Stream → Stream) : Egress :=
  { g with streams := putStream (f (g.stream i)) g.streams }

/-- A configuration may release, withhold and reset (R355). -/
def State.verdictCapable (s : State) (h : Word64) : Bool :=
  match s.egress.armed with
  | none => true
  | some ds => match s.cfg h with
    | some c => ds.contains c.digest
    | none => false

/-- What an operation at the queue comes to. -/
inductive EgressRes where
  /-- performed, with its tokens for T0 and T1 -/
  | done (t0 t1 : Token)
  /-- accepted, waiting for a free entry -/
  | room
  deriving DecidableEq, Repr

/-- The status token of a put (R354). -/
def putTok (st : Nat) (stream q : Lane) : Token := i32Token [BitVec.ofNat 32 st, stream, q]

/-- The results of a put: the copy, and with S the status on T1 (R354). -/
def putResult (word : Word64) (req : Token) (st : Nat) : EgressRes :=
  let copy := if 2 ≤ st then voidToken zeroLanes req.tag 0 else req
  .done copy (if word.getLsbD 48 then putTok st (req.lane 2) (req.lane 1) else copy)

/-- A token is held (R354). -/
def State.holdToken (s : State) (h : Word64) (req : Token) : State :=
  s.onEgress fun g => { g with held := g.held ++ [⟨(req.lane 2).toNat, req.lane 1, req.lane 0, h⟩] }

/-- A refused put is counted (R354, R360). -/
def State.putRefused (s : State) : State :=
  s.onEgress fun g => { g with refused := if g.refused == 0xFFFF then g.refused else g.refused + 1 }

/-- EGPUT at the queue (R354). -/
def State.egput (s : State) (word : Word64) (asid : BitVec 12) (h : Word64) (req : Token) : State × EgressRes :=
  let i := (req.lane 2).toNat
  let q := req.lane 1
  let t := s.egress.stream i
  let refuse (st : Nat) : State × EgressRes := (s.putRefused, putResult word req st)
  if 4095 < i then refuse 3
  else if t.owner.any (· != asid) then refuse 4
  else if t.hput == 0xFFFFFFFF || q != t.hput + 1 then refuse 2
  else
    let s := s.onEgress fun g => g.onStream i fun t => { t with owner := some asid, hput := q }
    if t.wseq != 0 then (s, putResult word req 1)
    else if egressCap ≤ s.egress.used then (s, .room)
    else (s.holdToken h req, putResult word req 0)

/-- The egress verdict record and its copy for the collector (R361). -/
def State.verdictFault (s : State) (x : Site) (h : Word64) (entry : Nat) (i : Nat) (n : Lane) (hput : BitVec 32)
    (st : BitVec 8) : State :=
  let s := s.onEgress fun g => { g with beyond := if g.beyond == 0xFFFF then g.beyond else g.beyond + 1 }
  match s.cfg h with
  | none => s
  | some cfg =>
    let p := (s.ownedRegion x h entry).at_ x.slot
    (s.post cfg (h ++ BitVec.ofNat 12 i ++ 0#20 ++ n ++ 0x61#8 ++ hput ++ st ++ 0#16 ++
      placeBits x.core p.1 p.2 x.unit x.slot.val) true).collect
      (placedRec h cfg.asid 0x31 0 x.core p.1 p.2 x.unit.val x.slot.val 0)

/-- Held tokens of a stream leave the list. -/
def Egress.dropHeld (g : Egress) (p : HeldTok → Bool) : Egress := { g with held := g.held.filter fun t => !p t }

/-- The number of held tokens that meet a condition. -/
def Egress.countHeld (g : Egress) (p : HeldTok → Bool) : Nat := (g.held.filter p).length

/-- Held tokens up to `top` become records for the port, in sequence order, which is the order they were put in
(R355, R357). -/
def Egress.release (g : Egress) (i : Nat) (top : BitVec 32) : Egress :=
  let go := g.held.filter fun t => t.stream == i && t.seq ≤ top
  let recs := go.zipIdx.map fun t => (⟨g.rseq + BitVec.ofNat 32 t.2, BitVec.ofNat 12 i, t.1.seq, t.1.val⟩ : OutRec)
  { (g.dropHeld fun t => t.stream == i && t.seq ≤ top) with
    out := g.out ++ recs, rseq := g.rseq + BitVec.ofNat 32 recs.length }

/-- EGVER's token (R355). -/
def verTok (st : Nat) (req : Token) (released dropped : Nat) : Token :=
  i32Token [BitVec.ofNat 32 st, req.lane 0, req.lane 1, BitVec.ofNat 32 released, BitVec.ofNat 32 dropped]

/-- EGVER at the queue (R355). -/
def State.egver (s : State) (x : Site) (h : Word64) (entry : Nat) (req : Token) : State × Token :=
  let i := (req.lane 0).toNat
  let n := req.lane 1
  let k := req.lane 2
  let t := s.egress.stream i
  if 4095 < i then (s, verTok 3 req 0 0)
  else if !s.verdictCapable h then (s.verdictFault x h entry i n t.hput 4, verTok 4 req 0 0)
  else if 1 < k.toNat then (s, verTok 5 req 0 0)
  else if t.hput < n then (s.verdictFault x h entry i n t.hput 2, verTok 2 req 0 0)
  else if k == 0 then
    let top := if t.wseq == 0 || n < t.wseq then n else t.wseq - 1
    if top ≤ t.rel then (s, verTok 1 req 0 0)
    else
      let c := s.egress.countHeld fun u => u.stream == i && u.seq ≤ top
      (s.onEgress fun g => (g.release i top).onStream i fun t => { t with rel := top }, verTok 0 req c 0)
  else if t.wseq != 0 && t.wseq ≤ n then (s, verTok 1 req 0 0)
  else if n ≤ t.rel then
    let c := s.egress.countHeld fun u => u.stream == i
    (s.onEgress fun g => (g.dropHeld fun u => u.stream == i).onStream i fun t => { t with wseq := t.rel + 1 },
      verTok 6 req 0 c)
  else
    let c := s.egress.countHeld fun u => u.stream == i && n ≤ u.seq
    (s.onEgress fun g => (g.dropHeld fun u => u.stream == i && n ≤ u.seq).onStream i fun t => { t with wseq := n },
      verTok 0 req 0 c)

/-- EGRST's token (R356). -/
def rstTok (st : Nat) (req : Token) (dropped : Nat) : Token :=
  i32Token [BitVec.ofNat 32 st, req.lane 0, BitVec.ofNat 32 dropped]

/-- EGRST at the queue (R356). -/
def State.egrst (s : State) (asid : BitVec 12) (h : Word64) (req : Token) : State × Token :=
  let i := (req.lane 0).toNat
  let t := s.egress.stream i
  if 4095 < i then (s, rstTok 3 req 0)
  else if t.owner.isSome && t.owner != some asid && !s.verdictCapable h then (s, rstTok 4 req 0)
  else
    let c := s.egress.countHeld fun u => u.stream == i
    (s.onEgress fun g => (g.dropHeld fun u => u.stream == i).onStream i fun _ => ⟨i, none, 0, 0, 0⟩, rstTok 0 req c)

/-- The stream an operation names. -/
def egressStream (word : Word64) (req : Token) : Nat :=
  if word.extractLsb' 56 8 == 0xBB then (req.lane 2).toNat else (req.lane 0).toNat

/-- An operation at the queue. -/
def State.egressAct (s : State) (x : Site) (h : Word64) (entry : Nat) (asid : BitVec 12) (word : Word64) (req : Token) :
    State × EgressRes :=
  match (word.extractLsb' 56 8).toNat with
  | 0xBB => s.egput word asid h req
  | 0xBC =>
    let r := s.egver x h entry req
    (r.1, .done r.2 r.2)
  | _ =>
    let r := s.egrst asid h req
    (r.1, .done r.2 r.2)

/-! ## Firing (R353) -/

/-- The firing of EGPUT, EGVER and EGRST; a void result has the operand's payload and TAG (R129). -/
def egressFire (s : State) (f : FM) (x : Site) : State :=
  let t := oldest (s.ents x f.io .a)
  let sh : Shot := { pa := 1, run := .idle }
  match noAccess 7 (operand false t) with
  | some r => s.fireNow x f.io { sh with cause := (ofPortA t r).2 } [.both (ofPortA t r).1]
  | none => s.fireAccess s x f.io sh tableLoc (.egress (s.slot x).word t) [] [] false true id

/-- EGPUT. -/
def execEgput (f : FM) (s : State) : Done := .next (s.memOp f.io 7 (egressFire s f))
/-- EGVER. -/
def execEgver (f : FM) (s : State) : Done := .next (s.memOp f.io 7 (egressFire s f))
/-- EGRST. -/
def execEgrst (f : FM) (s : State) : Done := .next (s.memOp f.io 7 (egressFire s f))

/-! ## The outbound port (R357, R382) -/

/-- An egress record (R357). -/
def OutRec.bytes (r : OutRec) : List Byte :=
  natBytes 4 r.val.toNat ++ natBytes 4 r.seq.toNat ++ natBytes 4 r.stream.toNat ++ natBytes 4 r.rseq.toNat

/-- The ring's size in records (R382). -/
def Egress.ringSize (g : Egress) : Nat := 2 ^ (g.logsz.toNat + 8)

/-- The port may write: the slot's record has been consumed (R382). -/
def Egress.portRoom (g : Egress) : Bool := g.count < g.head.toNat + g.ringSize

/-- EGRESS_RECORD_OUT: record k is written to slot k mod size, then the count k + 1 to ADDR − 16 (R382); a waiting put
may now be held (R354). -/
def execEgressRecordOut (s : State) : Done :=
  let g := s.egress
  match g.out with
  | [] => .next s
  | r :: rest =>
    if !g.portRoom then .next s
    else
      let base : Word64 := g.addr.setWidth 64 * 16
      let slot := base + BitVec.ofNat 64 (16 * (g.count % g.ringSize))
      let s := { s with host := { s.host with
        out := s.host.out ++ [OutMsg.portWrite g.port slot r.bytes, OutMsg.portWrite g.port (base - 16) (natBytes 8 (g.count + 1))] } }
      let s := s.onEgress fun g => { g with out := rest, count := g.count + 1 }
      .next (if g.waiting.isEmpty then s else s.soon .egputEntryFree)

/-- EGO_HEAD_WRITE (R382): the host's count of consumed records. -/
def execEgoHeadWrite (v : Word64) (s : State) : Done := .next (s.onEgress fun g => { g with head := v })

end Sys2Proof.Machine
end

