-- ==== Sys2Proof/Machine/Perform.lean ====
section
/-! DEFINITION. Accesses carried out (R265, R268, R271..R276, R305): the end of a translation, the units of an access at their
serving controllers, results on their way, LDS that wait, the hold queue's operations, and the scrubber (R310). -/

namespace Sys2Proof.Machine

/-! ## The end of a translation (R265, R268) -/

/-- An access parks with a cause, and is reported with an address (R268, R292). -/
def State.park (s : State) (a : Access) (cause : BitVec 8) (addr : BitVec 54) : State :=
  (s.onAcc a.id fun a => { a with stage := .parked cause }).collect (s.accRec a cause addr true a.asid)

/-- The fate of a refused access (R268, R43, R374). -/
def State.refused (s : State) (a : Access) (cause : BitVec 8) (va : Word64) : State :=
  if parks cause then s.park a cause (BitVec.ofNat 54 (va.toNat / 65536 * 65536))
  else match a.agent with
  | .op x h e => (s.ownerFault x h e cause va true).endAccess x h e a.id []
  | .ctx c k i g =>
    if (s.ctx c k).gen == g then (s.dropAcc a.id).ktrapVal (ksite c k i) trapAccess va else (s.dropAcc a.id).kdropped c k g a.id
  | .line c t n => (s.dropAcc a.id).lineRefused c t n cause va true
  | .completion c r _ => s.completionRefused a c r cause true
  | .fetch c k g => if (s.ctx c k).gen == g then (s.dropAcc a.id).ktrapVal (ksite c k 0) trapAccess va else s.dropAcc a.id
  | .image h => (s.dropAcc a.id).soon (.imageReadDone h false)

/-- The core whose tables translate an access: the owner's core for the kiln (R264). -/
def State.tableCore (s : State) (a : Access) : Fin 96 :=
  match a.agent with
  | .image h => ((s.cfg h).map Cfg.core).getD 0
  | g => g.core

/-- What unit i of an access does at its address: it reads, it writes, it must lie in the local column (R247, R258). -/
def State.pieceDoes (s : State) (a : Access) (i : Nat) : Bool × Bool × Bool :=
  match a.kind, a.agent with
  | .copyLine, .line c t _ =>
    match s.xfer c t with
    | some t =>
      let p := packetOf t.req.lanes
      (i == 0, i != 0, (if i == 0 then p.ssp else p.dsp) == 1)
    | none => (true, true, false)
  | _, _ => (a.kind.reads, a.wr, a.column)

/-- The release OR is atomic, as an AMO is (R43, R252). -/
def AKind.atomic : AKind → Bool
  | .amo .. | .orWord _ => true
  | _ => false

/-- Translates the units that have no physical address yet, in order; the first refusal stops it. -/
def State.translatePieces (s : State) (a : Access) (i : Nat) : List Piece → State × Except (Word64 × BitVec 8) (List Piece)
  | [] => (s, .ok [])
  | p :: rest =>
    let d := s.pieceDoes a i
    let r : State × Except (BitVec 8) Nat := match p.pa with
      | some pa => (s, .ok pa)
      | none => s.translate (s.accRec a 0x40 0 false 0) (s.tableCore a) a.asid d.1 d.2.1 a.kind.atomic d.2.2 p.va p.len
    match r.2 with
    | .error e => (r.1, .error (p.va, e))
    | .ok pa =>
      let t := r.1.translatePieces a (i + 1) rest
      (t.1, match t.2 with
        | .error e => .error e
        | .ok ps => .ok ({ p with pa := some pa } :: ps))

/-- The pages of an image, in units of 4,096 bytes (R369). -/
def State.mapImage (s : State) (a : Access) (va : Word64) : Nat → State × Except (Word64 × BitVec 8) (List Piece)
  | 0 => (s, .ok [])
  | n + 1 =>
    let r := s.translate (s.accRec a 0x40 0 false 0) (s.tableCore a) a.asid true false false false va 4096
    match r.2 with
    | .error e => (r.1, .error (va, e))
    | .ok pa =>
      let t := r.1.mapImage a (va + 4096) n
      (t.1, match t.2 with
        | .error e => .error e
        | .ok ps => .ok (⟨va, 4096, some pa⟩ :: ps))

/-- The units of an access, translated: for the kiln, those of the image's length, which its header gives. -/
def State.translated (s : State) (a : Access) : State × Except (Word64 × BitVec 8) (List Piece) :=
  if a.kind == .readImage then
    let r := s.mapImage a a.addr 1
    match r.2 with
    | .ok (p :: _) =>
      let q := r.1.readPhys (p.pa.getD 0 + 96) 8
      q.1.mapImage a a.addr (max 1 ((bytesNat q.2 + 4095) / 4096))
    | _ => r
  else s.translatePieces a 0 a.pieces

/-- The page that an access waits for: the ASID, and the 64 KiB page of its first unit that the translation cache of its core
does not answer (R266). -/
def State.missOf (s : State) (a : Access) : Option (BitVec 12 × Nat) :=
  let tlb := (s.core (s.tableCore a)).tlb
  (a.pieces.find? fun p => p.pa.isNone && !tlb.any fun t => t.hits a.asid p.va.toNat).map fun p => (a.asid, p.va.toNat / 0x10000)

/-- The accesses that wait for a walk of a core's tables, with their pages, oldest first. -/
def State.misses (s : State) (c : Fin 96) : List (Access × (BitVec 12 × Nat)) :=
  (s.accs.filter fun a => a.stage == .walk && !a.held && s.tableCore a == c).filterMap fun a => (s.missOf a).map fun p => (a, p)

/-- The walk of an access may run: the core's walker runs those of 64 pages at once, and a 65th waits (R266). -/
def State.walkFree (s : State) (a : Access) : Bool :=
  match s.missOf a with
  | none => true
  | some p => (((s.misses (s.tableCore a)).map Prod.snd).eraseDups.take 64).contains p

/-- An access's page has been refused: every access that waits for the same walk is refused with it (R266). -/
def State.refusedAll (s : State) (a : Access) (page : Option (BitVec 12 × Nat)) (cause : BitVec 8) (va : Word64) : State :=
  let merged : List Access := if cause == causeNoAsid || cause == causeNotMapped || cause == causeBadPte then
      ((s.misses (s.tableCore a)).filter fun q => some q.2 == page && q.1.id != a.id).map Prod.fst
    else []
  merged.foldl (fun s b => s.refused b cause ((b.pieces.find? fun p => p.pa.isNone).map Piece.va |>.getD b.addr))
    (s.refused a cause va)

/-- An access arrives at its core's gather unit, which takes accesses in the order of their arrival, those of one operator in
the order of its firings (R245, R272). -/
def arriveGather (b : Access) (accs : List Access) : List Access :=
  let before := accs.takeWhile fun a => a.id != b.id
  let after := (accs.dropWhile fun a => a.id != b.id).drop 1
  before ++ (after.takeWhile fun a => !a.agent.same b.agent) ++ b :: after.dropWhile fun a => !a.agent.same b.agent

/-- The read of an image waits for the writes that its launch releases (R284). -/
def State.launchWaits (s : State) (a : Access) : Bool :=
  match a.agent with
  | .image h => (s.cfg h).any fun g => s.releasing g
  | _ => false

/-- WALK_COMPLETE (R265): a physical address, a park, or a refusal. -/
def execWalkComplete (id : Nat) (s : State) : Done :=
  match s.acc id with
  | none => .next s
  | some a =>
    if a.held || a.stage != .walk then .next s
    else if !s.walkFree a || s.launchWaits a then .next (s.later 1 (.walkComplete id))
    else
      let r := s.translated a
      match r.2 with
      | .error (va, e) => .next (r.1.refusedAll a (s.missOf a) e va)
      | .ok ps =>
        let s := r.1.onAcc id fun a => { a with pieces := ps, stage := .ready }
        let s := if s.indirect a then { s with accs := arriveGather { a with pieces := ps, stage := .ready } s.accs } else s
        .next (match a.agent with
          | .completion c q _ => s.laterFree 0 (.completionRelease c q)
          | .image h => s.laterFree 0 (.imageReadDone h true)
          | _ => s.laterFree 0 (.accessPerform id))

/-! ## Results on their way -/

/-- A read's result is on its way: its tag is freed, and it arrives later (R242, R305). -/
def State.sendResult (s : State) (a : Access) (outs : List Emit) : State :=
  let s := (s.onAcc a.id fun _ => { a with pieces := [], stage := .late outs }).laterFree 1 (.lateResultArrival a.id)
  match a.agent with
  | .op x h e => s.freeTag x h e a.id
  | _ => s

/-- The range instruction whose repetition waits for an access. -/
def State.repWaiting (s : State) (x : Site) (id : Nat) : Option KRep :=
  (s.kblk x).bind fun b => b.reps.find? fun r => r.wait == some id

/-- A context's write has been performed or accepted. -/
def State.kstored (s : State) (x : Site) (id : Nat) : State :=
  match s.repWaiting x id with
  | some r => s.advanceRep x r
  | none => s.kgive x id ⟨0, false⟩

/-- A context's read has arrived. -/
def State.kloaded (s : State) (x : Site) (id : Nat) (v : KTok) : State :=
  match s.repWaiting x id with
  | some r =>
    let w := ((s.kblk x).map fun b => b.slots[x.slot].word).getD 0
    (s.kwrite x r.index (r.reg w).toNat v).advanceRep x r
  | none => s.kgive x id v

/-- The 8-byte words a context has read; one of a poisoned unit is free (R243). -/
def State.kwordsOf (s : State) (a : Access) : List Word64 :=
  (List.range (a.data.length / 8)).map fun i =>
    if a.bads.getD i false then Config.freeWord (s.clk.fresh + i)
    else BitVec.ofNat 64 (bytesNat ((a.data.drop (8 * i)).take 8))

/-- The region that an access of PRCW or PRCW.S rewrites. -/
def prcwRegion : AKind → Option (Fin 8)
  | .kwords d | .kexit d _ => some (prcwFields d).1
  | _ => none

/-- An earlier PRCW to the same region of the core has not been applied: two apply in firing order (R197). -/
def State.prcwBefore (s : State) (a : Access) : Bool :=
  (s.accs.takeWhile fun b => b.id != a.id).any fun b => (prcwRegion b.kind).isSome && prcwRegion b.kind == prcwRegion a.kind &&
    b.agent.core == a.agent.core

/-- A result reaches a context's block, or that of a trap whose operations still complete (R191). -/
def State.inBlock (s : State) (c : Fin 96) (k : Fin 4) (g : Nat) (f : State → State) : State :=
  if (s.ctx c k).gen == g then f s else s.onDrain c k g f

/-- A PRCW is applied, at the end of the cycle, after its firings and sink reports (R197); a trap of its block does not undo it
(R191). -/
def State.prcwDone (s : State) (a : Access) (c : Fin 96) (k : Fin 4) (i : Fin 128) (g : Nat) : State :=
  let ws := s.kwordsOf a
  let s := (s.dropAcc a.id).tickBy ws.length
  let r := match a.kind with
    | .kwords d => s.prcwApply c k d ws
    | .kexit d v => s.prcwExit c k (prcwFields d).1 v
    | _ => (s, 0)
  if (r.1.ctx c k).gen == g then r.1.kgive (ksite c k i) a.id ⟨BitVec.ofNat 64 r.2, false⟩ else r.1

/-- LATE_RESULT_ARRIVAL (R305): a result enters its operator's reorder buffer, wherever that stands, or its context's block. -/
def execLateResultArrival (id : Nat) (s : State) : Done :=
  match s.acc id with
  | none => .next s
  | some a => match a.stage, a.agent with
    | .late outs, .op x h e => .next ((s.give x h e id outs).dropAcc id)
    | .late outs, .ctx c k i g =>
      if (prcwRegion a.kind).isSome then
        if s.prcwBefore a then .next (s.later 1 (.lateResultArrival id))
        else if outs.isEmpty then .next ((s.onAcc id fun a => { a with stage := .late [Emit.none] }).soon (.lateResultArrival id))
        else .next (s.prcwDone a c k i g)
      else
        let ws := s.kwordsOf a
        .next (((s.dropAcc id).tickBy ws.length).inBlock c k g fun s => s.kloaded (ksite c k i) id ⟨ws.headD 0, false⟩)
    | .late _, _ => .next (s.dropAcc id)
    | _, _ => .next s

/-! ## Units at their serving controllers (R249, R254, R271, R274) -/

/-- Writes to a ring descriptor that an operation in progress uses leave it unknown (R254). -/
def State.spoilRings (s : State) (pa n : Nat) : State :=
  s.accs.foldl (fun s b =>
    let at_ : Option (Nat × Nat) := match b.kind with
      | .ringPush t d _ => some (t, d)
      | .ringPop t d _ _ _ => some (t, d)
      | _ => none
    match at_ with
    | some (t, d) =>
      let r := tileAddr b.agent.core t d
      if b.stage == .ready && !b.held && pa < r + 16 && r < pa + n then (s.writePhys r (s.freeBytes 16)).tickBy 16 else s
    | none => s) s

/-- A unit is written at its controller. -/
def State.putPiece (s : State) (a : Access) (pa : Nat) (bs : List Byte) (fill : Bool) : State :=
  let s := s.writePhys pa bs
  let s := if a.stage == .posted then s else s.awaitAck a.agent pa
  let s := if a.poison then s.poisonUnits pa bs.length else s
  let s := match a.kind with
    | .ringPush .. => s
    | _ => s.spoilRings pa bs.length
  if fill && s.hasFull pa then s.fillLines [pa / 128] else s

/-- LDX and STX. -/
def AKind.isLanes : AKind → Bool
  | .loadLanes .. | .storeLanes .. => true
  | _ => false

/-- A unit of a posted write stands in its queue before the access it came from (R274). -/
def State.postPiece (s : State) (a : Access) (p : Piece) (bs : List Byte) : State :=
  let b : Access := { a with
    id := s.newId, kind := .store [] false, pieces := [p], data := bs, bads := [], stage := .posted, held := false }
  ({ s with accs := s.accs.flatMap fun (q : Access) => if q.id == a.id then [b, q] else [q] }.tickId).laterFree 1 (.accessPerform b.id)

/-- An access sets full bits. -/
def AKind.fills : AKind → Bool
  | .store _ full => full
  | _ => false

/-- The first unit of an access is performed, or accepted by the network port. -/
def State.doPiece (s : State) (a : Access) : State × Access :=
  match a.pieces with
  | [] => (s, a)
  | p :: rest =>
    let pa := p.pa.getD 0
    if a.kind.reads then
      let r := (s.meetErrors a pa).readPhys pa p.len
      (r.1, { a with pieces := rest, data := a.data ++ r.2, bads := a.bads ++ [s.mem.spoilt pa] })
    else
      let bs := a.data.take p.len
      let a' := { a with pieces := rest, data := a.data.drop p.len }
      if a.kind.posts && !a.kind.fills && !s.indirect a && s.leaves a.agent.core pa then (s.postPiece a p bs, a')
      else (s.putPiece a pa bs (a.kind.fills && rest.all fun q => q.pa.getD 0 / 128 != pa / 128), a')

/-- Every unit of an access, one after the other. -/
def State.doPieces (s : State) (a : Access) : Nat → State × Access
  | 0 => (s, a)
  | n + 1 =>
    let r := s.doPiece a
    r.1.doPieces r.2 n

/-- The beats of an RPOP; the SCALE of a scaled tag is not stored in a ring and is free. -/
def ringBeats (tag : BitVec 4) (b : Nat) (data : List Byte) (bads : List Bool) (scale : BitVec 16) : List Token :=
  (List.range b).map fun i =>
    if bads.getD i false then poisonToken
    else scaledToken (lanesOfBytes ((data.drop (64 * i)).take 64)) tag (if i == 0 && tagScaled tag then scale else 0)

/-- A ring's HEAD or TAIL moves on. -/
def State.ringMove (s : State) (c : Fin 96) (tile desc word n : Nat) : State :=
  let a := tileAddr c tile (desc + 4 * word)
  s.writePhys a (natBytes 4 ((bytesNat (s.readBytes a 4) + n) % 2 ^ 32))

/-- Every unit of an access has been performed: its result is known, or is on its way. -/
def State.finish (s : State) (a : Access) : State :=
  match a.agent with
  | .op x h e =>
    match a.kind with
    | .load tag b | .loadFull _ tag b | .loadV tag b =>
      s.sendResult a ((loadBeats tag b a.data a.bads).map Emit.both)
    | .loadLanes tag idx => s.sendResult a [.both (lanesLoaded tag idx a.data a.bads)]
    | .ringPop tile desc _ tag b =>
      ((s.ringMove x.core tile desc 2 (64 * b)).sendResult a
        ((ringBeats tag b a.data a.bads ((Config.freeWord s.clk.fresh).setWidth 16)).map Emit.both)).tickFresh
    | .pageLoad g pb fill il steps =>
      match pageLoaded g pb fill il steps a.data a.bads with
      | .ok ts => s.sendResult a (ts.map Emit.both)
      | .error c =>
        let s := s.sendResult a [.both (voidToken zeroLanes 1 c)]
        let driven := ((s.ownedSlot x h e).map Slot.driven).getD false
        if driven then s else s.ownerFault x h e 0x10 0 true
    | .ringPush tile desc toks =>
      (s.ringMove x.core tile desc 3 (64 * toks.length)).endAccess x h e a.id [.both (storeTok a.poison a.addr)]
    | _ => s.endAccess x h e a.id [.both (storeTok a.poison a.addr)]
  | .ctx c k i g =>
    match a.kind with
    | .kstore _ =>
      (s.dropAcc a.id).inBlock c k g fun s => s.kstored (ksite c k i) a.id
    | _ => s.sendResult a []
  | _ => s.dropAcc a.id

/-- The pop of an RPOP waits for those issued before it on its ring (R216, R254). -/
def State.ringWaits (s : State) (a : Access) : Bool :=
  match a.kind with
  | .ringPop tile desc _ _ _ => s.popBefore a.agent.core tile desc a.id
  | _ => false

/-- The access as it now stands; it ends when no unit is left, an RPOP in its turn, and else goes on with the next. -/
def State.goOn (s : State) (a : Access) : State :=
  let s := s.onAcc a.id fun _ => a
  if !a.pieces.isEmpty then s.laterFree 1 (.accessPerform a.id)
  else if s.ringWaits a then s.later 1 (.accessPerform a.id)
  else s.finish a

/-! ## The lanes of LDX and STX at the gather unit (R245) -/

/-- The line of a unit. -/
def Piece.line (p : Piece) : Nat := p.pa.getD 0 / 128

/-- The lanes line by line, the lines in the order of their lowest lane. -/
def lineOrder (ps : List Piece) : List Nat :=
  ((ps.map Piece.line).eraseDups).flatMap fun l => (List.range ps.length).filter fun i => (ps.map Piece.line).getD i 0 == l

/-- The lanes of the next line: `bads` counts the lanes that have been performed. -/
def Access.nextLanes (a : Access) : List Nat :=
  let rest := (lineOrder a.pieces).drop a.bads.length
  let line (i : Nat) : Nat := (a.pieces.map Piece.line).getD i 0
  rest.takeWhile fun i => some (line i) == rest.head?.map line

/-- One lane at its place in memory: a load's word is kept behind those before it, a store's is written. -/
def State.doLane (s : State) (a : Access) (i : Nat) : State × Access :=
  let pa := ((a.pieces[i]?).bind Piece.pa).getD 0
  if a.kind.reads then
    let r := s.readPhys pa 4
    (r.1, { a with data := a.data ++ r.2, bads := a.bads ++ [s.mem.spoilt pa] })
  else (s.putPiece a pa ((a.data.drop (4 * i)).take 4) false, { a with bads := a.bads ++ [false] })

/-- A load's words, gathered line by line, in the order of the lanes. -/
def inLanes (ps : List Piece) (data : List Byte) : List Byte :=
  (List.range ps.length).flatMap fun i => (data.drop (4 * ((lineOrder ps).findIdx (· == i)))).take 4

/-- The lanes that fall in one line are one access of the gather unit; values return in lane order (R245). -/
def State.goLines (s : State) (a : Access) : State :=
  let now := a.nextLanes
  let units := (now.map fun i => ((a.pieces[i]?).bind Piece.pa).getD 0 / 64).eraseDups
  let s := if a.kind.reads then units.foldl (fun s u => s.meetErrors a (64 * u)) s else s
  let r := now.foldl (fun q i => q.1.doLane q.2 i) (s, a)
  if r.2.bads.length < a.pieces.length then (r.1.onAcc a.id fun _ => r.2).laterFree 1 (.accessPerform a.id)
  else r.1.goOn { r.2 with pieces := [], data := inLanes a.pieces r.2.data }

/-- The line of an access's first unit is full, or has no full bit (R241). -/
def State.firstFull (s : State) (a : Access) : Bool :=
  match a.pieces with
  | p :: _ => !s.hasFull (p.pa.getD 0) || s.mem.isFull (p.pa.getD 0)
  | [] => true

/-- LDS: it waits for its line, then reads, and .C clears the full bits in the same bank access (R248). -/
def State.goFull (s : State) (a : Access) (clear : Bool) : State :=
  if !s.firstFull a then s.onAcc a.id fun a => { a with stage := .wait }
  else
    let r := s.doPieces a a.pieces.length
    let s := if clear then r.1.onMem fun m => a.pieces.foldl (fun m p => m.setFull (p.pa.getD 0) false) m else r.1
    s.goOn r.2

/-- AMO (R252): read, modify and write at one controller. -/
def State.goAmo (s : State) (a : Access) (m : BitVec 8) (opnd : Token) : State :=
  match a.pieces with
  | p :: _ =>
    let pa := p.pa.getD 0
    let r := (s.meetErrors a pa).readPhys pa p.len
    if s.mem.spoilt pa then r.1.sendResult a [.both poisonToken]
    else
      let old := bytesNat r.2
      ((r.1.writePhys pa (natBytes p.len (amoNew m old opnd))).spoilRings pa p.len).sendResult a [.both (amoTok m old)]
  | [] => s

/-! ## The hold queue's operations (R354, R358) -/

/-- The stream an access of the hold queue names. -/
def Access.egressId (a : Access) : Option Nat :=
  match a.kind with
  | .egress w req => some (egressStream w req)
  | _ => none

/-- A free entry goes to a waiting put. -/
def State.offerEntry (s : State) : State :=
  if s.egress.waiting.isEmpty || egressCap ≤ s.egress.used then s else s.soon .egputEntryFree

/-- An operation at the hold queue: it waits behind an earlier one of its stream that waits. -/
def State.goEgress (s : State) (a : Access) (w : Word64) (req : Token) : State :=
  let before := s.accs.takeWhile fun b => b.id != a.id
  let behind := s.accs.any fun b => b.egressId == a.egressId && b.id != a.id && b.stage == .entry
  if behind || before.any fun b => b.egressId == a.egressId && !b.held && b.stage == .wait then
    s.onAcc a.id fun a => { a with stage := .wait }
  else match a.agent with
    | .op x h e =>
      let r := s.egressAct x h e a.asid w req
      match r.2 with
      | .room => (r.1.onAcc a.id fun a => { a with stage := .entry }).onEgress fun g => { g with waiting := g.waiting ++ [a.id] }
      | .done t0 t1 => (r.1.sendResult a [⟨some t0, some t1⟩]).offerEntry
    | _ => s

/-- The operations that wait behind one that has ended are taken in order. -/
def State.wakeEgress (s : State) : State :=
  let waiting := s.accs.filter fun a => a.egressId.isSome && a.stage == .wait && !a.held
  waiting.foldl (fun s a => match a.kind with
    | .egress w req => s.goEgress a w req
    | _ => s) s

/-- EGPUT_ENTRY_FREE (R354): the longest waiting put is held. -/
def execEgputEntryFree (s : State) : Done :=
  match s.egress.waiting with
  | [] => .next s
  | id :: rest =>
    if egressCap ≤ s.egress.used then .next s
    else
      let s := s.onEgress fun g => { g with waiting := rest }
      match s.acc id with
      | some a => match a.kind, a.agent with
        | .egress w req, .op _ h _ => match putResult w req 0 with
          | .done t0 t1 => .next (((s.holdToken h req).sendResult a [⟨some t0, some t1⟩]).wakeEgress.offerEntry)
          | .room => .next s
        | _, _ => .next s.offerEntry
      | none => .next s.offerEntry

/-! ## ACCESS_PERFORM and LDS_WAKE -/

/-- The address of a PAGEABSENT record (R323). -/
def absentAddr (req : Token) : BitVec 54 := 0#10 ++ ((req.lane 0).extractLsb' 0 24) ++ ((req.lane 1).extractLsb' 0 20)

/-- An access that nothing holds back is carried out. -/
def State.carryOut (s : State) (a : Access) : State :=
  match a.kind with
  | .loadFull clear _ _ => s.goFull a clear
  | .amo m opnd => s.goAmo a m opnd
  | .page w req =>
    let r := (s.meetAll a (s.tableReads w a.asid req)).tableAct w a.asid req
    match r.2 with
    | some t => r.1.sendResult a [.both t]
    | none => r.1.park a 0x05 (absentAddr req)
  | .pageAppend g req base data =>
    let r := s.append a g req base data
    match r.2 with
    | .token t => r.1.sendResult a [.both t]
    | .refuse c va => r.1.refused a c va
  | .egress w req => s.goEgress a w req
  | .copyLine => match a.agent with
    | .line c t n => (s.copyUnit a c t n).dropAcc a.id
    | _ => s.dropAcc a.id
  | .done | .fetchBlock | .readImage | .orWord _ => s
  | _ =>
    if s.indirect a && a.kind.isLanes then s.goLines a
    else
      let r := s.doPieces a (if s.indirect a then a.pieces.length else 1)
      r.1.goOn r.2

/-- ACCESS_PERFORM (R271): one unit of an access, or all of one that is atomic, at its serving controller; of a write at a
peer, the acknowledgement (R275). -/
def execAccessPerform (id : Nat) (s : State) : Done :=
  match s.acc id with
  | none => .next s
  | some a =>
    if a.held then .next s
    else match a.stage with
    | .ready => .next (if s.accBlocked a then s.later 1 (.accessPerform id) else s.carryOut a)
    | .posted =>
      if s.accBlocked a then .next (s.later 1 (.accessPerform id))
      else match a.pieces with
        | p :: _ =>
          let s' := s.putPiece a (p.pa.getD 0) a.data false
          .next (if s.atPeer (p.pa.getD 0) then
              (s'.onAcc id fun a => { a with pieces := [], data := [], stage := .peer }).laterFree 1 (.accessPerform id)
            else s'.dropAcc id)
        | [] => .next (s.dropAcc id)
    | .peer => .next (s.dropAcc id)
    | _ => .next s

/-- LDS_WAKE (R248): a waiting LDS is performed when its line is full; it else waits on. -/
def execLdsWake (id : Nat) (s : State) : Done :=
  match s.acc id with
  | none => .next s
  | some a => match a.stage, a.kind with
    | .wait, .loadFull clear _ _ => .next (if a.held then s else s.goFull { a with stage := .ready } clear)
    | _, _ => .next s

/-- MEMORY_RESULT_DELIVERY (R240): the next step of a slot's oldest result leaves, while its region is MAPPED or COMMITTING and
its core is not halted. -/
def execMemoryResultDelivery (site : Site) (s : State) : Done :=
  let g := s.region site.core site.unit
  if g.st == .mapped || g.st == .committing then .next (s.deliverResult site) else .next s

/-! ## Banks (R239) -/

/-- The bank of a physical address: core, tile, bank; none outside the tiles (R237, R239). -/
def State.bankOf (s : State) (pa : Nat) : Option (Fin 96 × Nat × Nat) :=
  match s.phys pa with
  | .scratch c tile off => some (c, tile, off / 128 % 8)
  | .ember c off => some (c, (96 - (s.core c).poolE + off / 65536) % 32, off / 128 % 8)
  | _ => none

/-- The banks that an access asks for next, and whether to write: those of the units it is about to perform.  An access that
reads and writes in one action takes its banks for both. -/
def State.bankUse (s : State) (a : Access) : List ((Fin 96 × Nat × Nat) × Bool) :=
  let all := a.pieces.filterMap fun p => p.pa.bind s.bankOf
  let one := (a.pieces.head?.bind fun p => p.pa.bind s.bankOf).toList
  let reads (bs : List (Fin 96 × Nat × Nat)) : List ((Fin 96 × Nat × Nat) × Bool) := bs.eraseDups.map fun b => (b, false)
  let writes (bs : List (Fin 96 × Nat × Nat)) : List ((Fin 96 × Nat × Nat) × Bool) := bs.eraseDups.map fun b => (b, true)
  match a.kind with
  | .amo .. => reads one ++ writes one
  | .copyLine => reads all ++ writes all
  | .loadFull .. => reads all
  | .page .. | .pageAppend .. | .egress .. | .done | .fetchBlock | .readImage | .orWord _ => []
  | k =>
    let bs := if s.indirect a && k.isLanes then
        a.nextLanes.filterMap fun i => ((a.pieces[i]?).bind Piece.pa).bind s.bankOf
      else if s.indirect a then all else one
    if k.reads then reads bs
    else if a.stage != .posted && k.posts && !k.fills && !s.indirect a && (a.pieces.any fun p => s.leaves a.agent.core (p.pa.getD 0)) then []
    else writes bs

/-- The place of an access's requester in a bank's order (R239): 2 the paired element's memory operator, 4 the streamer island
of the bank's core, 5 an arrival from elsewhere. -/
def State.bankRank (s : State) (a : Access) (b : Fin 96 × Nat × Nat) : Nat :=
  match a.agent with
  | .op x h e =>
    let p := (s.ownedRegion x h e).at_ x.slot
    if a.stage != .posted && x.core == b.1 && (elemNo p.1 p.2).val == b.2.1 then 2 else 5
  | .line c _ _ => if c == b.1 then 4 else 5
  | _ => 5

/-- An access that asks for banks in this cycle. -/
structure BankReq where
  id : Nat
  rank : Nat
  use : List ((Fin 96 × Nat × Nat) × Bool)

/-- The requests of the accesses that are due: those that nothing else holds back and that need a bank. -/
def State.bankReqs (s : State) (ids : List Nat) : List BankReq :=
  ids.filterMap fun id => match s.acc id with
    | none => none
    | some a =>
      if a.held || !(a.stage == .ready || a.stage == .posted) || s.accBlocked a then none
      else match s.bankUse a with
        | [] => none
        | u :: rest => some ⟨id, s.bankRank a u.1, u :: rest⟩

/-- The requests that the banks serve, of requests in the order of their service: each bank performs at most one read and one
write (R239). -/
def serveBanks : List BankReq → List ((Fin 96 × Nat × Nat) × Bool) → List BankReq
  | [], _ => []
  | r :: rest, taken =>
    if r.use.any taken.contains then serveBanks rest taken else r :: serveBanks rest (taken ++ r.use)

/-- The accesses that the banks serve in this cycle, of those that are due, and those that wait for the next: lower ranks are
served first, and what is read is read before anything is written (R239; log 113). -/
def State.bankRound (s : State) (ids : List Nat) : List Nat × List Nat :=
  let reqs := s.bankReqs ids
  let served := serveBanks ((List.range 7).flatMap fun k => reqs.filter fun r => r.rank == k) []
  let writes (r : BankReq) : Bool := r.use.any Prod.snd
  let order := ((served.filter fun r => !writes r) ++ served.filter writes).map BankReq.id
  (order, (reqs.map BankReq.id).filter fun i => !order.contains i)

/-! ## The scrubber (R309, R310) -/

/-- Where the scrubber finds an address: the core, whether in its column, and the line (R237, R310). -/
def State.scrubPlace (s : State) (a : Nat) : Option (Fin 96 × Bool × Nat) :=
  match s.phys a with
  | .dram c off => some (Fin.ofNat 96 c, true, off / 128)
  | .scratch c t off => some (c, false, (off / 65536 * 32 + t) * 512 + off % 65536 / 128)
  | .ember c off => some (c, false, (96 - (s.core c).poolE + off / 65536) * 512 + off % 65536 / 128)
  | _ => none

/-- SCRUB_LINE (R309, R310): the units of a line that hold an error are counted; a correctable one is corrected, an
uncorrectable one is reported. -/
def execScrubLine (core : Fin 96) (dram : Bool) (line : Nat) (s : State) : Done :=
  let here (u : Nat) : Bool := s.scrubPlace (64 * u) == some (core, dram, line)
  let ues := s.mem.ue.filter here
  let ces := s.mem.ce.filter here
  let rec_ := placedRec 0 0 0x40 0 core 0 0 0 0 7
  let s := (ues ++ (ces.filter fun u => !ues.contains u)).foldl (fun s u => s.meetUnit rec_ (64 * u)) s
  .next (s.onMem fun m => { m with ce := ces.foldl (fun l u => natDel u l) m.ce })

end Sys2Proof.Machine
end

