-- ==== Sys2Proof/Machine/Csr.lean ====
section
/-! DEFINITION. The CSRs (R12, R185, R187, R196, R236, R264, R267, R291, R293, R302, R307..R310, R316, R360, R382, R383, R385,
R390): what a read gives, and what each write does. -/

namespace Sys2Proof

/-- A writer that may do what a PRIV context may. -/
def Writer.may (w : Writer) : Bool := w.priv || w.sysctl

end Sys2Proof

namespace Sys2Proof.Machine

/-! ## Values of CSRs -/

/-- CTXCFG (R187). -/
def Context.cfgWord (t : Context) (k : Fin 4) : Word64 :=
  0#48 ++ BitVec.ofBool t.priv ++ BitVec.ofBool t.qmap ++ 0#12 ++ BitVec.ofNat 2 k.val

/-- REPST (R195). -/
def Context.repWord (t : Context) : Word64 :=
  0#40 ++ BitVec.ofBool t.repActive ++ t.repSlot ++ 0#2 ++ t.repRemain ++ 0#2 ++ t.repIndex

/-- EVQSTAT (R188). -/
def Context.evqWord (t : Context) : Word64 := 0#31 ++ BitVec.ofBool t.ovf ++ t.lost ++ 0#1 ++ BitVec.ofNat 7 t.evq.length

/-- TRAPINFO (R187). -/
def Context.trapWord (t : Context) : Word64 := t.trapCause ++ t.trapSlot ++ 0#49

/-- QBIND of a queue (R371). -/
def QBind.word (b : QBind) : Word64 := BitVec.ofBool b.v ++ BitVec.ofBool b.dir ++ b.chan ++ 0#50

/-- The per-context CSRs 0x000..0x00F (R187). -/
def Context.csr (t : Context) (k : Fin 4) (n : Nat) : Option Word64 :=
  match n with
  | 0 => some (t.cfgWord k)
  | 1 => some (t.asid.setWidth 64)
  | 2 => some ((t.bptr ++ 0#6 : BitVec 54).setWidth 64)
  | 3 => some t.repWord
  | 4 => some t.evqWord
  | 5 => some t.trapWord
  | 6 => some t.trapVal
  | 7 => none
  | n => if n < 16 then some (t.qbind.toList.getD (n - 8) .none).word else none

/-- MISTAT (R214). -/
def Core.mistat (k : Core) : Word64 :=
  let m := k.matrix
  let busy : Nat := ((List.range 4).map fun i => if m.queue.any fun e => e.issued == some (Fin.ofNat 4 i) then 2 ^ i else 0).sum
  m.retired ++ 0#8 ++ BitVec.ofNat 8 m.tiles.length ++ 0#4 ++ BitVec.ofNat 4 busy ++ 0#1 ++ BitVec.ofNat 7 m.queue.length

/-- POOLPART (R236). -/
def Core.poolpart (k : Core) : Word64 := 0#40 ++ BitVec.ofNat 8 k.poolE ++ BitVec.ofNat 8 k.poolA ++ BitVec.ofNat 8 k.poolS

/-- The number of a region's state (R291). -/
def RState.code : RState → Nat
  | .free => 0
  | .loading => 1
  | .mapped => 2
  | .committing => 3
  | .evicting => 4
  | .faulted => 5

/-- REGCTL as read (R291). -/
def Core.regctl (k : Core) : Word64 :=
  BitVec.ofNat 64 (k.regions.toList.zipIdx.map fun r => r.1.st.code * 8 ^ r.2).sum

/-- REGLATER (R403). -/
def Core.reglater (k : Core) : Word64 := BitVec.ofNat 64 (k.regions.toList.zipIdx.map fun r => r.1.later.toNat * 256 ^ r.2).sum

/-- OUTSTANDING of DBG_STAT (R308): accesses not yet delivered, lines of transfers not yet performed, entries running. -/
def State.outstanding (s : State) (c : Fin 96) : Nat :=
  let live (a : Access) : Bool := !a.held && a.kind != .done && match a.stage with
    | .parked _ | .fated .. | .peer => false
    | _ => true
  let accs := s.accs.filter fun a => live a && a.agent.core == c && match a.agent with
    | .line .. | .image _ => false
    | _ => true
  let parked (id n : Nat) : Bool := s.accs.any fun a => !live a && match a.agent with
    | .line d x m => d == c && x == id && m == n
    | _ => false
  let lines : Nat := ((s.core c).streamer.xfers.map fun t =>
    let rest := if t.cancelled then [] else (List.range t.total).drop t.next
    (t.linesOf (t.flight.filter (fun n => !parked t.id n) ++ rest)).length).sum
  let running := (s.core c).matrix.queue.filter fun e => e.issued.isSome
  accs.length + lines + running.length

/-- DBG_STAT (R308). -/
def State.dbgStat (s : State) (c : Fin 96) : Word64 :=
  let n := s.outstanding c
  0#32 ++ BitVec.ofBool ((s.core c).hfab && n == 0) ++ BitVec.ofNat 31 n

/-- FW_STAT (R297). -/
def Collector.stat (c : Collector) : Word64 :=
  c.lost ++ BitVec.ofBool c.ready ++ BitVec.ofBool c.open_.isSome ++ 0#14 ++ c.nent ++ c.seq

/-- EG_STAT (R360). -/
def Egress.stat (g : Egress) : Word64 :=
  BitVec.ofBool g.armed.isSome ++ 0#16 ++ BitVec.ofNat 15 g.used ++ g.beyond ++ g.refused

/-- EGO_BASE (R382). -/
def Egress.baseWord (g : Egress) : Word64 := g.logsz ++ 0#2 ++ g.port ++ g.addr ++ 0#4

/-- The number of a boot state (R385). -/
def BootState.code : BootState → BitVec 4
  | .waiting => 0
  | .verifying => 1
  | .running => 2
  | .failed => 3

/-- RECSTAT (R385). -/
def Device.recstat (d : Device) : Word64 := 0#16 ++ d.attempts ++ d.rollback ++ d.failstep ++ d.boot.code

/-- A DMA window CSR (R390). -/
def Device.window (d : Device) (n : Nat) : Word64 :=
  let w := d.dmaw.toList.getD (n / 4) ⟨0, 0⟩
  match n % 4 with
  | 0 => w.ctl
  | 1 => w.base
  | _ => 0

/-- The CSRs of a core and of the device; `none` for an undefined number. -/
def State.csrAt (s : State) (c : Fin 96) (n : Nat) : Option Word64 :=
  let k := s.core c
  match n with
  | 0x100 => some (k.ctxpart.setWidth 64)
  | 0x240 => some (k.snapwin.setWidth 64)
  | 0x242 => some k.regctl
  | 0x243 => some k.reglater
  | 0x250 => some k.mistat
  | 0x260 => some k.poolpart
  | 0x310 => some (k.guardRow[0].setWidth 64)
  | 0x311 => some (k.guardRow[1].setWidth 64)
  | 0x312 => some (k.guardRow[2].setWidth 64)
  | 0x313 => some (k.guardRow[3].setWidth 64)
  | 0x314 => some (k.guardPt.setWidth 64)
  | 0x320 => some ((k.ttbase ++ 0#13 : BitVec 48).setWidth 64)
  | 0x321 => some 0
  | 0x330 => some ((s.col.hctx ++ s.col.hcore ++ s.col.window : BitVec 25).setWidth 64)
  | 0x331 => some ((s.col.base ++ 0#8 ++ s.col.logcap : BitVec 48).setWidth 64)
  | 0x332 => some s.col.stat
  | 0x333 => some 0
  | 0x340 => some (k.ctxswResult.setWidth 64)
  | 0x341 => some 0
  | 0x350 => some ((BitVec.ofBool k.hfab ++ k.hctx : BitVec 5).setWidth 64)
  | 0x351 => some (s.dbgStat c)
  | 0x360 => some ((k.drate ++ k.srate : BitVec 16).setWidth 64)
  | 0x361 => some (k.eccUe ++ k.eccCe)
  | 0x370 => some ((s.dev.kvtBase ++ 0#12 : BitVec 48).setWidth 64)
  | 0x371 => some ((s.dev.logh ++ 0#3 ++ s.dev.logn : BitVec 13).setWidth 64)
  | 0x372 => some ((s.dev.kvtOvf ++ 0#3 : BitVec 48).setWidth 64)
  | 0x380 => some s.egress.stat
  | 0x381 => some s.egress.baseWord
  | 0x382 => some s.egress.head
  | 0x390 => some (BitVec.ofNat 64 (if s.dev.lock then 1 else 0))
  | 0x3F0 => some s.dev.recstat
  | n => if 0x400 ≤ n && n < 0x800 then some (s.dev.window (n - 0x400)) else none

/-- What a context reads at a CSR number (R187, R196). -/
def State.csrRead (s : State) (c : Fin 96) (k : Fin 4) (num : BitVec 12) : Option Word64 :=
  if num.toNat < 0x100 then (s.ctx c k).csr k num.toNat else s.csrAt c num.toNat

/-- A write of a number needs PRIV (R196). -/
def csrPriv (num : BitVec 12) : Bool := (0x100 ≤ num.toNat && num.toNat < 0x200) || 0x300 ≤ num.toNat

/-! ## Writes of the CSRs of a core -/

/-- CTXPART (R185): a write that re-allots leaves every register unknown. -/
def State.writeCtxpart (s : State) (c : Fin 96) (v : Word64) : State :=
  let new := v.extractLsb' 0 8
  let old := (s.core c).ctxpart
  let total : Nat := ((List.range 4).map (allotIn new)).sum
  let busy := (List.finRange 4).any fun k => allotIn new k.val != allotIn old k.val && (s.ctx c k).st != .stopped
  if 64 < total || busy || new == old then s
  else (s.onCore c fun q => { q with
    ctxpart := new, sregs := Vector.ofFn fun i : Fin 64 => Config.freeWord (s.clk.fresh + i.val) }).tickBy 64

/-- CTXPART_WRITE. -/
def execCtxpartWrite (core : Fin 96) (w : Writer) (v : Word64) (s : State) : Done :=
  .next (if w.may then s.writeCtxpart core v else s)

/-- An element of a core lies in a region that is not FREE. -/
def State.elemUsed (s : State) (c : Fin 96) (e : Fin 32) : Bool :=
  (List.finRange 8).any fun r => let g := s.region c r; g.st != .free && g.ks.any fun k => g.elem k == e

/-- A new GUARD_MAP value would move what may not move (R200). -/
def State.guardMoves (s : State) (c : Fin 96) (n : Nat) (v : Word64) : Bool :=
  let k := s.core c
  if n < 4 then (List.range 8).any fun ex =>
    v.extractLsb' (2 * ex) 2 != k.tenant ex n && s.elemUsed c (elemNo ex n)
  else
    ((List.finRange 4).any fun x => v.extractLsb' (2 * x.val) 2 != k.ctxTenant x && (s.ctx c x).st != .stopped) ||
      (v.extractLsb' 8 2 != k.matrixTenant && !k.matrix.queue.isEmpty) ||
      (v.extractLsb' 10 2 != k.streamerTenant && !k.streamer.xfers.isEmpty)

/-- GUARD_MAP (R198..R200). -/
def State.writeGuard (s : State) (c : Fin 96) (num : BitVec 12) (v : Word64) : State :=
  let n := num.toNat - 0x310
  if num.toNat < 0x310 || 4 < n || s.guardMoves c n v then s
  else s.onCore c fun k =>
    if n == 4 then { k with guardPt := v.extractLsb' 0 12 } else { k with guardRow := k.guardRow.set! n (v.extractLsb' 0 16) }

/-- GUARD_MAP_WRITE. -/
def execGuardMapWrite (core : Fin 96) (w : Writer) (num : BitVec 12) (v : Word64) (s : State) : Done :=
  .next (if w.may then s.writeGuard core num v else s)

/-- Drops translation cache entries on every core (R267). -/
def State.dropTlb (s : State) (p : TlbEntry → Bool) : State :=
  { s with cores := s.cores.map fun k => { k with tlb := k.tlb.filter fun t => !p t } }

/-- TLBINV_ALL. -/
def execTlbinvAll (w : Writer) (s : State) : Done := .next (if w.may then s.dropTlb fun _ => true else s)

/-- TLBINV_ASID. -/
def execTlbinvAsid (w : Writer) (asid : BitVec 12) (s : State) : Done :=
  .next (if w.may then s.dropTlb fun t => t.asid == asid else s)

/-- TLBINV_PAGE: the 64 KiB page and the 32 MiB page that contains it. -/
def execTlbinvPage (w : Writer) (asid : BitVec 12) (vpn : BitVec 38) (s : State) : Done :=
  .next (if w.may then s.dropTlb fun t => t.asid == asid && t.page == (if t.big then vpn.toNat / 512 else vpn.toNat) else s)

/-- The state after a step that always goes on. -/
def Done.state (d : Done) (s : State) : State :=
  match d with
  | .next t => t
  | _ => s

/-- TLBINV (R267). -/
def State.writeTlbinv (s : State) (w : Writer) (v : Word64) : State :=
  match (v.extractLsb' 62 2).toNat with
  | 0 => (execTlbinvAll w s).state s
  | 1 => (execTlbinvAsid w (v.extractLsb' 50 12) s).state s
  | 2 => (execTlbinvPage w (v.extractLsb' 50 12) (v.extractLsb' 0 38) s).state s
  | _ => s

/-- REGCTL (R291). -/
def State.writeRegctl (s : State) (c : Fin 96) (w : Writer) (v : Word64) : State :=
  let r := Fin.ofNat 8 (v.extractLsb' 24 3).toNat
  match (v.extractLsb' 62 2).toNat with
  | 1 => (execRegctlRelease c w r s).state s
  | 2 => (execRegctlRemap c w r s).state s
  | 3 => (execRegctlPreempt c w r s).state s
  | _ => s

/-! ## Context switches (R302, R303) -/

/-- The result of a CTXSW action. -/
def State.swResult (s : State) (c : Fin 96) (r : BitVec 2) : State := s.onCore c fun k => { k with ctxswResult := r }

/-- A context's save area of 2,560 bytes (R303). -/
def State.saveArea (s : State) (c : Fin 96) (k : Fin 4) : List Byte :=
  let q := s.core c
  let t := s.ctx c k
  let w (v : Word64) : List Byte := natBytes 8 v.toNat
  let recs := t.evq.flatMap fun r => natBytes 32 r.toNat
  ((List.range 32).flatMap fun i => w (if i < q.allot k then q.sreg k i else 0)) ++
    w ((t.bptr ++ 0#6 : BitVec 54).setWidth 64) ++ w t.repWord ++ w (t.asid.setWidth 64) ++ w (t.cfgWord k) ++ w t.trapWord ++
    w t.trapVal ++ natBytes 8 (if t.st == .trapped then 2 else 0) ++
    ((List.range 8).flatMap fun i => w ((t.stack.getD i 0 ++ 0#6 : BitVec 54).setWidth 64)) ++
    [BitVec.ofNat 8 t.stack.length, BitVec.ofNat 8 (q.allot k)] ++ List.replicate 6 0 ++ w t.evqWord ++
    List.replicate 120 0 ++ recs ++ List.replicate (2048 - recs.length) 0

/-- A save area lies in DRAM. -/
def areaOk (a : Nat) : Bool := inDram a && inDram (a + 2559)

/-- CTXSW_SAVE. -/
def execCtxswSave (core : Fin 96) (w : Writer) (ctx : Fin 4) (addr : BitVec 48) (s : State) : Done :=
  let a := addr.toNat / 512 * 512
  if !w.may then .next s
  else if (s.ctx core ctx).st == .run || !areaOk a then .next (s.swResult core 1)
  else
    let s' := s.onMem fun m => m.store a (s.saveArea core ctx)
    .next ((s'.onCtx core ctx fun t => { t with st := .stopped, evq := [], stopReq := false }).swResult core 0)

/-- The words of a save area; one of a poisoned unit is free (R243). -/
def State.areaWords (s : State) (a : Nat) : List Word64 := (List.range 320).map fun i => s.plainWord (a + 8 * i) i

/-- A context takes the state of a save area (R303). -/
def State.loadArea (s : State) (c : Fin 96) (k : Fin 4) (ws : List Word64) : State :=
  let q := s.core c
  let w (i : Nat) : Word64 := ws.getD i 0
  let depth := min 8 (w 47 |>.extractLsb' 0 8).toNat
  let count := min 64 (w 48 |>.extractLsb' 0 7).toNat
  let s := (List.range (q.allot k)).foldl (fun s i => s.setSreg c k i (w i)) s
  s.onCtx c k fun t => { t with
    bptr := (w 32).extractLsb' 6 48, repActive := (w 33).getLsbD 23, repSlot := (w 33).extractLsb' 16 7
    repRemain := (w 33).extractLsb' 8 6, repIndex := (w 33).extractLsb' 0 6, asid := (w 34).extractLsb' 0 12
    priv := (w 35).getLsbD 15, qmap := (w 35).getLsbD 14, trapCause := (w 36).extractLsb' 56 8
    trapSlot := (w 36).extractLsb' 49 7, trapVal := w 37
    st := if w 38 == 2 then .trapped else .stopped
    stack := (List.range depth).map fun i => (w (39 + i)).extractLsb' 6 48
    ovf := (w 48).getLsbD 32, lost := (w 48).extractLsb' 8 24
    evq := (List.range count).map fun i => w (67 + 4 * i) ++ w (66 + 4 * i) ++ w (65 + 4 * i) ++ w (64 + 4 * i)
    blk := none, gen := t.gen + 1, stopReq := false }

/-- CTXSW_RESTORE: legal when the allotment is the one saved. -/
def execCtxswRestore (core : Fin 96) (w : Writer) (ctx : Fin 4) (addr : BitVec 48) (s : State) : Done :=
  let a := addr.toNat / 512 * 512
  if !w.may then .next s
  else if (s.ctx core ctx).st != .stopped || !areaOk a then .next (s.swResult core 1)
  else
    let ws := s.areaWords a
    let rec_ := placedRec 0 0 0x40 0 core 0 0 ctx.val 0 3
    let s := ((List.range 40).foldl (fun s i => s.meetUnit rec_ (a + 64 * i)) s).tickBy 320
    if ((ws.getD 47 0).extractLsb' 8 8).toNat != (s.core core).allot ctx then .next (s.swResult core 1)
    else .next ((s.loadArea core ctx ws).swResult core 0)

/-- CTXSW_CLEAR. -/
def execCtxswClear (core : Fin 96) (w : Writer) (ctx : Fin 4) (s : State) : Done :=
  if !w.may then .next s
  else if (s.ctx core ctx).st == .run then .next (s.swResult core 1)
  else .next ((s.loadArea core ctx []).swResult core 0)

/-- CTXSW_STOP: a running context is asked to stop. -/
def execCtxswStop (core : Fin 96) (w : Writer) (ctx : Fin 4) (s : State) : Done :=
  if !w.may then .next s
  else .next ((s.onCtx core ctx fun t => if t.st == .run then { t with stopReq := true } else t).swResult core 0)

/-- CTXSW (R302). -/
def State.writeCtxsw (s : State) (c : Fin 96) (w : Writer) (v : Word64) : State :=
  let k := Fin.ofNat 4 (v.extractLsb' 60 2).toNat
  let a := v.extractLsb' 0 48
  match (v.extractLsb' 62 2).toNat with
  | 0 => (execCtxswSave c w k a s).state s
  | 1 => (execCtxswRestore c w k a s).state s
  | 2 => (execCtxswClear c w k s).state s
  | _ => (execCtxswStop c w k s).state s

/-- CTXGO (R383): a STOPPED context begins to run. -/
def execCtxgo (core : Fin 96) (w : Writer) (v : Word64) (s : State) : Done :=
  let k := Fin.ofNat 4 (v.extractLsb' 62 2).toNat
  if !w.may || (s.ctx core k).st != .stopped then .next s
  else .next ((s.onCtx core k fun t => { t with bptr := v.extractLsb' 6 48 }).startFetch core k)

/-- DBG_CTL_WRITE (R307). -/
def execDbgCtlWrite (core : Fin 96) (w : Writer) (v : Word64) (s : State) : Done :=
  .next (if w.may then s.onCore core fun k => { k with hfab := v.getLsbD 4, hctx := v.extractLsb' 0 4 } else s)

/-! ## Writes of device CSRs -/

/-- FW_CTL_WRITE (R293): ignored with an HCORE above 95. -/
def execFwCtlWrite (w : Writer) (v : Word64) (s : State) : Done :=
  if !w.may || 95 < (v.extractLsb' 16 7).toNat then .next s
  else .next (s.onCol fun c => { c with hctx := v.extractLsb' 23 2, hcore := v.extractLsb' 16 7, window := v.extractLsb' 0 16 })

/-- n bytes from an address on lie in one DRAM column. -/
def oneColumn (a n : Nat) : Bool := inDram (a + n - 1) && a / 0x80000000 == (a + n - 1) / 0x80000000

/-- KVT_CSR_WRITE (R316): a write that would break the table's rules is ignored. -/
def execKvtCsrWrite (w : Writer) (num : BitVec 12) (v : Word64) (s : State) : Done :=
  let d := s.dev
  let new : Device := match num.toNat with
    | 0x370 => { d with kvtBase := v.extractLsb' 12 36 }
    | 0x371 => { d with logh := v.extractLsb' 8 5, logn := v.extractLsb' 0 5 }
    | 0x372 => { d with kvtOvf := v.extractLsb' 3 45 }
    | _ => d
  let good := 8 ≤ new.logn && new.logn ≤ 24 && new.logh ≤ 20 &&
    oneColumn (new.kvtBase.toNat * 4096) (32 * 2 ^ new.logn.toNat) && oneColumn (new.kvtOvf.toNat * 8) (8 * 2 ^ new.logh.toNat)
  .next (if w.may && good then { s with dev := new } else s)

/-- DMAWIN_LOCK_SET (R390). -/
def execDmawinLockSet (w : Writer) (v : Word64) (s : State) : Done :=
  .next (if w.may then { s with dev := { s.dev with lock := s.dev.lock || v.getLsbD 0 } } else s)

/-- The bits of DMAW_CTL that a write sets. -/
def dmawMask : Word64 := 0xE0FFFC0FFFFFFFFF

/-- A DMA window CSR is written (R390). -/
def State.writeWindow (s : State) (n : Nat) (v : Word64) : State :=
  if s.dev.lock then s
  else
    let d := s.dev.dmaw.toList.getD (n / 4) ⟨0, 0⟩
    let d : DmaWin := match n % 4 with
      | 0 => { d with ctl := v &&& dmawMask }
      | 1 => { d with base := (v >>> 12) <<< 12 }
      | _ => d
    { s with dev := { s.dev with dmaw := s.dev.dmaw.set! (n / 4) d } }

/-- EGO_BASE (R382): locked once the queue is armed. -/
def State.writeEgoBase (s : State) (v : Word64) : State :=
  if s.egress.armed.isSome then s
  else s.onEgress fun g => { g with logsz := v.extractLsb' 60 4, port := v.extractLsb' 54 4, addr := v.extractLsb' 4 50 }

/-! ## Any CSR -/

/-- A write of a per-context CSR (R187, R188); ASID and PRIV are set by the system controller alone. -/
def State.writeContext (s : State) (c : Fin 96) (w : Writer) (n : Nat) (v : Word64) : State :=
  let k := w.ctx
  match n with
  | 0 => s.onCtx c k fun t => { t with
      qmap := if (s.core c).allot k == 32 then v.getLsbD 14 else t.qmap
      priv := if w.sysctl then v.getLsbD 15 else t.priv }
  | 1 => if w.sysctl then s.onCtx c k fun t => { t with asid := v.extractLsb' 0 12 } else s
  | 4 => s.onCtx c k fun t => { t with ovf := t.ovf && !v.getLsbD 32 }
  | _ => s

/-- What a write to a CSR number does, the access check apart.  GUARD_MAP and DBG_CTL act from the next cycle on (R200,
R307). -/
def State.writeCsr (s : State) (c : Fin 96) (w : Writer) (num : BitVec 12) (v : Word64) : State :=
  match num.toNat with
  | 0x100 => s.writeCtxpart c v
  | 0x240 => s.onCore c fun k => { k with snapwin := v.extractLsb' 0 16 }
  | 0x242 => s.writeRegctl c w v
  | 0x310 | 0x311 | 0x312 | 0x313 | 0x314 => s.later 1 (.guardMapWrite c w num v)
  | 0x320 => s.onCore c fun k => { k with ttbase := v.extractLsb' 13 35 }
  | 0x321 => s.writeTlbinv w v
  | 0x330 => (execFwCtlWrite w v s).state s
  | 0x331 => s.onCol fun q => { q with base := v.extractLsb' 12 36, logcap := v.extractLsb' 0 4 }
  | 0x333 => (execFwResume w v s).state s
  | 0x340 => s.writeCtxsw c w v
  | 0x341 => (execCtxgo c w v s).state s
  | 0x350 => s.later 1 (.dbgCtlWrite c w v)
  | 0x360 => s.onCore c fun k => { k with drate := v.extractLsb' 8 8, srate := v.extractLsb' 0 8 }
  | 0x361 => s.onCore c fun k => { k with
      eccUe := k.eccUe &&& ~~~(v.extractLsb' 32 32), eccCe := k.eccCe &&& ~~~(v.extractLsb' 0 32) }
  | 0x370 | 0x371 | 0x372 => (execKvtCsrWrite w num v s).state s
  | 0x381 => s.writeEgoBase v
  | 0x390 => (execDmawinLockSet w v s).state s
  | n => if n < 0x100 then s.writeContext c w n v else if 0x400 ≤ n && n < 0x800 then s.writeWindow (n - 0x400) v else s

/-- CSR_WRITE (R196): a write without the privilege its number needs changes nothing here; CSRWR traps. -/
def execCsrWrite (core : Fin 96) (w : Writer) (num : BitVec 12) (v : Word64) (s : State) : Done :=
  .next (if csrPriv num && !w.may then s else s.writeCsr core w num v)

end Sys2Proof.Machine
end

