-- ==== Sys2Proof/Machine/Float.lean ====
section
/-! DEFINITION. The floating class (R149..R152). -/

namespace Sys2Proof.Machine

/-- FADD (R149). -/
def execFadd (f : FA) (s : State) : Done :=
  .next (s.laneOp f.io 4 (modTag f.mod) false (fun as bs cs => floatOp f as bs cs faddOp))

/-- FSUB (R149). -/
def execFsub (f : FA) (s : State) : Done :=
  .next (s.laneOp f.io 4 (modTag f.mod) false (fun as bs cs => floatOp f as bs cs fsubOp))

/-- FMUL (R149). -/
def execFmul (f : FA) (s : State) : Done :=
  .next (s.laneOp f.io 4 (modTag f.mod) false (fun as bs cs => floatOp f as bs cs fmulOp))

/-- FMA (R149). -/
def execFma (f : FA) (s : State) : Done :=
  .next (s.laneOp f.io 4 (modTag f.mod) false (fun as bs cs => floatOp f as bs cs (fmaOp (modV f.mod))))

/-- FMIN (R150). -/
def execFmin (f : FA) (s : State) : Done :=
  .next (s.laneOp f.io 1 (modTag f.mod) false (fun as bs _cs => fpickTok false f as bs))

/-- FMAX (R150). -/
def execFmax (f : FA) (s : State) : Done :=
  .next (s.laneOp f.io 1 (modTag f.mod) false (fun as bs _cs => fpickTok true f as bs))

/-- FABS (R150). -/
def execFabs (f : FA) (s : State) : Done :=
  .next (s.laneOp f.io 1 (modTag f.mod) false (fun as _bs _cs => fsignTok true f as))

/-- FNEG (R150). -/
def execFneg (f : FA) (s : State) : Done :=
  .next (s.laneOp f.io 1 (modTag f.mod) false (fun as _bs _cs => fsignTok false f as))

/-- FCMP (R151). -/
def execFcmp (f : FA) (s : State) : Done :=
  .next (s.laneOp f.io 1 (modTag f.mod) false (fun as bs _cs => fcmpTok f as bs))

/-- FCLASS (R151). -/
def execFclass (f : FA) (s : State) : Done :=
  .next (s.laneOp f.io 1 (modTag f.mod) false (fun as _bs _cs => fclassTok f as))

/-- FSCL (R152). -/
def execFscl (f : FA) (s : State) : Done :=
  .next (s.laneOp f.io 2 (modTag f.mod) false (fun as bs _cs => fsclTok f as bs))

end Sys2Proof.Machine
end

