-- ==== Sys2Proof/Machine/FuncUnit.lean ====
section
/-! DEFINITION. The function unit (R153): P5 only. -/

namespace Sys2Proof.Machine

/-- RCP (R153). -/
def execRcp (f : FA) (s : State) : Done :=
  .next (s.laneOp f.io 8 (modTag f.mod) false (fun as _bs _cs => unitTok f as fun rm x => some (rcpCode rm x)))

/-- RSQ (R153). -/
def execRsq (f : FA) (s : State) : Done :=
  .next (s.laneOp f.io 8 (modTag f.mod) false (fun as _bs _cs => unitTok f as rsqCode))

/-- EXP2 (R153). -/
def execExp2 (f : FA) (s : State) : Done :=
  .next (s.laneOp f.io 10 (modTag f.mod) false (fun as _bs _cs => unitTok f as fun rm x => some (exp2Code rm x)))

/-- LOG2 (R153). -/
def execLog2 (f : FA) (s : State) : Done :=
  .next (s.laneOp f.io 10 (modTag f.mod) false (fun as _bs _cs => unitTok f as log2Code))

/-- TCOS (R153). -/
def execTcos (f : FA) (s : State) : Done :=
  .next (s.laneOp f.io 10 (modTag f.mod) false (fun as _bs _cs => turnTok f as cosCode))

/-- TSIN (R153). -/
def execTsin (f : FA) (s : State) : Done :=
  .next (s.laneOp f.io 10 (modTag f.mod) false (fun as _bs _cs => turnTok f as sinCode))

end Sys2Proof.Machine
end

