-- ==== Sys2Proof/Machine/Reins.lean ====
section
/-! DEFINITION. Reins (R341..R351): their records, windows and updates, and REIN. -/

namespace Sys2Proof.Machine

/-- Changes one rein of a configuration. -/
def State.onRein (s : State) (h : Word64) (i : Nat) (f : Rein → Rein) : State :=
  s.onCfg h fun g => { g with reins := g.reins.modify i f }

/-- A rein of a configuration. -/
def State.rein (s : State) (h : Word64) (i : Nat) : Option Rein := (s.cfg h).bind fun g => g.reins[i]?

/-! ## The record (R343) -/

/-- The 512 bits of a rein record. -/
def Rein.bits (r : Rein) : BitVec 512 :=
  0#96 ++ r.updates ++ r.fullev ++ r.emptyev ++ r.occ ++ BitVec.ofInt 24 r.i ++ 0#6 ++ BitVec.ofNat 9 r.wc ++
    BitVec.ofNat 9 r.wp ++ 0#35 ++ r.csrc ++ 0#3 ++ r.psrc ++ 0#48 ++ r.bufid ++ 0#16 ++ r.bkind ++ r.ilim ++ r.g ++
    BitVec.ofNat 9 r.wceil ++ BitVec.ofNat 9 r.wfloor ++ BitVec.ofNat 9 r.wc0 ++ BitVec.ofNat 9 r.wp0 ++ r.period ++
    r.ki ++ r.kp ++ r.setpt

/-- A rein as the kiln loads it from its record (R343). -/
def Rein.ofBits (b : BitVec 512) : Rein :=
  let n (lo w : Nat) : Nat := (b.extractLsb' lo w).toNat
  { setpt := b.extractLsb' 0 16, kp := b.extractLsb' 16 8, ki := b.extractLsb' 24 8, period := b.extractLsb' 32 16
    wp0 := n 48 9, wc0 := n 57 9, wfloor := n 66 9, wceil := n 75 9, g := b.extractLsb' 84 8, ilim := b.extractLsb' 92 16
    bkind := b.extractLsb' 108 4, bufid := b.extractLsb' 128 16, psrc := b.extractLsb' 192 13, csrc := b.extractLsb' 208 13
    wp := n 48 9, wc := n 57 9, i := 0, occ := 0, emptyev := 0, fullev := 0, updates := 0, counted := 0
    pEff := n 48 9, cEff := n 57 9, pCount := 0, cCount := 0 }

/-- Rules 0x03, 0x04 and 0x06 of R347: the lowest that a record violates. -/
def Rein.badNumbers (r : Rein) : Option Nat :=
  if 128 < r.kp.toNat * r.g.toNat then some 3
  else if r.kp.toNat < 8 * r.ki.toNat then some 4
  else if r.g == 0 || r.wfloor < 1 || min r.wp0 r.wc0 < r.wfloor || r.wceil < max r.wp0 r.wc0 || 256 < r.wceil then some 6
  else none

/-! ## Windows and updates (R344, R345, R351) -/

/-- The entry block of a source. -/
def sourceEntry (src : BitVec 13) : Nat := (src.extractLsb' 7 6).toNat

/-- The slot of a source. -/
def sourceSlot (src : BitVec 13) : Fin 128 := Fin.ofNat 128 (src.extractLsb' 0 7).toNat

/-- The site of a source, when its region is placed. -/
def Cfg.sourceSite (g : Cfg) (src : BitVec 13) : Option Site :=
  (g.places[sourceEntry src]?).bind fun p => if p.st == .placed then some ⟨p.core, p.region, sourceSlot src⟩ else none

/-- A source's cycle counts: its region is MAPPED and its core is not halted (R344). -/
def State.sourceRuns (s : State) (g : Cfg) (src : BitVec 13) : Bool :=
  match g.sourceSite src with
  | some x => (s.region x.core x.unit).st == .mapped && !(s.core x.core).hfab
  | none => false

/-- The slot holds an instruction that R341 allows as a source (R351). -/
def State.sourceOk (s : State) (g : Cfg) (src : BitVec 13) : Bool :=
  match g.sourceSite src with
  | some x => isSource (s.slot x).word
  | none => false

/-- The update period (R343). -/
def Rein.cycles (r : Rein) : Nat := max r.period.toNat 16

/-- One cycle of a rein: what counts is counted; true when a window or an update is due. -/
def State.reinCycle (s : State) (g : Cfg) (r : Rein) : Rein × Bool × Bool :=
  let p := s.sourceRuns g r.psrc
  let c := s.sourceRuns g r.csrc
  let runs := p && c && s.sourceOk g r.psrc && s.sourceOk g r.csrc
  let r' := { r with
    pCount := r.pCount + (if p then 1 else 0), cCount := r.cCount + (if c then 1 else 0)
    counted := r.counted + (if runs then 1 else 0) }
  (r', 256 ≤ r'.pCount || 256 ≤ r'.cCount, r.cycles ≤ r'.counted)

/-- A window of a source starts: its firings are counted anew (R344). -/
def State.newWindow (s : State) (g : Cfg) (src : BitVec 13) : State :=
  match g.sourceSite src with
  | some x => s.onSlot x fun u => { u with winUsed := 0 }
  | none => s

/-- REIN_WINDOW_START (R344): the sources whose 256 cycles have passed run on at their present weights. -/
def execReinWindowStart (handle : Word64) (rein : Nat) (s : State) : Done :=
  match s.cfg handle, s.rein handle rein with
  | some g, some r =>
    let p := 256 ≤ r.pCount
    let c := 256 ≤ r.cCount
    let s := s.onRein handle rein fun r => { r with
      pEff := if p then r.wp else r.pEff, cEff := if c then r.wc else r.cEff
      pCount := if p then r.pCount - 256 else r.pCount, cCount := if c then r.cCount - 256 else r.cCount }
    let s := if p then s.newWindow g r.psrc else s
    .next (if c then s.newWindow g r.csrc else s)
  | _, _ => .next s

/-- The occupancy of a rein's buffer, and whether it is full (R342). -/
def State.occupancy (s : State) (g : Cfg) (r : Rein) : Nat × Bool :=
  match r.bkind.toNat with
  | 0 => match g.chans[r.bufid.toNat]? with
    | some c =>
      let n := (c.buf.filter fun t => !t.eos).length
      (n, n == c.depth)
    | none => (0, false)
  | 1 =>
    let q := (s.core (Fin.ofNat 96 r.bufid.toNat)).matrix.queue
    ((q.filter fun e => e.req.handle == g.handle).length, q.length == 64)
  | _ => (s.egress.countHeld fun t => t.handle == g.handle, s.egress.used == egressCap)

/-- The update of R345. -/
def Rein.update (r : Rein) (occ : Nat) (full : Bool) : Rein :=
  let e : Int := (occ : Int) - r.setpt.toNat
  let i : Int := if occ == 0 || full then r.i else sat (r.i + e) (-(r.ilim.toNat : Int)) r.ilim.toNat
  let u : Int := (r.kp.toNat * e + r.ki.toNat * i) / 256
  { r with
    i := i, emptyev := if occ == 0 then satInc32 r.emptyev else r.emptyev
    fullev := if occ != 0 && full then satInc32 r.fullev else r.fullev
    wp := (sat (r.wp0 - u) r.wfloor r.wceil).toNat, wc := (sat (r.wc0 + u) r.wfloor r.wceil).toNat
    occ := BitVec.ofNat 16 occ, updates := r.updates + 1 }

/-- REIN_UPDATE (R345): when PERIOD counted cycles have passed. -/
def execReinUpdate (handle : Word64) (rein : Nat) (s : State) : Done :=
  match s.cfg handle, s.rein handle rein with
  | some g, some r =>
    if r.counted < r.cycles then .next s
    else
      let o := s.occupancy g r
      .next (s.onRein handle rein fun r => { r.update o.1 o.2 with counted := r.counted - r.cycles })
  | _, _ => .next s

/-! ## REIN (R349) -/

/-- The status token of REIN. -/
def reinTok (st n : Nat) : Token := natToken [st, n]

/-- The record as a RAW32 token. -/
def reinRecord (r : Rein) : Token := dataToken (Vector.ofFn fun i : Fin 16 => r.bits.extractLsb' (32 * i.val) 32) 0

/-- The rein a write would give; none when a value exceeds its field or the operation is READ or bad. -/
def reinWrite (r : Rein) (t : Token) : Option Rein :=
  let a := (t.lane 1).toNat
  let b := (t.lane 2).toNat
  match (t.lane 0).toNat with
  | 1 => if a < 2 ^ 16 then some { r with setpt := BitVec.ofNat 16 a } else none
  | 2 => if a < 2 ^ 8 && b < 2 ^ 8 then some { r with kp := BitVec.ofNat 8 a, ki := BitVec.ofNat 8 b } else none
  | 3 => if a < 2 ^ 9 && b < 2 ^ 9 then some { r with wp0 := a, wc0 := b } else none
  | 4 => if a < 2 ^ 9 && b < 2 ^ 9 then some { r with wfloor := a, wceil := b } else none
  | _ => none

/-- A command to a rein: its record after, and the result (R349). -/
def reinCommand (r : Rein) (n : Nat) (t : Token) : Rein × Token :=
  match (t.lane 0).toNat with
  | 0 => (r, reinRecord r)
  | 5 => ({ r with i := 0, emptyev := 0, fullev := 0, updates := 0 }, reinTok 0 n)
  | k =>
    if 5 < k then (r, reinTok 2 n)
    else match reinWrite r t with
    | some r' => if r'.badNumbers.isSome then (r, reinTok 1 n) else (r', reinTok 0 n)
    | none => (r, reinTok 1 n)

/-- REIN (R349): its result leaves no sooner than 8 cycles after the firing. -/
def execRein (f : FO) (s : State) : Done :=
  let x := s.clk.focus
  let n := (f.params.extractLsb' 0 5).toNat
  let h := (s.region x.core x.unit).handle
  let due := s.clk.now + 8 + Config.freeDelay s.clk.fresh
  let sh : Shot := { pa := 1, run := .idle }
  let fire (res : Token) (c : Option Cause) (after : State → State) : State :=
    let sh := { sh with rob := some (⟨s.newId, some [.both res], [], due⟩ : Rob), cause := c }
    if s.canShoot x f.io 1 1 sh then after (s.shoot x f.io 0 sh).tickId.tickFresh else s
  match s.kind x f.io with
  | .fire =>
    let t := oldest (s.ents x f.io .a)
    match noAccess 7 (operand false t), s.rein h n with
    | some r, _ => .next (fire (ofPortA t r).1 (ofPortA t r).2 id)
    | none, some r =>
      let q := reinCommand r n t
      .next (fire q.2 none fun s => s.onRein h n fun _ => q.1)
    | none, none => .next s
  | .fin => .next (s.endWhenDone x f.io)
  | _ => .next s

end Sys2Proof.Machine
end

