-- ==== Sys2Proof/Machine/Scalar.lean ====
section
/-! DEFINITION. The scalar and register instructions of control blocks (R192..R195). -/

namespace Sys2Proof.Machine

/-! ## Operands (R192) -/

/-- IMM10 as a signed number. -/
def FC.simm (f : FC) : Word64 := f.imm.signExtend 64

/-- Operand b, or IMM10 when port B is unused. -/
def FC.opB (f : FC) (r : KIn) : Word64 := if f.b.used then r.b.val else FC.simm f

/-- An operation on a and b. -/
def State.kalu (s : State) (f : FC) (lat : Nat) (op : Word64 → Word64 → Word64) : Done :=
  .next (s.kop f.io lat fun r => op r.a.val (FC.opB f r))

/-- KADD (R192). -/
def execKadd (f : FC) (s : State) : Done := s.kalu f 1 fun a b => a + b
/-- KSUB. -/
def execKsub (f : FC) (s : State) : Done := s.kalu f 1 fun a b => a - b
/-- KAND. -/
def execKand (f : FC) (s : State) : Done := s.kalu f 1 fun a b => a &&& b
/-- KOR. -/
def execKor (f : FC) (s : State) : Done := s.kalu f 1 fun a b => a ||| b
/-- KXOR. -/
def execKxor (f : FC) (s : State) : Done := s.kalu f 1 fun a b => a ^^^ b

/-- The product that KMUL's MOD asks for. -/
def mulWord (m : BitVec 2) (a b : Word64) : Word64 :=
  match m.toNat with
  | 0 => a * b
  | 1 => ((a.signExtend 128 * b.signExtend 128) >>> 64).setWidth 64
  | _ => ((a.setWidth 128 * b.setWidth 128) >>> 64).setWidth 64

/-- KMUL: L is 3. -/
def execKmul (f : FC) (s : State) : Done := s.kalu f 3 fun a b => mulWord (f.mod.extractLsb' 0 2) a b

/-- KSHL: a count of 64 or more gives 0. -/
def execKshl (f : FC) (s : State) : Done := s.kalu f 1 fun a b => a <<< b.toNat

/-- KSHR: logical, or arithmetic with MOD bit 1. -/
def execKshr (f : FC) (s : State) : Done :=
  s.kalu f 1 fun a b => if f.mod.getLsbD 1 then a.sshiftRight b.toNat else a >>> b.toNat

/-- KCMP's condition. -/
def cmpWord (m : BitVec 8) (a b : Word64) : Bool :=
  let lt := if m.getLsbD 3 then a.ult b else a.slt b
  match (m.extractLsb' 0 3).toNat with
  | 0 => a == b
  | 1 => a != b
  | 2 => lt
  | 3 => lt || a == b
  | 4 => !(lt || a == b)
  | _ => !lt

/-- KCMP. -/
def execKcmp (f : FC) (s : State) : Done := s.kalu f 1 fun a b => if cmpWord f.mod a b then 1 else 0

/-- KSEL: a when c is not zero, else b. -/
def execKsel (f : FC) (s : State) : Done := .next (s.kop f.io 1 fun r => if r.c.val != 0 then r.a.val else r.b.val)

/-- KMOVI: a source (R70). -/
def execKmovi (f : FK) (s : State) : Done :=
  .next (s.kop ⟨f.t0, f.t1, noPort, noPort, noPort⟩ 1 fun _ => constWord (f.mod.extractLsb' 0 2) f.imm)

/-! ## KLD and KST (R192, R193) -/

/-- A place for the result of the access that is issued next. -/
def State.kpend (s : State) (x : Site) : State :=
  let e : KRob := ⟨s.newId, none, s.clk.now + 1⟩
  s.onBlk x fun b => b.onSlot x.slot fun u => { u with rob := u.rob ++ [e] }

/-- One access of 8 bytes; a misaligned address traps. -/
def State.kmem (s : State) (x : Site) (va : Word64) (kind : AKind) (data : List Byte) (wr : Bool) : State :=
  if va.toNat % 8 != 0 then s.ktrap x trapAlign else (s.kpend x).kaccess x kind va data wr [⟨va, 8, none⟩]

/-- KLD. -/
def execKld (f : FC) (s : State) : Done :=
  .next (s.kfire f.io 1 true fun s r => s.kmem s.clk.focus (r.a.val + 8 * FC.simm f) .kload [] false)

/-- KST: it delivers a completion token of value 0. -/
def execKst (f : FC) (s : State) : Done :=
  .next (s.kfire f.io 1 true fun s r =>
    s.kmem s.clk.focus (r.a.val + 8 * FC.simm f) (.kstore r.b.val) (natBytes 8 r.b.val.toNat) true)

/-! ## Registers (R194) -/

/-- RA. -/
def FC.ra (f : FC) : Nat := (f.imm.extractLsb' 5 5).toNat

/-- KRD: the register as it stood at block start; a queue-mapped one waits for an entry. -/
def execKrd (f : FC) (s : State) : Done :=
  .next (s.kfire f.io 1 true fun s _ =>
    let x := s.clk.focus
    match s.kread x (FC.ra f) with
    | .trap e => s.ktrap x e
    | .parity => s.kparity x
    | .wait => s.kwaits x (.reg (FC.ra f))
    | .val s v => s.kplace x 1 (some v))

/-- KWR: the register takes a at commit. -/
def execKwr (f : FC) (s : State) : Done :=
  .next (s.kfire f.io 1 false fun s r =>
    let x := s.clk.focus
    match s.kwriteTrap x (FC.ra f) with
    | some e => s.ktrap x e
    | none => s.kwrite x 0 (FC.ra f) r.a)

/-- KSTM. -/
def execKstm (f : FC) (s : State) : Done := .next (s.range f)
/-- KLDM. -/
def execKldm (f : FC) (s : State) : Done := .next (s.range f)
/-- QSEND. -/
def execQsend (f : FC) (s : State) : Done := .next (s.range f)
/-- QRECV. -/
def execQrecv (f : FC) (s : State) : Done := .next (s.range f)

/-- REP (R195): count and stride for the next firing of the instruction in the next slot; a void count makes that firing
void. -/
def execRep (f : FC) (s : State) : Done :=
  let x := s.clk.focus
  if !s.kcan x f.io then .next s
  else match s.kblk x with
  | none => .next s
  | some b =>
    if b.spoilt f.io x.slot then .next (s.kparity x)
    else
    let r := b.reads s.clk.now f.io x.slot
    let n : Option Nat := if !f.a.used then some (f.imm.extractLsb' 4 6).toNat else if r.a.void then none else some r.a.val.toNat
    .next (s.onBlk x fun b =>
      let b := b.takes s.clk.now f.io x.slot
      { b with counts := b.counts ++ [⟨x.slot + 1, n, (f.imm.extractLsb' 0 4).toInt⟩] })

end Sys2Proof.Machine
end

