-- ==== Sys2Proof/Machine/System.lean ====
section
/-! DEFINITION. The system instructions of control blocks (R190, R191, R196, R197, R359), LAUNCH apart: branches, CSRs, traps
and the return from one, waits, the rewriting of slots, HALT and EGARM. -/

namespace Sys2Proof.Machine

/-! ## Branches (R190, R196) -/

/-- A branch is taken: its target becomes the successor, once in a block. -/
def State.kbranch (s : State) (x : Site) (target : Word64) (f : KBlock → KBlock) : State :=
  match s.kblk x with
  | none => s
  | some b =>
    if target.toNat % 64 != 0 then s.ktrap x trapAlign
    else if b.branch.isSome then s.ktrap x trapBranch2
    else s.onBlk x fun b => f { b with branch := some target }

/-- The address an offset in 64-byte units from a header names; an offset of zero names none. -/
def blockAt (addr : BitVec 54) (off : Int) : Word64 := if off == 0 then 0 else BitVec.ofInt 64 ((addr.toNat : Int) + 64 * off)

/-- The target of BRA and BCALL. -/
def FC.target (f : FC) (b : KBlock) (r : KIn) : Word64 := if f.a.used then r.a.val else blockAt b.addr f.imm.toInt

/-- BRA. -/
def execBra (f : FC) (s : State) : Done :=
  .next (s.kfire f.io 1 false fun s r =>
    let x := s.clk.focus
    match s.kblk x with
    | some b => s.kbranch x (FC.target f b r) id
    | none => s)

/-- BCALL: it pushes the block that SUCC0 names, or zero. -/
def execBcall (f : FC) (s : State) : Done :=
  .next (s.kfire f.io 1 false fun s r =>
    let x := s.clk.focus
    match s.kblk x with
    | some b =>
      if 8 ≤ (s.ctx x.core (ctxOf x)).stack.length then s.ktrap x trapStack
      else s.kbranch x (FC.target f b r) fun b => { b with push := some ((blockAt b.addr (hdrSucc b.hdr 0)).setWidth 54) }
    | none => s)

/-- BRET: the popped entry is the successor. -/
def execBret (f : FC) (s : State) : Done :=
  .next (s.kfire f.io 1 false fun s _ =>
    let x := s.clk.focus
    match (s.ctx x.core (ctxOf x)).stack.getLast? with
    | some a => s.kbranch x ((a ++ 0#6 : BitVec 54).setWidth 64) fun b => { b with pop := true }
    | none => s.ktrap x trapStack)

/-! ## CSRs (R196) -/

/-- The CSR number in IMM10. -/
def FC.csr (f : FC) : BitVec 12 := f.imm.setWidth 12

/-- CSRRD. -/
def execCsrrd (f : FC) (s : State) : Done :=
  .next (s.kfire f.io 1 true fun s _ =>
    let x := s.clk.focus
    match s.csrRead x.core (ctxOf x) (FC.csr f) with
    | some v => s.kplace x 1 (some ⟨v, false⟩)
    | none => s.ktrap x trapBadCsr)

/-- The writer that a context is. -/
def State.writer (s : State) (x : Site) : Writer := ⟨x.core, ctxOf x, (s.ctx x.core (ctxOf x)).priv, false⟩

/-- A write of CTXSW that asks another running context to stop: its result waits for the stop (R302). -/
def State.awaitsStop (s : State) (x : Site) (num : BitVec 12) (v : Word64) : Option (Fin 4) :=
  let k := Fin.ofNat 4 (v.extractLsb' 60 2).toNat
  if num == 0x340 && v.extractLsb' 62 2 == 3 && k != ctxOf x && (s.ctx x.core k).st == .run then some k else none

/-- CSRWR: it writes at its firing and delivers the old value. -/
def execCsrwr (f : FC) (s : State) : Done :=
  .next (s.kfire f.io 1 true fun s r =>
    let x := s.clk.focus
    let w := s.writer x
    match s.csrRead x.core (ctxOf x) (FC.csr f) with
    | none => s.ktrap x trapBadCsr
    | some old =>
      if csrPriv (FC.csr f) && !w.priv then s.ktrap x trapPriv
      else
        let t := s.writeCsr x.core w (FC.csr f) r.a.val
        match s.awaitsStop x (FC.csr f) r.a.val with
        | some k => t.kwaits x (.stop k old)
        | none => t.kplace x 1 (some ⟨old, false⟩))

/-! ## Traps and waits (R191, R196) -/

/-- TRAP: the cause in IMM10; TRAPVAL takes a, and is free without it. -/
def execTrap (f : FC) (s : State) : Done :=
  .next (s.kfire f.io 1 false fun s r =>
    let x := s.clk.focus
    let cause := f.imm.extractLsb' 0 8
    if f.a.used then s.ktrapVal x cause r.a.val else s.ktrap x cause)

/-- ERET's action: a TRAPPED context of the core resumes; an address beyond 54 bits is refused as its fetch would be. -/
def State.eret (s : State) (c : Fin 96) (k : Fin 4) (b : Option Word64) : State :=
  match b with
  | none => s.resumeTrapped c k none
  | some a =>
    let t := s.resumeTrapped c k (some (a.setWidth 54))
    if a.extractLsb' 54 10 != 0 then t.ktrapVal (ksite c k 0) trapAccess a else t

/-- ERET: privileged; 0 when it resumes a context, 1 when the context named is not TRAPPED. -/
def execEret (f : FC) (s : State) : Done :=
  .next (s.kfire f.io 1 true fun s r =>
    let x := s.clk.focus
    let k := Fin.ofNat 4 r.a.val.toNat
    let named := r.a.val.toNat < 4 && (s.ctx x.core k).st == .trapped
    if !(s.ctx x.core (ctxOf x)).priv then s.ktrap x trapPriv
    else if f.b.used && r.b.val.toNat % 64 != 0 then s.ktrap x trapAlign
    else if !named then s.kplace x 1 (some ⟨1, false⟩)
    else (s.eret x.core k (if f.b.used then some r.b.val else none)).kplace x 1 (some ⟨0, false⟩))

/-- WFE: 1 when the event queue holds a record, 0 after a cycles; a limit of 0 polls. -/
def execWfe (f : FC) (s : State) : Done :=
  .next (s.kfire f.io 1 true fun s r =>
    let x := s.clk.focus
    let t := s.ctx x.core (ctxOf x)
    if !t.evq.isEmpty then s.kplace x 1 (some ⟨1, false⟩)
    else if r.a.val == 0 then s.kplace x 1 (some ⟨0, false⟩)
    else
      let d := r.a.val.toNat
      (s.kwaits x (.event (s.clk.now + d))).later d (.wfeTimeout x.core (ctxOf x) x.slot t.gen))

/-- EVPOP: it waits for a record, and delivers its word w; with P it pops the record. -/
def execEvpop (f : FC) (s : State) : Done :=
  .next (s.kfire f.io 1 true fun s _ =>
    s.kwaits s.clk.focus (.record (f.imm.extractLsb' 0 2).toNat (f.imm.getLsbD 2)))

/-! ## PRCW (R197) -/

/-- PRCW: the words are read from b on, and then written. -/
def execPrcw (f : FC) (s : State) : Done :=
  .next (s.kfire f.io 1 true fun s r =>
    let x := s.clk.focus
    let d := prcwFields r.a.val
    let done (st : Nat) : State := s.kplace x 1 (some ⟨BitVec.ofNat 64 st, false⟩)
    if r.b.val.toNat % 8 != 0 then s.ktrap x trapAlign
    else match s.prcwRefusal x.core (ctxOf x) d.1 with
    | some st => done st
    | none =>
      if 127 < d.2.2 + d.2.1 - 1 then done 4
      else (s.kpend x).kaccess x (.kwords r.a.val) r.b.val [] false (piecesFrom r.b.val none 8 d.2.1))

/-- A PRCW.S behind a PRCW to its region takes its turn after it. -/
def State.kexitLater (s : State) (x : Site) (d : Word64) (v : BitVec 2) : State :=
  let t := s.ctx x.core (ctxOf x)
  let a : Access :=
    { id := s.newId, agent := .ctx x.core (ctxOf x) x.slot t.gen, kind := .kexit d v, asid := t.asid, wr := false, virt := false
      column := false, addr := 0, pieces := [], data := [], bads := [], poison := false, stage := .late [], held := false }
  ({ s with accs := s.accs ++ [a] }.later 1 (.lateResultArrival a.id)).tickId

/-- PRCW.S: it sets the region's exit value, after the earlier PRCWs to that region (R197). -/
def execPrcwS (f : FC) (s : State) : Done :=
  .next (s.kfire f.io 1 true fun s r =>
    let x := s.clk.focus
    let v := r.b.val.extractLsb' 0 2
    let region := (prcwFields r.a.val).1
    if s.accs.any fun b => prcwRegion b.kind == some region && b.agent.core == x.core then
      (s.kpend x).kexitLater x r.a.val v
    else
      let q := s.prcwExit x.core (ctxOf x) region v
      q.1.kplace x 1 (some ⟨BitVec.ofNat 64 q.2, false⟩))

/-- HALT: the context stops at commit. -/
def execHalt (f : FC) (s : State) : Done :=
  .next (s.kfire f.io 1 false fun s _ => s.onBlk s.clk.focus fun b => { b with halt := true })

/-! ## EGARM (R359) -/

/-- The 512 bytes of an arm record; those of a poisoned unit are free (R243). -/
def State.armBytes (s : State) (a : Nat) : List Byte :=
  (List.range 64).flatMap fun i => natBytes 8 (s.plainWord (a + 8 * i) i).toNat

/-- The digests of an arm record; `none` when it is malformed. -/
def armDigests (bs : List Byte) : Option (List (BitVec 384)) :=
  let n := (bs.headD 0).toNat
  let rest := bs.drop (64 + 48 * n)
  if n < 1 || 8 < n || ((bs.drop 1).take 63).any (· != 0) || rest.any (· != 0) then none
  else some ((List.range n).map fun i => BitVec.ofNat 384 (bytesNat ((bs.drop (64 + 48 * i)).take 48)))

/-- EGARM: 0 DONE, 1 ARMED, 2 BADREC; a record at an address that is not served is BADREC. -/
def execEgarm (f : FC) (s : State) : Done :=
  .next (s.kfire f.io 1 true fun s r =>
    let x := s.clk.focus
    let a := r.a.val.toNat
    let done (s : State) (v : Nat) : State := s.kplace x 1 (some ⟨BitVec.ofNat 64 v, false⟩)
    let served := (List.range 8).all fun i => match s.phys (a + 64 * i) with
      | .unserved => false
      | _ => true
    if !(s.ctx x.core (ctxOf x)).priv then s.ktrap x trapPriv
    else if s.egress.armed.isSome then done s 1
    else if a % 64 != 0 || !served then done s 2
    else
      let bs := s.armBytes a
      let rec_ := placedRec 0 0 0x40 0 x.core 0 0 (ctxOf x).val x.slot.val 3
      let s := ((List.range 8).foldl (fun s i => s.meetUnit rec_ (a + 64 * i)) s).tickBy 64
      match armDigests bs with
      | some ds => done (s.onEgress fun g => { g with armed := some ds }) 0
      | none => done s 2)

end Sys2Proof.Machine
end

