-- ==== Sys2Proof/Machine/Kiln.lean ====
section
/-! DEFINITION. The kiln (R38, R75, R201, R238, R347, R348, R369..R380): the checks of an image at launch, handles, queues,
placement, reservation of channel buffers, pre-emption for a launch, mapping, and resumption. -/

namespace Sys2Proof.Machine

/-! ## The header of an image (R369) -/

/-- NREIN. -/
def Cfg.nrein (g : Cfg) : Nat := g.field 1 1
/-- NCHAN. -/
def Cfg.nchan (g : Cfg) : Nat := g.field 2 2
/-- NROT. -/
def Cfg.nrot (g : Cfg) : Nat := g.field 4 1
/-- S, A and E of the image's POOLPART value (R236). -/
def Cfg.pool (g : Cfg) : Nat × Nat × Nat := (g.field 16 1, g.field 17 1, g.field 18 1)
/-- The eviction area's size in KiB; 0 declares none. -/
def Cfg.evictKiB (g : Cfg) : Nat := g.field 28 4
/-- NDATA. -/
def Cfg.ndata (g : Cfg) : Nat := g.field 656 2

/-- A table of n records of `size` bytes at the offset in a field: aligned, and within LEN. -/
def Cfg.tableOk (g : Cfg) (at_ n size : Nat) : Bool := g.field at_ 8 % 64 == 0 && g.field at_ 8 + n * size ≤ g.bytes.length

/-- The header keeps the rules of its table (R369); an NREIN above 32 is not among them, and a misaligned entry block is its
own header's failure (R75). -/
def Cfg.headerOk (g : Cfg) : Bool :=
  664 ≤ g.bytes.length && g.field 96 8 == g.bytes.length && g.image.toNat % 4096 == 0 &&
    g.field 7 1 == 1 && g.field 5 2 == 0 && g.nent ≤ 64 && g.nrot ≤ 64 && g.nchan ≤ 4095 &&
    ((g.word 8).extractLsb' 54 9) == 0 && g.completionWord.toNat % 8 == 0 && g.field 19 5 == 0 && g.field 24 4 % 128 == 0 &&
    g.field 104 8 < 512 && g.field 104 8 / 4 ≤ 95 &&
    g.tableOk 112 g.nchan 16 && g.tableOk 120 (if 32 < g.nrein then 0 else g.nrein) 64 && g.tableOk 128 g.nrot 32 &&
    g.tableOk 648 g.ndata 16 && g.field 658 6 == 0 &&
    (List.range 64).all fun i => i < g.nent || g.entryOff i == 0

/-- The channel records of an image. -/
def Cfg.chanRecs (g : Cfg) : List Chan :=
  (List.range g.nchan).map fun i => ⟨BitVec.ofNat 128 (g.field (g.field 112 8 + 16 * i) 16), [], [], false, 0, 0, 0⟩

/-- A channel record holds no reserved value (R370). -/
def Cfg.chanOk (g : Cfg) (c : Chan) : Bool :=
  c.fld 64 64 == 0 && c.fld 0 23 == 0 && c.fld 54 2 != 3 && c.skind != 3 && c.dkind ≤ 1 &&
    (c.skind != 0 || c.sent < g.nent) && (c.dkind != 0 || (c.dent < g.nent && c.fld 41 2 != 3))

/-- The reserved bits of a rotation record are zero (R371). -/
def rotRecOk (r : BitVec 256) : Bool := r.extractLsb' 48 34 == 0 && r.extractLsb' 0 6 == 0

/-- A failed check: REASON, the block's offset from the image start, WORD, entry block, and the number of failures in that
header.  A failure that is no block header's carries the image's own address, and WORD has no value: no word is named for it.
Nor has it one for a block header outside the image (R79; log 106, DESIGN CHOICE). -/
structure ImageFail where
  reason : Reason
  off : Int
  word : Option Word64
  entry : Nat
  nbad : Nat

/-! ## The checks of an image (R75) -/

/-- The header of a block, bits [127:64]; no value when it does not lie in the image. -/
def Cfg.failWord (g : Cfg) (off : Int) : Option Word64 := if g.inside off then some (g.word (off.toNat + 8)) else none

/-- The checks a block fails at launch, one REASON each (R58..R60, R75, R371). -/
def Cfg.blockReasons (g : Cfg) (b : Reached) : List Reason :=
  let skew : List Reason := if b.isEntry && b.off % 64 != 0 then [0x12] else []
  if !g.inside b.off then 0x12 :: skew
  else
    let h := g.hdrAt b.off.toNat
    let h0 := g.hdrAt (g.entryOff 0)
    let named := (g.rotations.filter fun r => rotNames r == b.off.toNat).length
    headerReasons h ++ (if hdrMode h == hdrMode h0 then [] else [0x11]) ++ (if hdrPrio h == hdrPrio h0 then [] else [0x11]) ++
      (if b.isEntry && hdrKind h == 2 then [0x10] else []) ++
      (if (g.bytes.length : Int) < b.off + 16 + 8 * (hdrCount h + 1 + hdrNbw h) then [0x12] else []) ++
      (if b.after && hdrKind h != 1 then [0x13] else []) ++
      (if hdrKind h == 1 && hdrRot h && named != 1 then [0x12] else []) ++ skew

/-- The region shapes of an image, in entry-block order. -/
def Cfg.shapesOf (g : Cfg) : List (Nat × Nat) :=
  (List.range g.nent).map fun i => let h := g.hdrAt (g.entryOff i); (hdrW h, hdrH h)

/-- The eviction area is large enough and lies in the ember store (R369, R118). -/
def Cfg.evictOk (g : Cfg) : Bool :=
  let elems : Nat := ((g.shapesOf.map fun p => p.1 * p.2)).sum
  let rots := (g.reach.filter fun b => hdrRot (g.hdrAt b.off.toNat)).length
  g.evictKiB == 0 || (16 * min elems 32 + 40 * min rots 8 ≤ g.evictKiB &&
    g.field 24 4 + 1024 * g.evictKiB ≤ 65536 * g.pool.2.2)

/-- Two data records write one byte. -/
def DataRec.overlaps (a b : DataRec) : Bool := a.ent == b.ent && a.k == b.k && a.toff < b.toff + b.n && b.toff < a.toff + a.n

/-- The data records keep their rules (R402), their tiles apart: a tile has at most one scratch level for each 32 granules
begun, and `State.placeFails` holds each range against its own tile. -/
def Cfg.dataOk (g : Cfg) : Bool :=
  let recs := g.dataRecs
  let room := 65536 * ((g.pool.1 + 31) / 32)
  (recs.all fun d =>
    let p := g.shapesOf.getD d.ent (0, 0)
    !d.reserved && 1 ≤ d.n && d.n ≤ 196608 && d.src + d.n ≤ g.bytes.length && d.k % 4 < p.1 && d.k / 4 < p.2 && d.toff + d.n ≤ room) &&
    (List.range recs.length).all fun i => (recs.drop (i + 1)).all fun b => !((recs[i]?).any fun a => a.overlaps b)

/-- Every failure of an image at launch, reins and placement apart. -/
def Cfg.imageFails (g : Cfg) : List ImageFail :=
  let one (r : Reason) : List ImageFail := [⟨r, 0, none, 0, 1⟩]
  if !g.headerOk then one 0x12
  else if g.pool.1 + g.pool.2.1 + g.pool.2.2 != 96 then one 0x16
  else
    let tables := (g.chanRecs.all fun c => g.chanOk c) && g.rotations.all rotRecOk
    let blocks := g.reach.filterMap fun b => match g.blockReasons b with
      | [] => none
      | r :: rest => some (⟨r, b.off, g.failWord b.off, b.entry, rest.length + 1⟩ : ImageFail)
    let fails := (if tables then [] else one 0x12) ++ blocks
    if !fails.isEmpty then fails
    else if !g.evictOk || !g.dataOk then one 0x12 else []

/-! ## Reins at launch (R341, R347, R348) -/

/-- The rein records of an image. -/
def Cfg.reinRecs (g : Cfg) : List Rein :=
  (List.range g.nrein).map fun i => Rein.ofBits (BitVec.ofNat 512 (g.field (g.field 120 8 + 64 * i) 64))

/-- The word of a source's slot in its entry block is one a rein may govern (R341). -/
def Cfg.sourceOkAt (g : Cfg) (src : BitVec 13) : Bool :=
  let e := sourceEntry src
  let h := g.hdrAt (g.entryOff e)
  e < g.nent && (sourceSlot src).val ≤ hdrCount h && isSource (g.word (g.entryOff e + 16 + 8 * (sourceSlot src).val))

/-- Rule 0x01. -/
def Cfg.reinAlien (g : Cfg) (r : Rein) : Bool :=
  let buffer := match r.bkind.toNat with
    | 0 => decide (r.bufid.toNat < g.nchan)
    | 1 => decide (r.bufid.toNat < 96)
    | 2 => r.bufid == 0
    | _ => false
  !buffer || !g.sourceOkAt r.psrc || !g.sourceOkAt r.csrc || sourceEntry r.psrc == sourceEntry r.csrc

/-- The regions joined with one of a list by reins. -/
def joined (rs : List Rein) : Nat → List Nat → List Nat
  | 0, seen => seen
  | n + 1, seen =>
    joined rs n (seen ++ (rs.flatMap fun r =>
      (if seen.contains (sourceEntry r.psrc) then [sourceEntry r.csrc] else []) ++
        (if seen.contains (sourceEntry r.csrc) then [sourceEntry r.psrc] else [])).eraseDups.filter fun e => !seen.contains e)

/-- A rein touches a region. -/
def Rein.touches (r : Rein) (e : Nat) : Bool := sourceEntry r.psrc == e || sourceEntry r.csrc == e

/-- The lowest rule a rein violates, the reins of lower number given (R347). -/
def Cfg.reinRule (g : Cfg) (before : List Rein) (r : Rein) : Option Nat :=
  let third (e : Nat) : Bool := 2 ≤ (before.filter fun q => q.touches e).length
  if g.reinAlien r then some 1
  else if (joined before before.length [sourceEntry r.psrc]).contains (sourceEntry r.csrc) then some 2
  else match r.badNumbers with
    | some n => if n == 6 && (third (sourceEntry r.psrc) || third (sourceEntry r.csrc)) then some 5 else some n
    | none => if third (sourceEntry r.psrc) || third (sourceEntry r.csrc) then some 5 else none

/-- The failing reins: the first with its rule, and their number (R348). -/
def Cfg.reinFails (g : Cfg) : Option (Nat × Nat × Nat) :=
  if 32 < g.nrein then some (0, 7, g.nrein - 32)
  else
    let rs := g.reinRecs
    let bad := (List.range rs.length).filterMap fun i => (rs[i]?).bind fun r => (g.reinRule (rs.take i) r).map fun n => (i, n)
    match bad with
    | [] => none
    | (i, n) :: rest => some (i, n, rest.length + 1)

/-- The stability report (R348). -/
def stabilityRecord (handle : Word64) (f : Nat × Nat × Nat) : Record :=
  handle ++ BitVec.ofNat 5 f.1 ++ 0#3 ++ BitVec.ofNat 8 f.2.1 ++ BitVec.ofNat 8 (min 255 f.2.2) ++ 0#40 ++ 0x60#8 ++ 0#120

/-! ## Where regions can lie (R201, R238, R379) -/

/-- A place for an entry block's region. -/
structure Spot where
  core : Fin 96
  ex : Nat
  ey : Nat
  w : Nat
  h : Nat
  deriving DecidableEq, Repr

/-- A spot covers an element. -/
def Spot.covers (p : Spot) (c : Fin 96) (x y : Nat) : Bool :=
  p.core == c && p.ex ≤ x && x < p.ex + p.w && p.ey ≤ y && y < p.ey + p.h

/-- What a search takes for granted: the elements in use, the regions in use on a core, and the cores that may be used. -/
structure World where
  busy : Fin 96 → Nat → Nat → Bool
  used : Fin 96 → Nat
  open_ : Fin 96 → Bool

/-- The spots of entry blocks that are claimed and not yet mapped. -/
def State.claims (s : State) : List Spot :=
  s.kiln.cfgs.flatMap fun g => g.places.zipIdx.filterMap fun p =>
    if p.1.st == .claimed then
      let sh := g.shapes.getD p.2 (1, 1)
      some ⟨p.1.core, p.1.ex0, p.1.ey0, sh.1, sh.2⟩
    else none

/-- An element holds the state of a pre-empted entry block of another configuration. -/
def State.taggedBy (s : State) (h : Word64) (c : Fin 96) (e : Fin 32) : Option Cfg :=
  match (s.elem c e).owner with
  | some o =>
    if o.handle == h then none
    else if ((s.place o.handle o.entry).bind Place.kept).isSome then s.cfg o.handle else none
  | none => none

/-- A region covers an element. -/
def Region.covers (r : Region) (x y : Nat) : Bool := r.ex0 ≤ x && x < r.ex0 + r.w && r.ey0 ≤ y && y < r.ey0 + r.h

/-- An element is not free for a configuration: a region or a claim lies on it, or state that may not be evicted (R118). -/
def State.elemBusy (s : State) (h : Word64) (skip : List (Fin 96 × Fin 8)) (c : Fin 96) (x y : Nat) : Bool :=
  ((List.finRange 8).any fun r => (s.region c r).st != .free && !skip.contains (c, r) && (s.region c r).covers x y) ||
    (s.claims.any fun p => p.covers c x y) ||
    match s.taggedBy h c (elemNo x y) with
    | some g => g.evictKiB == 0
    | none => false

/-- The regions in use on a core, claims included. -/
def State.regionsUsed (s : State) (skip : List (Fin 96 × Fin 8)) (c : Fin 96) : Nat :=
  ((List.finRange 8).filter fun r => (s.region c r).st != .free && !skip.contains (c, r)).length +
    (s.claims.filter fun p => p.core == c).length

/-- The core's POOLPART is the configuration's, or may be changed to it (R238). -/
def State.poolFits (s : State) (g : Cfg) (c : Fin 96) : Bool :=
  let k := s.core c
  (k.poolS == g.pool.1 && k.poolA == g.pool.2.1 && k.poolE == g.pool.2.2) ||
    (s.regionsUsed [] c == 0 && ((List.finRange 32).all fun e => (s.elem c e).owner.isNone) && k.matrix.queue.isEmpty &&
      k.matrix.reqs.isEmpty && k.streamer.xfers.isEmpty && k.streamer.reqs.isEmpty &&
      s.kiln.cfgs.all fun q => q.granules.all fun p => p.1 != c)

/-- The device as it stands, some regions counted as free. -/
def State.world (s : State) (g : Cfg) (skip : List (Fin 96 × Fin 8)) : World :=
  ⟨s.elemBusy g.handle skip, s.regionsUsed skip, s.poolFits g⟩

/-- A device that holds nothing else. -/
def World.bare : World := ⟨fun _ _ _ => false, fun _ => 0, fun _ => true⟩

/-- The tenant of a configuration's owner (R201). -/
def State.ownerTenant (s : State) (g : Cfg) : BitVec 2 := (s.core g.core).ctxTenant g.ctx

/-- The cores a configuration's regions may lie on (R201, R238). -/
def State.coresFor (s : State) (g : Cfg) (w : World) (taken : List Spot) : List (Fin 96) :=
  (if s.ownerTenant g == 0 then List.finRange 96 else [g.core]).filter fun c =>
    w.open_ c && w.used c + (taken.filter fun p => p.core == c).length < 8

/-- An element of a core is free and of the owner's tenant. -/
def State.elemFits (s : State) (g : Cfg) (w : World) (taken : List Spot) (c : Fin 96) (x y : Nat) : Bool :=
  x < 8 && y < 4 && !w.busy c x y && !(taken.any fun p => p.covers c x y) && (s.core c).tenant x y == s.ownerTenant g

/-- The columns and rows of a rectangle, all of whose elements meet a condition. -/
def rectAll (x y w h : Nat) (p : Nat → Nat → Bool) : Bool := (List.range w).all fun i => (List.range h).all fun j => p (x + i) (y + j)

/-- A rectangle is free and cannot be made larger. -/
def maximalRect (fits : Nat → Nat → Bool) (x y w h : Nat) : Bool :=
  rectAll x y w h fits && !rectAll (x + w) y 1 h fits && !rectAll x (y + h) w 1 fits && (x == 0 || !rectAll (x - 1) y 1 h fits) &&
    (y == 0 || !rectAll x (y - 1) w 1 fits)

/-- The order of candidates: area, core, ey, ex (R379). -/
def candidateBefore (a b : Nat × Spot) : Bool :=
  a.1 < b.1 || (a.1 == b.1 && (a.2.core < b.2.core || (a.2.core == b.2.core && (a.2.ey < b.2.ey || (a.2.ey == b.2.ey && a.2.ex ≤ b.2.ex)))))

/-- Insertion in that order. -/
def insertCandidate (a : Nat × Spot) : List (Nat × Spot) → List (Nat × Spot)
  | [] => [a]
  | b :: rest => if candidateBefore a b then a :: b :: rest else b :: insertCandidate a rest

/-- The spots for a shape in the order the kiln prefers them (R379, R38): the north-west elements of maximal free rectangles
by best fit, then every other. -/
def State.spotsFor (s : State) (g : Cfg) (w : World) (taken : List Spot) (sh : Nat × Nat) : List Spot :=
  let cores := s.coresFor g w taken
  let origins : List (Nat × Nat) := (List.range 4).flatMap fun y => (List.range 8).map fun x => (x, y)
  let best := cores.flatMap fun c => origins.flatMap fun o =>
    (List.range 8).flatMap fun i => (List.range 4).filterMap fun j =>
      if sh.1 ≤ i + 1 && sh.2 ≤ j + 1 && maximalRect (s.elemFits g w taken c) o.1 o.2 (i + 1) (j + 1) then
        some ((i + 1) * (j + 1), (⟨c, o.1, o.2, sh.1, sh.2⟩ : Spot))
      else none
  let first := (best.foldr insertCandidate []).map Prod.snd
  let all := cores.flatMap fun c => origins.filterMap fun o =>
    if rectAll o.1 o.2 sh.1 sh.2 (s.elemFits g w taken c) then some (⟨c, o.1, o.2, sh.1, sh.2⟩ : Spot) else none
  (first ++ all).eraseDups

/-- Every element of a spot is of the owner's tenant (R201). -/
def State.tenantsFit (s : State) (g : Cfg) (p : Spot) : Bool :=
  rectAll p.ex p.ey p.w p.h fun x y => (s.core p.core).tenant x y == s.ownerTenant g

/-! ## Buffers of long channels (R38) -/

/-- The core a channel ends on. -/
def Cfg.chanCore (g : Cfg) (spots : List Spot) (c : Chan) : Fin 96 :=
  if c.dkind == 0 then ((spots[c.dent]?).map Spot.core).getD g.core else g.core

/-- The granules a core must give: the buffers that end on it, 128 bytes an entry. -/
def Cfg.granulesOn (g : Cfg) (spots : List Spot) (c : Fin 96) : Nat :=
  let bytes : Nat := ((g.chanRecs.filter fun h => g.chanCore spots h == c).map fun h => 128 * h.depth).sum
  (bytes + 65535) / 65536

/-- The channels of a placed configuration: the buffers that end on one core follow one another in the order of their records
(R38). -/
def Cfg.packed (g : Cfg) (spots : List Spot) : List Chan :=
  g.chanRecs.zipIdx.map fun c =>
    let core := g.chanCore spots c.1
    { c.1 with core, base := (((g.chanRecs.take c.2).filter fun d => g.chanCore spots d == core).map fun d => 128 * d.depth).sum }

/-- S of a core once the configuration is placed. -/
def State.scratchAfter (s : State) (g : Cfg) (spots : List Spot) (c : Fin 96) : Nat :=
  if spots.any fun p => p.core == c then g.pool.1 else (s.core c).poolS

/-- The rotation areas of an entry block's blocks: the block's offset, the element of its head, and the size (R85). -/
def Cfg.rotationNeeds (g : Cfg) (entry : Nat) (p : Spot) : List (Int × Nat × Nat) :=
  ((g.reachFrom [entry]).filter fun b => g.inside b.off && hdrRot (g.hdrAt b.off.toNat)).filterMap fun b =>
    let blk := g.block entry p.ex p.ey b.off.toNat
    match blk.head, g.rotation b.off.toNat with
    | some h, some r =>
      let pmax := (r.extractLsb' 120 8).toNat + 1
      some (b.off, h.val / 8, rotationSize pmax (Head.capacity pmax (blk.lnat h)))
    | _, _ => none

/-- The bytes of element k's tile that an entry block's data needs (R399). -/
def Cfg.dataNeed (g : Cfg) (entry k : Nat) : Nat :=
  ((g.dataRecs.filter fun d => d.ent == entry && d.k == k).map fun d => d.toff + d.n).foldl max 0

/-- The bytes of element k's tile that an entry block needs: its data, and every rotation area of its blocks (R85, R399). -/
def Cfg.tileNeed (g : Cfg) (entry k : Nat) (p : Spot) : Nat :=
  (((g.rotationNeeds entry p).filter fun n => n.2.1 == k).map fun n => n.2.2).foldl max (g.dataNeed entry k)

/-- The tile that is paired with element k of a spot (R237). -/
def Spot.tile (p : Spot) (k : Nat) : Nat := 8 * (p.ey + k / 4) + p.ex + k % 4

/-- The scratch bytes of a tile once a configuration is placed with some granules reserved; `bare` leaves out the granules
that other configurations hold. -/
def State.scratchWith (s : State) (g : Cfg) (bare : Bool) (spots : List Spot) (granules : List (Fin 96 × Nat)) (c : Fin 96)
    (tile : Nat) : Nat :=
  65536 * ((List.range 3).filter fun l =>
    let q := 32 * l + tile
    q < s.scratchAfter g spots c && (bare || !s.reserved c q) && !granules.contains (c, q)).length

/-- What fails a launch where it is placed: a rotation area larger than its tile's scratch bytes, one report for each block
(R85), or a data range beyond them (R402).  DEDUCED (log 107): the placement is the one R379 and R38 choose. -/
def State.placeFails (s : State) (g : Cfg) (spots : List Spot) (granules : List (Fin 96 × Nat)) : List ImageFail :=
  let room (p : Spot) (k : Nat) : Nat := s.scratchWith g false spots granules p.core (p.tile k)
  let rots := spots.zipIdx.flatMap fun p => (g.rotationNeeds p.2 p.1).filterMap fun n =>
    if n.2.2 ≤ room p.1 n.2.1 then none else some (⟨0x14, n.1, g.failWord n.1, p.2, 1⟩ : ImageFail)
  if !rots.isEmpty then rots
  else if spots.zipIdx.all fun p => (List.range 16).all fun k => g.dataNeed p.2 k ≤ room p.1 k then []
  else [⟨0x12, 0, none, 0, 1⟩]

/-- A region of another configuration stands on an element and keeps its tile's granules (R38). -/
def State.keepsTile (s : State) (h : Word64) (c : Fin 96) (e : Fin 32) : Bool :=
  (List.finRange 8).any (fun r =>
    let g := s.region c r
    g.handle != h && (g.st == .loading || g.st == .mapped || g.st == .faulted || g.st == .evicting) &&
      g.covers (e.val % 8) (e.val / 8)) || (s.taggedBy h c e).isSome

/-- The granules a placement reserves, unless a condition of R38 fails; `bare` leaves out what other configurations hold. -/
def State.reserve (s : State) (g : Cfg) (bare : Bool) (spots : List Spot) : Option (List (Fin 96 × Nat)) :=
  let cores := ((g.chanRecs.map fun h => g.chanCore spots h)).eraseDups
  let taken (c : Fin 96) (q : Nat) : Bool := !bare && s.reserved c q
  let picks := cores.map fun c =>
    let S := s.scratchAfter g spots c
    (c, (((List.range S).reverse.filter fun q => !taken c q).take (g.granulesOn spots c)))
  let enough := picks.all fun p => p.2.length == g.granulesOn spots p.1
  let kept := picks.all fun p => bare || p.2.all fun q => !s.keepsTile g.handle p.1 (Fin.ofNat 32 q)
  let granules := picks.flatMap fun p => p.2.map fun q => (p.1, q)
  let shortens (p : Spot) (k : Nat) : Bool := granules.any fun q => q.1 == p.core && q.2 % 32 == p.tile k
  let holds := spots.zipIdx.all fun p => (List.range 16).all fun k =>
    p.1.w ≤ k % 4 || p.1.h ≤ k / 4 || !shortens p.1 k ||
      g.tileNeed p.2 k p.1 ≤ s.scratchWith g bare spots granules p.1.core (p.1.tile k)
  if enough && kept && holds then some granules else none

/-- The first placement in the kiln's order whose buffers can be reserved: its spots, its granules. -/
def State.search (s : State) (g : Cfg) (w : World) (bare : Bool) :
    List (Nat × Nat) → List Spot → Option (List Spot × List (Fin 96 × Nat))
  | [], taken => (s.reserve g bare taken).map fun q => (taken, q)
  | sh :: rest, taken => (s.spotsFor g w taken sh).findSome? fun p => s.search g w bare rest (taken ++ [p])

/-- Some placement exists, its buffers apart. -/
def State.fitsBare (s : State) (g : Cfg) : List (Nat × Nat) → List Spot → Bool
  | [], _ => true
  | sh :: rest, taken => (s.spotsFor g .bare taken sh).any fun p => s.fitsBare g rest (taken ++ [p])

/-- No admissible placement takes the region shapes (R201), or none takes the channel buffers too (R38). -/
def State.inadmissible (s : State) (g : Cfg) : Option Reason :=
  if (s.search g .bare true g.shapes []).isSome then none else some (if s.fitsBare g g.shapes [] then 0x18 else 0x15)

/-! ## Handles and packets (R373, R374, R378) -/

/-- A new handle: nonzero, and held by no configuration since reset (R373).  Where the free pick is neither, the least number
that is both; 0 only when every handle has been given. -/
def Kiln.newHandle (k : Kiln) : Word64 :=
  let h := Config.handlePick k.handles
  if h != 0 && !k.handles.contains h then h
  else (((List.range (min (k.handles.length + 1) (2 ^ 64 - 1))).map fun i => BitVec.ofNat 64 (i + 1)).find? fun x =>
    !k.handles.contains x).getD 0

/-- The configuration of an image and an ASID. -/
def State.named (s : State) (image : Word64) (asid : BitVec 12) : Option Cfg :=
  s.kiln.cfgs.find? fun g => g.image == image && g.asid == asid

/-- The least recently launched idle configuration (R378). -/
def Kiln.idlest (k : Kiln) : Option Cfg :=
  k.cfgs.foldl (fun m g =>
    if g.st != .held then m
    else match m with
      | some b => if g.launchedAt < b.launchedAt then some g else m
      | none => some g) none

/-- The kiln begins to read an image (R374). -/
def State.fetchImage (s : State) (g : Cfg) : State :=
  (s.issue { id := s.newId, agent := .image g.handle, kind := .readImage, asid := g.asid, wr := false, virt := true
             column := false, addr := g.image, pieces := [], data := [], bads := [], poison := false, stage := .walk
             held := false }).tickId

/-- A held configuration enters its launch: it waits in the queue of its PRIO, or its image is read first. -/
def State.enterLaunch (s : State) (h : Word64) : State :=
  let s := s.onCfg h fun g => { g with st := .queued, queuedAt := s.clk.now, aged := g.prio, launchedAt := s.clk.now }
  match s.cfg h with
  | none => s
  | some g => if g.cached then s.soon (.launchAging h) else s.fetchImage g

/-- The configuration of a LAUNCH or REGISTER; `none` when it is REFUSED: its ASID is not its owner's, or the cache is full
(R373, R374, R378). -/
def State.accept (s : State) (image : Word64) (asid : BitVec 12) (core : Fin 96) (ctx : Fin 4) : Option (State × Cfg) :=
  if (s.ctx core ctx).asid != asid then none
  else match s.named image asid with
  | some g => some (s, g)
  | none =>
    let room : Option State :=
      if s.kiln.cfgs.length < 256 then some s
      else s.kiln.idlest.map fun b => { s with kiln := { s.kiln with cfgs := s.kiln.cfgs.filter fun g => g.handle != b.handle } }
    room.map fun s =>
      let h := s.kiln.newHandle
      let g : Cfg :=
        { handle := h, image := image, asid := asid, core := core, ctx := ctx, prio := 0, st := .held, queuedAt := 0, aged := 0
          launchedAt := s.clk.now, bytes := [], cached := false, digest := 0, shapes := [], places := [], chans := [], reins := []
          granules := [], after := [] }
      ({ s with kiln := { s.kiln with cfgs := s.kiln.cfgs ++ [g], handles := s.kiln.handles ++ [h] } }, g)

/-- A launch: the state, and the handle unless it is REFUSED. -/
def State.launch (s : State) (image : Word64) (asid : BitVec 12) (core : Fin 96) (ctx : Fin 4) : State × Option Word64 :=
  match s.accept image asid core ctx with
  | none => (s, none)
  | some (t, g) =>
    if g.st != .held then (s, none)
    else
      let t := t.onCfg g.handle fun g => { g with core := core, ctx := ctx }
      (t.enterLaunch g.handle, some g.handle)

/-- LAUNCH (R196, R374): the handle, or 0 when it is refused.  It releases what its context has written: the configuration is read
and placed only after those writes (R284). -/
def execLaunch (f : FC) (s : State) : Done :=
  .next (s.kfire f.io 1 true fun s r =>
    let x := s.clk.focus
    let q := s.launch r.a.val (s.ctx x.core (ctxOf x)).asid x.core (ctxOf x)
    let after := s.kreleases x.core (ctxOf x)
    let t := match q.2 with
      | some h => q.1.onCfg h fun g => { g with after := after }
      | none => q.1
    t.kplace x 1 (some ⟨q.2.getD 0, false⟩))

/-! ## The image has been read (R369..R374) -/

/-- A launch ends with failure reports, SRC 0b11 and no location (R75, R79). -/
def State.launchFails (s : State) (g : Cfg) (fails : List ImageFail) : State :=
  let s := fails.foldl (fun s f =>
    let addr : Word64 := g.image + BitVec.ofInt 64 f.off
    let word := f.word.getD (Config.freeWord s.clk.fresh)
    (s.tickFresh.post g (failureReport g.handle word (addr.extractLsb' 6 48) f.reason 0 true 0 3 f.entry f.nbad) true).collect
      (placedRec g.handle g.asid 0x28 (f.reason.setWidth 32) 0 0 0 0 0 6)) s
  s.onCfg g.handle fun g => { g with st := .held, cached := false, bytes := [] }

/-- A launch ends with a stability report (R347). -/
def State.reinsFail (s : State) (g : Cfg) (f : Nat × Nat × Nat) : State :=
  ((s.post g (stabilityRecord g.handle f) false).collect (placedRec g.handle g.asid 0x30 0 0 0 0 0 0 6)).onCfg g.handle
    fun g => { g with st := .held, cached := false, bytes := [] }

/-- 64 bytes of an image; those of a poisoned unit and those at a peer are free (R243, R265, R287). -/
def State.imageUnit (s : State) (pa i : Nat) : List Byte :=
  if s.mem.spoilt pa || s.atPeer pa then (List.range 64).map fun j => Config.freeByte (s.clk.fresh + 64 * i + j)
  else s.readBytes pa 64

/-! ## Ingress ports (R376, R377) -/

/-- An IDLE port with nothing in it. -/
def Ingress.reset (p : BitVec 8) : Ingress := ⟨p, none, [], 0, []⟩

/-- An ingress port. -/
def State.port (s : State) (p : BitVec 8) : Ingress := (s.host.ports.find? fun q => q.port == p).getD (.reset p)

/-- Sets an ingress port. -/
def State.setPort (s : State) (q : Ingress) : State :=
  let others := s.host.ports.filter fun r => r.port != q.port
  { s with host := { s.host with ports := if q == .reset q.port then others else q :: others } }

/-- A dropped token is counted. -/
def Ingress.drop (q : Ingress) : Ingress := { q with drops := satInc32 q.drops }

/-- The configuration enters its launch as if by a LAUNCH packet (R377). -/
def State.launchHeld (s : State) (h : Word64) : State :=
  match s.cfg h with
  | some g => if g.st == CState.held && (s.ctx g.core g.ctx).asid == g.asid then s.enterLaunch h else s
  | none => s

/-- An IDLE port reads the handle and the channel of the tokens it holds (R376): it drops one that names none, until one binds it,
which launches a configuration that does not run (R377). -/
def State.bindPort (s : State) (p : BitVec 8) : Nat → State
  | 0 => s
  | n + 1 =>
    let q := s.port p
    match q.bound, q.buf with
    | none, (_, h, c) :: rest =>
      match s.cfg h with
      | none => (s.setPort { q.drop with buf := rest }).bindPort p n
      | some g =>
        if g.cached && (g.chanRecs[c]?).map Chan.skind != some 2 then (s.setPort { q.drop with buf := rest }).bindPort p n
        else (s.setPort { q with bound := some (h, c) }).launchHeld h
    | _, _ => s

/-- Once a configuration's image is read: a port that its first token bound to a channel of it that is no host ingress drops that
token, and its next token is a first one (R376). -/
def State.settlePorts (s : State) (g : Cfg) : State :=
  s.host.ports.foldl (fun s p => match p.bound with
    | some (h, c) =>
      if h == g.handle && ((g.chanRecs[c]?).map Chan.skind) != some 2 then
        (s.setPort { p.drop with bound := none, buf := p.buf.drop 1 }).bindPort p.port p.buf.length
      else s
    | none => s) s

/-- IMAGE_READ_DONE: the image is checked; the configuration then waits in its queue, or its launch fails. -/
def execImageReadDone (handle : Word64) (ok : Bool) (s : State) : Done :=
  match s.cfg handle with
  | none => .next s
  | some g =>
    if g.st != .queued || g.cached then .next s
    else if !ok then .next (s.launchFails g [⟨0x12, 0, none, 0, 1⟩])
    else match s.accs.find? fun a => a.agent == .image handle && a.stage == .ready with
    | none => .next s
    | some a =>
      let pas := a.pieces.filterMap Piece.pa
      let units := pas.flatMap fun pa => (List.range 64).map fun i => pa + 64 * i
      let raw := units.zipIdx.flatMap fun u => s.imageUnit u.1 u.2
      let s := (units.foldl (fun s u => (s.meetErrors a u).askPeer u 64) s).tickBy (64 * units.length)
      let s := s.dropAcc a.id
      let bytes := raw.take (bytesNat ((raw.drop 96).take 8))
      let g := { g with bytes := bytes, digest := sha384 bytes }
      match g.imageFails, g.reinFails with
      | f :: fs, _ => .next (s.launchFails g (f :: fs))
      | [], some f => .next (s.reinsFail g f)
      | [], none =>
        let g := { g with
          cached := true, shapes := g.shapesOf, prio := hdrPrio (g.hdrAt (g.entryOff 0)), aged := hdrPrio (g.hdrAt (g.entryOff 0)) }
        match s.inadmissible g with
        | some r => .next (s.launchFails g [⟨r, 0, none, 0, 1⟩])
        | none => .next (((s.onCfg handle fun _ => g).settlePorts g).soon (.launchAging handle))

/-- LAUNCH_AGING (R379): a launch moves up one queue for each 65,536 cycles it has waited. -/
def execLaunchAging (handle : Word64) (s : State) : Done :=
  match s.cfg handle with
  | none => .next s
  | some g =>
    if g.st != .queued && g.st != .preempted then .next s
    else
      let waited := s.clk.now - g.queuedAt
      let aged := g.prio - waited / 65536
      let s := s.onCfg handle fun g => { g with aged := aged }
      .next (if aged == 0 then s else s.later (65536 - waited % 65536) (.launchAging handle))

/-! ## Claiming (R238, R371, R379) -/

/-- A granule that changes use holds unknown contents; its lines have unknown full bits, and no error marks (R238, R241). -/
def State.unknownGranule (s : State) (base : Nat) : State :=
  let f := s.clk.fresh
  let mine (unit : Nat) (u : Nat) : Bool := base ≤ unit * u && unit * u < base + 65536
  let s := s.onMem fun m => { m with
    poison := m.poison.filter fun u => !mine 64 u, ue := m.ue.filter fun u => !mine 64 u, ce := m.ce.filter fun u => !mine 64 u }
  let s := s.onMem fun m => m.putAll base ((List.range 65536).map fun i => Config.freeByte (f + i))
  (s.onMem fun m => (List.range 512).foldl (fun m i => m.setFull (base + 128 * i) (Config.freeBit (f + i))) m).tickBy 65536

/-- The kiln writes POOLPART (R212, R238): with another A the tiles are those after reset; with the same A in other granules
they keep their statuses, and their contents are unknown. -/
def State.setPool (s : State) (c : Fin 96) (p : Nat × Nat × Nat) : State :=
  let k := s.core c
  if k.poolS == p.1 && k.poolA == p.2.1 && k.poolE == p.2.2 then s
  else
    let tiles := if k.poolA == p.2.1 then k.matrix.tiles.map fun t => { t with vals := none } else List.replicate (if p.2.1 == 0 then 0 else naccOf p.2.1) Tile.fresh
    let s := s.onCore c fun k => { k with
      poolS := p.1, poolA := p.2.1, poolE := p.2.2, matrix := { k.matrix with tiles := tiles } }
    let s := ((List.range 96).filter fun q => k.poolS ≤ q && q < p.1).foldl (fun s q =>
      s.unknownGranule (tileAddr c (q % 32) (65536 * (q / 32)))) s
    if k.poolE == p.2.2 then s
    else (List.range p.2.2).foldl (fun s i => s.unknownGranule (emberAddr c (65536 * i))) s

/-- The kiln writes a configuration's POOLPART on the cores of some spots (R238). -/
def State.poolSpots (s : State) (g : Cfg) (spots : List Spot) : State :=
  ((spots.map Spot.core).eraseDups).foldl (fun s c => s.setPool c g.pool) s

/-- The queue bindings of the owner that an image's channel records give (R371). -/
def State.bindQueues (s : State) (g : Cfg) : State :=
  g.chanRecs.zipIdx.foldl (fun s c =>
    let bind (s : State) (q : Nat) (send : Bool) : State := s.onCtx g.core g.ctx fun t => { t with
      qbind := t.qbind.set! q ⟨true, send, BitVec.ofNat 12 c.2, g.handle⟩ }
    let s := if c.1.skind == 1 then bind s c.1.slink true else s
    if c.1.dkind == 1 then bind s c.1.dlink false else s) s

/-- A configuration's first claim: every entry block's rectangle at once, its buffers, pools, channels, reins and queues. -/
def State.claim (s : State) (h : Word64) (spots : List Spot) (granules : List (Fin 96 × Nat)) : State :=
  match s.cfg h with
  | none => s
  | some g =>
    let s := s.poolSpots g spots
    let s := s.bindQueues g
    s.onCfg h fun g => { g with
      st := .running, queuedAt := s.clk.now - g.queuedAt, launchedAt := s.clk.now, granules := granules, chans := g.packed spots
      reins := g.reinRecs, places := spots.map fun p => ⟨.claimed, p.core, 0, p.ex, p.ey, 0, none, [], [], true⟩ }

/-- A pre-empted configuration claims rectangles for its pre-empted entry blocks. -/
def State.reclaim (s : State) (g : Cfg) (spots : List (Nat × Spot)) : State :=
  (s.poolSpots g (spots.map Prod.snd)).onCfg g.handle fun g => { g with
    st := .running, queuedAt := s.clk.now - g.queuedAt
    places := g.places.zipIdx.map fun p => match spots.find? fun q => q.1 == p.2 with
      | some q => { p.1 with st := .claimed, core := q.2.core, ex0 := q.2.ex, ey0 := q.2.ey }
      | none => p.1 }

/-! ## Serving the queues (R379, R380) -/

/-- The configuration waits in a queue. -/
def Cfg.waiting (g : Cfg) : Bool := (g.st == .queued && g.cached) || (g.st == .preempted && g.places.any fun p => p.st == .preempted)

/-- A victim of pre-emption: its priority and last mapping, core and region. -/
def State.victims (s : State) (g : Cfg) : List (Fin 96 × Fin 8) :=
  let all := (List.finRange 96).flatMap fun c => (List.finRange 8).filterMap fun r =>
    let q := s.region c r
    match s.cfg q.handle with
    | some v => if q.st == .mapped && v.st == .running && g.prio < v.prio && v.evictKiB != 0 then some (v.prio, q.mapAt, c, r) else none
    | none => none
  let ins (v : Nat × Nat × Fin 96 × Fin 8) (l : List (Nat × Nat × Fin 96 × Fin 8)) : List (Nat × Nat × Fin 96 × Fin 8) :=
    let front := l.takeWhile fun u => v.1 < u.1 || (v.1 == u.1 && v.2.1 ≤ u.2.1)
    front ++ v :: l.drop front.length
  (all.foldl (fun l v => ins v l) []).map fun v => (v.2.2.1, v.2.2.2)

/-- The first regions in order whose pre-emption makes room for shapes, with the placement it makes. -/
def State.preemptFor (s : State) (g : Cfg) (shapes : List (Nat × Nat)) :
    Option (List (Fin 96 × Fin 8) × List Spot × List (Fin 96 × Nat)) :=
  let vs := s.victims g
  (List.range (vs.length + 1)).findSome? fun n =>
    (s.search g (s.world g (vs.take n)) false shapes []).map fun q => (vs.take n, q)

/-- The elements of a pre-empted entry block all still hold its state, and nothing else lies on them. -/
def State.stillThere (s : State) (g : Cfg) (entry : Nat) (p : Place) : Bool :=
  let sh := g.shapes.getD entry (1, 1)
  p.evicted.isEmpty && rectAll p.ex0 p.ey0 sh.1 sh.2 (fun x y =>
      !s.elemBusy g.handle [] p.core x y) && s.tenantsFit g ⟨p.core, p.ex0, p.ey0, sh.1, sh.2⟩ &&
    (List.range 16).all fun k => sh.1 ≤ k % 4 || sh.2 ≤ k / 4 ||
      (s.elem p.core (elemNo (p.ex0 + k % 4) (p.ey0 + k / 4))).owner == some ⟨g.handle, entry, k⟩

/-- A launch is served: failed when nothing admissible takes it or its tiles are too small (R85, R201, R402), placed, placed
after pre-emptions, or left waiting. -/
def State.serveOne (s : State) (g : Cfg) : Option State :=
  if s.releasing g then none
  else if g.st == .queued then
    match s.inadmissible g with
    | some r => some (s.launchFails g [⟨r, 0, none, 0, 1⟩])
    | none => (s.preemptFor g g.shapes).map fun q =>
      match s.placeFails g q.2.1 q.2.2 with
      | [] => (q.1.foldl (fun s v => s.preempt v.1 v.2) s).claim g.handle q.2.1 q.2.2
      | fails => s.launchFails g fails
  else
    let mine := g.places.zipIdx.filter fun p => p.1.st == .preempted
    let shape (e : Nat) : Nat × Nat := g.shapes.getD e (1, 1)
    if mine.all fun p => s.stillThere g p.2 p.1 && s.regionsUsed [] p.1.core < 8 then
      some (s.reclaim g (mine.map fun p => (p.2, ⟨p.1.core, p.1.ex0, p.1.ey0, (shape p.2).1, (shape p.2).2⟩)))
    else if g.evictKiB == 0 then none
    else
      let plain := { g with bytes := g.bytes, granules := [] }
      let vs := s.victims g
      (List.range (vs.length + 1)).findSome? fun n =>
        let w := s.world plain (vs.take n)
        let rec go : List (Nat × Nat) → List Spot → Option (List Spot)
          | [], taken => some taken
          | sh :: rest, taken => (s.spotsFor plain w taken sh).findSome? fun p => go rest (taken ++ [p])
        (go (mine.map fun p => shape p.2) []).map fun spots =>
          ((vs.take n).foldl (fun s v => s.preempt v.1 v.2) s).reclaim g ((mine.map Prod.snd).zip spots)

/-- The configurations the kiln holds, from the one after a handle on and round to it. -/
def Kiln.after (k : Kiln) (h : Word64) : List Cfg :=
  match k.cfgs.findIdx? fun g => g.handle == h with
  | some n => k.cfgs.drop (n + 1) ++ k.cfgs.take (n + 1)
  | none => k.cfgs

/-- The kiln serves the highest queue that is not empty, round-robin within it: from the launch after the one it served last
there. -/
def State.serve (s : State) : State :=
  let ws := s.kiln.cfgs.filter Cfg.waiting
  match ws with
  | [] => s
  | w :: rest =>
    let top := rest.foldl (fun m g => min m g.aged) w.aged
    let queue := (s.kiln.after (s.kiln.turns.getD top 0)).filter fun g => g.waiting && g.aged == top
    match queue.findSome? fun g => (s.serveOne g).map fun t => (t, g.handle) with
    | some (t, h) => { t with kiln := { t.kiln with turns := t.kiln.turns.set top h } }
    | none => s

/-! ## Mapping what is claimed (R19, R81, R118, R119) -/

/-- Evictions begin of elements for which none is on its way. -/
def State.evict (s : State) (c : Fin 96) (es : List (Fin 32)) : State :=
  s.startEvictions c (es.filter fun e => !(s.clk.pending.any fun p => p.2 == .elementEviction c e))

/-- The elements that still hold an entry block's state, elsewhere than where it is to lie. -/
def State.strays (s : State) (h : Word64) (entry : Nat) (p : Place) : List (Fin 96 × Fin 32) :=
  (List.finRange 96).flatMap fun c => (List.finRange 32).filterMap fun e => match (s.elem c e).owner with
    | some o =>
      if o.handle == h && o.entry == entry && (c != p.core || e != elemNo (p.ex0 + o.k % 4) (p.ey0 + o.k / 4)) then some (c, e)
      else none
    | none => none

/-- A claim whose elements have passed to another tenant moves to the first spot that the kiln prefers, or waits for one
(R200, R201; log 108). -/
def State.moveClaim (s : State) (g : Cfg) (entry : Nat) : State :=
  match s.spotsFor g (s.world g []) [] (g.shapes.getD entry (1, 1)) with
  | [] => s
  | q :: _ => (s.poolSpots g [q]).onPlace g.handle entry fun p => { p with core := q.core, ex0 := q.ex, ey0 := q.ey }

/-- A claimed entry block whose rectangle is FREE begins to load, or resumes once every element's state is where it can be
taken from.  A halted core is mapped nothing onto (R307). -/
def State.startPlace (s : State) (g : Cfg) (entry : Nat) (p : Place) : State :=
  let sh := g.shapes.getD entry (1, 1)
  let spot : Spot := ⟨p.core, p.ex0, p.ey0, sh.1, sh.2⟩
  let clear := (List.finRange 8).all fun r =>
    let q := s.region p.core r
    q.st == .free || !(List.range 16).any fun k => k % 4 < q.w && k / 4 < q.h && spot.covers p.core (q.ex0 + k % 4) (q.ey0 + k / 4)
  match (List.finRange 8).find? fun r => (s.region p.core r).st == .free with
  | none => s
  | some r =>
    if (s.core p.core).hfab || !clear then s
    else if !s.tenantsFit g spot then s.moveClaim g entry
    else
      let ks := (List.range 16).filter fun k => k % 4 < sh.1 && k / 4 < sh.2
      let at_ (k : Nat) : Fin 32 := elemNo (p.ex0 + k % 4) (p.ey0 + k / 4)
      let foreign := (ks.filter fun k => match (s.elem p.core (at_ k)).owner with
        | some o => o.handle != g.handle || o.entry != entry
        | none => false).map at_
      match p.kept with
      | none =>
        let addr : Word64 := g.image + BitVec.ofNat 64 (g.entryOff entry)
        let s := s.evict p.core foreign
        let s := s.onRegion p.core r fun q => { Region.blank with
          handle := g.handle, entry := entry, ex0 := p.ex0, ey0 := p.ey0, w := sh.1, h := sh.2, gen := q.gen
          guards := q.guards, last := (addr.setWidth 54, 0) }
        (s.onPlace g.handle entry fun p => { p with st := .placed, region := r }).startLoad p.core r (addr.setWidth 54) 0
      | some _ =>
        let strays := s.strays g.handle entry p
        if foreign.isEmpty && strays.isEmpty then s.resume g.handle entry p.core r p.ex0 p.ey0
        else (s.evict p.core foreign |> fun s => strays.foldl (fun s e => s.evict e.1 [e.2]) s)

/-- KILN_PLACE: claimed entry blocks are mapped, and a waiting launch is served. -/
def execKilnPlace (s : State) : Done :=
  let s := s.kiln.cfgs.foldl (fun s g => g.places.zipIdx.foldl (fun s p =>
    if p.1.st == .claimed && g.st == .running then s.startPlace g p.2 p.1 else s) s) s
  .next s.serve

/-- The kiln has something to do. -/
def Kiln.works (k : Kiln) : Bool := k.cfgs.any fun g => g.waiting || g.places.any fun p => p.st == .claimed

end Sys2Proof.Machine
end

