-- ==== Sys2Proof/Machine/Packets.lean ====
section
/-! DEFINITION. Launch packets (R374): their fields, replies and operations; the residency report (R375); boot (R385, R386);
the attestation report (R388). -/

namespace Sys2Proof.Machine

/-! ## Fields of a packet (R374) -/

/-- OP. -/
def packetOp (p : Packet) : Nat := (p.extractLsb' 0 8).toNat
/-- COOKIE. -/
def packetCookie (p : Packet) : BitVec 32 := p.extractLsb' 64 32
/-- OWNER; zero names the image's default owner. -/
def packetOwner (p : Packet) : BitVec 9 := p.extractLsb' 96 9
/-- ASID. -/
def packetAsid (p : Packet) : BitVec 12 := p.extractLsb' 116 12
/-- IMAGE. -/
def packetImage (p : Packet) : Word64 := p.extractLsb' 128 64
/-- HANDLE. -/
def packetHandle (p : Packet) : Word64 := p.extractLsb' 192 64
/-- NONCE. -/
def packetNonce (p : Packet) : BitVec 192 := p.extractLsb' 256 192
/-- REPLY. -/
def packetReply (p : Packet) : Word64 := p.extractLsb' 448 64

/-- The reserved bits are zero, and OWNER names a core of the device. -/
def packetOk (p : Packet) : Bool := p.extractLsb' 105 11 == 0 && p.extractLsb' 8 56 == 0 && (p.extractLsb' 98 7).toNat < 96

/-- The step that performs a packet; one with a reserved OP has its turn as well, and gets BADPKT there (R374). -/
def packetStep (p : Packet) : Instr :=
  match packetOp p with
  | 2 => .register p
  | 3 => .dropPacket p
  | 4 => .query p
  | 5 => .attest p
  | 6 => .boot p
  | _ => .launchPacket p

/-! ## Replies -/

/-- The reply to a packet: STATUS, the failing boot step, HANDLE. -/
def State.reply (s : State) (p : Packet) (status step : Nat) (h : Word64) : State :=
  s.emit (.write (packetReply p)
    (natBytes 4 (packetCookie p).toNat ++ natBytes 1 status ++ natBytes 3 step ++ natBytes 8 h.toNat ++ List.replicate 48 0))

/-- A report follows the reply, at REPLY + 64. -/
def State.report (s : State) (p : Packet) (bytes : List Byte) : State := s.emit (.write (packetReply p + 64) bytes)

/-- What meets a packet before its operation: it waits behind a BOOT being verified, gets REFUSED in the boot state, or
BADPKT (R374, R385); otherwise its operation. -/
def State.perform (s : State) (p : Packet) (op : Nat) (f : State → State) : State :=
  match s.dev.boot with
  | .verifying => { s with dev := { s.dev with packets := s.dev.packets ++ [p] } }
  | .waiting | .failed => s.reply p 1 0 0
  | .running => if packetOp p != op || !packetOk p then s.reply p 2 0 0 else f s

/-! ## LAUNCH, REGISTER and DROP (R373, R374) -/

/-- The default owner of the image a packet names: bytes 104..111 of its header, from the cache or from memory. -/
def State.defaultOwner (s : State) (p : Packet) : State × Nat :=
  match s.named (packetImage p) (packetAsid p) with
  | some g =>
    if g.cached then (s, g.field 104 8)
    else
      let r := s.translate outsideRec 0 (packetAsid p) true false false false (packetImage p + 104) 8
      match r.2 with
      | .ok pa => (r.1.tickFresh, (r.1.plainWord pa 0).toNat)
      | .error _ => (r.1, 0)
  | none =>
    let r := s.translate outsideRec 0 (packetAsid p) true false false false (packetImage p + 104) 8
    match r.2 with
    | .ok pa => (r.1.tickFresh, (r.1.plainWord pa 0).toNat)
    | .error _ => (r.1, 0)

/-- The owning context of a packet, core and context: OWNER, or the image's default owner (R374). -/
def State.owner (s : State) (p : Packet) : State × Fin 96 × Fin 4 :=
  let r : State × Nat := if packetOwner p == 0 then s.defaultOwner p else (s, (packetOwner p).toNat)
  if r.2 < 384 then (r.1, Fin.ofNat 96 (r.2 / 4), Fin.ofNat 4 r.2) else (r.1, 0, 0)

/-- LAUNCH_PACKET. -/
def execLaunchPacket (p : Packet) (s : State) : Done :=
  .next (s.perform p 1 fun s =>
    let o := s.owner p
    let r := o.1.launch (packetImage p) (packetAsid p) o.2.1 o.2.2
    match r.2 with
    | some h => r.1.reply p 0 0 h
    | none => r.1.reply p 1 0 0)

/-- REGISTER: a handle, and nothing placed. -/
def execRegister (p : Packet) (s : State) : Done :=
  .next (s.perform p 2 fun s =>
    let o := s.owner p
    match o.1.accept (packetImage p) (packetAsid p) o.2.1 o.2.2 with
    | some (t, g) => t.reply p 0 0 g.handle
    | none => o.1.reply p 1 0 0)

/-- A configuration leaves the residency cache. -/
def State.forget (s : State) (h : Word64) : State :=
  { s with kiln := { s.kiln with cfgs := s.kiln.cfgs.filter fun g => g.handle != h } }

/-- DROP_PACKET: the configuration is torn down, and its image leaves the residency cache. -/
def execDropPacket (p : Packet) (s : State) : Done :=
  .next (s.perform p 3 fun s =>
    let h := packetHandle p
    if (s.cfg h).isSome then ((s.teardown h).forget h).reply p 0 0 h else s.reply p 3 0 h)

/-! ## The residency report (R375) -/

/-- An element lies in no region that is in use. -/
def State.elemFree (s : State) (c : Fin 96) (x y : Nat) : Bool :=
  !(List.finRange 8).any fun r => (s.region c r).st != .free && (s.region c r).covers x y

/-- A FREE w × h rectangle exists on a core. -/
def State.freeShape (s : State) (c : Fin 96) (w h : Nat) : Bool :=
  (List.range (9 - w)).any fun x => (List.range (5 - h)).any fun y => rectAll x y w h (s.elemFree c)

/-- The 32 bytes of a core. -/
def State.coreReport (s : State) (c : Fin 96) : List Byte :=
  let mask : Nat := ((List.range 16).map fun i => if s.freeShape c (i % 4 + 1) (i / 4 + 1) then 2 ^ i else 0).sum
  let free := (List.finRange 32).filter fun e => s.elemFree c (e.val % 8) (e.val / 8)
  let live := (((List.finRange 8).filter fun r => (s.region c r).st != .free).map fun r => (s.region c r).handle).eraseDups
  let k := s.core c
  natBytes 2 mask ++ natBytes 1 free.length ++ natBytes 1 live.length ++ natBytes 1 k.poolS ++ natBytes 1 k.poolA ++
    natBytes 1 k.poolE ++ List.replicate 25 0

/-- The rotations of a configuration: entry block and head, those of evicted elements last. -/
def State.rotationsOf (s : State) (g : Cfg) : List (Nat × Head) :=
  let mine (e : Element) : Option (Nat × Head) := match e.owner, e.head with
    | some o, some h => if o.handle == g.handle then some (o.entry, h) else none
    | _, _ => none
  ((List.finRange 96).flatMap fun c => (List.finRange 32).filterMap fun e => mine (s.elem c e)) ++
    g.places.flatMap fun p => p.evicted.filterMap fun v => mine v.2

/-- The 64 bytes of a configuration; the state of one that is neither queued, running nor pre-empted, and the PRIO of an
image not yet read, are free values. -/
def State.cfgReport (s : State) (g : Cfg) (i : Nat) : List Byte :=
  let rots := (s.rotationsOf g).take 4
  let state : Byte := match g.st with
    | .queued => 0
    | .running => 1
    | .preempted => 2
    | .held => Config.freeByte (s.clk.fresh + 2 * i)
  let prio : Byte := if g.cached then BitVec.ofNat 8 g.prio else Config.freeByte (s.clk.fresh + 2 * i + 1)
  let regions := (List.finRange 96).flatMap fun c => (List.finRange 8).filter fun r =>
    (s.region c r).st != .free && (s.region c r).handle == g.handle
  let bytes := natBytes 8 g.handle.toNat ++ [prio, state] ++ natBytes 1 regions.length ++ natBytes 1 rots.length ++
    rots.flatMap fun q =>
      natBytes 1 q.1 ++ natBytes 1 q.2.pcur ++ natBytes 1 (q.2.table.filter fun e => e.st != .empty).length ++
        List.replicate 5 0
  bytes ++ List.replicate (64 - bytes.length) 0

/-- The residency report over some configurations. -/
def State.residency (s : State) (gs : List Cfg) : List Byte :=
  natBytes 2 gs.length ++ List.replicate 62 0 ++ (List.finRange 96).flatMap s.coreReport ++
    gs.zipIdx.flatMap fun g => s.cfgReport g.1 g.2

/-- QUERY: the report of every configuration, or of the one named. -/
def execQuery (p : Packet) (s : State) : Done :=
  .next (s.perform p 4 fun s =>
    let h := packetHandle p
    let gs := if h == 0 then s.kiln.cfgs else s.kiln.cfgs.filter fun g => g.handle == h
    if h != 0 && gs.isEmpty then s.reply p 3 0 h
    else ((s.reply p 0 0 h).report p (s.residency gs)).tickBy (2 * gs.length))

/-! ## Attestation (R387, R388) -/

/-- The digests the queue is armed with. -/
def Egress.digests (g : Egress) : List (BitVec 384) := g.armed.getD []

/-- Bytes 0..2623 of the attestation report: what the signatures cover. -/
def State.attested (s : State) (p : Packet) : List Byte :=
  let ds := s.egress.digests
  let armed := ds.flatMap fun d => natBytes 48 d.toNat
  [1] ++ List.replicate 7 0 ++ natBytes 24 (packetNonce p).toNat ++ natBytes 48 Config.fusedEdDigest.toNat ++
    natBytes 48 Config.fusedMlDigest.toNat ++ natBytes 8 s.dev.rollback.toNat ++ natBytes 48 s.dev.fwDigest.toNat ++
    natBytes 8 s.dev.fwVersion.toNat ++ natBytes 8 s.egress.stat.toNat ++ armed ++ List.replicate (384 - armed.length) 0 ++
    natBytes 8 (if s.dev.lock then 1 else 0) ++ ((List.range 18).flatMap fun i => natBytes 2 (Config.linkCap i).toNat) ++
    natBytes 1 ds.length ++ List.replicate 11 0 ++ natBytes 32 Config.edIdentity.toNat ++ (List.range 1952).map Config.mlIdentity

/-- The attestation report. -/
def State.attestation (s : State) (p : Packet) : List Byte :=
  let body := s.attested p
  let d := sha384 body
  body ++ natBytes 64 (Config.edSign d).toNat ++ (List.range 3309).map (Config.mlSign d) ++ List.replicate 147 0

/-- ATTEST. -/
def execAttest (p : Packet) (s : State) : Done :=
  .next (s.perform p 5 fun s => (s.reply p 0 0 0).report p (s.attestation p))

/-! ## Boot (R385, R386) -/

/-- The boot area: the top 64 MiB of column 0. -/
def bootArea : Nat := 0x7C000000

/-- Bytes of the boot area; those of a poisoned unit are free (R243). -/
def State.bootBytes (s : State) (off n : Nat) : List Byte :=
  (List.range n).map fun i =>
    let a := bootArea + off + i
    if s.mem.isPoison a || s.mem.isUe a then Config.freeByte (s.clk.fresh + off + i) else s.readByte a

/-- BODYLEN of the image in the boot area. -/
def State.bootLen (s : State) : Nat := bytesNat (s.bootBytes 0 8)

/-- The security version of the image in the boot area. -/
def State.bootVersion (s : State) : Word64 := BitVec.ofNat 64 (bytesNat (s.bootBytes 8 8))

/-- The digest of the security version followed by the body. -/
def State.bootDigest (s : State) : BitVec 384 := sha384 (s.bootBytes 8 8 ++ s.bootBytes 8192 s.bootLen)

/-- Step 1: BODYLEN in range, bytes 5373..8191 zero. -/
def State.bootImageOk (s : State) : Bool :=
  s.bootLen % 64 == 0 && s.bootLen ≤ 0x4000000 - 8192 && (s.bootBytes 5373 2819).all fun b => b == 0

/-- Step 2: the digests of both keys are the fused ones. -/
def State.bootKeysOk (s : State) : Bool :=
  sha384 (s.bootBytes 16 32) == Config.fusedEdDigest && sha384 (s.bootBytes 48 1952) == Config.fusedMlDigest

/-- Step 3: both signatures verify. -/
def State.bootSigned (s : State) : Bool :=
  Config.edVerify (BitVec.ofNat 256 (bytesNat (s.bootBytes 16 32))) (BitVec.ofNat 512 (bytesNat (s.bootBytes 2000 64)))
      s.bootDigest &&
    Config.mlVerify (s.bootBytes 48 1952) (s.bootBytes 2064 3309) s.bootDigest

/-- The boot step that fails; 0 when none does. -/
def State.bootFails (s : State) : Nat :=
  if !s.bootImageOk then 1
  else if !s.bootKeysOk then 2
  else if !s.bootSigned then 3
  else if s.bootVersion.toNat < s.dev.rollback.toNat then 4
  else 0

/-- Verification ends: berair runs, or the device is in the recovery state; the packets behind it are performed. -/
def State.bootEnds (s : State) (p : Packet) : State :=
  let rest := s.dev.packets.drop 1
  let step := s.bootFails
  let v := s.bootVersion
  let dev : Device :=
    if step == 0 then { s.dev with
      boot := .running, rollback := BitVec.ofNat 32 (min v.toNat 0xFFFFFFFF), fwDigest := s.bootDigest, fwVersion := v, packets := [] }
    else { s.dev with boot := .failed, failstep := BitVec.ofNat 4 step, packets := [] }
  let s := ({ s with dev := dev }.tickBy 0x4000000).reply p (if step == 0 then 0 else 4) step 0
  rest.foldl (fun s q => s.soon (packetStep q)) s

/-- BOOT: in the boot state verification begins; it ends some cycles later.  A BOOT packet that arrives meanwhile waits. -/
def execBoot (p : Packet) (s : State) : Done :=
  match s.dev.boot with
  | .verifying =>
    if s.dev.packets.head? == some p then .next (s.bootEnds p)
    else .next { s with dev := { s.dev with packets := s.dev.packets ++ [p] } }
  | .running => .next (s.reply p (if packetOp p != 6 || !packetOk p then 2 else 1) 0 0)
  | .waiting | .failed =>
    if packetOp p != 6 || !packetOk p then .next (s.reply p 2 0 0)
    else
      let dev : Device := { s.dev with
        boot := .verifying, packets := [p], attempts := if s.dev.attempts == 255 then 255 else s.dev.attempts + 1 }
      .next ({ s with dev := dev }.laterFree 1 (.boot p))

end Sys2Proof.Machine
end

