-- ==== Sys2Proof/Machine/Link.lean ====
section
/-! DEFINITION. The host's side of the device: ingress ports (R376, R377), the UALink window (R381, R385), accesses of peers
(R269, R271), device reset (R385) and the power controller (R391). -/

namespace Sys2Proof.Machine

/-! ## Ingress ports (R376, R377) -/

/-- ING_STAT. -/
def Ingress.stat (q : Ingress) : Word64 :=
  0#16 ++ BitVec.ofNat 8 q.buf.length ++ 0#7 ++ BitVec.ofBool q.bound.isSome ++ q.drops

/-- The token of a 128-byte write; the port computes PAR. -/
def ingressToken (bs : List Byte) : Token :=
  Token.seal { tokenOf (bs.take 64) (BitVec.ofNat 32 (bytesNat ((bs.drop 64).take 4))) with mark := false }

/-- A write sets MARK. -/
def ingressMarked (bs : List Byte) : Bool := (BitVec.ofNat 32 (bytesNat ((bs.drop 64).take 4))).getLsbD 5

/-- The port takes no write now: its buffer is full. -/
def Ingress.busy (q : Ingress) : Bool := 64 ≤ q.buf.length

/-- A write is completed at a port: its token is dropped, or buffered with the handle and the channel that it names; the first one
of a stream binds the port. -/
def State.ingressTakes (s : State) (p : BitVec 8) (bs : List Byte) : State :=
  let q := s.port p
  if ingressMarked bs then s.setPort q.drop
  else
    let h : Word64 := BitVec.ofNat 64 (bytesNat ((bs.drop 72).take 8))
    let c := bytesNat ((bs.drop 80).take 2)
    (s.setPort { q with buf := q.buf ++ [(ingressToken bs, h, c)] }).bindPort p 1

/-- INGRESS_WRITE: 128 bytes at a 128-byte-aligned offset below 0x800 deliver one token; a write that finds the port full
is not completed at the link, nor is one behind it.  Any other write to the page changes nothing. -/
def execIngressWrite (port : BitVec 8) (offset : Nat) (bytes : List Byte) (s : State) : Done :=
  if s.dev.boot != .running || bytes.length != 128 || offset % 128 != 0 || 0x800 ≤ offset then .next s
  else
    let q := s.port port
    .next (if q.busy || !q.link.isEmpty then s.setPort { q with link := q.link ++ [bytes] } else s.ingressTakes port bytes)

/-- The writes at the link that a port now has room for are completed. -/
def State.ingressPull (s : State) (p : BitVec 8) : Nat → State
  | 0 => s
  | n + 1 =>
    let q := s.port p
    match q.link with
    | [] => s
    | bs :: rest => if q.busy then s else ((s.setPort { q with link := rest }).ingressTakes p bs).ingressPull p n

/-- The end of a channel that a port feeds exists (R377): its region is mapped, or its context's queue is bound. -/
def State.chanExists (s : State) (h : Word64) (c : Chan) : Bool :=
  if c.dkind == 0 then match s.place h c.dent with
    | some p => p.st == .placed && !p.first
    | none => false
  else (s.cfg h).any fun g => g.st == .running

/-- INGRESS_DELIVERY: the oldest token leaves for its channel once the channel's in-link exists and has room (R377); an
end-of-stream returns the port to IDLE. -/
def execIngressDelivery (port : BitVec 8) (s : State) : Done :=
  let q := s.port port
  let s := match q.bound, q.buf with
    | some (h, c), (t, _, _) :: rest => match s.chan h c with
      | some (ch : Chan) =>
        if s.chanExists h ch && ch.skind == 2 && ch.out.length < 8 then
          let s := (s.onChan h c fun (ch : Chan) => { ch with out := ch.out ++ [(⟨t, [], none⟩ : ChanTok)] }).setPort { q with
            buf := rest, bound := if t.eos then none else q.bound }
          s.bindPort port rest.length
        else s
      | none => s
    | _, _ => s
  .next (s.ingressPull port q.link.length)

/-- ING_STAT_CLEAR: bit 63 clears DROPS. -/
def execIngStatClear (port : BitVec 8) (v : Word64) (s : State) : Done :=
  .next (if v.getLsbD 63 then s.setPort { s.port port with drops := 0 } else s)

/-! ## Memory seen from outside (R244, R271, R381) -/

/-- n bytes from an address on, cut at multiples of 64. -/
def cutUnits (a n : Nat) : List (Nat × Nat) :=
  (List.range ((a % 64 + n + 63) / 64)).map fun i =>
    let lo := max a (a / 64 * 64 + 64 * i)
    (lo, min (a + n) (a / 64 * 64 + 64 * i + 64) - lo)

/-- Memory of the device that an access from outside reaches: a column, scratch or the ember store (R244), no write into
a rotation area (R85). -/
def State.served (s : State) (wr : Bool) (pa n : Nat) : Bool :=
  match s.phys pa with
  | .dram .. | .ember .. => true
  | .scratch c tile off => !(wr && s.hitsRotation c (Fin.ofNat 32 tile) off n)
  | _ => false

/-- Every unit is served. -/
def State.allServed (s : State) (wr : Bool) (a n : Nat) : Bool := (cutUnits a n).all fun u => s.served wr u.1 u.2

/-- Bytes written from outside, each unit at its serving controller. -/
def State.outsideWrite (s : State) (a : Nat) (bs : List Byte) : State :=
  (cutUnits a bs.length).foldl (fun s u =>
    (s.writePhys u.1 ((bs.drop (u.1 - a)).take u.2)).spoilRings u.1 u.2) s

/-- Bytes read from outside; those of a unit with an uncorrectable error are free (R243). -/
def State.outsideBytes (s : State) (a n : Nat) : List Byte :=
  (cutUnits a n).flatMap fun u =>
    if s.mem.isPoison u.1 || s.mem.isUe u.1 then
      (List.range u.2).map fun i => Config.freeByte (s.clk.fresh + (u.1 - a) + i)
    else s.readBytes u.1 u.2

/-- A read from outside: what it answers, and the error marks it meets. -/
def State.outsideRead (s : State) (a n : Nat) : State :=
  let bs := s.outsideBytes a n
  (((cutUnits a n).foldl (fun s u => s.meetUnit outsideRec u.1) s).tickBy n).emit (.answer bs)

/-! ## The window (R381, R385) -/

/-- A range of the window. -/
inductive Range where
  | memory
  | ingress (port : BitVec 8) (off : Nat)
  | mailbox (off : Nat)
  | csr (off : Nat)
  | outside
  deriving DecidableEq, Repr

/-- The range that holds n bytes of the window, all of them. -/
def windowRange (a n : Nat) : Range :=
  if a + n ≤ 0x4060000000 then .memory
  else if 0xF000000000 ≤ a && a + n ≤ 0xF000000000 + 256 * 4096 && a % 4096 + n ≤ 4096 then
    .ingress (BitVec.ofNat 8 ((a - 0xF000000000) / 4096)) (a % 4096)
  else if 0xF800000000 ≤ a && a + n ≤ 0xF800000000 + 64 then .mailbox (a - 0xF800000000)
  else if 0xFC00000000 ≤ a && a + n ≤ 0xFC00000000 + 0x4000 then .csr (a - 0xFC00000000)
  else .outside

/-- n bytes lie in the boot area. -/
def inBootArea (a n : Nat) : Bool := bootArea ≤ a && a + n ≤ bootArea + 0x4000000

/-- A device CSR as the host reads it; the numbers of per-core CSRs read zero (R381). -/
def State.deviceCsr (s : State) (n : Nat) : Word64 :=
  if (0x330 ≤ n && n < 0x340) || (0x370 ≤ n && n < 0x800) then (s.csrAt 0 n).getD 0 else 0

/-- Bytes of the CSR page. -/
def State.csrBytes (s : State) (off n : Nat) : List Byte :=
  (List.range n).map fun i => BitVec.ofNat 8 ((s.deviceCsr ((off + i) / 8)).toNat / 256 ^ ((off + i) % 8))

/-- EGO_HEAD after a write of bytes to the CSR page. -/
def headAfter (v : Word64) (off : Nat) (bs : List Byte) : Word64 :=
  BitVec.ofNat 64 (bytesNat ((List.range 8).map fun i =>
    if off ≤ 0x1C10 + i && 0x1C10 + i < off + bs.length then bs.getD (0x1C10 + i - off) 0
    else BitVec.ofNat 8 (v.toNat / 256 ^ i)))

/-- A packet written to the mailbox is performed next, in its turn (R374). -/
def State.mail (s : State) (p : Packet) : State := s.soon (packetStep p)

/-- HOST_MEMORY_WRITE. -/
def execHostMemoryWrite (addr : Nat) (bytes : List Byte) (s : State) : Done :=
  let n := bytes.length
  let refused := s.emit .linkError
  let boots := s.dev.boot != .running
  .next (match windowRange addr n with
    | .memory => if (boots && !inBootArea addr n) || !s.allServed true addr n then refused else s.outsideWrite addr bytes
    | .mailbox off => if off == 0 && n == 64 then s.mail (BitVec.ofNat 512 (bytesNat bytes)) else refused
    | .ingress p off =>
      if boots then refused
      else if off == 0x800 && n == 8 then s.soon (.ingStatClear p (BitVec.ofNat 64 (bytesNat bytes)))
      else s.soon (.ingressWrite p off bytes)
    | .csr off =>
      if boots then (if 0x1F80 ≤ off && off + n ≤ 0x1F88 then s else refused)
      else if off < 0x1C18 && 0x1C10 < off + n then s.soon (.egoHeadWrite (headAfter s.egress.head off bytes))
      else s
    | .outside => refused)

/-- HOST_MEMORY_READ. -/
def execHostMemoryRead (addr n : Nat) (s : State) : Done :=
  let refused := s.emit .linkError
  let boots := s.dev.boot != .running
  .next (match windowRange addr n with
    | .memory => if (boots && !inBootArea addr n) || !s.allServed false addr n then refused else s.outsideRead addr n
    | .mailbox _ => s.emit (.answer (List.replicate n 0))
    | .ingress p off =>
      if boots then refused
      else
        s.emit (.answer ((List.range n).map fun i =>
          if 0x800 ≤ off + i && off + i < 0x808 then BitVec.ofNat 8 ((s.port p).stat.toNat / 256 ^ (off + i - 0x800)) else 0))
    | .csr off =>
      if boots && !(0x1F80 ≤ off && off + n ≤ 0x1F88) then refused else s.emit (.answer (s.csrBytes off n))
    | .outside => refused)

/-- PEER_ACCESS: served at the serving controller, or refused with the link's error response and nothing changed. -/
def execPeerAccess (write : Bool) (addr n : Nat) (bytes : List Byte) (s : State) : Done :=
  let len := if write then bytes.length else n
  .next (
    if s.dev.boot != .running || 0x4060000000 < addr + len || !s.allServed write addr len then s.emit .linkError
    else if write then s.outsideWrite addr bytes
    else s.outsideRead addr n)

/-! ## Reset and throttling (R385, R391) -/

/-- The step is something that the outside world does to the device: reset does not take it back. -/
def isOutside (s : State) : Instr → Bool
  | .boot p => !(s.dev.boot == .verifying && s.dev.packets.head? == some p)
  | .launchPacket _ | .register _ | .dropPacket _ | .query _ | .attest _ | .ingressWrite .. | .ingStatClear ..
  | .hostMemoryWrite .. | .hostMemoryRead .. | .egoHeadWrite _ | .deviceReset | .thermalThrottle | .throttleEnd
  | .peerAccess .. => true
  | _ => false

/-- DEVICE_RESET: the boot state (R385).  Memory, the fused counter, the power controller and the STATE of the regions, whose reset
is "—" (R12, R291), stand as they are. -/
def execDeviceReset (s : State) : Done :=
  let z := State.reset
  .next { z with
    mem := s.mem
    cores := s.cores.map fun c => { Core.reset with regions := c.regions.map fun g => { Region.blank with st := g.st } }
    host := { z.host with out := s.host.out }
    dev := { z.dev with rollback := s.dev.rollback, throttled := s.dev.throttled }
    clk := { z.clk with
      now := s.clk.now, fresh := s.clk.fresh, ids := s.clk.ids, pending := s.clk.pending.filter fun p => isOutside s p.2 } }

/-- THERMAL_THROTTLE: the arithmetic clock is reduced; only cycles change. -/
def execThermalThrottle (s : State) : Done := .next { s with dev := { s.dev with throttled := true } }

/-- THROTTLE_END. -/
def execThrottleEnd (s : State) : Done := .next { s with dev := { s.dev with throttled := false } }

end Sys2Proof.Machine
end

