-- ==== Sys2Proof/Machine/Reduce.lean ====
section
/-! DEFINITION. Reductions across lanes and lane movement (R160..R167). -/

namespace Sys2Proof.Machine

/-- RSUM (R161). -/
def execRsum (f : FA) (s : State) : Done :=
  .next (s.wideOp f.io 5 (modTag f.mod) (fun as _bs _cs => reduceTok .sum f as))

/-- RMAX (R161). -/
def execRmax (f : FA) (s : State) : Done :=
  .next (s.wideOp f.io 5 (modTag f.mod) (fun as _bs _cs => reduceTok .max f as))

/-- RMIN (R161). -/
def execRmin (f : FA) (s : State) : Done :=
  .next (s.wideOp f.io 5 (modTag f.mod) (fun as _bs _cs => reduceTok .min f as))

/-- ARGMX (R162). -/
def execArgmx (f : FA) (s : State) : Done :=
  .next (s.wideOp f.io 5 (modTag f.mod) (fun as _bs _cs => argmxTok f as))

/-- SCAN's carry: zero after mapping and after an end firing (R163). -/
def scanCarry : Run → Lane
  | .scan c => c
  | _ => 0

/-- SCAN (R163): a firing that computes moves the carry; a void, poisoned or faulting one leaves it. -/
def execScan (f : FA) (s : State) : Done :=
  let x := s.clk.focus
  let as := s.ents x f.io .a
  let r := scanTok f (scanCarry (s.slot x).run) as
  let o := laneOut (s.base x f.io) (modTag f.mod) (as.take 1) false (r.map Prod.fst)
  let run := match r with
    | .ok p => if (firstVoid (as.take 1)).isNone && !as.any Token.poisoned then .scan p.2 else (s.slot x).run
    | .error _ => (s.slot x).run
  .next (s.plain x f.io 6 (modTag f.mod) { s.laneShot x f.io o with run := run })

/-- DOT (R164). -/
def execDot (f : FA) (s : State) : Done :=
  .next (s.wideOp f.io 8 (modTag f.mod) (fun as bs cs => dotTok f as bs cs))

/-- PERM (R165). -/
def execPerm (f : FA) (s : State) : Done :=
  .next (s.laneOp f.io 1 (modTag f.mod) false (fun as bs _cs => permTok f as bs))

/-- BCAST (R166). -/
def execBcast (f : FI) (s : State) : Done :=
  .next (s.laneOp f.io 1 (modTag f.mod) false (fun as _bs _cs => bcastTok f as))

/-- The entries of port a that an ADV firing pops (R167): its count, read from port b's token when it can be read; a void,
poisoned or wrongly tagged count moves nothing (log 13). -/
def advPop (f : FA) (bs : List Token) : Nat :=
  if f.b.used && ((oldest bs).void || !(oldest bs).wordTag) then 0 else min (advCount f bs) f.a.needN

/-- What ADV's ports call for (R167, R32): `a` is the window, `b` the counts. -/
def advKind (b : Bool) (sa sb : PortSt) : Kind :=
  match sa with
  | .fin => .fin
  | .wait => .wait
  | .data => if !b then .fire else match sb with
    | .data => .fire
    | .fin => .mismatch
    | .wait => .wait

/-- ADV's firing (R167). -/
def advShot (s : State) (x : Site) (f : FA) : Shot :=
  let as := s.ents x f.io .a
  let bs := s.ents x f.io .b
  let o := laneOut (s.base x f.io) (modTag f.mod) (as.take 1 ++ bs.take 1) false (advTok f (s.edgeAt x .a) as bs)
  { pa := advPop f bs, pb := f.b.popN, out := .both o.1, run := .idle, cause := o.2 }

/-- ADV's end (R167): port a through its end-of-stream, and port b likewise, token by token as they arrive. -/
def advClosing (s : State) (x : Site) (f : FA) : State :=
  match s.front x .b with
  | none => s
  | some t =>
    if t.eos then s.attempt x f.io 1 1 1 { pb := 1, out := .both eosToken, run := .idle, fin := true }
    else s.attempt x f.io 1 0 0 { pb := 1, run := .adv, fin := true }

/-- ADV (R167). -/
def execAdv (f : FA) (s : State) : Done :=
  let x := s.clk.focus
  if (s.slot x).run == .adv then .next (advClosing s x f)
  else match advKind f.b.used (s.portSt x f.io .a) (s.portSt x f.io .b) with
  | .wait => .next s
  | .fin =>
    let n := throughEos ((s.slot x).port .a).q
    if f.b.used then .next (s.attempt x f.io 1 0 0 { pa := n, run := .adv, fin := true })
    else .next (s.attempt x f.io 1 1 1 { pa := n, out := .both eosToken, run := .idle, fin := true })
  | .mismatch => .next (s.attempt x f.io 1 1 1
      { pa := 1, out := .both (voidFrom (s.front x .a) (modTag f.mod) causeLength), run := .idle
        cause := some causeLength })
  | .fire => .next (s.attempt x f.io 1 1 1 (advShot s x f))

end Sys2Proof.Machine
end

