-- ==== Sys2Proof/Machine/Sample.lean ====
section
/-! DEFINITION. SMRG (R334), RSVR, RDRAW and ACCPT (R362..R366). -/

namespace Sys2Proof.Machine

/-! ## SMRG -/

/-- F32 operations with one rounding each, RNE. -/
def subF32 (x y : Lane) : Lane := BitVec.ofNat 32 (f32.round .rne ((f32.dec x.toNat).add .rne (f32.dec y.toNat).flip))

/-- y2·f2 + round(y1·f1), the outer sum rounded once (R334). -/
def joinF32 (y1 f1 y2 f2 : Lane) : Lane :=
  let p := f32.dec (f32.round .rne ((f32.dec y1.toNat).mul (f32.dec f1.toNat)))
  BitVec.ofNat 32 (f32.round .rne (((f32.dec y2.toNat).mul (f32.dec f2.toNat)).add .rne p))

/-- EXP2 under RNE. -/
def exp2F32 (x : Lane) : Lane := BitVec.ofNat 32 (exp2Code .rne (f32.dec x.toNat))

/-- 1.0 in F32. -/
def oneF32 : Lane := 0x3F800000

/-- −∞ in F32. -/
def negInfF32 : Lane := 0xFF800000

/-- MODE, f1 and f2 of a join, and its header token (R334): 0 computed, 1 TAKEA, 2 TAKEB, 3 NAN. -/
def smrgHeader (a b : Token) : Nat × Lane × Lane × Token :=
  let m1 := a.lane 0
  let m2 := b.lane 0
  let kept (t : Token) (x y : Lane) : Token := Token.seal { t with lanes := (t.lanes.set 2 x).set 3 y }
  if (f32.dec m1.toNat).isNan || (f32.dec m2.toNat).isNan then
    (3, 0, 0, dataToken (Vector.replicate 16 (BitVec.ofNat 32 f32.canon)) 1)
  else if m1 == negInfF32 then (2, 0, oneF32, kept b 0 oneF32)
  else if m2 == negInfF32 then (1, oneF32, 0, kept a oneF32 0)
  else
    let m := BitVec.ofNat 32 (floatPick f32 true m1.toNat m2.toNat)
    let f1 := exp2F32 (subF32 m1 m)
    let f2 := exp2F32 (subF32 m2 m)
    (0, f1, f2, lanesToken [m, joinF32 (a.lane 1) f1 (b.lane 1) f2, f1, f2] 1)

/-- An o token of a join (R334). -/
def smrgPart (mode : Nat) (f1 f2 : Lane) (a b : Token) : Token :=
  match mode with
  | 1 => a
  | 2 => b
  | 3 => dataToken (Vector.replicate 16 (BitVec.ofNat 32 f32.canon)) 1
  | _ => mapLanes 1 fun l => joinF32 (a.lane l) f1 (b.lane l) f2

/-- SMRG's firing: the token, the running values after it, and a fault (R334).  Mode 4 is a join whose header was void or
faulted: every output is void. -/
def smrgStep (f : FA) (run : Run) (a b : Token) : Token × Run × Option Cause :=
  let n := (f.imm.extractLsb' 0 4).toNat + 1
  let next (mode : Nat) (f1 f2 : Lane) (p : Nat) : Run := if n < p then .idle else .smrg mode f1 f2 p
  let bad := a.tag != 1 || b.tag != 1
  match run with
  | .smrg mode f1 f2 p =>
    if a.void || b.void then (voidFrom (some a) 1 (if a.void then a.cause else b.cause), next mode f1 f2 (p + 1), none)
    else if bad then (voidFrom (some a) 1 causeFormat, next mode f1 f2 (p + 1), some causeFormat)
    else if mode == 4 then (voidFrom (some a) 1 0, next mode f1 f2 (p + 1), none)
    else (smrgPart mode f1 f2 a b, next mode f1 f2 (p + 1), none)
  | _ =>
    if a.void || b.void then (voidFrom (some a) 1 (if a.void then a.cause else b.cause), next 4 0 0 1, none)
    else if bad then (voidFrom (some a) 1 causeFormat, next 4 0 0 1, some causeFormat)
    else
      let h := smrgHeader a b
      (h.2.2.2, next h.1 h.2.1 h.2.2.1 1, none)

/-- SMRG: L is 14 for part 0 and 4 for the others. -/
def execSmrg (f : FA) (s : State) : Done :=
  let x := s.clk.focus
  let run := (s.slot x).run
  match s.kind x f.io with
  | .wait => .next s
  | .mismatch => .next (s.attempt x f.io 4 1 1 (s.mismatchShot x f.io 1))
  | .fin =>
    if run == .idle then .next (s.attempt x f.io 4 1 1 (s.endShot x f.io))
    else .next (s.attempt x f.io 4 1 1
      { out := .both (voidToken zeroLanes 1 causeLength), run := .idle, cause := some causeLength })
  | .fire =>
    let r := smrgStep f run (oldest (s.ents x f.io .a)) (oldest (s.ents x f.io .b))
    .next (s.attempt x f.io (if run == .idle then 14 else 4) 1 1
      { pa := 1, pb := 1, out := .both r.1, run := r.2.1, cause := r.2.2 })

/-! ## RSVR -/

/-- The state of a selection: candidate, total, flags. -/
structure Pick where
  c : Lane
  m : Lane
  fl : Lane

/-- One weight of a selection (R364). -/
def pickLane (key : Word64) (row : Lane) (n : Nat) (w : Lane) (p : Pick) : Pick :=
  let v := f32.dec w.toNat
  if v.isNan || w == 0x7F800000 then { p with fl := p.fl ||| 2 }
  else if v.cmp (.fin false 0 0) ≤ 0 then p
  else
    let m := BitVec.ofNat 32 (f32.round .rne ((f32.dec p.m.toNat).add .rne v))
    let u := drawValue key row (BitVec.ofNat 32 n)
    if u.isZero || (u.mul (f32.dec m.toNat)).cmp v < 0 then { p with c := BitVec.ofNat 32 n, m := m } else { p with m := m }

/-- A weight token of a selection (R364). -/
def pickToken (key : Word64) (row : Lane) (k : Nat) (a : Token) (p : Pick) : Pick :=
  (List.range 16).foldl (fun p l => pickLane key row (16 * k + l) (a.lane l) p) p

/-- The running values of a selection. -/
def rsvrState : Run → Nat × Pick × Option Cause × Bool
  | .rsvr k c m fl v p => (k, ⟨c, m, fl⟩, v, p)
  | _ => (0, ⟨0xFFFFFFFF, 0, 0⟩, none, false)

/-- What voids a selection in a firing: a void weight or control, or a format fault; the second part is the fault. -/
def rsvrVoid (a b : Token) : Option Cause × Option Cause :=
  if a.void then (some a.cause, none)
  else if b.void then (some b.cause, none)
  else if a.poisoned || b.poisoned then (none, none)
  else if !tagCheck false 1 a || !b.wordTag then (some causeFormat, some causeFormat)
  else (none, none)

/-- The result of a selection (R364). -/
def rsvrTok (p : Pick) (void : Option Cause) (poison : Bool) : Token :=
  match void with
  | some c => voidToken zeroLanes 7 c
  | none =>
    if poison then poisonToken
    else i32Token [p.c, p.m, if p.c == 0xFFFFFFFF then p.fl ||| 1 else p.fl]

/-- RSVR: L is 8 for the last firing of a selection, and 1 for the others. -/
def execRsvr (f : FA) (s : State) : Done :=
  let x := s.clk.focus
  let st := rsvrState (s.slot x).run
  let k := st.1
  match s.kind x f.io, s.portSt x f.io .a with
  | .fire, _ =>
    let a := oldest (s.ents x f.io .a)
    let b := oldest (s.ents x f.io .b)
    let v := rsvrVoid a b
    let void := st.2.2.1.or v.1
    let poison := st.2.2.2 || (!a.void && a.poisoned) || (!b.void && b.poisoned)
    let p := if void.isNone && !poison then pickToken (b.lane 4 ++ b.lane 3) (b.lane 1) k a st.2.1 else st.2.1
    if f.imm.toNat ≤ k then
      .next (s.attempt x f.io 8 1 1 { pa := 1, pb := 1, out := .both (rsvrTok p void poison), run := .idle, cause := v.2 })
    else .next (s.attempt x f.io 1 1 1 { pa := 1, run := .rsvr (k + 1) p.c p.m p.fl void poison, cause := v.2 })
  | _, .fin =>
    if k != 0 then
      .next (s.attempt x f.io 8 1 1
        { pb := s.dataPop x f.io .b, out := .both (voidToken zeroLanes 7 causeLength), run := .idle
          cause := some causeLength })
    else .next (s.plain x f.io 8 7 { run := .idle })
  | _, _ => .next (s.plain x f.io 8 7 { run := .idle })

/-! ## RDRAW and ACCPT -/

/-- RDRAW (R363). -/
def execRdraw (f : FA) (s : State) : Done :=
  .next (s.laneOp f.io 6 (modTag f.mod) false (fun as _bs _cs => rdrawTok f as))

/-- ACCPT (R366). -/
def execAccpt (f : FA) (s : State) : Done :=
  .next (s.laneOp f.io 8 7 false (fun as bs cs => accptTok f as bs cs))

end Sys2Proof.Machine
end

