-- ==== Sys2Proof/Machine/Dispatch.lean ====
section
/-! DEFINITION. The one dispatch from an instruction to its meaning. -/

namespace Sys2Proof.Machine

def exec (i : Instr) (s : State) : Host.Outcome State Fault Refusal :=
  match i with
  | .iadd f => Sys2Proof.Machine.execIadd f s
  | .isub f => Sys2Proof.Machine.execIsub f s
  | .imul f => Sys2Proof.Machine.execImul f s
  | .imulh f => Sys2Proof.Machine.execImulh f s
  | .imad f => Sys2Proof.Machine.execImad f s
  | .ineg f => Sys2Proof.Machine.execIneg f s
  | .iabs f => Sys2Proof.Machine.execIabs f s
  | .imin f => Sys2Proof.Machine.execImin f s
  | .imax f => Sys2Proof.Machine.execImax f s
  | .and f => Sys2Proof.Machine.execAnd f s
  | .or f => Sys2Proof.Machine.execOr f s
  | .xor f => Sys2Proof.Machine.execXor f s
  | .not f => Sys2Proof.Machine.execNot f s
  | .shl f => Sys2Proof.Machine.execShl f s
  | .shr f => Sys2Proof.Machine.execShr f s
  | .sar f => Sys2Proof.Machine.execSar f s
  | .rotl f => Sys2Proof.Machine.execRotl f s
  | .clz f => Sys2Proof.Machine.execClz f s
  | .popc f => Sys2Proof.Machine.execPopc f s
  | .icmp f => Sys2Proof.Machine.execIcmp f s
  | .sel f => Sys2Proof.Machine.execSel f s
  | .bfx f => Sys2Proof.Machine.execBfx f s
  | .bfi f => Sys2Proof.Machine.execBfi f s
  | .mov f => Sys2Proof.Machine.execMov f s
  | .const f => Sys2Proof.Machine.execConst f s
  | .lane f => Sys2Proof.Machine.execLane f s
  | .coord f => Sys2Proof.Machine.execCoord f s
  | .phase f => Sys2Proof.Machine.execPhase f s
  | .fadd f => Sys2Proof.Machine.execFadd f s
  | .fsub f => Sys2Proof.Machine.execFsub f s
  | .fmul f => Sys2Proof.Machine.execFmul f s
  | .fma f => Sys2Proof.Machine.execFma f s
  | .fmin f => Sys2Proof.Machine.execFmin f s
  | .fmax f => Sys2Proof.Machine.execFmax f s
  | .fabs f => Sys2Proof.Machine.execFabs f s
  | .fneg f => Sys2Proof.Machine.execFneg f s
  | .fcmp f => Sys2Proof.Machine.execFcmp f s
  | .fclass f => Sys2Proof.Machine.execFclass f s
  | .fscl f => Sys2Proof.Machine.execFscl f s
  | .rcp f => Sys2Proof.Machine.execRcp f s
  | .rsq f => Sys2Proof.Machine.execRsq f s
  | .exp2 f => Sys2Proof.Machine.execExp2 f s
  | .log2 f => Sys2Proof.Machine.execLog2 f s
  | .tcos f => Sys2Proof.Machine.execTcos f s
  | .tsin f => Sys2Proof.Machine.execTsin f s
  | .cvt f => Sys2Proof.Machine.execCvt f s
  | .qnt f => Sys2Proof.Machine.execQnt f s
  | .dqt f => Sys2Proof.Machine.execDqt f s
  | .pack f => Sys2Proof.Machine.execPack f s
  | .unpk f => Sys2Proof.Machine.execUnpk f s
  | .rndi f => Sys2Proof.Machine.execRndi f s
  | .sclc f => Sys2Proof.Machine.execSclc f s
  | .rsum f => Sys2Proof.Machine.execRsum f s
  | .rmax f => Sys2Proof.Machine.execRmax f s
  | .rmin f => Sys2Proof.Machine.execRmin f s
  | .argmx f => Sys2Proof.Machine.execArgmx f s
  | .scan f => Sys2Proof.Machine.execScan f s
  | .dot f => Sys2Proof.Machine.execDot f s
  | .perm f => Sys2Proof.Machine.execPerm f s
  | .bcast f => Sys2Proof.Machine.execBcast f s
  | .adv f => Sys2Proof.Machine.execAdv f s
  | .steer f => Sys2Proof.Machine.execSteer f s
  | .carry f => Sys2Proof.Machine.execCarry f s
  | .inv f => Sys2Proof.Machine.execInv f s
  | .merge f => Sys2Proof.Machine.execMerge f s
  | .amrg f => Sys2Proof.Machine.execAmrg f s
  | .cinch f => Sys2Proof.Machine.execCinch f s
  | .drop f => Sys2Proof.Machine.execDrop f s
  | .count f => Sys2Proof.Machine.execCount f s
  | .lctr f => Sys2Proof.Machine.execLctr f s
  | .eos f => Sys2Proof.Machine.execEos f s
  | .gate f => Sys2Proof.Machine.execGate f s
  | .rhead f => Sys2Proof.Machine.execRhead f s
  | .rheadLa f => Sys2Proof.Machine.execRheadLa f s
  | .sadm f => Sys2Proof.Machine.execSadm f s
  | .sevc f => Sys2Proof.Machine.execSevc f s
  | .shld f => Sys2Proof.Machine.execShld f s
  | .shldU f => Sys2Proof.Machine.execShldU f s
  | .srel f => Sys2Proof.Machine.execSrel f s
  | .sclr f => Sys2Proof.Machine.execSclr f s
  | .sstat f => Sys2Proof.Machine.execSstat f s
  | .bank f => Sys2Proof.Machine.execBank f s
  | .unbank f => Sys2Proof.Machine.execUnbank f s
  | .rerot f => Sys2Proof.Machine.execRerot f s
  | .mark f => Sys2Proof.Machine.execMark f s
  | .ld f => Sys2Proof.Machine.execLd f s
  | .st f => Sys2Proof.Machine.execSt f s
  | .lds f => Sys2Proof.Machine.execLds f s
  | .stf f => Sys2Proof.Machine.execStf f s
  | .ldx f => Sys2Proof.Machine.execLdx f s
  | .stx f => Sys2Proof.Machine.execStx f s
  | .amo f => Sys2Proof.Machine.execAmo f s
  | .done f => Sys2Proof.Machine.execDone f s
  | .rpush f => Sys2Proof.Machine.execRpush f s
  | .rpop f => Sys2Proof.Machine.execRpop f s
  | .mtask f => Sys2Proof.Machine.execMtask f s
  | .msync f => Sys2Proof.Machine.execMsync f s
  | .mdrain f => Sys2Proof.Machine.execMdrain f s
  | .xreq f => Sys2Proof.Machine.execXreq f s
  | .xmc f => Sys2Proof.Machine.execXmc f s
  | .pglk f => Sys2Proof.Machine.execPglk f s
  | .pgfork f => Sys2Proof.Machine.execPgfork f s
  | .pgfree f => Sys2Proof.Machine.execPgfree f s
  | .pgbase f => Sys2Proof.Machine.execPgbase f s
  | .ldk f => Sys2Proof.Machine.execLdk f s
  | .ldv f => Sys2Proof.Machine.execLdv f s
  | .kapp f => Sys2Proof.Machine.execKapp f s
  | .smrg f => Sys2Proof.Machine.execSmrg f s
  | .rsvr f => Sys2Proof.Machine.execRsvr f s
  | .rdraw f => Sys2Proof.Machine.execRdraw f s
  | .accpt f => Sys2Proof.Machine.execAccpt f s
  | .egput f => Sys2Proof.Machine.execEgput f s
  | .egver f => Sys2Proof.Machine.execEgver f s
  | .egrst f => Sys2Proof.Machine.execEgrst f s
  | .rein f => Sys2Proof.Machine.execRein f s
  | .kadd f => Sys2Proof.Machine.execKadd f s
  | .ksub f => Sys2Proof.Machine.execKsub f s
  | .kmul f => Sys2Proof.Machine.execKmul f s
  | .kand f => Sys2Proof.Machine.execKand f s
  | .kor f => Sys2Proof.Machine.execKor f s
  | .kxor f => Sys2Proof.Machine.execKxor f s
  | .kshl f => Sys2Proof.Machine.execKshl f s
  | .kshr f => Sys2Proof.Machine.execKshr f s
  | .kcmp f => Sys2Proof.Machine.execKcmp f s
  | .ksel f => Sys2Proof.Machine.execKsel f s
  | .kmovi f => Sys2Proof.Machine.execKmovi f s
  | .kld f => Sys2Proof.Machine.execKld f s
  | .kst f => Sys2Proof.Machine.execKst f s
  | .krd f => Sys2Proof.Machine.execKrd f s
  | .kwr f => Sys2Proof.Machine.execKwr f s
  | .kstm f => Sys2Proof.Machine.execKstm f s
  | .kldm f => Sys2Proof.Machine.execKldm f s
  | .qsend f => Sys2Proof.Machine.execQsend f s
  | .qrecv f => Sys2Proof.Machine.execQrecv f s
  | .rep f => Sys2Proof.Machine.execRep f s
  | .bra f => Sys2Proof.Machine.execBra f s
  | .bcall f => Sys2Proof.Machine.execBcall f s
  | .bret f => Sys2Proof.Machine.execBret f s
  | .csrrd f => Sys2Proof.Machine.execCsrrd f s
  | .csrwr f => Sys2Proof.Machine.execCsrwr f s
  | .trap f => Sys2Proof.Machine.execTrap f s
  | .eret f => Sys2Proof.Machine.execEret f s
  | .wfe f => Sys2Proof.Machine.execWfe f s
  | .evpop f => Sys2Proof.Machine.execEvpop f s
  | .prcw f => Sys2Proof.Machine.execPrcw f s
  | .prcwS f => Sys2Proof.Machine.execPrcwS f s
  | .launch f => Sys2Proof.Machine.execLaunch f s
  | .halt f => Sys2Proof.Machine.execHalt f s
  | .egarm f => Sys2Proof.Machine.execEgarm f s
  | .tokenArrival src tgt tok gen stamp => Sys2Proof.Machine.execTokenArrival src tgt tok gen stamp s
  | .creditReturn src which gen => Sys2Proof.Machine.execCreditReturn src which gen s
  | .longChannelDelivery handle chan => Sys2Proof.Machine.execLongChannelDelivery handle chan s
  | .guardReportPost core region link => Sys2Proof.Machine.execGuardReportPost core region link s
  | .slotPass core region => Sys2Proof.Machine.execSlotPass core region s
  | .commandEnqueue core region cmd gen => Sys2Proof.Machine.execCommandEnqueue core region cmd gen s
  | .emberReadDone core region gen => Sys2Proof.Machine.execEmberReadDone core region gen s
  | .emberWriteDone core region gen => Sys2Proof.Machine.execEmberWriteDone core region gen s
  | .headRetire core region => Sys2Proof.Machine.execHeadRetire core region s
  | .markerArrival dst port pos gen => Sys2Proof.Machine.execMarkerArrival dst port pos gen s
  | .snapWindowExpiry site gen => Sys2Proof.Machine.execSnapWindowExpiry site gen s
  | .snapshotClose core region => Sys2Proof.Machine.execSnapshotClose core region s
  | .regionLoad core region gen => Sys2Proof.Machine.execRegionLoad core region gen s
  | .loadComplete core region gen => Sys2Proof.Machine.execLoadComplete core region gen s
  | .elementEviction core elem => Sys2Proof.Machine.execElementEviction core elem s
  | .elementRestore core elem => Sys2Proof.Machine.execElementRestore core elem s
  | .regionCommit core region => Sys2Proof.Machine.execRegionCommit core region s
  | .completionRelease core region => Sys2Proof.Machine.execCompletionRelease core region s
  | .preemptComplete core region gen => Sys2Proof.Machine.execPreemptComplete core region gen s
  | .lateResultArrival id => Sys2Proof.Machine.execLateResultArrival id s
  | .accessPerform id => Sys2Proof.Machine.execAccessPerform id s
  | .memoryResultDelivery site => Sys2Proof.Machine.execMemoryResultDelivery site s
  | .ldsWake id => Sys2Proof.Machine.execLdsWake id s
  | .walkComplete id => Sys2Proof.Machine.execWalkComplete id s
  | .scrubLine core dram line => Sys2Proof.Machine.execScrubLine core dram line s
  | .taskEnqueue core => Sys2Proof.Machine.execTaskEnqueue core s
  | .taskIssue core => Sys2Proof.Machine.execTaskIssue core s
  | .taskRetire core engine => Sys2Proof.Machine.execTaskRetire core engine s
  | .msyncComplete core => Sys2Proof.Machine.execMsyncComplete core s
  | .transferAccept core => Sys2Proof.Machine.execTransferAccept core s
  | .transferLine core id line => Sys2Proof.Machine.execTransferLine core id line s
  | .transferComplete core id => Sys2Proof.Machine.execTransferComplete core id s
  | .xmcPermit core id => Sys2Proof.Machine.execXmcPermit core id s
  | .blockFetch core ctx gen => Sys2Proof.Machine.execBlockFetch core ctx gen s
  | .controlBlockCommit core ctx => Sys2Proof.Machine.execControlBlockCommit core ctx s
  | .repRepetition core ctx => Sys2Proof.Machine.execRepRepetition core ctx s
  | .wfeTimeout core ctx slot gen => Sys2Proof.Machine.execWfeTimeout core ctx slot gen s
  | .ctxpartWrite core w v => Sys2Proof.Machine.execCtxpartWrite core w v s
  | .guardMapWrite core w num v => Sys2Proof.Machine.execGuardMapWrite core w num v s
  | .tlbinvAll w => Sys2Proof.Machine.execTlbinvAll w s
  | .tlbinvAsid w asid => Sys2Proof.Machine.execTlbinvAsid w asid s
  | .tlbinvPage w asid vpn => Sys2Proof.Machine.execTlbinvPage w asid vpn s
  | .regctlRelease core w region => Sys2Proof.Machine.execRegctlRelease core w region s
  | .regctlRemap core w region => Sys2Proof.Machine.execRegctlRemap core w region s
  | .regctlPreempt core w region => Sys2Proof.Machine.execRegctlPreempt core w region s
  | .fwCtlWrite w v => Sys2Proof.Machine.execFwCtlWrite w v s
  | .fwResume w v => Sys2Proof.Machine.execFwResume w v s
  | .ctxswSave core w ctx addr => Sys2Proof.Machine.execCtxswSave core w ctx addr s
  | .ctxswRestore core w ctx addr => Sys2Proof.Machine.execCtxswRestore core w ctx addr s
  | .ctxswClear core w ctx => Sys2Proof.Machine.execCtxswClear core w ctx s
  | .ctxswStop core w ctx => Sys2Proof.Machine.execCtxswStop core w ctx s
  | .contextStop core ctx => Sys2Proof.Machine.execContextStop core ctx s
  | .ctxgo core w v => Sys2Proof.Machine.execCtxgo core w v s
  | .dbgCtlWrite core w v => Sys2Proof.Machine.execDbgCtlWrite core w v s
  | .kvtCsrWrite w num v => Sys2Proof.Machine.execKvtCsrWrite w num v s
  | .dmawinLockSet w v => Sys2Proof.Machine.execDmawinLockSet w v s
  | .csrWrite core w num v => Sys2Proof.Machine.execCsrWrite core w num v s
  | .collectorRecord r => Sys2Proof.Machine.execCollectorRecord r s
  | .collectorWindowClose => Sys2Proof.Machine.execCollectorWindowClose s
  | .parkedReoffer r => Sys2Proof.Machine.execParkedReoffer r s
  | .reinWindowStart handle rein => Sys2Proof.Machine.execReinWindowStart handle rein s
  | .reinUpdate handle rein => Sys2Proof.Machine.execReinUpdate handle rein s
  | .egputEntryFree => Sys2Proof.Machine.execEgputEntryFree s
  | .egressRecordOut => Sys2Proof.Machine.execEgressRecordOut s
  | .egoHeadWrite v => Sys2Proof.Machine.execEgoHeadWrite v s
  | .launchPacket p => Sys2Proof.Machine.execLaunchPacket p s
  | .register p => Sys2Proof.Machine.execRegister p s
  | .dropPacket p => Sys2Proof.Machine.execDropPacket p s
  | .query p => Sys2Proof.Machine.execQuery p s
  | .attest p => Sys2Proof.Machine.execAttest p s
  | .boot p => Sys2Proof.Machine.execBoot p s
  | .ingressWrite port offset bytes => Sys2Proof.Machine.execIngressWrite port offset bytes s
  | .ingressDelivery port => Sys2Proof.Machine.execIngressDelivery port s
  | .ingStatClear port v => Sys2Proof.Machine.execIngStatClear port v s
  | .hostMemoryWrite addr bytes => Sys2Proof.Machine.execHostMemoryWrite addr bytes s
  | .hostMemoryRead addr n => Sys2Proof.Machine.execHostMemoryRead addr n s
  | .kilnPlace => Sys2Proof.Machine.execKilnPlace s
  | .launchAging handle => Sys2Proof.Machine.execLaunchAging handle s
  | .imageReadDone handle ok => Sys2Proof.Machine.execImageReadDone handle ok s
  | .deviceReset => Sys2Proof.Machine.execDeviceReset s
  | .thermalThrottle => Sys2Proof.Machine.execThermalThrottle s
  | .peerAccess write addr n bytes => Sys2Proof.Machine.execPeerAccess write addr n bytes s
  | .throttleEnd => Sys2Proof.Machine.execThrottleEnd s

end Sys2Proof.Machine
end

