-- ==== Sys2Proof/Machine/Tick.lean ====
section
/-! DEFINITION. The order of things in time (log 1): what a cycle has to do, and what the machine runs next. -/

namespace Sys2Proof.Machine

/-! ## What a cycle looks at -/

/-- Every region of the device. -/
def allRegions : List (Fin 96 × Fin 8) := (List.finRange 96).flatMap fun c => (List.finRange 8).map fun r => (c, r)

/-- Every context of the device. -/
def allContexts : List (Fin 96 × Fin 4) := (List.finRange 96).flatMap fun c => (List.finRange 4).map fun k => (c, k)

/-- The faults raised in the cycle that has ended take effect, those of pre-empted entry blocks too (R289, R306). -/
def State.settleAll (s : State) : State :=
  let s := allRegions.foldl (fun s p => s.settleFaults p.1 p.2) s
  s.kiln.cfgs.foldl (fun s g => (List.range g.places.length).foldl (fun s i => s.settleKept g.handle i) s) s

/-- The slots of a MAPPED region that hold an instruction on an element that is not blocked, in ascending order. -/
def State.fires (s : State) : List Act :=
  allRegions.flatMap fun p =>
    let g := s.region p.1 p.2
    if g.st != .mapped then []
    else (g.slotIdx.filter fun i =>
      let x := siteOf p.1 p.2 i
      (s.slot x).word != 0 && !(s.elem p.1 (s.elemAt x)).blocked).map fun i => .fire (siteOf p.1 p.2 i)

/-- The results that can leave a reorder buffer (R240, R289). -/
def State.results (s : State) : List Act :=
  allRegions.flatMap fun p =>
    let g := s.region p.1 p.2
    if g.st != .mapped && g.st != .committing then []
    else (g.slotIdx.filter fun i => ((s.slot (siteOf p.1 p.2 i)).rob.head?).any s.robReady).map fun i =>
      .event (.memoryResultDelivery (siteOf p.1 p.2 i))

/-- What a core's islands have to do (R211, R222, R257). -/
def State.islands (s : State) (c : Fin 96) : List Act :=
  let m := (s.core c).matrix
  let t := (s.core c).streamer
  (if !m.reqs.isEmpty && !Config.freeBit s.clk.fresh then [Act.event (.taskEnqueue c)] else []) ++
    (if m.queue.isEmpty then [] else [Act.event (.taskIssue c)]) ++
    (if m.syncs.isEmpty then [] else [Act.event (.msyncComplete c)]) ++
    (if t.reqs.isEmpty then [] else [Act.event (.transferAccept c)]) ++
    ((t.xfers.filter fun x => x.req.isMulti).map fun x => Act.event (.xmcPermit c x.id)) ++
    (t.round.map fun x => Act.event (.transferLine c x.id x.next))

/-- The scrubber's lines of this cycle that hold an error (R310): at every 1,024th cycle it passes over the next lines. -/
def State.scrubs (s : State) : List Act :=
  if s.clk.now % 1024 != 0 then []
  else
    let due (p : Fin 96 × Bool × Nat) : Bool :=
      let rate : Nat := if p.2.1 then (s.core p.1).drate.toNat else (s.core p.1).srate.toNat
      let total : Nat := if p.2.1 then 16777216 else 49152
      (p.2.2 + total - s.clk.now / 1024 * rate % total) % total < rate
    ((((s.mem.ue ++ s.mem.ce).filterMap fun u => s.scrubPlace (64 * u)).eraseDups).filter due).map fun p =>
      .event (.scrubLine p.1 p.2.1 p.2.2)

/-- What the contexts of a core have to do (R184, R190, R195, R302). -/
def State.contexts (s : State) (c : Fin 96) : List Act :=
  (List.finRange 4).flatMap fun k =>
    let t := s.ctx c k
    match t.blk with
    | some b =>
      (if b.reps.isEmpty && t.drains.isEmpty then [] else [Act.event (.repRepetition c k)]) ++ [Act.event (.controlBlockCommit c k)] ++
        (if t.stopReq then [Act.event (.contextStop c k)] else [])
    | none =>
      (if t.drains.isEmpty then [] else [Act.event (.repRepetition c k)]) ++
        if t.stopReq then [Act.event (.contextStop c k)] else []

/-- What the outside of the device waits for: records, ingress tokens, launches (R357, R377, R379). -/
def State.outer (s : State) : List Act :=
  (if s.egress.out.isEmpty then [] else [Act.event .egressRecordOut]) ++
    ((s.host.ports.filter fun p => !p.buf.isEmpty || !p.link.isEmpty).map fun p => Act.event (.ingressDelivery p.port)) ++
    if s.kiln.works then [Act.event .kilnPlace] else []

/-! ## What happens of itself at the start of a cycle -/

/-- Long channels with content begin a delivery (R37). -/
def State.channels (s : State) : State :=
  s.kiln.cfgs.foldl (fun s g => (List.range g.chans.length).foldl (fun s i => s.chanStart g.handle i) s) s

/-- Every rein counts the cycle; the windows and updates that are due (R344, R345). -/
def State.reinsTick (s : State) : State × List Act :=
  s.kiln.cfgs.foldl (fun q g => g.reins.zipIdx.foldl (fun q r =>
    let n := s.reinCycle g r.1
    (q.1.onRein g.handle r.2 fun _ => n.1,
      q.2 ++ (if n.2.1 then [Act.event (.reinWindowStart g.handle r.2)] else []) ++
        if n.2.2 then [Act.event (.reinUpdate g.handle r.2)] else [])) q) (s, [])

/-- Waits of the contexts end and their results leave (R189). -/
def State.tendAll (s : State) : State :=
  allContexts.foldl (fun s p => if (s.ctx p.1 p.2).blk.isSome then s.ktend p.1 p.2 else s) s

/-- The firings of a core's control engine in this cycle (R184). -/
def State.engine (s : State) (q : State × List Act) (c : Fin 96) : State × List Act :=
  let r := s.kchoose c
  if r.1.isEmpty then q
  else (q.1.onCore c fun k => { k with turn := r.2 }, q.2 ++ r.1.map Act.kfire)

/-- The firings of every core's control engine. -/
def State.engines (s : State) : State × List Act := (List.finRange 96).foldl (fun q c => s.engine q c) (s, [])

/-- The clock moves on by one cycle; the pending events that are due leave it. -/
def State.clockOn (s : State) : State :=
  { s with clk := { s.clk with now := s.clk.now + 1, pending := s.clk.pending.filter fun p => s.clk.now + 1 < p.1 } }

/-- The pending events that are due in the next cycle, in the order in which they were set. -/
def State.due (s : State) : List Instr := (s.clk.pending.filter fun p => p.1 ≤ s.clk.now + 1).map Prod.snd

/-- The access that an event performs. -/
def performs : Instr → Option Nat
  | .accessPerform id => some id
  | _ => none

/-- The due events of a cycle: those that ask for no bank, then the accesses that the banks serve; those that the banks turn away
come again in the next cycle (R239; log 113). -/
def State.serveDue (s : State) (due : List Instr) : State × List Act :=
  let r := s.bankRound (due.filterMap performs)
  let plain := due.filter fun i => match performs i with
    | some id => !r.1.contains id && !r.2.contains id
    | none => true
  (r.2.foldl (fun s id => s.later 1 (.accessPerform id)) s, (plain ++ r.1.map Instr.accessPerform).map Act.event)

/-- What a cycle has to do, given the reins' events and the firings of the control engines (log 1). -/
def State.work (s : State) (reins control : List Act) : List Act :=
  reins ++ s.results ++ (if s.dev.throttled && Config.freeBit s.clk.fresh then [] else s.fires) ++
    ((List.finRange 96).flatMap s.islands) ++ control ++ ((List.finRange 96).flatMap s.contexts) ++ s.scrubs ++ s.outer

/-- Puts work on the agenda. -/
def State.plan (s : State) (as : List Act) : State := { s with clk := { s.clk with agenda := s.clk.agenda ++ as } }

/-- The next cycle begins: a collector window that has ended closes before any record of the cycle (R293), the faults of the
last cycle take effect, and the agenda is made. -/
def State.tick (s : State) : State :=
  let closing := if s.col.closes (s.clk.now + 1) then [Act.event .collectorWindowClose] else []
  let t := (s.clockOn.plan closing).settleAll
  let r := t.channels.tendAll.reinsTick
  let e := r.1.engines
  let d := e.1.serveDue s.due
  (d.1.plan (d.2 ++ d.1.work r.2 e.2)).tickFresh

/-! ## What the machine runs next -/

/-- The ports of a slot that hold a token of bad parity among those that a firing reads (R288, R309). -/
def State.badPorts (s : State) (x : Site) : List PortName :=
  let u := s.slot x
  ports.filter fun p => ((u.port p).q.take (wordPort u.word p).needN).any fun e => !e.tok.parityOk

/-- Void tokens stand for those of bad parity in a port, as for a token that fails as it arrives (R94). -/
def State.mendPort (s : State) (x : Site) (p : PortName) : State :=
  s.onSlot x fun u => u.onPort p fun q => { q with
    q := q.q.map fun e => if e.tok.parityOk then e else { e with
      tok := voidToken zeroLanes 0 causeParity, src := ⟨e.src.pos, some x.slot⟩ } }

/-- A firing reads its ports: a token of bad parity is a parity fault of its slot, or of the region when no rotation carries it;
then the slot does not fire (R288, R309; log 63: the model sets no bad parity). -/
def State.readPorts (s : State) (x : Site) : Option State :=
  let bad := s.badPorts x
  if bad.all fun p => s.carriesIn x p then some (bad.foldl (fun s p => s.mendPort x p) s) else none

/-- A fabric slot's turn: its word is decoded and its instruction run with the focus on it; a region that has since
stopped has none. -/
def State.runSlot (s : State) (x : Site) : Done :=
  let g := s.region x.core x.unit
  if g.st != .mapped || !g.hasK (x.slot.val / 8) || (s.elem x.core (s.elemAt x)).blocked then .next s
  else match decode (s.slot x).word with
  | .nop => .next s
  | .instr i => match s.readPorts x with
    | some s => exec i { s with clk := { s.clk with focus := x } }
    | none => .next (s.regionFault x.core x.unit x.slot 0x11 0 true)
  | .reserved _ => .fault (.undecodable x)

/-- A firing of a context's block. -/
def State.runControl (s : State) (x : Site) : Done :=
  match s.kblk x with
  | none => .next s
  | some b =>
    if (s.ctx x.core (ctxOf x)).st != .run then .next s
    else match decode b.slots[x.slot].word with
    | .nop => .next s
    | .instr i => exec i { s with clk := { s.clk with focus := x } }
    | .reserved _ => .fault (.undecodable x)

/-- The first thing on the agenda, or the next cycle. -/
def State.advance (s : State) : Done :=
  match s.clk.agenda with
  | [] => .next s.tick
  | a :: rest =>
    let s := { s with clk := { s.clk with agenda := rest } }
    match a with
    | .fire x => s.runSlot x
    | .kfire x => s.runControl x
    | .event i => exec i s

/-! ## Placing one instruction (for `State.withFetchWord`) -/

/-- The slot of a 4 × 4 region in which a word may stand (R17, R74, R210, R257), and the column of the region's origin. -/
def spotFor (w : Word64) : Fin 128 × Nat :=
  let op := opOf w
  let j : Nat := if placeOk false op 5 then 5 else if placeOk false op 6 then 6 else 7
  let ey := (w.extractLsb' 8 2).toNat
  if op == 0xA3 || op == 0xA4 then (Fin.ofNat 128 (8 * (4 * ey + 3) + 7), 4)
  else if op / 16 == 10 then (Fin.ofNat 128 (8 * (4 * ey) + 7), 0)
  else (Fin.ofNat 128 j, 0)

/-- A head for a word that is one: the smallest rotation. -/
def spareHead (w : Word64) (i : Fin 128) : Option Head :=
  match decode w with
  | .instr (.rhead _) | .instr (.rheadLa _) => some (headAt ⟨0, 0, 0, [], [], [], [], [], none, 0⟩ i 0)
  | _ => none

/-- A word in a slot of region 0 of core 0, which is MAPPED, its turn next. -/
def State.placeFabric (s : State) (w : Word64) : State :=
  let p := spotFor w
  let s := s.onRegion 0 0 fun g => { Region.blank with st := .mapped, ex0 := p.2, w := 4, h := 4, gen := g.gen + 1 }
  let x := siteOf 0 0 p.1
  let s := s.onElem 0 (s.elemAt x) fun _ => { Element.blank with
    slots := Element.blank.slots.set (slotPos p.1) (Slot.holding w), head := spareHead w p.1 }
  { s with clk := { s.clk with agenda := [.fire x] } }

/-- A word in slot 0 of the block of context 0 of core 0, which is in RUN, its turn next. -/
def State.placeControl (s : State) (w : Word64) : State :=
  let b : KBlock :=
    { hdr := 0, addr := 0, slots := Vector.ofFn fun i => KSlot.holding (if i == 0 then w else 0)
      regs := (List.range ((s.core 0).allot 0)).map ((s.core 0).sreg 0), qregs := [], writes := [], branch := none, push := none
      pop := false, exitV := none, halt := false, counts := [], reps := [], waits := [], resume := none, wants := [], bad := [] }
  let s := s.onCtx 0 0 fun t => { t with st := .run, blk := some b }
  { s with clk := { s.clk with agenda := [.kfire ⟨0, 0, 0⟩] } }

/-- A word where it is run next. -/
def State.placeWord (s : State) (w : Word64) : State := if 0xC0 ≤ opOf w then s.placeControl w else s.placeFabric w

end Sys2Proof.Machine
end

