-- ==== Sys2Proof/Safety.lean ====
section
/-! DEFINITION. What counts as a safe run, and the terms the statements use: when nothing holds a slot back, when its
ports hold what it needs, what a firing delivers, and what a step must leave alone. -/

namespace Sys2Proof.Machine

/-- The outcome is a next state. -/
def Goes (o : Host.Outcome State Fault Refusal) : Prop := ∃ t, o = .next t

/-- The invariant that every step keeps: memory in its canonical form. -/
def Inv (s : State) : Prop := s.mem.wf = true

/-- A run of n steps meets no fault and no refusal. -/
def RunsFor (n : Nat) (s : State) : Prop := ∃ t, Host.Core.run Sys2Proof.core n s = .next t

/-! ## Fabric instructions -/

/-- Nothing holds back a firing of the slot in focus that delivers n0 and n1 tokens: its region is MAPPED and its element
not blocked, its core is not halted, its targets have room, no open snapshot has reached it, and no rein is used up
(R23, R29, R45, R77, R113, R307, R344). -/
structure Clear (s : State) (io : Io) (n0 n1 : Nat) : Prop where
  live : s.live s.clk.focus = true
  room0 : s.room s.clk.focus false io.t0 n0 = true
  room1 : s.room s.clk.focus true io.t1 n1 = true
  snap : (s.slot s.clk.focus).snap = .off
  rein : s.reinOk s.clk.focus = true

/-- The firing rule of R24: nothing holds the slot back and every used port holds the data its need asks for; a slot with
no used port has not fired yet (R27). -/
structure Ready (s : State) (io : Io) : Prop where
  clear : Clear s io 1 1
  fresh : io.used = [] → (s.slot s.clk.focus).fired = false
  full : ∀ p ∈ io.used, s.portSt s.clk.focus io p = .data

/-- The oldest entry of a port of the slot in focus. -/
def State.operand (s : State) (io : Io) (p : PortName) : Token := oldest (s.ents s.clk.focus io p)

/-- The entries a lane operation looks at: the oldest of each port (R26). -/
def State.reads (s : State) (io : Io) : List Token :=
  (s.ents s.clk.focus io .a).take 1 ++ (s.ents s.clk.focus io .b).take 1 ++ (s.ents s.clk.focus io .c).take 1

/-- None of the tokens is void or poisoned (R128, R129). -/
def Clean (ts : List Token) : Prop := ∀ t ∈ ts, t.void = false ∧ t.poisoned = false

/-- A token passes the tag check of R127. -/
def Tagged (anyRaw : Bool) (tag : BitVec 4) (t : Token) : Prop := tagCheck anyRaw tag t = true ∧ t.badTag = false

/-- The oldest entry of a used port that may carry any format has a tag that is not reserved and no malformed SCALE (R125, R133). -/
def State.wellFed (s : State) (io : Io) (p : PortName) : Prop :=
  (io.ctl p).used = true → (s.operand io p).badTag = false ∧ wellScaled (s.edgeAt s.clk.focus p) [s.operand io p] = .ok ()

/-- A data token as a computing firing delivers it (R130). -/
structure IsData (t : Token) (tag : BitVec 4) : Prop where
  tag_eq : t.tag = tag
  void : t.void = false
  eos : t.eos = false
  mark : t.mark = false
  scale : t.scale = 0
  par : t.parityOk = true

/-- The state after the firing of R24 that delivers a token to both targets: every port pops, the token leaves after the
latency, the slot's counts move on. -/
def State.delivers (s : State) (io : Io) (lat : Nat) (t : Token) : State :=
  s.shoot s.clk.focus io lat (s.laneShot s.clk.focus io (t, none))

/-- The state after a firing that meets a fault: it pops and delivers a void token with port a's payload and the cause
(R129, R139). -/
def State.faults (s : State) (io : Io) (lat : Nat) (tag : BitVec 4) (c : Cause) : State :=
  s.shoot s.clk.focus io lat (s.laneShot s.clk.focus io (voidFrom (s.base s.clk.focus io) tag c, some c))

/-- What a fabric instruction without an effect beyond its region leaves alone: memory, the accesses in progress, the
kiln, the collector, egress, the device, the host, every other core, and of its own core every register, context and
island, every other region and every element but its own; its own region changes only in
the faults it has raised. -/
structure Local (x : Site) (s t : State) : Prop where
  mem : t.mem = s.mem
  accs : t.accs = s.accs
  kiln : t.kiln = s.kiln
  col : t.col = s.col
  egress : t.egress = s.egress
  dev : t.dev = s.dev
  host : t.host = s.host
  now : t.clk.now = s.clk.now
  cores : ∀ d, d ≠ x.core → t.core d = s.core d
  core : ∃ es rs, t.core x.core = { s.core x.core with elems := es, regions := rs }
  regions : ∀ r, r ≠ x.unit → t.region x.core r = s.region x.core r
  elems : ∀ e, e ≠ s.elemAt x → t.elem x.core e = s.elem x.core e
  region : ∃ ps n, t.region x.core x.unit = { s.region x.core x.unit with pend := ps, later := n }

/-! ## The table of R143 -/

/-- The exact value v of each integer arithmetic instruction from x, y and z, with the latency of R142 (R143). -/
def intArithTable : List ((FA → Instr) × Nat × (Nat → Int → Int → Int → Int)) :=
  [(.iadd, 1, fun _ x y _ => x + y), (.isub, 1, fun _ x y _ => x - y), (.imul, 3, fun _ x y _ => x * y),
   (.imulh, 3, fun w x y _ => x * y / (2 ^ w : Nat)), (.imad, 3, fun _ x y z => x * y + z), (.ineg, 1, fun _ x _ _ => -x),
   (.iabs, 1, fun _ x _ _ => if x < 0 then -x else x), (.imin, 1, fun _ x y _ => if x ≤ y then x else y),
   (.imax, 1, fun _ x y _ => if x ≤ y then y else x)]

/-- The smallest and the largest element of w bits, unsigned when u holds (R138). -/
def rangeOf (w : Nat) (u : Bool) : Int × Int :=
  if u then (0, (2 ^ w : Nat) - 1) else (-(2 ^ (w - 1) : Nat), (2 ^ (w - 1) : Nat) - 1)

/-- Operand b of an instruction marked "imm": port b's element, or IMM10 when the port is unused (R141). -/
def State.bOrImm (s : State) (f : FA) (l j : Nat) : Nat :=
  if f.b.used then (s.operand f.io .b).el (modTag f.mod) l j else wrapTo (tagWidth (modTag f.mod)) f.imm.toInt

/-- The exact value at lane l and element j of an integer operation: x and y and z read per U, y from IMM10 when port b
is unused (R141, R143). -/
def State.intExact (s : State) (f : FA) (v : Nat → Int → Int → Int → Int) (l j : Nat) : Int :=
  let t := modTag f.mod
  let read (n : Nat) : Int := if modB1 f.mod || t == 10 then n else sgn (tagWidth t) n
  v (tagWidth t) (read ((s.operand f.io .a).el t l j))
    (read (s.bOrImm f l j))
    (read ((s.operand f.io .c).el t l j))

/-- The element of each bit instruction from the raw elements x and y of width w (R143). -/
def bitTable : List ((FA → Instr) × (Nat → Nat → Nat → Nat)) :=
  [(.and, fun _ x y => x &&& y), (.or, fun _ x y => x ||| y), (.xor, fun _ x y => x ^^^ y),
   (.not, fun w x _ => 2 ^ w - 1 - x), (.shl, fun w x y => x * 2 ^ y % 2 ^ w), (.shr, fun _ x y => x / 2 ^ y),
   (.sar, fun w x y => wrapTo w (sgn w x / (2 ^ y : Nat))),
   (.rotl, fun w x y => (x * 2 ^ (y % w) + x / 2 ^ (w - y % w)) % 2 ^ w),
   (.clz, fun w x _ => if x = 0 then w else w - 1 - Nat.log2 x),
   (.popc, fun w x _ => ((List.range w).map fun i => x / 2 ^ i % 2).sum)]

/-! ## The tables of R149, R153 and R156, and the lane operations as a class -/

/-- The exact result of each elementwise float operation from its variant bit, the rounding mode and x, y and z, whether it
is invalid, and its latency (R139, R142, R149, R156). -/
def floatTable : List ((FA → Instr) × Nat × (Bool → Rnd → Num → Num → Num → Num) × (Bool → Rnd → Num → Num → Num → Bool)) :=
  [(.fadd, 4, fun _ rm x y _ => x.add rm y, fun _ _ x y _ => addInvalid x y),
   (.fsub, 4, fun _ rm x y _ => x.add rm y.flip, fun _ _ x y _ => addInvalid x y.flip),
   (.fmul, 4, fun _ _ x y _ => x.mul y, fun _ _ x y _ => mulInvalid x y),
   (.fma, 4, fun v rm x y z => (if v then (x.mul y).flip else x.mul y).add rm z,
     fun v _ x y z => mulInvalid x y || addInvalid (if v then (x.mul y).flip else x.mul y) z),
   (.rndi, 2, fun _ rm x _ _ => match x, x.toIntRnd rm with
     | .fin s _ _, some n => .fin s n.natAbs 0
     | x, _ => x, fun _ _ _ _ _ => false)]

/-- The function of each function-unit instruction, none for an invalid operand, with its latency and its operand's tag
(R142, R153). -/
def unitTable : List ((FA → Instr) × Nat × (Rnd → Num → Option Nat)) :=
  [(.rcp, 8, fun rm x => some (rcpCode rm x)), (.rsq, 8, rsqCode), (.exp2, 10, fun rm x => some (exp2Code rm x)),
   (.log2, 10, log2Code)]

/-- The elementwise and lane instructions of format FA that obey R24, R31, R32, R128 and R129 without exception and whose
result tag for a void or poisoned operand is the declared tag, with their latency (R142, R363). -/
def laneTable : List ((FA → Instr) × Nat) :=
  [(.iadd, 1), (.isub, 1), (.imul, 3), (.imulh, 3), (.imad, 3), (.ineg, 1), (.iabs, 1), (.imin, 1), (.imax, 1), (.and, 1),
   (.or, 1), (.xor, 1), (.not, 1), (.shl, 1), (.shr, 1), (.sar, 1), (.rotl, 1), (.clz, 1), (.popc, 1), (.icmp, 1), (.sel, 1),
   (.bfi, 1), (.lane, 1), (.coord, 1), (.fadd, 4), (.fsub, 4), (.fmul, 4), (.fma, 4), (.fmin, 1), (.fmax, 1), (.fabs, 1),
   (.fneg, 1), (.fcmp, 1), (.fclass, 1), (.fscl, 2), (.rcp, 8), (.rsq, 8), (.exp2, 10), (.log2, 10), (.tcos, 10),
   (.tsin, 10), (.rndi, 2), (.perm, 1), (.rdraw, 6)]

/-- The exact value of the element of a port's oldest entry, read by the declared float tag. -/
def State.floatAt (s : State) (f : FA) (p : PortName) (l j : Nat) : Num :=
  (ieeeOf (modTag f.mod)).dec ((s.operand f.io p).el (modTag f.mod) l j)

/-- The tag checks of the lane operations that make them on port a before anything else: each instruction, its latency,
whether it accepts any tag for RAW32, and the tag it declares (R127, R142, R153, R165). -/
def tagTable : List ((FA → Instr) × Nat × Bool × (FA → BitVec 4)) :=
  intArithTable.map (fun r => (r.1, r.2.1, false, fun f => modTag f.mod)) ++
    bitTable.map (fun r => (r.1, 1, true, fun f => modTag f.mod)) ++
    floatTable.map (fun r => (r.1, r.2.1, false, fun f => modTag f.mod)) ++
    unitTable.map (fun r => (r.1, r.2.1, false, fun _ => 1)) ++
    [(.icmp, 1, false, fun f => modTag f.mod), (.sel, 1, false, fun f => modTag f.mod),
      (.bfi, 1, false, fun f => modTag f.mod), (.fmin, 1, false, fun f => modTag f.mod),
      (.fmax, 1, false, fun f => modTag f.mod), (.fabs, 1, false, fun f => modTag f.mod),
      (.fneg, 1, false, fun f => modTag f.mod), (.fcmp, 1, false, fun f => modTag f.mod),
      (.fclass, 1, false, fun f => modTag f.mod), (.fscl, 2, false, fun f => modTag f.mod),
      (.perm, 1, false, fun f => modTag f.mod), (.tcos, 10, false, fun _ => 7), (.tsin, 10, false, fun _ => 7)]

/-- Fabric instructions of format FA whose firing touches nothing beyond its own region and element. -/
def localTable : List (FA → Instr) :=
  laneTable.map Prod.fst ++ [.mov, .phase, .cvt, .qnt, .dqt, .pack, .unpk, .sclc, .rsum, .rmax, .rmin, .argmx, .scan, .dot,
    .adv, .carry, .merge, .amrg, .drop, .smrg, .rsvr, .accpt]

/-- The same of format FO. -/
def localTableFO : List (FO → Instr) := [.inv, .eos, .gate]

/-- The element of stream index q of a list of tokens (R126). -/
def streamEl (tag : BitVec 4) (ts : List Token) (q : Nat) : Nat :=
  (ts.getD (q / (16 * tagCount tag)) eosToken).el tag (q / tagCount tag % 16) (q % tagCount tag)

/-- Every entry read of ports a and b, and the oldest of port c (R160, R164). -/
def State.readsAll (s : State) (io : Io) : List Token :=
  s.ents s.clk.focus io .a ++ s.ents s.clk.focus io .b ++ (s.ents s.clk.focus io .c).take 1

/-- The slot in focus has part k of n part firings before it (R154, R155, R158). -/
def State.atPart (s : State) (k : Nat) : Prop :=
  (s.slot s.clk.focus).run = .part k ∨ ((s.slot s.clk.focus).run = .idle ∧ k = 0)

/-- The state after part k of n part firings: the operand leaves with the last (R154). -/
def State.delivPart (s : State) (f : FA) (lat k n : Nat) (tok : Token) : State :=
  s.shoot s.clk.focus f.io lat
    { pa := if k + 1 < n then 0 else f.a.popN, out := .both tok, run := if k + 1 < n then .part (k + 1) else .idle }

/-- An element as the integer it stands for: N8 unsigned, the I formats signed (R161). -/
def elVal (tag : BitVec 4) (n : Nat) : Int := if tag = 10 then n else sgn (tagWidth tag) n

/-- The elements of a token, by lane and element. -/
def tokenVals (t : Token) (tag : BitVec 4) : List Int :=
  (List.range 16).flatMap fun l => (List.range (tagCount tag)).map fun j => elVal tag (t.el tag l j)

/-- A decision, credit or trigger token reads as v: zero when void (R171). -/
def Decides (d : Token) (v : Lane) : Prop :=
  d.eos = false ∧ ((d.void = true ∧ v = 0) ∨ (d.void = false ∧ (d.tag = 7 ∨ d.tag = 0) ∧ v = d.lane 0))

/-- The oldest entry of a port of the slot in focus is data token t. -/
def State.has (s : State) (p : PortName) (t : Token) : Prop := s.front s.clk.focus p = some t ∧ t.eos = false

/-- The oldest entry of a port of the slot in focus is an end-of-stream. -/
def State.ended (s : State) (p : PortName) : Prop := ∃ t, s.front s.clk.focus p = some t ∧ t.eos = true

/-- The slot in focus. -/
def State.here (s : State) : Slot := s.slot s.clk.focus

/-- The beat that follows the slot's beat in a burst of n (R171). -/
def State.beatNext (s : State) (n : Nat) : Nat := if s.here.beat + 1 < n then s.here.beat + 1 else 0

/-- What the last beat of a burst of n pops of a decision (R171). -/
def State.beatPop (s : State) (n : Nat) : Nat := if s.here.beat + 1 < n then 0 else 1

/-! ## Rotation heads -/

/-- The head of the slot in focus is h, stands in that slot, is alive and in state st; no snapshot is open. -/
structure AtHead (s : State) (h : Head) (st : HState) : Prop where
  head : s.head s.clk.focus = some h
  slot : h.slot = s.clk.focus.slot
  live : s.live s.clk.focus = true
  state : h.hstate = st
  snap : (s.region s.clk.focus.core s.clk.focus.unit).snap = none

/-- What the row of R91 gives for a slot that is not admitted: the tokens for T0 and T1 and the state after, from the
slot's state and FH, its returning carry and the feed entry. -/
def rowTable (e : SEntry) (ret feed : Token) : Token × Token × SState :=
  let hold : Token × Token × SState := (ret.voided 0, feed.voided 0, .held)
  let go : Token × Token × SState := (ret.unvoided, feed, .live)
  match e.st with
  | .live => if feed.void then hold else go
  | .held => if e.fh || feed.void then hold else go
  | .drain => (voidToken zeroLanes 0 0, feed.voided 0, .empty)
  | st => (voidToken zeroLanes 0 0, feed.voided 0, st)

/-- A record of a rotation event (R124): HANDLE, KEY, ROTNUM, CODE, SLOT, the states before and after, FCAUSE, AUX and HSLOT. -/
structure RotEvent (r : Record) (handle : Word64) (key rot : BitVec 32) (code slot : BitVec 8) (bef aft : Nat) (fc : BitVec 8)
    (aux : BitVec 32) (hslot : Nat) : Prop where
  handle : r.extractLsb' 192 64 = handle
  key : r.extractLsb' 160 32 = key
  rot : r.extractLsb' 128 32 = rot
  code : r.extractLsb' 120 8 = code
  slot : r.extractLsb' 112 8 = slot
  bef : r.extractLsb' 108 4 = BitVec.ofNat 4 bef
  aft : r.extractLsb' 104 4 = BitVec.ofNat 4 aft
  fc : r.extractLsb' 96 8 = fc
  aux : r.extractLsb' 64 32 = aux
  hslot : r.extractLsb' 57 7 = BitVec.ofNat 7 hslot

/-- A context's queue has taken a record in its place (R188): behind every record of earlier cycles, and last in a cycle in
which it has taken no other. -/
def State.tookRecord (s t : State) (c : Fin 96) (k : Fin 4) (r : Record) : Prop :=
  ∃ l m, (s.ctx c k).evq = l ++ m ∧ (t.ctx c k).evq = l ++ r :: m ∧ ((s.ctx c k).evAt ≠ s.clk.now → m = [])

/-- Where the owner's queue has room and its ASID is the configuration's, it has taken a record with this property (R188, R304). -/
def State.informs (s t : State) (g : Cfg) (p : Record → Prop) : Prop :=
  (s.ctx g.core g.ctx).asid = g.asid → (s.ctx g.core g.ctx).evq.length < 64 → ∃ r ∈ (t.ctx g.core g.ctx).evq, p r

/-- A record of this cause and AUX is on its way to the collector (R288, R294). -/
def State.reports (t : State) (cause : BitVec 8) (aux : BitVec 32) (hslot : Nat) : Prop :=
  ∃ r, Act.event (.collectorRecord r) ∈ t.clk.agenda ∧ r.cause = cause ∧ r.aux = aux ∧ r.hslot = BitVec.ofNat 7 hslot

/-- A marker that leaves now is on its way to a target within the block, behind `pos` tokens (R112). -/
def State.marks (s t : State) (x : Site) (tgt : Target) (pos : Nat) : Prop :=
  tgt.v = true → tgt.isLink = false → (s.clk.now + pathD x.slot tgt.idx,
    Instr.markerArrival (x.at_ tgt.idx) (portNamed tgt.port) pos (s.region x.core x.unit).gen) ∈ t.clk.pending

/-- The commands of a head (R99, R101). -/
def commandTable : List ((FA → Instr) × CmdKind) :=
  [(.sevc, .sevc), (.shld, .shld), (.shldU, .shldU), (.srel, .srel), (.sclr, .sclr), (.bank, .bank), (.unbank, .unbank),
    (.rerot, .rerot)]

/-- What a slot command does to its slot's entry before the row, and its status: 0 DONE, 1 NOEFFECT (R99, R100). -/
def slotCommandTable (k : CmdKind) (e : SEntry) : Nat × SEntry :=
  match k, e.st with
  | .shld, .live => (0, { e with st := .held, fh := true })
  | .shld, .held => (if e.fh then 1 else 0, { e with fh := true })
  | .shldU, .held => (if e.fh then 0 else 1, { e with fh := false })
  | .srel, .live => (0, e)
  | .srel, .held => (0, e)
  | .sclr, .fault => (0, .zero)
  | .sclr, .empty => (0, .zero)
  | .sclr, .banked => (0, .zero)
  | .sevc, .live => (0, { e with st := .banked })
  | .sevc, .held => (0, { e with st := .banked })
  | .sevc, .fault => (0, { e with st := .banked })
  | _, _ => (1, e)

/-- A token is on its way to a target of the slot in focus, to arrive after the delivery latency (R29). -/
def State.sends (s t : State) (tgt : Target) (lat : Nat) (tok : Token) : Prop :=
  ∃ n, (s.clk.now + (lat + targetD s.clk.focus.slot tgt), Instr.tokenArrival s.clk.focus tgt tok
    (s.region s.clk.focus.core s.clk.focus.unit).gen n) ∈ t.clk.pending

/-- The result of a firing's place in a reorder buffer is a status token with these lanes (R99). -/
def Resolved (u : Slot) (id : Nat) (tok : Token) : Prop := ∀ r ∈ u.rob, r.id = id → r.res = some [.both tok]

/-! ## Memory operators -/

/-- A tag and a place in the tile's queue are free for the slot in focus (R240, R242). -/
def State.tagFree (s : State) : Prop :=
  (s.region s.clk.focus.core s.clk.focus.unit).tags.length < 64 ∧ s.queued s.clk.focus < 8

/-- The state after a firing with an access: the firing takes a place in its reorder buffer, due 4 cycles on, and a tag, and
the access begins (R240, R242, R256). -/
def State.begins (s : State) (io : Io) (sh : Shot) (l : Loc) (kind : AKind) (pieces : List Piece) (data : List Byte)
    (poison wr : Bool) : State :=
  let x := s.clk.focus
  (((s.shoot x io 0 { sh with rob := some ⟨s.clk.ids, none, [], s.clk.now + 4⟩ }).takeTag x s.clk.ids).issue
    (s.newAccess x kind l pieces data poison wr)).tickId

/-- The state after a firing whose result is known at once: it takes its place in order (R240, R255). -/
def State.answers (s : State) (io : Io) (sh : Shot) (res : List Emit) : State :=
  (s.shoot s.clk.focus io 0 { sh with rob := some ⟨s.clk.ids, some res, [], s.clk.now + 4⟩ }).tickId

/-- What an address, index or offset token comes to when its firing makes no access (R255, R129, R127): the result, and its fault. -/
def noAccessCase (tag : BitVec 4) (t : Token) : Option (Token × Option Cause) :=
  if t.void then some (voidToken zeroLanes tag t.cause, none)
  else if t.tag = 15 then some (poisonToken, none)
  else if t.tag = 7 ∨ t.tag = 0 then none
  else some (voidToken zeroLanes tag 0x02, some 0x02)

/-- The same of a trigger token on port a, of which any format but a reserved or malformed one will do (R251, R253, R125, R133). -/
def State.noAccessTrigger (s : State) (tag : BitVec 4) (t : Token) : Option (Token × Option Cause) :=
  if t.void then some (voidToken zeroLanes tag t.cause, none)
  else if t.tag = 15 then some (poisonToken, none)
  else match checkShape (s.edgeAt s.clk.focus .a) [t] with
    | .ok _ => none
    | .error _ => some (voidToken zeroLanes tag 0x02, some 0x02)

/-- The state after a firing whose address is refused at once: it pops, delivers nothing, and its region faults (R255, R289). -/
def State.refusesAt (s : State) (io : Io) (sh : Shot) (l : Loc) (c : BitVec 8) : State :=
  (s.shoot s.clk.focus io 0 sh).regionFault s.clk.focus.core s.clk.focus.unit s.clk.focus.slot c (if l.virt then l.addr else 0) true

/-- n pieces of 64 bytes at a location (R270). -/
def unitsAt (l : Loc) (n : Nat) : List Piece := piecesFrom l.addr (if l.virt then none else some l.pa) 64 n

/-- An access that is ready, held back by nothing, with one unit left at an address the device itself serves. -/
structure LastUnit (s : State) (a : Access) (p : Piece) (pa : Nat) : Prop where
  acc : s.acc a.id = some a
  stage : a.stage = .ready
  held : a.held = false
  free : s.accBlocked a = false
  pieces : a.pieces = [p]
  at_ : p.pa = some pa
  served : (∃ c o, s.phys pa = .dram c o) ∨ (∃ c t o, s.phys pa = .scratch c t o) ∨ ∃ c o, s.phys pa = .ember c o

/-- No operation on a ring is in progress. -/
def State.noRings (s : State) : Prop :=
  ∀ b ∈ s.accs, (∀ t d ts, b.kind ≠ .ringPush t d ts) ∧ ∀ t d q g n, b.kind ≠ .ringPop t d q g n

/-- The results of an access are on their way (R305). -/
def State.onTheWay (t : State) (id : Nat) (outs : List Emit) : Prop :=
  ∃ a, t.acc id = some a ∧ a.stage = .late outs

/-- Every byte but those of [a, a + n) is as it was. -/
def SameBut (s t : State) (a n : Nat) : Prop := ∀ b, b < a ∨ a + n ≤ b → t.mem.byte b = s.mem.byte b

/-- The bytes from an address on are these. -/
def Holds (t : State) (a : Nat) (bs : List Byte) : Prop := t.mem.bytes a bs.length = bs

/-- No other access in progress is an operation on an access's stream (R358). -/
def State.streamAlone (s : State) (a : Access) : Prop := ∀ b ∈ s.accs, b.id ≠ a.id → b.egressId ≠ a.egressId

/-- An access that is ready and that nothing holds back. -/
structure Unheld (s : State) (a : Access) : Prop where
  acc : s.acc a.id = some a
  stage : a.stage = .ready
  held : a.held = false
  free : s.accBlocked a = false

/-- The operation of an EGPUT, EGVER or EGRST word (R353). -/
def egressOp (w : Word64) : Nat := (w.extractLsb' 56 8).toNat

/-- The kinds of read whose result is computed from its bytes alone: the tokens they deliver (R243, R248). -/
def loadResult (k : AKind) (data : List Byte) (bads : List Bool) : Option (List Token) :=
  match k with
  | .load tag b | .loadV tag b | .loadFull _ tag b => some (loadBeats tag b data bads)
  | .loadLanes tag idx => some [lanesLoaded tag idx data bads]
  | _ => none

/-! ## Control blocks -/

/-- The instruction in focus stands in block b of a context in RUN that is not halted, can fire, and is no range instruction
with a REP before it (R24, R184, R189, R307). -/
structure KReady (s : State) (io : Io) (b : KBlock) : Prop where
  blk : s.kblk s.clk.focus = some b
  run : (s.ctx s.clk.focus.core (ctxOf s.clk.focus)).st = .run
  free : (s.core s.clk.focus.core).hctx.getLsbD (ctxOf s.clk.focus).val = false
  can : b.can s.clk.now io s.clk.focus.slot = true
  parity : b.spoilt io s.clk.focus.slot = false
  alone : (b.prefixed s.clk.focus.slot && isRange (opOf b.slots[s.clk.focus.slot].word)) = false

/-- The operand of a port of the control slot in focus. -/
def State.kin (s : State) (b : KBlock) (io : Io) (p : PortName) : KTok := b.slots[s.clk.focus.slot].operand s.clk.now io p

/-- No operand is void (R189). -/
def State.kClean (s : State) (b : KBlock) (io : Io) : Prop := ∀ p, (s.kin b io p).void = false

/-- The state after the slot in focus has taken its operands (R24). -/
def State.took (s : State) (io : Io) : State :=
  s.onBlk s.clk.focus fun b => b.takes s.clk.now io s.clk.focus.slot

/-- The state after a control firing whose result leaves after the latency. -/
def State.kanswers (s : State) (io : Io) (lat : Nat) (v : KTok) : State :=
  (s.took io).kplace s.clk.focus lat (some v)

/-- The context of site x has taken a trap (R191, R301): it is TRAPPED, TRAPINFO holds cause and slot, its block is gone, no
register and no memory is written, and a trap record is on its way to the collector. -/
structure TakesTrap (s t : State) (x : Site) (cause : BitVec 8) : Prop where
  st : (t.ctx x.core (ctxOf x)).st = .trapped
  why : (t.ctx x.core (ctxOf x)).trapCause = cause
  slot : (t.ctx x.core (ctxOf x)).trapSlot = BitVec.ofNat 7 x.slot.val
  blk : (t.ctx x.core (ctxOf x)).blk = none
  bptr : (t.ctx x.core (ctxOf x)).bptr = (s.ctx x.core (ctxOf x)).bptr
  regs : (t.core x.core).sregs = (s.core x.core).sregs
  mem : t.mem = s.mem
  told : ∃ r, Act.event (.collectorRecord r) ∈ t.clk.agenda ∧ r.cause = 0x38 ∧ r.aux = cause.setWidth 32 ∧
    r.asid = (s.ctx x.core (ctxOf x)).asid ∧ r.agent = 3

/-- The newest result of the control slot at a site is v. -/
def State.kanswered (s : State) (x : Site) (v : KTok) : Prop :=
  ∃ b e, s.kblk x = some b ∧ b.slots[x.slot].rob.getLast? = some e ∧ e.res = some v

/-- The value of each two-operand scalar instruction from a and b, with its latency (R192). -/
def scalarTable : List ((FC → Instr) × Nat × (BitVec 8 → Word64 → Word64 → Word64)) :=
  [(.kadd, 1, fun _ x y => BitVec.ofNat 64 (x.toNat + y.toNat)), (.ksub, 1, fun _ x y => BitVec.ofInt 64 (x.toInt - y.toInt)),
   (.kmul, 3, fun m x y => match (m.extractLsb' 0 2).toNat with
     | 0 => BitVec.ofNat 64 (x.toNat * y.toNat)
     | 1 => BitVec.ofInt 64 (x.toInt * y.toInt / 2 ^ 64)
     | _ => BitVec.ofNat 64 (x.toNat * y.toNat / 2 ^ 64)),
   (.kand, 1, fun _ x y => BitVec.ofNat 64 (x.toNat &&& y.toNat)), (.kor, 1, fun _ x y => BitVec.ofNat 64 (x.toNat ||| y.toNat)),
   (.kxor, 1, fun _ x y => BitVec.ofNat 64 (x.toNat ^^^ y.toNat)),
   (.kshl, 1, fun _ x y => if 64 ≤ y.toNat then 0 else BitVec.ofNat 64 (x.toNat * 2 ^ y.toNat)),
   (.kshr, 1, fun m x y => if m.getLsbD 1 then BitVec.ofInt 64 (x.toInt / (2 ^ y.toNat : Nat)) else BitVec.ofNat 64 (x.toNat / 2 ^ y.toNat)),
   (.kcmp, 1, fun m x y =>
     let p : Int := if m.getLsbD 3 then x.toNat else x.toInt
     let q : Int := if m.getLsbD 3 then y.toNat else y.toInt
     let holds : Bool := match (m.extractLsb' 0 3).toNat with
       | 0 => decide (p = q)
       | 1 => decide (p ≠ q)
       | 2 => decide (p < q)
       | 3 => decide (p ≤ q)
       | 4 => decide (p > q)
       | _ => decide (p ≥ q)
     if holds then 1 else 0)]

end Sys2Proof.Machine
end

