-- ==== Sys2Proof/Certificates/Slice0/Obligations.lean ====
section
/-! DEFINITION. The statements for the provers. -/

open Sys2Proof Sys2Proof.Machine

/-! ## Integer instructions (R143..R148) -/

/-- R143, R138, R139, R142: IADD, ISUB, IMUL, IMULH, IMAD, INEG, IABS, IMIN and IMAX of clean operands of the declared
tag.  Wrap and sat, and trap where every exact value lies in the range: the instruction delivers the element of each exact
value.  Trap where one does not: it delivers a void token with cause 0x03. -/
def Clause.IntegerArithmetic : Prop :=
  ∀ (f : FA) (s : State) (i : FA → Instr) (lat : Nat) (v : Nat → Int → Int → Int → Int),
    (i, lat, v) ∈ intArithTable → f.a.used = true → Ready s f.io → Clean (s.reads f.io) →
    (∀ p ∈ f.io.used, Tagged false (modTag f.mod) (s.operand f.io p)) →
    let t := modTag f.mod
    let r := rangeOf (tagWidth t) (modB1 f.mod || t == 10)
    let x := s.intExact f v
    ((modRnd f.mod ≠ 2 ∨ ∀ l < 16, ∀ j < tagCount t, r.1 ≤ x l j ∧ x l j ≤ r.2) →
      ∃ tok, exec (i f) s = .next (s.delivers f.io lat tok) ∧ IsData tok t ∧
        ∀ l < 16, ∀ j < tagCount t, tok.el t l j = wrapTo (tagWidth t)
          (if modRnd f.mod = 1 then (if x l j < r.1 then r.1 else if x l j > r.2 then r.2 else x l j) else x l j)) ∧
    (modRnd f.mod = 2 → (∃ l < 16, ∃ j < tagCount t, x l j < r.1 ∨ r.2 < x l j) →
      exec (i f) s = .next (s.faults f.io lat t causeTrap))

/-- R143, R142: AND, OR, XOR, NOT, SHL, SHR, SAR, ROTL, CLZ and POPC deliver the element of the table for every element.
A shift by the width or more gives zero, or all sign bits. -/
def Clause.BitOperations : Prop :=
  ∀ (f : FA) (s : State) (i : FA → Instr) (g : Nat → Nat → Nat → Nat),
    (i, g) ∈ bitTable → f.a.used = true → f.c.used = false → Ready s f.io → Clean (s.reads f.io) →
    (∀ p ∈ f.io.used, Tagged true (modTag f.mod) (s.operand f.io p) ∧ s.wellFed f.io p) →
    ∃ tok, exec (i f) s = .next (s.delivers f.io 1 tok) ∧ IsData tok (modTag f.mod) ∧
      ∀ l < 16, ∀ j < tagCount (modTag f.mod), tok.el (modTag f.mod) l j =
        g (tagWidth (modTag f.mod)) ((s.operand f.io .a).el (modTag f.mod) l j) (s.bOrImm f l j)

/-- R144, R145, R142: ICMP delivers 1 where the condition of IMM10 holds for x and y read per U, else 0; SEL delivers a's
element where c's is not zero, else b's. -/
def Clause.CompareAndSelect : Prop :=
  ∀ (f : FA) (s : State), Ready s f.io → Clean (s.reads f.io) → f.a.used = true → f.b.used = true →
    Tagged false (modTag f.mod) (s.operand f.io .a) → Tagged false (modTag f.mod) (s.operand f.io .b) →
    let t := modTag f.mod
    let c := (f.imm.extractLsb' 0 3).toNat
    let x (l j : Nat) : Int := s.intExact f (fun _ x _ _ => x) l j
    let y (l j : Nat) : Int := s.intExact f (fun _ _ y _ => y) l j
    (c ≤ 5 → ∃ tok, exec (.icmp f) s = .next (s.delivers f.io 1 tok) ∧ IsData tok t ∧
      ∀ l < 16, ∀ j < tagCount t, (tok.el t l j = 1 ∨ tok.el t l j = 0) ∧
        (tok.el t l j = 1 ↔ (c = 0 ∧ x l j = y l j) ∨ (c = 1 ∧ x l j ≠ y l j) ∨ (c = 2 ∧ x l j < y l j) ∨
          (c = 3 ∧ x l j ≤ y l j) ∨ (c = 4 ∧ x l j > y l j) ∨ (c = 5 ∧ x l j ≥ y l j))) ∧
    (f.c.used = true → Tagged false (if t = 0 ∨ t = 1 then 7 else if t = 2 ∨ t = 3 then 8 else if t = 4 ∨ t = 5 then 9 else t)
        (s.operand f.io .c) →
      ∃ tok, exec (.sel f) s = .next (s.delivers f.io 1 tok) ∧ IsData tok t ∧
        ∀ l < 16, ∀ j < tagCount t, tok.el t l j =
          if (s.operand f.io .c).el t l j = 0 then (s.operand f.io .b).el t l j else (s.operand f.io .a).el t l j)

/-- R146, R142: BFX delivers in each lane, with TAG I32, the LEN bits of a's lane from POS on, sign-extended when S is set;
BFI delivers a's lane with bits [POS + LEN - 1 : POS] replaced by the low bits of b's lane. -/
def Clause.BitFields : Prop :=
  (∀ (f : FI) (s : State), f.a.used = true → Ready s f.io → Clean (s.reads f.io) →
    Tagged false (modTag f.mod) (s.operand f.io .a) →
    let pos := (f.imm.extractLsb' 0 5).toNat
    let len := (f.imm.extractLsb' 5 5).toNat + 1
    ∃ tok, exec (.bfx f) s = .next (s.delivers f.io 1 tok) ∧ IsData tok 7 ∧
      ∀ l < 16, tok.lane l = if f.imm.getLsbD 10 then (((s.operand f.io .a).lane l).extractLsb' pos len).signExtend 32
        else (((s.operand f.io .a).lane l).extractLsb' pos len).setWidth 32) ∧
  (∀ (f : FA) (s : State), f.a.used = true → f.b.used = true → Ready s f.io → Clean (s.reads f.io) →
    Tagged false (modTag f.mod) (s.operand f.io .a) → Tagged false (modTag f.mod) (s.operand f.io .b) →
    let pos := (f.imm.extractLsb' 0 5).toNat
    let len := (f.imm.extractLsb' 5 5).toNat + 1
    pos + len ≤ 32 →
    ∃ tok, exec (.bfi f) s = .next (s.delivers f.io 1 tok) ∧ IsData tok (modTag f.mod) ∧
      ∀ l < 16, ∀ k < 32, (tok.lane l).getLsbD k =
        if pos ≤ k ∧ k < pos + len then ((s.operand f.io .b).lane l).getLsbD (k - pos)
        else ((s.operand f.io .a).lane l).getLsbD k)

/-- R147, R148, R70, R123, R142: MOV copies the oldest entry with its TAG and SCALE, or retags its payload; CONST delivers
the value of R70 in every lane; LANE each element's token index; COORD the place of its slot; PHASE the phase and rotation
of the position that drives it. -/
def Clause.MovesAndSources : Prop :=
  (∀ (f : FA) (s : State), modV f.mod = false → f.a.used = true → f.b.used = false → f.c.used = false → Ready s f.io →
    Clean (s.reads f.io) → (s.operand f.io .a).badTag = false →
    (modTag f.mod = 0 ∨ tagCheck true (modTag f.mod) (s.operand f.io .a) = true) →
    wellScaled (s.edgeAt s.clk.focus .a)
      (if tagScaled (modTag f.mod) then s.ents s.clk.focus f.io .a else [s.operand f.io .a]) = .ok () →
    ∃ tok, exec (.mov f) s = .next (s.delivers f.io 1 tok) ∧ tok.lanes = (s.operand f.io .a).lanes ∧
      tok.tag = (s.operand f.io .a).tag ∧ tok.scale = (s.operand f.io .a).scale ∧ tok.void = false ∧ tok.parityOk = true) ∧
  (∀ (f : FA) (s : State), modV f.mod = true → f.a.used = true → f.b.used = false → f.c.used = false → Ready s f.io →
    Clean (s.reads f.io) → (s.operand f.io .a).badTag = false → tagScaled (s.operand f.io .a).tag = false →
    (s.operand f.io .a).tag ≠ 15 →
    ∃ tok, exec (.mov f) s = .next (s.delivers f.io 1 tok) ∧ IsData tok (modTag f.mod) ∧
      tok.lanes = (s.operand f.io .a).lanes) ∧
  (∀ (f : FK) (s : State), Ready s f.io →
    ∃ tok, exec (.const f) s = .next (s.delivers f.io 1 tok) ∧ IsData tok (modTag f.mod) ∧ ∀ l < 16, tok.lane l =
      if f.mod.extractLsb' 0 2 = 0 then f.imm.setWidth 32 else if f.mod.extractLsb' 0 2 = 1 then f.imm.signExtend 32
      else if f.mod.extractLsb' 0 2 = 2 then f.imm ++ 0#4 else f.imm.extractLsb' 0 16 ++ f.imm.extractLsb' 0 16) ∧
  (∀ (f : FA) (s : State), Ready s f.io → Clean (s.reads f.io) → s.wellFed f.io .a →
    ∃ tok, exec (.lane f) s = .next (s.delivers f.io 1 tok) ∧ IsData tok (modTag f.mod) ∧
      ∀ l < 16, ∀ j < tagCount (modTag f.mod), tok.el (modTag f.mod) l j =
        (l * tagCount (modTag f.mod) + j) % 2 ^ tagWidth (modTag f.mod)) ∧
  (∀ (f : FA) (s : State), Ready s f.io → Clean (s.reads f.io) → s.wellFed f.io .a →
    let x := s.clk.focus
    let g := s.region x.core x.unit
    let k := x.slot.val / 8
    ∃ tok, exec (.coord f) s = .next (s.delivers f.io 1 tok) ∧ IsData tok 7 ∧ ∀ l < 16, (tok.lane l) = BitVec.ofNat 32
      (if l = 0 then x.core.val % 8 else if l = 1 then x.core.val / 8 else if l = 2 then g.ex0 + k % 4
       else if l = 3 then g.ey0 + k / 4 else if l = 4 then x.unit.val else if l = 5 then k else if l = 6 then x.core.val
       else 0)) ∧
  (∀ (f : FA) (s : State), Ready s f.io → Clean (s.reads f.io) → s.wellFed f.io .a →
    let x := s.clk.focus
    let lanes (tok : Token) (ph : Nat) (rot : Lane) : Prop := ∀ l < 16, tok.lane l =
      if modV f.mod then (if l = 0 then BitVec.ofNat 32 ph else if l = 1 then rot else 0) else BitVec.ofNat 32 ph
    (s.regionHead x.core x.unit = none →
      ∃ tok, exec (.phase f) s = .next (s.delivers f.io 1 tok) ∧ IsData tok 7 ∧ lanes tok 0 (BitVec.ofNat 32 (s.slot x).fires)) ∧
    ∀ h, s.regionHead x.core x.unit = some h →
      (∀ d, s.driver x f.io = some d →
        let e := h.epochAt d
        let n := if e.first = (s.slot x).epoch then (s.slot x).fires else 0
        ∃ tok, exec (.phase f) s = .next (s.delivers f.io 1 tok) ∧ IsData tok 7 ∧
          lanes tok (n % max e.period 1) (e.rot + BitVec.ofNat 32 ((d - e.first) / max e.period 1))) ∧
      (s.driver x f.io = none →
        ∃ tok rot, exec (.phase f) s = .next (s.delivers f.io 1 tok) ∧ IsData tok 7 ∧
          lanes tok ((s.slot x).fires % max h.pcur 1) rot))

/-! ## Floating instructions and the function unit (R149..R153, R156) -/

/-- R149, R156, R137, R139, R142: FADD, FSUB, FMUL, FMA and RNDI deliver each exact result rounded once by the word's mode;
under TRAPV an invalid operation makes the firing deliver a void token with cause 0x03. -/
def Clause.FloatArithmetic : Prop :=
  ∀ (f : FA) (s : State) (i : FA → Instr) (lat : Nat) (v : Bool → Rnd → Machine.Num → Machine.Num → Machine.Num → Machine.Num)
    (bad : Bool → Rnd → Machine.Num → Machine.Num → Machine.Num → Bool), (i, lat, v, bad) ∈ floatTable → f.a.used = true →
      Ready s f.io →
    Clean (s.reads f.io) → (∀ p ∈ f.io.used, Tagged false (modTag f.mod) (s.operand f.io p)) →
    let t := modTag f.mod
    let rm := Rnd.ofBits (modRnd f.mod)
    let at_ {α : Type} (g : Bool → Rnd → Machine.Num → Machine.Num → Machine.Num → α) (l j : Nat) : α :=
      g (modV f.mod) rm (s.floatAt f .a l j) (s.floatAt f .b l j) (s.floatAt f .c l j)
    ((modB1 f.mod = false ∨ ∀ l < 16, ∀ j < tagCount t, at_ bad l j = false) →
      ∃ tok, exec (i f) s = .next (s.delivers f.io lat tok) ∧ IsData tok t ∧
        ∀ l < 16, ∀ j < tagCount t, tok.el t l j = (ieeeOf t).round rm (at_ v l j) % 2 ^ tagWidth t) ∧
    (modB1 f.mod = true → (∃ l < 16, ∃ j < tagCount t, at_ bad l j = true) →
      exec (i f) s = .next (s.faults f.io lat t causeTrap))

/-- R150, R151, R152, R142: FMIN and FMAX choose an operand, −0 below +0, and a NaN gives way; FABS and FNEG change the
sign bit alone; FCMP delivers 1 or 0 by its condition; FCLASS the class mask; FSCL x·2^y rounded once. -/
def Clause.FloatSelection : Prop :=
  ∀ (f : FA) (s : State), Ready s f.io → Clean (s.reads f.io) → f.a.used = true →
    Tagged false (modTag f.mod) (s.operand f.io .a) →
    let t := modTag f.mod
    let x (l j : Nat) : Nat := (s.operand f.io .a).el t l j
    let y (l j : Nat) : Nat := (s.operand f.io .b).el t l j
    let dx (l j : Nat) : Machine.Num := s.floatAt f .a l j
    let dy (l j : Nat) : Machine.Num := s.floatAt f .b l j
    let c := (f.imm.extractLsb' 0 3).toNat
    let cmpTag : BitVec 4 := if t = 1 then 7 else 8
    (Tagged false t (s.operand f.io .b) →
      (∃ tok, exec (.fmin f) s = .next (s.delivers f.io 1 tok) ∧ IsData tok t ∧ ∀ l < 16, ∀ j < tagCount t,
        tok.el t l j = (if (dx l j).isNan && (dy l j).isNan then (ieeeOf t).canon else if (dx l j).isNan then y l j
          else if (dy l j).isNan then x l j
          else if (dx l j).cmp (dy l j) < 0 ∨ ((dx l j).cmp (dy l j) = 0 ∧ (dx l j).neg = true ∧ (dy l j).neg = false)
            then x l j else y l j) % 2 ^ tagWidth t) ∧
      (∃ tok, exec (.fmax f) s = .next (s.delivers f.io 1 tok) ∧ IsData tok t ∧ ∀ l < 16, ∀ j < tagCount t,
        tok.el t l j = (if (dx l j).isNan && (dy l j).isNan then (ieeeOf t).canon else if (dx l j).isNan then y l j
          else if (dy l j).isNan then x l j
          else if (dx l j).cmp (dy l j) < 0 ∨ ((dx l j).cmp (dy l j) = 0 ∧ (dx l j).neg = true ∧ (dy l j).neg = false)
            then y l j else x l j) % 2 ^ tagWidth t) ∧
      (∃ tok, exec (.fcmp f) s = .next (s.delivers f.io 1 tok) ∧ IsData tok cmpTag ∧ ∀ l < 16, ∀ j < tagCount cmpTag,
        (tok.el cmpTag l j = 1 ∨ tok.el cmpTag l j = 0) ∧ (tok.el cmpTag l j = 1 ↔
          let un := (dx l j).isNan = true ∨ (dy l j).isNan = true
          let k := (dx l j).cmp (dy l j)
          (c = 0 ∧ ¬un ∧ k = 0) ∨ (c = 1 ∧ (un ∨ k ≠ 0)) ∨ (c = 2 ∧ ¬un ∧ k < 0) ∨ (c = 3 ∧ ¬un ∧ k ≤ 0) ∨
            (c = 4 ∧ ¬un ∧ k > 0) ∨ (c = 5 ∧ ¬un ∧ k ≥ 0) ∨ (c = 6 ∧ un) ∨ (c = 7 ∧ ¬un)))) ∧
    (∃ tok, exec (.fabs f) s = .next (s.delivers f.io 1 tok) ∧ IsData tok t ∧ ∀ l < 16, ∀ j < tagCount t,
      tok.el t l j = x l j % 2 ^ (tagWidth t - 1)) ∧
    (∃ tok, exec (.fneg f) s = .next (s.delivers f.io 1 tok) ∧ IsData tok t ∧ ∀ l < 16, ∀ j < tagCount t,
      tok.el t l j = (x l j + 2 ^ (tagWidth t - 1)) % 2 ^ tagWidth t) ∧
    (∃ tok, exec (.fclass f) s = .next (s.delivers f.io 1 tok) ∧ IsData tok cmpTag ∧ ∀ l < 16, ∀ j < tagCount cmpTag,
      tok.el cmpTag l j = classMask (ieeeOf t) (x l j) % 2 ^ tagWidth cmpTag) ∧
    ((f.b.used = true → Tagged false cmpTag (s.operand f.io .b)) →
      ∃ tok, exec (.fscl f) s = .next (s.delivers f.io 2 tok) ∧ IsData tok t ∧ ∀ l < 16, ∀ j < tagCount t,
        tok.el t l j = (ieeeOf t).round (Rnd.ofBits (modRnd f.mod))
          ((dx l j).scale (if f.b.used then sgn (tagWidth t) (y l j) else f.imm.toInt)) % 2 ^ tagWidth t)

/-- R153, R139, R142: RCP, RSQ, EXP2 and LOG2 of F32 lanes, and TCOS and TSIN of I32 turn fractions, deliver the function
rounded once; an invalid operand gives the canonical NaN, or under TRAPV the fault. -/
def Clause.FunctionUnit : Prop :=
  (∀ (f : FA) (s : State) (i : FA → Instr) (lat : Nat) (fn : Rnd → Machine.Num → Option Nat), (i, lat, fn) ∈ unitTable →
    f.a.used = true → Ready s f.io → Clean (s.reads f.io) → Tagged false 1 (s.operand f.io .a) →
    let r (l : Nat) : Option Nat := fn (Rnd.ofBits (modRnd f.mod)) (f32.dec ((s.operand f.io .a).lane l).toNat)
    ((modB1 f.mod = false ∨ ∀ l < 16, (r l).isSome) →
      ∃ tok, exec (i f) s = .next (s.delivers f.io lat tok) ∧ IsData tok 1 ∧
        ∀ l < 16, (tok.lane l).toNat = (r l).getD f32.canon % 2 ^ 32) ∧
    (modB1 f.mod = true → (∃ l < 16, r l = none) → exec (i f) s = .next (s.faults f.io lat (modTag f.mod) causeTrap))) ∧
  (∀ (f : FA) (s : State), f.a.used = true → Ready s f.io → Clean (s.reads f.io) → Tagged false 7 (s.operand f.io .a) →
    (∃ tok, exec (.tcos f) s = .next (s.delivers f.io 10 tok) ∧ IsData tok 1 ∧ ∀ l < 16, (tok.lane l).toNat =
      cosCode (Rnd.ofBits (modRnd f.mod)) ((s.operand f.io .a).lane l).toNat % 2 ^ 32) ∧
    (∃ tok, exec (.tsin f) s = .next (s.delivers f.io 10 tok) ∧ IsData tok 1 ∧ ∀ l < 16, (tok.lane l).toNat =
      sinCode (Rnd.ofBits (modRnd f.mod)) ((s.operand f.io .a).lane l).toNat % 2 ^ 32))

/-! ## The firing rules (R24..R32, R127..R129) -/

/-- R24, R29, R30: a firing removes the oldest pop entries of each port, counts itself, sends its token to each valid target
to arrive after L + D, spends a credit of each target that counts them, and returns the credits of what it popped after D. -/
def Clause.Firing : Prop :=
  ∀ (s : State) (io : Io) (lat : Nat) (tok : Token),
    let x := s.clk.focus
    let t := s.delivers io lat tok
    (s.region x.core x.unit).snap = none → s.head x = none →
    (∀ p, ((t.slot x).port p).q = ((s.slot x).port p).q.drop (io.ctl p).popN) ∧
    (t.slot x).fired = true ∧ (t.slot x).count = (s.slot x).count + 1 ∧
    (s.regionHead x.core x.unit = none → (t.slot x).fires = (s.slot x).fires + 1) ∧
    (∀ h d, s.regionHead x.core x.unit = some h → s.driver x io = some d → (t.slot x).fires =
      (if (h.epochAt d).first = (s.slot x).epoch then (s.slot x).fires else 0) + 1) ∧
    (t.slot x).cred0 = (s.slot x).cred0 - (if io.t0.v = true ∧ s.counted x io.t0 = true then 1 else 0) ∧
    (t.slot x).cred1 = (s.slot x).cred1 - (if io.t1.v = true ∧ s.counted x io.t1 = true then 1 else 0) ∧
    (io.t0.v = true → ∃ n, (s.clk.now + (lat + targetD x.slot io.t0),
      Instr.tokenArrival x io.t0 tok (s.region x.core x.unit).gen n) ∈ t.clk.pending) ∧
    (io.t1.v = true → ∃ n, (s.clk.now + (lat + targetD x.slot io.t1),
      Instr.tokenArrival x io.t1 tok (s.region x.core x.unit).gen n) ∈ t.clk.pending) ∧
    (∀ p i second, ((s.slot x).port p).feeder = .slot i second → ((s.slot x).port p).former = [] →
      s.feederHeld x (.slot i second) = false → 0 < (io.ctl p).popN → ((s.slot x).port p).q ≠ [] →
      (s.clk.now + pathD i x.slot, Instr.creditReturn (x.at_ i) (if second then .t1 else .t0)
        (s.region x.core x.unit).gen) ∈ t.clk.pending)

/-- R128, R129: a firing that reads a void entry performs no operation and delivers a void token with port a's payload and
TAG and the first void entry's cause; one that reads a poisoned entry and no void one delivers payload zero and TAG 0xF. -/
def Clause.VoidAndPoison : Prop :=
  ∀ (f : FA) (s : State) (i : FA → Instr) (lat : Nat), (i, lat) ∈ laneTable → Ready s f.io →
    (∀ pre v post, s.reads f.io = pre ++ v :: post → (∀ t ∈ pre, t.void = false) → v.void = true →
      ∃ tok, exec (i f) s = .next (s.delivers f.io lat tok) ∧ tok.void = true ∧ tok.eos = false ∧ tok.mark = false ∧
        tok.cause = v.cause ∧
        (f.a.used = true → tok.lanes = (s.operand f.io .a).lanes ∧ tok.tag = (s.operand f.io .a).tag) ∧
        (f.a.used = false → tok.lanes = zeroLanes ∧ tok.tag = modTag f.mod)) ∧
    ((∀ t ∈ s.reads f.io, t.void = false) → (∃ t ∈ s.reads f.io, t.poisoned = true) →
      exec (i f) s = .next (s.delivers f.io lat poisonToken))

/-- R127, R133, R139: an operand on port a that fails the tag check of the instruction's declared tag makes the firing deliver a
void token with cause 0x02, a format fault; so does a malformed scaled token that an instruction reads whatever its format. -/
def Clause.FormatFault : Prop :=
  (∀ (f : FA) (s : State) (i : FA → Instr) (lat : Nat) (raw : Bool) (d : FA → BitVec 4), (i, lat, raw, d) ∈ tagTable →
    f.a.used = true → Ready s f.io → Clean (s.reads f.io) → ¬ Tagged raw (d f) (s.operand f.io .a) →
    exec (i f) s = .next (s.faults f.io lat (modTag f.mod) 0x02)) ∧
  ∀ (f : FA) (s : State) (i : FA → Instr), i ∈ [Instr.mov, .lane, .coord, .phase] ++ bitTable.map Prod.fst →
    modTag f.mod = 0 → f.a.used = true → Ready s f.io → Clean (s.reads f.io) →
    wellScaled (s.edgeAt s.clk.focus .a) [s.operand f.io .a] ≠ .ok () → exec (i f) s = .next (s.faults f.io 1 0 0x02)

/-- R31: when every port that pops is at end, the instruction removes from each everything up to and including its first
end-of-stream, leaves the other ports, delivers one end-of-stream to each target, and resets its running state. -/
def Clause.EndFiring : Prop :=
  ∀ (f : FA) (s : State) (i : FA → Instr) (lat : Nat), (i, lat) ∈ laneTable → Clear s f.io 1 1 →
    f.io.popping ≠ [] → (∀ p ∈ f.io.popping, s.portSt s.clk.focus f.io p = .fin) →
    let through (p : PortName) : Nat := if (f.io.ctl p).popN = 0 then 0 else throughEos ((s.slot s.clk.focus).port p).q
    exec (i f) s = .next (s.shoot s.clk.focus f.io lat
      { pa := through .a, pb := through .b, pc := through .c, out := .both eosToken, run := .idle, fin := true })

/-- R32, R139: a popping port at end beside a popping port that holds its need is a stream-length fault: void results with
cause 0x04, the ports with data pop, the ports at end keep everything. -/
def Clause.StreamLength : Prop :=
  ∀ (f : FA) (s : State) (i : FA → Instr) (lat : Nat), (i, lat) ∈ laneTable → Clear s f.io 1 1 →
    ∀ p ∈ f.io.popping, ∀ q ∈ f.io.popping, s.portSt s.clk.focus f.io p = .fin → s.portSt s.clk.focus f.io q = .data →
    let pops (p : PortName) : Nat := if s.portSt s.clk.focus f.io p = .data then (f.io.ctl p).popN else 0
    ∃ tok, tok.void = true ∧ tok.cause = 0x04 ∧ exec (i f) s = .next (s.shoot s.clk.focus f.io lat
      { pa := pops .a, pb := pops .b, pc := pops .c, out := .both tok, run := s.here.run, beat := s.here.beat,
        cause := some 0x04 })

/-- R139, R94, R289: the fault of a firing is raised for its region, with the slot and the cause, unless the slot is
head-driven (the void token's cause then tells the rotation) or the region has already faulted. -/
def Clause.FaultOfAFiring : Prop :=
  ∀ (s : State) (io : Io) (lat : Nat) (tag : BitVec 4) (c : Cause),
    let x := s.clk.focus
    let g := s.region x.core x.unit
    let t := s.faults io lat tag c
    g.snap = none → s.head x = none →
    (t.region x.core x.unit).pend = g.pend ++
      (if s.here.driven = true ∨ g.st = .faulted ∨ g.markFault = true then []
       else [⟨x.slot, if c = 1 then 0x11 else if c = 3 then 0x12 else if c = 4 then 0x13 else 0x10, 0, true⟩])

/-- The frame of the fabric instructions without an effect beyond their own region: whatever they do, they leave memory, the
accesses, every other core, region and element, every register, and the cycle as they are. -/
def Clause.FabricFrame : Prop :=
  ∀ (s t : State), (s.region s.clk.focus.core s.clk.focus.unit).snap = none →
    (∀ i ∈ localTable, ∀ f, exec (i f) s = .next t → Local s.clk.focus s t) ∧
    (∀ i ∈ localTableFO, ∀ f, exec (i f) s = .next t → Local s.clk.focus s t) ∧
    (∀ f, exec (.const f) s = .next t → Local s.clk.focus s t) ∧
    (∀ f, exec (.bfx f) s = .next t → Local s.clk.focus s t) ∧ ∀ f, exec (.bcast f) s = .next t → Local s.clk.focus s t

/-! ## Conversions and quantisation (R154..R159) -/

/-- R154, R155: a narrowing CVT and a PACK read the need of port a and deliver one token.  CVT takes the elements in stream
order and converts each; PACK takes, lane by lane, the low bits of the tokens' elements in turn. -/
def Clause.Narrowing : Prop :=
  ∀ (f : FA) (s : State), f.b.used = false → f.c.used = false → f.a.used = true → Ready s f.io →
    Clean (s.ents s.clk.focus f.io .a) → (∀ t ∈ s.ents s.clk.focus f.io .a, Tagged false (modTag f.mod) t) →
    let src := modTag f.mod
    let dst := immTag f.imm
    let as := s.ents s.clk.focus f.io .a
    tagCount src < tagCount dst → f.a.needN * tagCount src = tagCount dst →
    (∃ tok, exec (.cvt f) s = .next (s.delivers f.io 2 tok) ∧ IsData tok dst ∧ ∀ l < 16, ∀ j < tagCount dst,
      tok.el dst l j = cvtElem src dst (Rnd.ofBits (modRnd f.mod)) (modB1 f.mod)
        (streamEl src as (l * tagCount dst + j)) % 2 ^ tagWidth dst) ∧
    (∃ tok, exec (.pack f) s = .next (s.delivers f.io 1 tok) ∧ IsData tok dst ∧ ∀ l < 16, ∀ j < tagCount dst,
      tok.el dst l j = (as.getD (j / tagCount src) eosToken).el src l (j % tagCount src) % 2 ^ tagWidth dst)

/-- R154, R155, R158: CVT between equal element counts or widening, UNPK and DQT make their part firings in turn, part k
delivering its elements, and pop the operand in the last. -/
def Clause.Widening : Prop :=
  ∀ (f : FA) (s : State) (k : Nat), f.b.used = false → f.c.used = false → f.a.used = true → Ready s f.io →
    Clean (s.ents s.clk.focus f.io .a) → s.atPart k →
    let src := modTag f.mod
    let dst := immTag f.imm
    let as := s.ents s.clk.focus f.io .a
    (tagCount dst ≤ tagCount src → Tagged false src (s.operand f.io .a) → f.a.needN = 1 →
      let n := tagCount src / tagCount dst
      k < n →
      (∃ tok, exec (.cvt f) s = .next (s.delivPart f 2 k n tok) ∧ IsData tok dst ∧ ∀ l < 16, ∀ j < tagCount dst,
        tok.el dst l j = cvtElem src dst (Rnd.ofBits (modRnd f.mod)) (modB1 f.mod)
          (streamEl src as (k * (16 * tagCount dst) + (l * tagCount dst + j))) % 2 ^ tagWidth dst) ∧
      (∃ tok, exec (.unpk f) s = .next (s.delivPart f 1 k n tok) ∧ IsData tok dst ∧ ∀ l < 16, ∀ j < tagCount dst,
        tok.el dst l j = wrapTo (tagWidth dst) (elVal src ((s.operand f.io .a).el src l (k * tagCount dst + j))))) ∧
    ((∀ t ∈ as, t.tag = src) → wellScaled (as.length, 0) as = .ok () →
      let n := tagCount src * f.a.needN / tagCount dst
      k < n →
      ∃ tok, exec (.dqt f) s = .next (s.delivPart f 2 k n tok) ∧ IsData tok dst ∧ ∀ l < 16, ∀ j < tagCount dst,
        tok.el dst l j = (ieeeOf dst).round (Rnd.ofBits (modRnd f.mod)) (scaledValue src (s.operand f.io .a).scale
          (streamEl src as (k * (16 * tagCount dst) + (l * tagCount dst + j)))) % 2 ^ tagWidth dst)

/-- R157, R159: QNT and SCLC pop one token in each intake and deliver nothing; the intake that completes the block makes
its beats, which later firings deliver in order, the first no earlier than 4 cycles on. -/
def Clause.BlockFirings : Prop :=
  ∀ (f : FA) (s : State) (ins : List Token) (b : Nat),
    let q := (i : FA → Instr) → (n : Nat) → (beats : List Token → List Token) → Prop
    let intake : q := fun i n beats => ∀ t rest, Clear s f.io 1 1 → f.a.needN = 1 →
      s.ents s.clk.focus f.io .a = t :: rest → s.portSt s.clk.focus f.io .a = .data → s.has .a t → t.void = false →
      t.poisoned = false → Tagged false (modTag f.mod) t →
      (s.here.run = .block ins false 0 false [] ∨ (s.here.run = .idle ∧ ins = [])) →
      exec (i f) s = .next (s.shoot s.clk.focus f.io 2
        { pa := 1, ready := s.clk.now + 4,
          run := if n ≤ ins.length + 1 then .block [] false 0 false (beats (ins ++ [t]))
            else .block (ins ++ [t]) false 0 false [] })
    let emission : (FA → Instr) → Prop := fun i => ∀ beat beats, Clear s f.io 1 1 → s.here.ready ≤ s.clk.now →
      s.here.run = .block [] false 0 false (beat :: beats) →
      exec (i f) s = .next (s.shoot s.clk.focus f.io 2
        { out := .both beat, run := .block [] false 0 false beats, ready := s.here.ready })
    (s.here.burst = b → intake .qnt (tagCount (immTag f.imm) * b / tagCount (modTag f.mod)) (qntBeats f b)) ∧
    (2 ^ (f.imm.extractLsb' 6 2).toNat = b →
      intake .sclc (tagCount (immTag f.imm) * b / tagCount (modTag f.mod)) (fun xs => [sclcTok f b xs])) ∧
    emission .qnt ∧ emission .sclc

/-! ## Reductions, movement and sampling (R160..R167, R334, R362..R366) -/

/-- R160, R161: RSUM of an integer format without SAT delivers in every lane the sum of all elements of all entries read,
modulo 2^32; RMAX and RMIN deliver the largest and the smallest element. -/
def Clause.IntegerReductions : Prop :=
  ∀ (f : FA) (s : State), f.a.used = true → f.b.used = false → f.c.used = false → Ready s f.io →
    Clean (s.readsAll f.io) → (∀ t ∈ s.readsAll f.io, Tagged false (modTag f.mod) t) → modTag f.mod ∈ intTags →
    let vs := (s.readsAll f.io).flatMap fun t => tokenVals t (modTag f.mod)
    (modB1 f.mod = false → ∃ tok, exec (.rsum f) s = .next (s.delivers f.io 5 tok) ∧ IsData tok 7 ∧
      ∀ l < 16, tok.lane l = BitVec.ofInt 32 vs.sum) ∧
    (∃ tok, exec (.rmax f) s = .next (s.delivers f.io 5 tok) ∧ IsData tok 7 ∧
      ∀ l < 16, (tok.lane l).toInt ∈ vs ∧ ∀ v ∈ vs, v ≤ (tok.lane l).toInt) ∧
    (∃ tok, exec (.rmin f) s = .next (s.delivers f.io 5 tok) ∧ IsData tok 7 ∧
      ∀ l < 16, (tok.lane l).toInt ∈ vs ∧ ∀ v ∈ vs, (tok.lane l).toInt ≤ v)

/-- R160, R161: the tree of a reduction of one F32 entry: lanes are joined in pairs, left operand first, four times over,
each application rounding once; RMAX and RMIN choose as FMAX and FMIN do. -/
def Clause.ReductionTree : Prop :=
  ∀ (f : FA) (s : State), f.a.used = true → f.b.used = false → f.c.used = false → f.a.needN = 1 → Ready s f.io →
    Clean (s.readsAll f.io) → (∀ t ∈ s.readsAll f.io, Tagged false 1 t) → modTag f.mod = 1 →
    let tree (op : Nat → Nat → Nat) : Nat :=
      let x (l : Nat) : Nat := f32.round .rne (f32.dec ((s.operand f.io .a).lane l).toNat)
      let n1 (i : Nat) : Nat := op (x (2 * i)) (x (2 * i + 1))
      let n2 (i : Nat) : Nat := op (n1 (2 * i)) (n1 (2 * i + 1))
      let n3 (i : Nat) : Nat := op (n2 (2 * i)) (n2 (2 * i + 1))
      op (n3 0) (n3 1)
    let rm := Rnd.ofBits (modRnd f.mod)
    (∃ tok, exec (.rsum f) s = .next (s.delivers f.io 5 tok) ∧ IsData tok 1 ∧ ∀ l < 16, tok.lane l =
      BitVec.ofNat 32 (tree fun x y => f32.round rm ((f32.dec x).add rm (f32.dec y)))) ∧
    (∃ tok, exec (.rmax f) s = .next (s.delivers f.io 5 tok) ∧ IsData tok 1 ∧ ∀ l < 16, tok.lane l =
      BitVec.ofNat 32 (tree (floatPick f32 true))) ∧
    (∃ tok, exec (.rmin f) s = .next (s.delivers f.io 5 tok) ∧ IsData tok 1 ∧ ∀ l < 16, tok.lane l =
      BitVec.ofNat 32 (tree (floatPick f32 false)))

/-- R162: ARGMX of an integer format delivers the lowest stream index of the largest element, or of the smallest when V is
set, and that element. -/
def Clause.ArgMax : Prop :=
  ∀ (f : FA) (s : State), f.a.used = true → f.b.used = false → f.c.used = false → Ready s f.io →
    Clean (s.readsAll f.io) → (∀ t ∈ s.readsAll f.io, Tagged false (modTag f.mod) t) → modTag f.mod ∈ intTags →
    let vs := (s.readsAll f.io).flatMap fun t => tokenVals t (modTag f.mod)
    let before (v w : Int) : Prop := if modV f.mod then v < w else w < v
    ∃ tok i v, exec (.argmx f) s = .next (s.delivers f.io 5 tok) ∧ IsData tok 7 ∧ vs[i]? = some v ∧
      tok.lane 0 = BitVec.ofNat 32 i ∧ tok.lane 1 = BitVec.ofInt 32 v ∧ (∀ l, 2 ≤ l → tok.lane l = 0) ∧
      (∀ w ∈ vs, ¬ before w v) ∧ ∀ j < i, ∀ w, vs[j]? = some w → before v w

/-- R163: SCAN of an integer format without SAT delivers in lane l the carry plus the sum of the lane values through l, or
before l when V is set, modulo 2^32, and keeps the carry plus the whole sum. -/
def Clause.RunningSum : Prop :=
  ∀ (f : FA) (s : State) (c : Lane), f.a.used = true → f.b.used = false → f.c.used = false → f.a.needN = 1 →
    Ready s f.io → Clean (s.reads f.io) → Tagged false (modTag f.mod) (s.operand f.io .a) → modTag f.mod ∈ intTags →
    modB1 f.mod = false → (s.here.run = .scan c ∨ (s.here.run = .idle ∧ c = 0)) →
    let t := modTag f.mod
    let x (l : Nat) : Int := ((List.range (tagCount t)).map fun j => elVal t ((s.operand f.io .a).el t l j)).sum
    let upTo (n : Nat) : Lane := BitVec.ofInt 32 (c.toInt + ((List.range n).map x).sum)
    ∃ tok, IsData tok 7 ∧ (∀ l < 16, tok.lane l = upTo (if modV f.mod then l else l + 1)) ∧
      exec (.scan f) s = .next (s.shoot s.clk.focus f.io 6
        { pa := f.a.popN, pb := f.b.popN, pc := f.c.popN, out := .both tok, run := .scan (upTo 16) })

/-- R164: DOT of an integer format without SAT delivers in every lane the sum of all products of the paired elements, with
port c's lane 0 added when c is used, modulo 2^32. -/
def Clause.DotProduct : Prop :=
  ∀ (f : FA) (s : State), f.a.used = true → f.b.used = true → f.a.needN = f.b.needN → Ready s f.io →
    Clean (s.readsAll f.io) → (modTag f.mod = 9 ∨ modTag f.mod = 10) → modB1 f.mod = false →
    (∀ p ∈ [PortName.a, .b], ∀ t ∈ s.ents s.clk.focus f.io p, Tagged false (modTag f.mod) t) →
    (f.c.used = true → Tagged false 7 (s.operand f.io .c)) →
    let vals (p : PortName) : List Int := (s.ents s.clk.focus f.io p).flatMap fun t => tokenVals t (modTag f.mod)
    let sum : Int := (((vals .a).zip (vals .b)).map fun p => p.1 * p.2).sum
    ∃ tok, exec (.dot f) s = .next (s.delivers f.io 8 tok) ∧ IsData tok 7 ∧ ∀ l < 16, tok.lane l =
      BitVec.ofInt 32 (if f.c.used then sum + ((s.operand f.io .c).lane 0).toInt else sum)

/-- R165, R166: PERM delivers a's lanes in the order port b or the mode of IMM10 gives, BCAST one element of one lane
everywhere; both keep TAG. -/
def Clause.LaneMovement : Prop :=
  (∀ (f : FA) (s : State), f.a.used = true → Ready s f.io → Clean (s.reads f.io) →
    Tagged false (modTag f.mod) (s.operand f.io .a) → (f.b.used = true → (s.operand f.io .b).wordTag = true) →
    let k := (f.imm.extractLsb' 0 4).toNat
    let m := (f.imm.extractLsb' 8 2).toNat
    m ≤ 2 → ∃ tok, exec (.perm f) s = .next (s.delivers f.io 1 tok) ∧ IsData tok (s.operand f.io .a).tag ∧
      ∀ l < 16, tok.lane l = (s.operand f.io .a).lane
        (if f.b.used then ((s.operand f.io .b).lane l).toNat % 16 else if m = 0 then (l + k) % 16
         else if m = 1 then l ^^^ k else 15 - l)) ∧
  (∀ (f : FI) (s : State), f.a.used = true → Ready s f.io → Clean (s.reads f.io) →
    Tagged false (modTag f.mod) (s.operand f.io .a) → (f.imm.extractLsb' 4 2).toNat < tagCount (modTag f.mod) →
    ∃ tok, exec (.bcast f) s = .next (s.delivers f.io 1 tok) ∧ IsData tok (s.operand f.io .a).tag ∧
      ∀ l < 16, ∀ j < tagCount (modTag f.mod), tok.el (modTag f.mod) l j =
        (s.operand f.io .a).el (modTag f.mod) (f.imm.extractLsb' 0 4).toNat (f.imm.extractLsb' 4 2).toNat)

/-- R167: ADV delivers the oldest entry of a with its TAG and SCALE and pops min(k, n) of its n entries, k being lane 0 of
port b, which is popped, or IMM10. -/
def Clause.WindowAdvance : Prop :=
  ∀ (f : FA) (s : State), Clear s f.io 1 1 → s.here.run ≠ .adv → s.portSt s.clk.focus f.io .a = .data →
    (f.b.used = true → s.portSt s.clk.focus f.io .b = .data ∧ (s.operand f.io .b).wordTag = true) →
    Clean (s.reads f.io) → f.a.used = true → f.c.used = false →
    Tagged false (modTag f.mod) (s.operand f.io .a) →
    wellScaled (s.edgeAt s.clk.focus .a) [s.operand f.io .a] = .ok () →
    let k := if f.b.used then ((s.operand f.io .b).lane 0).toNat else f.imm.toNat
    ∃ tok, tok.lanes = (s.operand f.io .a).lanes ∧ tok.tag = (s.operand f.io .a).tag ∧
      tok.scale = (s.operand f.io .a).scale ∧ tok.void = false ∧ tok.parityOk = true ∧
      exec (.adv f) s = .next (s.shoot s.clk.focus f.io 1
        { pa := min k f.a.needN, pb := f.b.popN, out := .both tok, run := .idle })

/-- R334: SMRG joins two states.  Part 0 delivers the header m, l, f1, f2; parts 1 to n the joined lanes; every firing pops
both ports; L is 14 for part 0 and 4 for the others. -/
def Clause.StateMerge : Prop :=
  ∀ (f : FA) (s : State), Ready s f.io → f.a.used = true → f.b.used = true → Clean (s.reads f.io) →
    (s.operand f.io .a).tag = 1 → (s.operand f.io .b).tag = 1 →
    let a := s.operand f.io .a
    let b := s.operand f.io .b
    let n := (f.imm.extractLsb' 0 4).toNat + 1
    let rnd (v : Machine.Num) : Lane := BitVec.ofNat 32 (f32.round .rne v)
    let dec (x : Lane) : Machine.Num := f32.dec x.toNat
    let join (y1 f1 y2 f2 : Lane) : Lane := rnd (((dec y2).mul (dec f2)).add .rne (f32.dec (f32.round .rne ((dec y1).mul (dec
      f1)))))
    let ordinary (t : Token) : Prop := (dec (t.lane 0)).isNan = false ∧ t.lane 0 ≠ 0xFF800000
    (s.here.run = .idle → ordinary a → ordinary b →
      let m : Lane := BitVec.ofNat 32 (floatPick f32 true (a.lane 0).toNat (b.lane 0).toNat)
      let e (x : Lane) : Lane := BitVec.ofNat 32 (exp2Code .rne (dec (rnd ((dec x).add .rne (dec m).flip))))
      let f1 := e (a.lane 0)
      let f2 := e (b.lane 0)
      ∃ tok, IsData tok 1 ∧ tok.lane 0 = m ∧ tok.lane 1 = join (a.lane 1) f1 (b.lane 1) f2 ∧ tok.lane 2 = f1 ∧
        tok.lane 3 = f2 ∧ exec (.smrg f) s = .next (s.shoot s.clk.focus f.io 14
          { pa := 1, pb := 1, out := .both tok, run := .smrg 0 f1 f2 1 })) ∧
    (∀ f1 f2 p, s.here.run = .smrg 0 f1 f2 p → p ≤ n →
      ∃ tok, IsData tok 1 ∧ (∀ l < 16, tok.lane l = join (a.lane l) f1 (b.lane l) f2) ∧
        exec (.smrg f) s = .next (s.shoot s.clk.focus f.io 4
          { pa := 1, pb := 1, out := .both tok, run := if p = n then .idle else .smrg 0 f1 f2 (p + 1) }))

/-- R362, R363: the draw function and RDRAW: lane l of the result is the top 24 bits of the mixed word of K, R and N0 + l,
as an I32 number or as the F32 value of that number over 2^24. -/
def Clause.RandomDraw : Prop :=
  ∀ (f : FA) (s : State), f.a.used = true → Ready s f.io → Clean (s.reads f.io) →
    (s.operand f.io .a).wordTag = true → (modTag f.mod = 1 ∨ modTag f.mod = 7) →
    let a := s.operand f.io .a
    let x1 (l : Nat) : Word64 := (a.lane 1 ++ a.lane 0) + (a.lane 2).setWidth 64 * 0x8F3A61C5D2B74E19 +
      (a.lane 3 + BitVec.ofNat 32 l).setWidth 64 * 0x5C2E97B1A43DF06B
    let x2 (l : Nat) : Word64 := (x1 l ^^^ (x1 l >>> 31)) * 0xE6A13F590B7CD825
    let x3 (l : Nat) : Word64 := (x2 l ^^^ (x2 l >>> 29)) * 0x3B94D7E261AF0C53
    let u (l : Nat) : Nat := (x3 l ^^^ (x3 l >>> 32)).toNat / 2 ^ 40
    ∃ tok, exec (.rdraw f) s = .next (s.delivers f.io 6 tok) ∧ IsData tok (modTag f.mod) ∧
      ∀ l < 16, (modTag f.mod = 7 → (tok.lane l).toNat = u l) ∧
        (modTag f.mod = 1 → (tok.lane l).toNat = f32.round .rne (.fin false (u l) (-24)) % 2 ^ 32)

/-- R364: a firing of RSVR that does not end the selection pops one weight and keeps the candidate, the total and the flags
after its sixteen lanes; the last one pops the control too and delivers them. -/
def Clause.WeightedDraw : Prop :=
  ∀ (f : FA) (s : State) (k : Nat) (c m fl : Lane), Ready s f.io → f.a.used = true → f.b.used = true → f.c.used = false →
    Clean (s.reads f.io) → Tagged false 1 (s.operand f.io .a) → (s.operand f.io .b).wordTag = true →
    (s.here.run = .rsvr k c m fl none false ∨ (s.here.run = .idle ∧ k = 0 ∧ c = 0xFFFFFFFF ∧ m = 0 ∧ fl = 0)) →
    let a := s.operand f.io .a
    let b := s.operand f.io .b
    let lane (q : Lane × Lane × Lane) (l : Nat) : Lane × Lane × Lane :=
      let w := f32.dec (a.lane l).toNat
      let n := BitVec.ofNat 32 (16 * k + l)
      if w.isNan = true ∨ a.lane l = 0x7F800000 then (q.1, q.2.1, q.2.2 ||| 2)
      else if w.cmp (.fin false 0 0) ≤ 0 then q
      else
        let m := BitVec.ofNat 32 (f32.round .rne ((f32.dec q.2.1.toNat).add .rne w))
        let u := drawValue (b.lane 4 ++ b.lane 3) (b.lane 1) n
        if u.isZero = true ∨ (u.mul (f32.dec m.toNat)).cmp w < 0 then (n, m, q.2.2) else (q.1, m, q.2.2)
    let q := (List.range 16).foldl lane (c, m, fl)
    (k < f.imm.toNat → exec (.rsvr f) s = .next (s.shoot s.clk.focus f.io 1
      { pa := 1, run := .rsvr (k + 1) q.1 q.2.1 q.2.2 none false })) ∧
    (f.imm.toNat ≤ k → ∃ tok, IsData tok 7 ∧ tok.lane 0 = q.1 ∧ tok.lane 1 = q.2.1 ∧
      tok.lane 2 = (if q.1 = 0xFFFFFFFF then q.2.2 ||| 1 else q.2.2) ∧ (∀ l, 3 ≤ l → tok.lane l = 0) ∧
      exec (.rsvr f) s = .next (s.shoot s.clk.focus f.io 8 { pa := 1, pb := 1, out := .both tok, run := .idle }))

/-- R366: ACCPT delivers the length, the last node, the sampled token there and the checkpoint split of the accepted path,
then its first eleven nodes.  The path starts at node 0, each step goes to the lowest child whose draft token is the one
sampled, and it ends where there is none. -/
def Clause.DraftAcceptance : Prop :=
  ∀ (f : FA) (s : State), f.a.used = true → f.b.used = true → f.c.used = true → Ready s f.io → Clean (s.reads f.io) →
    (∀ p ∈ [PortName.a, .b, .c], (s.operand f.io p).wordTag = true) →
    let a := s.operand f.io .a
    let b := s.operand f.io .b
    let c := s.operand f.io .c
    let n := (f.imm.extractLsb' 0 4).toNat + 1
    let ci := (f.imm.extractLsb' 4 6).toNat
    let child (x y : Nat) : Prop := 1 ≤ y ∧ y < n ∧ (b.lane y).toNat = x ∧ x < y ∧ a.lane y = c.lane x
    let next (x y : Nat) : Prop := child x y ∧ ∀ z < y, ¬ child x z
    ∃ tok path, exec (.accpt f) s = .next (s.delivers f.io 8 tok) ∧ IsData tok 7 ∧
      (∀ k < path.length, next ((0 :: path).getD k 0) (path.getD k 0)) ∧
      (∀ y, ¬ child (path.getLastD 0) y) ∧
      (tok.lane 0).toNat = path.length ∧ (tok.lane 1).toNat = path.getLastD 0 ∧ tok.lane 2 = c.lane (path.getLastD 0) ∧
      (tok.lane 3).toNat = (if 0 < ci then path.length / ci else 0) ∧
      (tok.lane 4).toNat = (if 0 < ci then path.length % ci else path.length) ∧
      ∀ l, 5 ≤ l → l < 16 → (tok.lane l).toNat = path.getD (l - 5) 0

/-! ## Routers (R171..R183, R39) -/

/-- R171, R174: STEER sends a's oldest token to target 0 when the decision is zero and to target 1 when it is not, needing
room there alone, and pops the decision with the last beat; both ports at end give the end firing.  One port at end beside the
other's token is a stream-length fault, whose void token goes where the decision sends one, to target 0 when the decision port
is at end.  Once an exit has been taken, tokens are popped and discarded. -/
def Clause.Steer : Prop :=
  ∀ (f : FO) (s : State) (a d : Token) (v : Lane),
    let n := s.burstAt s.clk.focus .a
    (f.params.getLsbD 0 = false → s.here.run ≠ .exit → s.has .a a → s.has .b d → Decides d v →
      Clear s f.io (if v = 0 then 1 else 0) (if v = 0 then 0 else 1) →
      let t := if d.void = true ∧ a.void = false then a.voided d.cause else a
      exec (.steer f) s = .next (s.shoot s.clk.focus f.io 0
        { pa := 1, pb := s.beatPop n, out := if v = 0 then ⟨some t, none⟩ else ⟨none, some t⟩, run := s.here.run,
          beat := s.beatNext n })) ∧
    (s.ended .a → s.ended .b → Clear s f.io 1 1 → exec (.steer f) s = .next (s.shoot s.clk.focus f.io 0
      { pa := 1, pb := 1, out := .both eosToken, run := .idle, fin := true })) ∧
    (s.here.run ≠ .exit → s.has .a a → s.ended .b → Clear s f.io 1 0 → ∃ tok, tok.void = true ∧ tok.cause = 0x04 ∧
      tok.lanes = a.lanes ∧ tok.tag = a.tag ∧ exec (.steer f) s = .next (s.shoot s.clk.focus f.io 0
        { pa := 1, out := ⟨some tok, none⟩, run := s.here.run, beat := s.here.beat, cause := some 0x04 })) ∧
    (s.here.run ≠ .exit → s.ended .a → s.has .b d → Decides d v →
      Clear s f.io (if v = 0 then 1 else 0) (if v = 0 then 0 else 1) → ∃ tok, tok.void = true ∧ tok.cause = 0x04 ∧
        exec (.steer f) s = .next (s.shoot s.clk.focus f.io 0
          { pb := 1, out := if v = 0 then ⟨some tok, none⟩ else ⟨none, some tok⟩, run := s.here.run, beat := s.here.beat,
            cause := some 0x04 })) ∧
    (s.here.run = .exit → s.has .a a → s.has .b d → Clear s f.io 0 0 →
      exec (.steer f) s = .next ((s.shoot s.clk.focus f.io 0
        { pa := 1, pb := s.beatPop n, run := .exit, beat := s.beatNext n }).loopReturn s.clk.focus false))

/-- R175: CARRY delivers a's token when fresh; in its loop a nonzero decision delivers b's token and a zero one makes it
fresh again, delivering nothing; a's end when fresh is delivered and begins the closing. -/
def Clause.CarryLoop : Prop :=
  ∀ (f : FA) (s : State) (t d : Token) (v : Lane), Clear s f.io 1 1 →
    (s.here.run = .idle → s.has .a t → exec (.carry f) s = .next (s.shoot s.clk.focus f.io 0
      { pa := 1, out := .both t, beat := s.beatNext (s.burstAt s.clk.focus .a),
        run := if s.beatNext (s.burstAt s.clk.focus .a) = 0 then .loop false false false else .idle })) ∧
    (∀ x y, s.here.run = .loop false x y → s.has .c d → Decides d v → ¬ s.ended .b →
      (v = 0 → s.here.beat = 0 → exec (.carry f) s = .next (s.shoot s.clk.focus f.io 0 { pc := 1, run := .idle })) ∧
      (v ≠ 0 → s.has .b t → exec (.carry f) s = .next (s.shoot s.clk.focus f.io 0
        { pb := 1, pc := s.beatPop (s.burstAt s.clk.focus .b), out := .both t, run := .loop false false false,
          beat := s.beatNext (s.burstAt s.clk.focus .b) }))) ∧
    (s.here.run = .idle → s.ended .a → exec (.carry f) s = .next (s.shoot s.clk.focus f.io 0
      { pa := 1, out := .both eosToken, run := .loop true false false, fin := true }))

/-- R175: INV delivers a copy of a's token when fresh and for every nonzero decision, and pops it with the decision that is
zero. -/
def Clause.InvariantCopies : Prop :=
  ∀ (f : FO) (s : State) (t d : Token) (v : Lane), Clear s f.io 1 1 → s.burstAt s.clk.focus .a = 1 → s.here.beat = 0 →
    s.has .a t →
    (s.here.run = .idle → exec (.inv f) s = .next (s.shoot s.clk.focus f.io 0
      { out := .both t, run := .loop false false false })) ∧
    (∀ x y, s.here.run = .loop false x y → s.has .b d → Decides d v →
      (v ≠ 0 → exec (.inv f) s = .next (s.shoot s.clk.focus f.io 0
        { pb := 1, out := .both t, run := .loop false false false })) ∧
      (v = 0 → exec (.inv f) s = .next (s.shoot s.clk.focus f.io 0 { pa := 1, pb := 1, run := .idle })))

/-- R176, R177: MERGE takes the token of the arm its decision names, a for zero and b for any other, and pops both; AMRG
takes the used port whose oldest token arrived first, the earlier port of two that arrived together. -/
def Clause.Merges : Prop :=
  ∀ (f : FA) (s : State), Clear s f.io 1 1 → s.here.run = .idle →
    (∀ (t d : Token) (v : Lane), s.has .c d → Decides d v →
      let p : PortName := if v = 0 then .a else .b
      let n := s.burstAt s.clk.focus p
      s.has p t → exec (.merge f) s = .next (s.shoot s.clk.focus f.io 0
        { pa := if v = 0 then 1 else 0, pb := if v = 0 then 0 else 1, pc := s.beatPop n, run := .idle,
          beat := s.beatNext n, out := .both (if d.void = true ∧ t.void = false then t.voided d.cause else t) })) ∧
    (∀ (p : PortName) (e : Entry), p ∈ f.io.used → (s.here.port p).q.head? = some e → e.tok.eos = false →
      let rank : PortName → Nat := fun p => match p with | .a => 0 | .b => 1 | .c => 2
      (∀ q ∈ f.io.used, ∀ e', (s.here.port q).q.head? = some e' → e'.tok.eos = false →
        e.arr < e'.arr ∨ (e.arr = e'.arr ∧ rank p ≤ rank q)) →
      let n := s.beatNext (s.burstAt s.clk.focus p)
      exec (.amrg f) s = .next (s.shoot s.clk.focus f.io 0
        { pa := if p = .a then 1 else 0, pb := if p = .b then 1 else 0, pc := if p = .c then 1 else 0,
          out := .both e.tok, run := if n = 0 then .idle else .part (rank p), beat := n }))

/-- R178, R275: CINCH fires when every used port holds its data and delivers the selected port's token, void with the cause of the
first void entry when any entry read is void; with a scope above the region the delivery waits in order until the writes its
region had posted are performed, at system scope also until peers have acknowledged theirs. -/
def Clause.Cinch : Prop :=
  ∀ (f : FA) (s : State), Ready s f.io →
    let sel : PortName := if f.imm.extractLsb' 0 2 = 0 then .a else if f.imm.extractLsb' 0 2 = 1 then .b else .c
    let reads := s.ents s.clk.focus f.io .a ++ s.ents s.clk.focus f.io .b ++ s.ents s.clk.focus f.io .c
    let op := s.operand f.io sel
    let delivers (tok : Token) : Prop :=
      (f.imm.extractLsb' 2 2 = 0 → exec (.cinch f) s = .next (s.shoot s.clk.focus f.io 0
        { pa := f.a.popN, pb := f.b.popN, pc := f.c.popN, out := .both tok, run := .idle })) ∧
      (f.imm.extractLsb' 2 2 ≠ 0 → ∃ after : List Nat, (∀ a ∈ s.accs, ∀ y h e, a.agent = .op y h e →
          y.core = s.clk.focus.core → y.unit = s.clk.focus.unit →
          (a.stage = .posted ∨ (f.imm.extractLsb' 2 2 = 3 ∧ a.stage = .peer)) → a.id ∈ after) ∧
        exec (.cinch f) s = .next (s.shoot s.clk.focus f.io 0
          { pa := f.a.popN, pb := f.b.popN, pc := f.c.popN, run := .idle,
            rob := some ⟨s.clk.ids, some [.both tok], after, 0⟩ }).tickId)
    ((∀ t ∈ reads, t.void = false) → delivers op) ∧
    (∀ pre v post, reads = pre ++ v :: post → (∀ t ∈ pre, t.void = false) → v.void = true →
      ∃ tok, tok.void = true ∧ tok.cause = v.cause ∧ tok.lanes = op.lanes ∧ tok.tag = op.tag ∧ tok.scale = op.scale ∧
        tok.eos = false ∧ delivers tok)

/-- R179: DROP pops a token and delivers nothing, DROP.V delivers what is not void; the end firing delivers an end-of-stream to
the valid targets, of which a DROP without V has none. -/
def Clause.Drop : Prop :=
  (∀ (f : FA) (s : State), Clear s f.io 1 1 →
    (∀ t, s.has .a t → exec (.drop f) s = .next (s.shoot s.clk.focus f.io 0
      { pa := 1, out := if modV f.mod = true ∧ t.void = false then .both t else .none, run := .idle })) ∧
    (s.ended .a → exec (.drop f) s = .next (s.shoot s.clk.focus f.io 0
      { pa := 1, out := .both eosToken, run := .idle, fin := true }))) ∧
  ∀ f : FA, (Instr.drop f).wf = true → modV f.mod = false → f.t0.v = false ∧ f.t1.v = false

/-- R180, R40: COUNT counts data and void tokens apart, and at the end delivers both counts and an end-of-stream; as the block's
only sink it then takes its region to COMMITTING. -/
def Clause.Count : Prop :=
  ∀ (f : FO) (s : State) (n v : Lane) (r : Bool), (s.here.run = .count n v r ∨ (s.here.run = .idle ∧ n = 0 ∧ v = 0 ∧ r = false)) →
    let inc (k : Lane) : Lane := if k = 0xFFFFFFFF then k else k + 1
    (∀ t, Clear s f.io 1 1 → s.has .a t → exec (.count f) s = .next (s.shoot s.clk.focus f.io 0
      { pa := 1, run := if t.void then .count n (inc v) r else .count (inc n) v r })) ∧
    (Clear s f.io 2 2 → s.ended .a →
      ∃ tok, IsData tok 7 ∧ tok.lane 0 = n ∧ tok.lane 1 = v ∧ (∀ l, 2 ≤ l → tok.lane l = 0) ∧
        let t := s.shoot s.clk.focus f.io 0
          { pa := 1, out := .both tok, then_ := .both eosToken, run := .count 0 0 (r || f.params.getLsbD 15), fin := true }
        ((f.params.getLsbD 15 = false ∨ r = true) → exec (.count f) s = .next t) ∧
        (f.params.getLsbD 15 = true → r = false →
          let x := s.clk.focus
          let g := s.region x.core x.unit
          g.snap = none → g.st = .mapped → g.sinks = [] → (g.hdr.extractLsb' 80 8).toNat = 1 →
          ∃ u, exec (.count f) s = .next u ∧ (u.region x.core x.unit).st = .committing ∧
            (u.region x.core x.unit).sinks = [x.slot] ∧ (s.clk.now + 1, Instr.regionCommit x.core x.unit) ∈ u.clk.pending))

/-- R39, R181: a step of LCTR in a pass delivers the base plus the counters' values with their positions in the lanes after
it, and moves the counters on like an odometer, the pass ending with its last combination. -/
def Clause.LoopCounters : Prop :=
  ∀ (f : FO) (s : State) (base : Lane) (b : Bool), Clear s f.io 1 1 → s.here.run = .pass base true b →
    let x := s.clk.focus
    let n := (f.params.extractLsb' 8 2).toNat + 1
    let cs := ((s.elem x.core (s.elemAt x)).ctr.toList).take n
    let last := ∀ k ∈ cs, k.limit ≤ k.idx
    (s.region x.core x.unit).snap = none → s.head x = none →
    ∃ tok u, exec (.lctr f) s = .next u ∧ IsData tok 7 ∧ tok.lane 0 = cs.foldl (fun v k => v + k.acc) base ∧
      (∀ j < n, tok.lane (j + 1) = ((cs.map Counter.idx).getD j 0).setWidth 32) ∧
      (¬ last → u.here.run = .pass base true false) ∧ (last → u.here.run = if f.a.used then .idle else .pass 0 false false) ∧
      (last → f.a.used = true → (u.here.port .a).q = (s.here.port .a).q.drop 1) ∧
      (∀ j < n, ∀ k, cs[j]? = some k →
        let lower := ∀ m ∈ cs.take j, m.limit ≤ m.idx
        ((u.elem x.core (s.elemAt x)).ctr.toList)[j]? = some
          (if ¬ lower then k else if k.idx < k.limit then { k with idx := k.idx + 1, acc := k.acc + k.stride }
           else { k with idx := 0, acc := 0 })) ∧
      (f.t0.v = true → ∃ m, (s.clk.now + targetD x.slot f.t0,
        Instr.tokenArrival x f.t0 tok (s.region x.core x.unit).gen m) ∈ u.clk.pending)

/-- R182: EOS forwards a's token and, after the PARAMS16-th since the last one, or where port b's decision is nonzero,
inserts an end-of-stream with its next firing.  Its end firing delivers an end-of-stream unless the last token it delivered was
one, and either way remembers that it was. -/
def Clause.EndInsertion : Prop :=
  ∀ (f : FO) (s : State) (n : Nat) (last : Bool), Clear s f.io 1 1 → s.burstAt s.clk.focus .a = 1 → s.here.beat = 0 →
    (∀ t, (s.here.run = .eos n false last ∨ (s.here.run = .idle ∧ n = 0 ∧ last = false)) → f.a.used = true →
      s.portSt s.clk.focus f.io .a = .data → s.has .a t →
      (f.b.used = false → let due : Bool := f.params != 0 && f.params.toNat ≤ n + 1
        exec (.eos f) s = .next (s.shoot s.clk.focus f.io 0
          { pa := 1, out := .both t, run := .eos (if due then 0 else n + 1) due false })) ∧
      (∀ d v, f.b.used = true → s.portSt s.clk.focus f.io .b = .data → s.has .b d → Decides d v →
        let due : Bool := v != 0
        exec (.eos f) s = .next (s.shoot s.clk.focus f.io 0
          { pa := 1, pb := 1, out := .both t, run := .eos (if due then 0 else n + 1) due false }))) ∧
    (s.here.run = .eos n true last → exec (.eos f) s = .next (s.shoot s.clk.focus f.io 0
      { out := .both eosToken, run := .eos 0 false true })) ∧
    ((s.here.run = .eos n false last ∨ (s.here.run = .idle ∧ n = 0 ∧ last = false)) → s.kind s.clk.focus f.io = .fin →
      exec (.eos f) s = .next (s.shoot s.clk.focus f.io 0
        { pa := 1, pb := if f.b.used then 1 else 0, out := if last then .none else .both eosToken, run := .eos 0 false true,
          fin := true }))

/-- R183, R172: GATE's credit starts at PARAMS16.  A token of a passes while credit stands and takes one of it; a credit token
adds its lane 0, saturating at 65,535, and is not delivered; either firing needs room at the targets.  The end of a is delivered
and begins the closing. -/
def Clause.Gate : Prop :=
  ∀ (f : FO) (s : State) (cr : BitVec 16), Clear s f.io 1 1 → s.burstAt s.clk.focus .a = 1 → s.here.beat = 0 →
    (s.here.run = .gate cr false ∨ (s.here.run = .idle ∧ cr = f.params)) →
    (∀ t, s.has .a t → s.front s.clk.focus .b = none → 0 < cr.toNat →
      exec (.gate f) s = .next (s.shoot s.clk.focus f.io 0 { pa := 1, out := .both t, run := .gate (cr - 1) false })) ∧
    (∀ d v, s.has .b d → Decides d v → s.front s.clk.focus .a = none →
      exec (.gate f) s = .next (s.shoot s.clk.focus f.io 0
        { pb := 1, run := .gate (BitVec.ofNat 16 (min 65535 (cr.toNat + v.toNat))) false })) ∧
    (∀ t d v, s.has .a t → s.has .b d → Decides d v → 0 < cr.toNat →
      exec (.gate f) s = .next (s.shoot s.clk.focus f.io 0
        { pa := 1, pb := 1, out := .both t, run := .gate (BitVec.ofNat 16 (min 65535 (cr.toNat - 1 + v.toNat))) false })) ∧
    (s.ended .a → exec (.gate f) s = .next (s.shoot s.clk.focus f.io 0
      { pa := 1, out := .both eosToken, run := .gate cr true, fin := true }))

/-! ## Rotation heads and slot commands (R82..R124) -/

/-- R84, R88, R89, R90, R91: one position of a rotation past its first round: the row of the slot's state and the feed
entry gives the carry for T0, the x for T1 and the state after; the shadow keeps the carry sent, SV whether it was void,
PASSES and HOLDS count, and the position moves on, the rotation number with the last slot. -/
def Clause.RotationPass : Prop :=
  ∀ (f : FA) (s : State) (h : Head) (ret feed : Token),
    let x := s.clk.focus
    let e := h.entry h.pos
    AtHead s h .run → Clear s f.io 1 1 → h.queue = [] → f.c.used = false → s.front x .c = none → f.t0.v = true →
    s.front x .b = some feed → feed.eos = false → s.front x .a = some ret → ret.eos = false → h.pcur ≤ h.issued →
    h.pos < h.pcur → h.pcur ≤ h.table.length → h.pcur ≤ h.shadow.length →
    (ret.void = true → e.sv = true ∧ ret.cause = 0) → (e.st = .drain → s.drainRoom x h = true) →
    let row := rowTable e ret feed
    ∃ t h', exec (.rhead f) s = .next t ∧
      (decode s.here.word = .instr (.rhead f) → s.headSlot x.core x.unit = some x.slot →
        exec (.slotPass x.core x.unit) s = .next t) ∧
      t.head x = some h' ∧ (h'.entry h.pos).st = row.2.2 ∧ (h'.entry h.pos).sv = row.1.void ∧
      (h'.entry h.pos).passes = (if row.2.2 = .live then (if e.passes = 0xFFFFFF then e.passes else e.passes + 1)
        else if row.2.2 = .empty then 0 else e.passes) ∧
      (h'.entry h.pos).holds = (if row.2.2 = .live ∨ row.2.2 = .empty then 0
        else if row.2.2 = .held then (if e.holds = 255 then 255 else e.holds + 1) else e.holds) ∧
      (∀ sl, sl ≠ h.pos → h'.entry sl = h.entry sl) ∧
      ((row.2.2 = .live ∨ row.2.2 = .held) → h'.shadow.getD h.pos eosToken = row.1) ∧
      h'.pos = (if h.pos + 1 = h.pcur then 0 else h.pos + 1) ∧
      h'.rotnum = (if h.pos + 1 = h.pcur then h.rotnum + 1 else h.rotnum) ∧ h'.issued = h.issued + 1 ∧
      s.sends t f.t0 0 row.1 ∧ (f.t1.v = true → s.sends t f.t1 0 row.2.1) ∧
      (e.st = .drain → h.drain.v = true → ∃ n, (s.clk.now + targetD x.slot h.drain,
        Instr.tokenArrival x h.drain ret.unvoided (s.region x.core x.unit).gen n) ∈ t.clk.pending)

/-- R90, R94, R124, R288: a carry that the head sent as data and that comes back void, or one that comes back with a cause to a
HELD or EMPTY slot, makes its slot FAULT at that pass, with the cause it carries or 0x05; the shadow keeps the carry sent before,
PASSES and HOLDS stay, a bubble leaves, FAULTS counts, the owner gets a SLOT FAULT record that names the faulting instruction's
slot, and the collector a record of cause 0x18.
Where the manual leaves it open this follows the model (log 38). -/
def Clause.SlotFault : Prop :=
  ∀ (f : FA) (s : State) (h : Head) (ret feed : Token),
    let x := s.clk.focus
    let e := h.entry h.pos
    AtHead s h .run → Clear s f.io 1 1 → h.queue = [] → f.c.used = false → s.front x .c = none → f.t0.v = true →
    s.front x .b = some feed → feed.eos = false → s.front x .a = some ret → ret.eos = false → h.pcur ≤ h.issued →
    h.pos < h.pcur → h.pcur ≤ h.table.length → (e.st = .drain → s.drainRoom x h = true) → ret.void = true →
    (((e.st = .live ∨ e.st = .drain) ∧ e.sv = false) ∨ ((e.st = .held ∨ e.st = .empty) ∧ ret.cause ≠ 0)) →
    let fc : BitVec 8 := if ret.cause = 0 then 0x05 else ret.cause
    let culprit := ((s.culprit x).getD x.slot).val
    ∃ t h', exec (.rhead f) s = .next t ∧ t.head x = some h' ∧ (h'.entry h.pos).st = .fault ∧
      (h'.entry h.pos).fcause = fc ∧ (h'.entry h.pos).passes = e.passes ∧ (h'.entry h.pos).holds = e.holds ∧
      (h'.entry h.pos).key = e.key ∧ h'.faults = h.faults + 1 ∧
      h'.shadow = h.shadow ∧ s.sends t f.t0 0 (voidToken zeroLanes 0 0) ∧
      ∀ g, s.cfg (s.region x.core x.unit).handle = some g →
        s.informs t g (fun r => RotEvent r (s.region x.core x.unit).handle e.key h.rotnum 0x20 (slotByte h.pos) e.st.code
          SState.fault.code fc 0
          culprit) ∧
        t.reports 0x18 (fc.setWidth 32) culprit

/-- R92, R88, R99, R124: a request for an EMPTY or BANKED slot from source zero or value is admitted at its slot's pass: the
slot is LIVE with the request's key, the initial carry leaves on T0, and the request is popped; where the rotation it named has
gone by, LATE is set, LATES counts and the owner gets a LATE ADMISSION record. -/
def Clause.Admission : Prop :=
  ∀ (f : FA) (s : State) (h : Head) (req feed : Token),
    let x := s.clk.focus
    let e := h.entry h.pos
    AtHead s h .run → Clear s f.io 1 1 → h.queue = [] → f.c.used = true → f.t0.v = true → h.read = none →
    s.front x .b = some feed → feed.eos = false → feed.void = false → s.front x .c = some req → req.eos = false →
    req.void = false → h.issued < h.pcur → h.firstCarry = [] → h.pos < h.pcur → h.pcur ≤ h.table.length →
      (e.st = .empty ∨ e.st = .banked) →
    (req.lane 1).toNat = h.pos → (req.lane 2 = 0xFFFFFFFF ∨ req.lane 2 ≤ h.rotnum) →
    ((req.lane 3).extractLsb' 4 2 = 0 ∨ (req.lane 3).extractLsb' 4 2 = 2) →
    let tag : BitVec 4 := (req.lane 3).extractLsb' 0 4
    let late := req.lane 2 ≠ 0xFFFFFFFF ∧ req.lane 2 < h.rotnum
    ∃ t h' carry, exec (.rhead f) s = .next t ∧ t.head x = some h' ∧ (h'.entry h.pos).st = .live ∧
      (h'.entry h.pos).key = req.lane 0 ∧ (h'.entry h.pos).admrot = h.rotnum ∧ (h'.entry h.pos).ctag = tag ∧
      (h'.entry h.pos).passes = 1 ∧ (h'.entry h.pos).late = decide late ∧ h'.lates = (if late then h.lates + 1 else h.lates) ∧
      IsData carry tag ∧
      (∀ l < 16, carry.lane l = if (req.lane 3).extractLsb' 4 2 = 2 then req.lane 4 else 0) ∧
      s.sends t f.t0 0 carry ∧ (t.here.port .c).q = (s.here.port .c).q.drop 1 ∧
      ∀ g, late → s.cfg (s.region x.core x.unit).handle = some g →
        s.informs t g fun r => RotEvent r (s.region x.core x.unit).handle (req.lane 0) h.rotnum 0x22 (slotByte h.pos) e.st.code 1
          0 0
          x.slot.val

/-- R98: SADM builds the admission token: key, slot, rotation, carry tag with the source, and the value, VOID as the
request's; another tag than I32 or RAW32 is a format fault. -/
def Clause.AdmissionRequest : Prop :=
  ∀ (f : FA) (s : State), f.a.used = true → f.b.used = false → f.c.used = false → Ready s f.io →
    let a := s.operand f.io .a
    ((a.void = true ∨ a.wordTag = true) → ∃ tok, exec (.sadm f) s = .next (s.delivers f.io 1 tok) ∧ tok.tag = 7 ∧
      tok.void = a.void ∧ tok.eos = false ∧ tok.parityOk = true ∧ tok.lane 0 = a.lane 0 ∧ tok.lane 1 = a.lane 1 ∧
      tok.lane 2 = a.lane 2 ∧ tok.lane 3 = BitVec.ofNat 32 ((modTag f.mod).toNat + 16 * (f.mod.toNat % 4)) ∧
      tok.lane 4 = a.lane 3 ∧ ∀ l, 5 ≤ l → tok.lane l = 0) ∧
    (a.void = false → a.wordTag = false → exec (.sadm f) s = .next (s.faults f.io 1 7 0x02))

/-- R99: a command with an operand fires when the head's queue has room: it pops its operand, takes the next place in its
reorder buffer, and the operand reaches the queue 3 cycles later; a void operand gives a void status and queues nothing, and so
does one of another tag, with a format fault. -/
def Clause.Commands : Prop :=
  ∀ (f : FA) (s : State) (i : FA → Instr) (k : CmdKind), (i, k) ∈ commandTable → f.a.used = true → Ready s f.io →
    let x := s.clk.focus
    let a := s.operand f.io .a
    (∀ y h, a.void = false → a.wordTag = true → s.headSite x.core x.unit = some y →
      s.regionHead x.core x.unit = some h → h.queue.length + h.inflight < 16 →
      exec (i f) s = .next ((((s.shoot x f.io 0 { pa := 1, run := .idle, rob := some ⟨s.clk.ids, none, [], 0⟩ }).tickId).onHead
        y fun h => { h with inflight := h.inflight + 1 }).later 3
        (.commandEnqueue x.core x.unit ⟨k, x, s.clk.ids, a.lane 0, a.lane 1, a.lane 2⟩ (s.region x.core x.unit).gen))) ∧
    (a.void = true → ∃ tok, tok.void = true ∧ tok.cause = a.cause ∧ tok.lanes = a.lanes ∧
      exec (i f) s = .next (s.shoot x f.io 0
        { pa := 1, run := .idle, rob := some ⟨s.clk.ids, some [.both tok], [], 0⟩ }).tickId) ∧
    (a.void = false → a.wordTag = false → ∃ tok, tok.void = true ∧ tok.cause = 0x02 ∧ tok.lanes = a.lanes ∧
      exec (i f) s = .next (s.shoot x f.io 0
        { pa := 1, run := .idle, rob := some ⟨s.clk.ids, some [.both tok], [], 0⟩, cause := some 0x02 }).tickId)

/-- R99: an operand enters the head's queue behind those before it; a slot command that finds the head BANKED completes with
NOEFFECT at once. -/
def Clause.CommandQueue : Prop :=
  ∀ (s : State) (c : Fin 96) (r : Fin 8) (x : Site) (h : Head) (cmd : Cmd), s.headSite c r = some x → s.head x = some h →
    ((h.hstate ≠ .banked ∨ cmd.kind.isRotation = true) →
      exec (.commandEnqueue c r cmd (s.region c r).gen) s = .next (s.onHead x fun h =>
        { h with inflight := h.inflight - 1, queue := h.queue ++ [⟨cmd, s.clk.now⟩] })) ∧
    (h.hstate = .banked → cmd.kind.isRotation = false → ∃ t tok,
      exec (.commandEnqueue c r cmd (s.region c r).gen) s = .next t ∧ tok.lane 0 = 1 ∧ tok.lane 1 = cmd.lane0 ∧
      tok.lane 2 = h.rotnum ∧ Resolved (t.slot cmd.site) cmd.seq tok ∧ (∀ h', t.head x = some h' → h'.queue = h.queue))

/-- R99, R100, R103: a slot command at its pass changes its slot as the table of R100 says, and its status holds the code, the
slot, the rotation, the state before and after, and the key. LATE says whether the rotation it named has gone by, whatever its
status, and LATES counts it. SEVC writes the slot's record to its key's place in the ember store and its status waits for the
write, or it is EMBERERR where there is no such place; SREL that is done releases the stream.
Where the manual leaves it open this follows the model (log 39). -/
def Clause.SlotCommandEffects : Prop :=
  ∀ (s : State) (x : Site) (h : Head) (ret : Option Token) (q : QCmd), s.head x = some h →
    q.cmd.lane0.toNat < h.table.length → q.cmd.kind.isRotation = false →
    let sl := q.cmd.lane0.toNat
    let e := h.entry sl
    let r := slotCommandTable q.cmd.kind e
    let late := q.cmd.lane1 ≠ 0xFFFFFFFF ∧ q.cmd.lane1 < h.rotnum
    let off := h.kbase.toNat + 128 * e.key.toNat
    let kept := q.cmd.kind = .sevc → e.key < h.kcount ∧ s.emberHas x.core off 128 = true
    let st : Nat := if r.1 = 0 ∧ ¬kept then 4 else r.1
    let e' := if st = 0 then r.2 else e
    ∃ t tok h', s.applySlotCmd x sl ret q = (t, decide (q.cmd.kind = .srel ∧ st = 0)) ∧ t.head x = some h' ∧
      h'.entry sl = { e' with late := decide late } ∧ h'.lates = (if late then h.lates + 1 else h.lates) ∧
      tok.tag = 7 ∧ tok.void = false ∧ tok.lane 0 = (if late ∧ st = 0 then 3 else BitVec.ofNat 32 st) ∧
      tok.lane 1 = q.cmd.lane0 ∧ tok.lane 2 = h.rotnum ∧ tok.lane 3 = BitVec.ofNat 32 e.st.code ∧
      tok.lane 4 = BitVec.ofNat 32 (if q.cmd.kind = .srel ∧ st = 0 then SState.drain.code else e'.st.code) ∧
      tok.lane 5 = e.key ∧
      ((q.cmd.kind ≠ .sevc ∨ st ≠ 0) → Resolved (t.slot q.cmd.site) q.cmd.seq tok ∧ t.mem = s.mem) ∧
      (q.cmd.kind = .sevc → st = 0 → ⟨q.cmd.site, q.cmd.seq, tok⟩ ∈ h'.writes ∧
        (∃ due, s.clk.now + 1 ≤ due ∧
          (due, Instr.emberWriteDone x.core x.unit (s.region x.core x.unit).gen) ∈ t.clk.pending) ∧
        (s.mem.wf = true → t.emberRead x.core off 128 = slotRecord
          (if e.st = .fault then h.shadow.getD sl eosToken else ret.getD (h.shadow.getD sl eosToken)) e))

/-- R102: SSTAT reads the slot table entry its operand names, or the summary, with the head's period, rotation, position and
state, and delivers no sooner than 4 cycles later. -/
def Clause.SlotStatus : Prop :=
  ∀ (f : FA) (s : State) (h : Head), f.a.used = true → Ready s f.io →
    s.regionHead s.clk.focus.core s.clk.focus.unit = some h → (s.operand f.io .a).void = false →
    (s.operand f.io .a).wordTag = true →
    let n := (s.operand f.io .a).lane 0
    let b := (h.entry n.toNat).bits
    ∃ tok due, IsData tok 7 ∧ s.clk.now + 4 ≤ due ∧
      exec (.sstat f) s = .next ((s.shoot s.clk.focus f.io 0
        { pa := 1, run := .idle, rob := some ⟨s.clk.ids, some [.both tok], [], due⟩ }).tickId.tickFresh) ∧
      tok.lane 1 = n ∧ tok.lane 6 = BitVec.ofNat 32 h.pcur ∧ tok.lane 7 = h.rotnum ∧ tok.lane 8 = BitVec.ofNat 32 h.pos ∧
      tok.lane 9 = BitVec.ofNat 32 h.hstate.code ∧
      (n = 0xFFFFFFFF → tok.lane 0 = 0 ∧ tok.lane 2 = h.discards ∧ tok.lane 3 = h.rejects ∧ tok.lane 4 = h.lates ∧
        tok.lane 5 = h.faults ∧ tok.lane 10 = BitVec.ofNat 32 (h.table.filter fun e => e.st != .empty).length) ∧
      (n ≠ 0xFFFFFFFF → n.toNat < h.pmax → tok.lane 0 = 0 ∧ ∀ k < 4, tok.lane (2 + k) = b.extractLsb' (32 * k) 32) ∧
      (n ≠ 0xFFFFFFFF → h.pmax ≤ n.toNat → tok.lane 0 = 2 ∧ ∀ k < 4, tok.lane (2 + k) = 0)

/-- R106, R109, R99, R124: a rotation command that is due at a boundary applies before the pass of slot 0: BANK begins when the
ember store holds its image, else it is EMBERERR; REROT begins when its map is good, else its status is FAULT, the owner gets a
REROT FAULT record and the collector one of cause 0x19 with the period asked for; either takes back the carries of the last round.
Where the manual leaves it open this follows the model (log 46). -/
def Clause.RotationCommands : Prop :=
  ∀ (f : FA) (s : State) (h : Head) (q : QCmd) (ret feed : Token),
    let x := s.clk.focus
    AtHead s h .run → Clear s f.io 1 1 → h.pos = 0 → h.queue = [q] → q.at_ < s.clk.now → q.cmd.lane1 = 0xFFFFFFFF →
    f.c.used = false → s.front x .c = none → s.front x .b = some feed → feed.eos = false → s.front x .a = some ret →
    ((h.entry 0).st = .drain → s.drainRoom x h = true) → h.pcur ≤ h.issued → 0 < h.pcur →
    let off := if q.cmd.lane0 = 0xFFFFFFFF then h.ebase.toNat else q.cmd.lane0.toNat
    let n := q.cmd.lane0.toNat
    let map := (s.dequeue x q).remap x { h with queue := [] } q.cmd
    let good := 0 < n ∧ n ≤ h.pmax ∧ rerotFails h q.cmd map = false
    (q.cmd.kind = .bank → s.emberHas x.core off (128 + 128 * h.pcur) = true →
      ∃ t, exec (.rhead f) s = .next t ∧ t.head x = some
        { h with queue := [], hstate := .banking, busy := some (q.cmd, false), map := [], taken := [], left := h.pcur }) ∧
    (q.cmd.kind = .bank → s.emberHas x.core off (128 + 128 * h.pcur) = false →
      ∃ t tok, exec (.rhead f) s = .next t ∧ t.head x = some { h with queue := [] } ∧ tok.lane 0 = 4 ∧
        Resolved (t.slot q.cmd.site) q.cmd.seq tok) ∧
    (q.cmd.kind = .rerot → good → ∃ t, exec (.rhead f) s = .next t ∧ t.head x = some
      { h with queue := [], hstate := .rerotating, busy := some (q.cmd, false), map := map, taken := [], left := h.pcur }) ∧
    (q.cmd.kind = .rerot → ¬good → ∃ t tok, exec (.rhead f) s = .next t ∧ t.head x = some { h with queue := [] } ∧
      tok.lane 0 = 5 ∧ Resolved (t.slot q.cmd.site) q.cmd.seq tok ∧
      ∀ g, s.cfg (s.region x.core x.unit).handle = some g →
        s.informs t g (fun r => RotEvent r (s.region x.core x.unit).handle 0 h.rotnum 0x23 0xFF 0 0 0 0 x.slot.val) ∧
        t.reports 0x19 q.cmd.lane0 x.slot.val)

/-- R103, R105, R106, R99, R124: when BANK has taken back every carry it writes each slot's record to the ember image, the slot's
carry and entry as they stood, and its header: VALID, version 1, the period and the rotation.  The head is BANKED, the queued slot
commands leave the queue, the status waits for the writes, and the owner gets a BANK DONE record with the offset. -/
def Clause.BankImage : Prop :=
  ∀ (f : FA) (s : State) (h : Head) (cmd : Cmd) (late : Bool),
    let x := s.clk.focus
    let off := if cmd.lane0 = 0xFFFFFFFF then h.ebase.toNat else cmd.lane0.toNat
    AtHead s h .banking → h.busy = some (cmd, late) → h.left = 0 → s.mem.wf = true →
    ∃ t h' tok, exec (.rhead f) s = .next t ∧ t.head x = some h' ∧ h'.hstate = .banked ∧ h'.busy = none ∧
      (∀ sl < h.pcur, t.emberRead x.core (off + 128 + 128 * sl) 128 = slotRecord (h.held sl) (h.entry sl)) ∧
      t.emberRead x.core off 128 = natBytes 5 0x101 ++ natBytes 1 (h.pcur - 1) ++ List.replicate 6 0 ++
        natBytes 4 h.rotnum.toNat ++ List.replicate 112 0 ∧
      (∀ sl < h.pcur, (h.entry sl).st ≠ .empty → sl < h.table.length → (h'.entry sl).st = .banked) ∧
      (∀ q ∈ h'.queue, q.cmd.kind.isRotation = true) ∧ tok.lane 0 = (if late then 3 else 0) ∧
      ⟨cmd.site, cmd.seq, tok⟩ ∈ h'.writes ∧
      ∀ g, s.cfg (s.region x.core x.unit).handle = some g → s.informs t g fun r =>
        RotEvent r (s.region x.core x.unit).handle 0 h.rotnum 0x24 0xFF 0 0 0 (BitVec.ofNat 32 off) x.slot.val

/-- R107, R99, R124: UNBANK of a good image relights the rotation: RUN, the image's period and rotation number, position 0, and
the entries and carries of its records; the status is DONE and the owner gets an UNBANK DONE record. A bad one gives EMBERERR
with the head as it was, but for the slot commands that a head BANKED again completes. -/
def Clause.Unbank : Prop :=
  ∀ (s : State) (c : Fin 96) (r : Fin 8) (x : Site) (h : Head) (cmd : Cmd) (b : Bool), s.headSite c r = some x →
    x.core = c → x.unit = r → s.head x = some h → h.hstate = .unbanking → h.busy = some (cmd, b) →
    (s.core c).hfab = false → (∀ q ∈ h.queue, q.cmd.seq ≠ cmd.seq) →
    let off := if cmd.lane0 = 0xFFFFFFFF then h.ebase.toNat else cmd.lane0.toNat
    (∀ p rot recs, s.readImage c h off = some (p, rot, recs) →
      ∃ t h' tok, exec (.emberReadDone c r (s.region c r).gen) s = .next t ∧ t.head x = some h' ∧ h'.hstate = .run ∧
        h'.pcur = p ∧ h'.rotnum = rot ∧ h'.pos = 0 ∧ h'.issued = 0 ∧ h'.busy = none ∧ p ≤ h.pmax ∧ recs.length = p ∧
        (∀ sl < p, ∀ q, recs[sl]? = some q → h'.entry sl = q.2.1 ∧ h'.shadow.getD sl eosToken = q.1 ∧
          h'.firstCarry.getD sl none = some q.1) ∧
        tok.lane 0 = 0 ∧ tok.lane 2 = rot ∧ Resolved (t.slot cmd.site) cmd.seq tok ∧
        ∀ g, s.cfg (s.region c r).handle = some g → s.informs t g fun e =>
          RotEvent e (s.region c r).handle 0 rot 0x25 0xFF 0 0 0 (BitVec.ofNat 32 off) x.slot.val) ∧
    (s.readImage c h off = none → ∃ t tok, exec (.emberReadDone c r (s.region c r).gen) s = .next t ∧
      t.head x = some { h with
        hstate := h.back, busy := none
        queue := if h.back = .banked then h.queue.filter fun q => q.cmd.kind.isRotation else h.queue } ∧
      tok.lane 0 = 4 ∧ Resolved (t.slot cmd.site) cmd.seq tok)

/-- R99, R93, R307: the status that waited for the head's ember writes is delivered in its place, and an admission's record that
has been read is there for the next pass of its slot; while the core's fabric is halted the read waits. -/
def Clause.EmberSteps : Prop :=
  ∀ (s : State) (c : Fin 96) (r : Fin 8) (x : Site) (h : Head), s.headSite c r = some x → s.head x = some h →
    (∀ w rest, h.writes = w :: rest → exec (.emberWriteDone c r (s.region c r).gen) s =
      .next ((s.onHead x fun h => { h with writes := rest }).resolve w.site w.seq [.both w.status])) ∧
    (h.writes = [] → exec (.emberWriteDone c r (s.region c r).gen) s = .next s) ∧
    ((s.core c).hfab = true → exec (.emberReadDone c r (s.region c r).gen) s =
      .next (s.later 1 (.emberReadDone c r (s.region c r).gen))) ∧
    ((s.core c).hfab = false → h.hstate ≠ .unbanking → exec (.emberReadDone c r (s.region c r).gen) s =
      .next (s.onHead x fun h => { h with read := h.read.map fun r => { r with done := true } }))

/-- R95: a retiring head that has its carries back and its requests emptied pops port b's end-of-stream and sends one on T0 and
T1, takes the one that returns on port a, and is then IDLE with ROTNUM, POS and its counters at zero. -/
def Clause.Retirement : Prop :=
  ∀ (f : FA) (s : State) (h : Head),
    let x := s.clk.focus
    AtHead s h .retiring → Clear s f.io 1 1 → h.left = 0 → h.cDone = true →
    let asDevice (t : State) : Prop := decode s.here.word = .instr (.rhead f) → s.headSlot x.core x.unit = some x.slot →
      exec (.headRetire x.core x.unit) s = .next t
    (h.retireEos = false →
      let t := (s.onHead x fun h => { h with retireEos := true }).shoot x f.io 0
        { pb := 1, out := .both eosToken, run := .idle, fin := true }
      exec (.rhead f) s = .next t ∧ asDevice t) ∧
    (h.retireEos = true → s.ended .a → ∃ t h', exec (.rhead f) s = .next t ∧ asDevice t ∧ t.head x = some h' ∧
      h'.hstate = .idle ∧ h'.rotnum = 0 ∧ h'.pos = 0 ∧ h'.faults = 0 ∧ h'.lates = 0 ∧ h'.rejects = 0 ∧ h'.discards = 0 ∧
      h'.table = h.table)

/-- R120, R121, R84: a lookahead head issues the feed entry to both targets while fewer than L iterations are outstanding, and
counts one more; the issue is one position. -/
def Clause.Lookahead : Prop :=
  ∀ (f : FA) (s : State) (h : Head) (t : Token),
    let x := s.clk.focus
    s.head x = some h → h.slot = x.slot → Clear s f.io 1 1 → h.hstate ≠ .retiring → h.laExit = false →
    h.laOut < f.mod.toNat + 1 → s.front x .a = none → s.has .b t →
    let next : Head := { h with
      hstate := .run, laOut := h.laOut + 1, issued := h.issued + 1, made := h.made + 1
      pos := if h.pos + 1 = h.pcur then 0 else h.pos + 1
      rotnum := if h.pos + 1 = h.pcur then h.rotnum + 1 else h.rotnum }
    let u := (s.onHead x fun _ => next).shoot x f.io 0
      { pb := 1, out := .both t, run := .idle, origin := some ⟨some h.made, none⟩ }
    exec (.rheadLa f) s = .next u ∧
      (decode s.here.word = .instr (.rheadLa f) → s.headSlot x.core x.unit = some x.slot →
        exec (.slotPass x.core x.unit) s = .next u)

/-- R111, R112: MARK forwards port a's tokens unchanged with L = 1; a void trigger is popped without effect; another trigger,
while no snapshot is open, is popped and opens one: its ID, offset and capacity are the trigger's, its members every slot
downstream, and its marker leaves for each target behind every token forwarded before.  While one is open a trigger waits.
Where the manual leaves it open this follows the model (log 43). -/
def Clause.Mark : Prop :=
  ∀ (f : FA) (s : State) (d t : Token), Clear s f.io 1 1 →
    let x := s.clk.focus
    (s.front x .b = none → s.has .a d →
      exec (.mark f) s = .next (s.shoot x f.io 1 { pa := 1, out := .both d, run := .idle })) ∧
    ((s.region x.core x.unit).snap.isSome = true → s.has .a d →
      exec (.mark f) s = .next (s.shoot x f.io 1 { pa := 1, out := .both d, run := .idle })) ∧
    ((s.region x.core x.unit).snap = none → s.has .b t →
      (t.void = true → exec (.mark f) s = .next (s.shoot x f.io 1 { pb := 1, run := .idle })) ∧
      (t.void = false → s.here.word ≠ 0 → ∃ u sn, exec (.mark f) s = .next u ∧ (u.region x.core x.unit).snap = some sn ∧
        sn.mark = x.slot ∧ sn.id = (t.lane 0).extractLsb' 0 16 ∧ sn.off = (t.lane 1).toNat ∧ sn.cap = (t.lane 2).toNat ∧
        sn.unaligned = false ∧ sn.members = s.downstream x ∧
        (∀ l < 8, sn.incnt.getD l 0 = (s.region x.core x.unit).insent.toList.getD l 0) ∧
        u.here.snap = .done ∧ s.marks u x (targetOf s.here.word 38) s.here.sent0 ∧
        s.marks u x (targetOf s.here.word 28) s.here.sent1))

/-- R112, R113, R115, R124: a marker that arrives is kept with its port, and starts the timer of a join, SNAPWIN cycles, at the
first of its ports; a slot with one marked port whose marker is reached forwards it behind every token it has sent.  A join whose
timer ends while a marker is missing forwards unaligned and records the late ports; one that has them all goes on holding.  A
snapshot of which all is done closes, its header written last, and the owner gets a SNAPSHOT CLOSED record with its ID. -/
def Clause.SnapshotSteps : Prop :=
  (∀ (s : State) (x : Site) (p : PortName) (pos : Nat) (sn : Snapshot), (s.region x.core x.unit).snap = some sn →
    (s.slot x).snap = .off → s.markedPort x sn p = true → 2 ≤ (s.markedPorts x sn).length →
    ((s.slot x).rob ≠ [] ∨ ∃ q ∈ s.markedPorts x sn, q ≠ p ∧ ((s.slot x).port q).arrived = false) →
    let win := max 16 (s.core x.core).snapwin.toNat
    ∃ t, exec (.markerArrival x p pos (s.region x.core x.unit).gen) s = .next t ∧
      ((t.slot x).port p).marks = ((s.slot x).port p).marks ++ [pos] ∧ (t.slot x).snap = .join (s.clk.now + win) ∧
      (s.clk.now + win, Instr.snapWindowExpiry x (s.region x.core x.unit).gen) ∈ t.clk.pending) ∧
  (∀ (s : State) (x : Site) (p : PortName) (pos : Nat) (sn : Snapshot), (s.region x.core x.unit).snap = some sn →
    (s.slot x).snap = .off → x.slot ≠ sn.mark → x.slot ∈ sn.members → s.markedPorts x sn = [p] →
    ((s.slot x).port p).marks = [] → pos ≤ ((s.slot x).port p).popped → (s.slot x).rob = [] → (s.slot x).word ≠ 0 →
    ∃ t, exec (.markerArrival x p pos (s.region x.core x.unit).gen) s = .next t ∧ (t.slot x).snap = .done ∧
      s.marks t x (targetOf (s.slot x).word 38) (s.slot x).sent0 ∧ s.marks t x (targetOf (s.slot x).word 28) (s.slot x).sent1) ∧
  (∀ (s : State) (x : Site) (sn : Snapshot) (d : Nat), (s.region x.core x.unit).snap = some sn →
    (s.slot x).snap = .join d → d ≤ s.clk.now →
    ((∃ q ∈ s.markedPorts x sn, ((s.slot x).port q).arrived = false) →
      ∃ t sn' ps, exec (.snapWindowExpiry x (s.region x.core x.unit).gen) s = .next t ∧
        (t.region x.core x.unit).snap = some sn' ∧ sn'.unaligned = true ∧ sn'.id = sn.id ∧ sn'.members = sn.members ∧
        (t.slot x).snap = .late ps ∧ ∀ q ∈ s.markedPorts x sn, ((s.slot x).port q).arrived = false →
          (q, ((s.slot x).port q).popped + ((s.slot x).port q).q.length) ∈ ps) ∧
    ((∀ q ∈ s.markedPorts x sn, ((s.slot x).port q).arrived = true) →
      exec (.snapWindowExpiry x (s.region x.core x.unit).gen) s = .next s)) ∧
  (∀ (s : State) (c : Fin 96) (r : Fin 8) (sn : Snapshot), (s.region c r).snap = some sn → sn.incnt.length ≤ 8 →
    sn.outcnt.length ≤ 8 → s.snapComplete c r sn = true →
    ∃ t, exec (.snapshotClose c r) s = .next t ∧ (t.region c r).snap = none ∧
      (s.emberHas c sn.off 128 = true → s.mem.wf = true → t.emberRead c sn.off 128 =
        imageHeader sn.outcnt sn.incnt sn.rot sn.recs sn.id.toNat sn.pm1 sn.overflow sn.unaligned true true) ∧
      ∀ g, s.cfg (s.region c r).handle = some g → s.informs t g fun e =>
        RotEvent e (s.region c r).handle 0 (((s.regionHead c r).map Head.rotnum).getD 0) 0x26 0xFF 0
          (if sn.unaligned then 1 else 0) 0 (sn.id.setWidth 32) ((s.headSlot c r).getD 0).val)

/-! ## Memory (R236..R256, R263..R277) -/

/-- Bytes written to memory read back, every other byte reads as before, a 64-byte unit wholly written reads clean, and the
canonical form is kept (R243). -/
def Clause.MemoryBytes : Prop :=
  ∀ (m : Memory) (a : Nat) (bs : List Byte), m.wf = true →
    (m.store a bs).wf = true ∧ (m.store a bs).bytes a bs.length = bs ∧
    (∀ b, b < a ∨ a + bs.length ≤ b → (m.store a bs).byte b = m.byte b) ∧
    (∀ u, a ≤ 64 * u → 64 * u + 64 ≤ a + bs.length →
      (m.store a bs).isPoison (64 * u) = false ∧ (m.store a bs).isUe (64 * u) = false) ∧
    (m.store a bs).full = m.full

/-- R247: a scratch address is o + 64·OFF12 in the paired tile, an ember address the same in the ember store, a column or
global address BASE[OFF12[11:9]] + o + 64·OFF12[8:0]; R255: misaligned is ALIGN, beyond the bytes RANGE; R85: a store into a
rotation area ROTATION. -/
def Clause.Addresses : Prop :=
  ∀ (s : State) (x : Site) (off : BitVec 12) (o : Lane) (n al : Nat) (wr : Bool), 0 < al →
    let p := o.toNat + 64 * off.toNat
    let tile := s.elemAt x
    let scratch := s.locate x 0 off o n al wr
    let ember := s.locate x 3 off o n al wr
    (scratch.virt = false ∧ scratch.pa = 0x4000000000 + 0x1000000 * x.core.val + 0x40000 * tile.val + p ∧
      scratch.bad = if p % al ≠ 0 then some 0x0C else if s.scratchBytes x.core tile.val < p + n then some 0x0D
        else if wr = true ∧ s.hitsRotation x.core tile p n = true then some 0x14 else none) ∧
    (ember.virt = false ∧ ember.pa = 0x4000000000 + 0x1000000 * x.core.val + 0x800000 + p ∧
      ember.bad = if p % al ≠ 0 then some 0x0C else if s.emberBytes x.core < p + n then some 0x0D else none) ∧
    (∀ g sp, s.cfgOf x = some g → (sp = 1 ∨ sp = 2) →
      let l := s.locate x sp off o n al wr
      l.virt = true ∧ l.column = (sp == 1) ∧
        l.addr = g.base (off.extractLsb' 9 3).toNat + o.setWidth 64 + 64 * (off.extractLsb' 0 9).setWidth 64 ∧
        l.bad = if l.addr.toNat % al ≠ 0 then some 0x0C else none)

/-- R242, R246, R247, R248: a load whose address token can be used and whose address is good fires: it takes a tag and a place
in its reorder buffer, pops its address, and its access begins with one unit of 64 bytes a beat, one more for a scale word; LD.V
of a line whose full bit is clear makes no access, takes no tag, and delivers void tokens. -/
def Clause.Loads : Prop :=
  ∀ (f : FM) (s : State), Ready s f.io → f.a.used = true → s.tagFree → (s.operand f.io .a).void = false →
    let x := s.clk.focus
    let a := s.operand f.io .a
    let tag := modTag f.mod
    let b := s.here.burst
    let units := if tagScaled tag then b + 1 else b
    let goes (sp : BitVec 4) (off : BitVec 12) (o : Lane) (pa : Nat) (k : AKind) (r : Done) : Prop :=
      let l := s.locate x sp off o (64 * units) 64 false
      l.bad = none → r = .next (s.begins f.io { pa := pa, run := .idle } l k (unitsAt l units) [] false false)
    (a.wordTag = true → modLow f.mod = 0 → goes f.space f.off (a.lane 0) f.a.popN (.load tag b) (exec (.ld f) s)) ∧
    (a.wordTag = true → modLow f.mod = 1 →
      let l := s.locate x f.space f.off (a.lane 0) (64 * units) 64 false
      let clear := s.hasFull l.pa = true ∧ s.mem.isFull l.pa = false
      (¬clear → goes f.space f.off (a.lane 0) f.a.popN (.loadV tag b) (exec (.ld f) s)) ∧
      (clear → l.bad = none → exec (.ld f) s = .next (s.answers f.io { pa := f.a.popN, run := .idle }
        (List.replicate b (.both (voidToken zeroLanes tag 0)))))) ∧
    (a.tag ≠ 15 → (f.a.used = true → a.badTag = false ∧ wellScaled (s.edgeAt x .a) [a] = .ok ()) → modLow f.mod = 2 →
      goes 0 f.off (BitVec.ofNat 32 (128 * (phaseOf s x (s.driver x f.io)).1)) f.a.popN (.load tag b) (exec (.ld f) s)) ∧
    (a.wordTag = true → goes f.space f.off (a.lane 0) 1 (.loadFull (modV f.mod) tag b) (exec (.lds f) s)) ∧
    (a.wordTag = true → modLow f.mod = 3 →
      let w := s.windowStep x f.off (a.lane 0)
      let l := w.1.locate x 0 0 w.2.1 (64 * units) 64 false
      let sh : Shot := { pa := if w.2.2.1 then 1 else 0, run := w.2.2.2 }
      l.bad = none → w.1.canAccess x f.io sh = true →
      exec (.ld f) s = .next ((w.1.begins f.io sh l (.load tag b) (unitsAt l units) [] false false).stepCtr x
        (f.off.extractLsb' 2 2).toNat ((f.off.extractLsb' 4 2).toNat + 1)))

/-- R242, R246, R249: a store whose data carries the declared tag fires with the bytes of its tokens, and STF with its lines to
be filled; data that is poisoned is stored and marked. -/
def Clause.Stores : Prop :=
  ∀ (f : FM) (s : State) (o : Lane) (poison : Bool), Ready s f.io → f.b.used = true → s.tagFree → modLow f.mod = 0 →
    ((f.a.used = false ∧ o = 0) ∨ (f.a.used = true ∧ (s.operand f.io .a).void = false ∧
      (s.operand f.io .a).wordTag = true ∧ o = (s.operand f.io .a).lane 0)) →
    let x := s.clk.focus
    let tag := modTag f.mod
    let data := s.ents x f.io .b
    let units := if tagScaled tag then data.length + 1 else data.length
    let l := s.locate x f.space f.off o (64 * units) 64 true
    let bytes := data.flatMap Token.bytes ++
      if tagScaled tag then natBytes 2 (s.operand f.io .b).scale.toNat ++ List.replicate 62 0 else []
    (∀ t ∈ data, t.void = false) → (poison = true ↔ ∃ t ∈ data, t.poisoned = true) →
    (poison = false → (∀ t ∈ data, Tagged true tag t) ∧ wellScaled (s.edgeAt x .b) data = .ok ()) → l.bad = none →
    (exec (.st f) s = .next (s.begins f.io { pa := f.a.popN, pb := f.b.popN, run := .idle } l (.store data false)
      (unitsAt l units) bytes poison true)) ∧
    (exec (.stf f) s = .next (s.begins f.io { pa := f.a.popN, pb := f.b.popN, run := .idle } l (.store data true)
      (unitsAt l units) bytes poison true))

/-- R248, R249, R251: LDX and STX make one 4-byte access for each lane whose index is not 0xFFFFFFFF, in ascending lane order,
STX with the lanes of its data. -/
def Clause.LaneAccesses : Prop :=
  ∀ (f : FM) (s : State), Ready s f.io → f.a.used = true → s.tagFree → (s.operand f.io .a).void = false →
    (s.operand f.io .a).wordTag = true → (∀ l < 16, (s.operand f.io .a).lane l ≠ 0xFFFFFFFF →
      ((s.operand f.io .a).lane l).toNat % 4 = 0) →
    let x := s.clk.focus
    let a := s.operand f.io .a
    let on := (List.range 16).filter fun l => a.lane l != 0xFFFFFFFF
    let locs (wr : Bool) : List Loc := on.map fun l => s.locate x f.space f.off (a.lane l) 4 4 wr
    let first (wr : Bool) : Loc := (locs wr).headD (s.locate x 0 0 0 0 4 false)
    let at_ (wr : Bool) : Loc := { first wr with bad := none, virt := (first wr).virt && !on.isEmpty }
    let pieces (wr : Bool) : List Piece := (locs wr).map fun l => ⟨l.addr, 4, if l.virt then none else some l.pa⟩
    ((∀ l ∈ locs false, l.bad = none) → exec (.ldx f) s = .next (s.begins f.io { pa := 1, run := .idle } (at_ false)
      (.loadLanes (modTag f.mod) a.lanes) (pieces false) [] false false)) ∧
    (f.b.used = true → Clean (s.ents x f.io .b) → (∀ t ∈ s.ents x f.io .b, Tagged true (modTag f.mod) t) →
      wellScaled (s.edgeAt x .b) (s.ents x f.io .b) = .ok () → (∀ l ∈ locs true, l.bad = none) →
      exec (.stx f) s = .next (s.begins f.io { pa := 1, pb := f.b.popN, run := .idle } (at_ true)
        (.storeLanes a.lanes (s.operand f.io .b).lanes) (pieces true)
        (on.flatMap fun l => natBytes 4 ((s.operand f.io .b).lane l).toNat) false true))

/-- R252, R253: AMO makes one access of 4 or 8 bytes with its operand; DONE takes a tag, and with no earlier tag outstanding its
token is known at once.
Where the manual leaves it open this follows the model (log 29). -/
def Clause.AtomicAndDone : Prop :=
  (∀ (f : FM) (s : State), Ready s f.io → f.a.used = true → f.b.used = true → s.tagFree → Clean (s.reads f.io) →
    (s.operand f.io .a).wordTag = true → Tagged false (modTag f.mod) (s.operand f.io .b) →
    let n := if f.mod.getLsbD 3 then 8 else 4
    let l := s.locate s.clk.focus f.space f.off ((s.operand f.io .a).lane 0) n n true
    l.bad = none → exec (.amo f) s = .next (s.begins f.io { pa := 1, pb := 1, run := .idle } l
      (.amo f.mod (s.operand f.io .b)) [⟨l.addr, n, if l.virt then none else some l.pa⟩] [] false true)) ∧
  (∀ (f : FM) (s : State), Ready s f.io → f.a.used = true → s.tagFree → (s.operand f.io .a).void = false →
    (s.operand f.io .a).tag ≠ 15 → s.wellFed f.io .a →
    let x := s.clk.focus
    let g := s.region x.core x.unit
    g.tags = [] → g.st = .mapped → (∀ b ∈ s.accs, b.id ≠ s.clk.ids) → (∀ r ∈ s.here.rob, r.id ≠ s.clk.ids) →
    g.snap = none → s.head x = none →
    ∃ t tok, exec (.done f) s = .next t ∧ tok.tag = 7 ∧ (∀ l, tok.lane l = 0) ∧ tok.void = false ∧
      Resolved t.here s.clk.ids tok ∧ (∃ r ∈ t.here.rob, r.id = s.clk.ids) ∧ (t.region x.core x.unit).tags = [] ∧
      t.accs = s.accs)

/-- R254, R215, R216: RPUSH fires when the ring has room for its beats and writes at TAIL; RPOP when it holds its beats beyond
the reservation point and reads there.
Where the manual leaves it open this follows the model (log 22, 64). -/
def Clause.Rings : Prop :=
  ∀ (f : FM) (s : State) (o : Lane), Ready s f.io → s.tagFree → s.ringBusy s.clk.focus = false →
    let x := s.clk.focus
    let tile := (s.elemAt x).val
    let desc := 16 * f.off.toNat + o.toNat
    let r := s.ringAt x.core tile desc
    let at_ : Loc := ⟨BitVec.ofNat 64 desc, false, false, tileAddr x.core tile desc, none⟩
    let piece (pos i : Nat) : Piece :=
      let q := r.base + (pos + 64 * i) % 2 ^ 32 % r.size
      ⟨BitVec.ofNat 64 q, 64, some (tileAddr x.core tile q)⟩
    let less (p q : Nat) : Nat := (p + 2 ^ 32 - q % 2 ^ 32) % 2 ^ 32
    (f.b.used = true → ((f.a.used = false ∧ o = 0) ∨ (f.a.used = true ∧ (s.operand f.io .a).void = false ∧
        (s.operand f.io .a).wordTag = true ∧ o = (s.operand f.io .a).lane 0)) →
      let data := s.ents x f.io .b
      let ps := (List.range data.length).map (piece r.tail)
      Clean data → (∀ t ∈ data, Tagged true (modTag f.mod) t) → wellScaled (s.edgeAt x .b) data = .ok () →
      s.ringBad x desc ps true = none → s.ringSpoilt x.core tile desc = false → 64 * data.length + less r.tail r.head ≤ r.size →
      exec (.rpush f) s = .next (s.begins f.io { pa := f.a.popN, pb := f.b.popN, run := .idle } at_
        (.ringPush tile desc data) ps (data.flatMap Token.bytes) false true)) ∧
    (f.a.used = true → (s.operand f.io .a).void = false → (s.operand f.io .a).wordTag = true →
      o = (s.operand f.io .a).lane 0 →
      let b := s.here.burst
      let res := s.ringRes x.core tile desc
      let ps := (List.range b).map (piece res)
      s.ringBad x desc ps false = none → s.ringSpoilt x.core tile desc = false → 64 * b ≤ less r.tail res →
      exec (.rpop f) s = .next (s.begins f.io { pa := 1, run := .idle } at_ (.ringPop tile desc res (modTag f.mod) b) ps []
        false false))

/-- R255, R127, R129: an operand of a memory operator that cannot be used performs no access: the firing takes no tag and its
result keeps its place in order. A void address, index, offset or trigger gives void tokens with its cause, a poisoned one
poisoned tokens, one of a wrong format void tokens with cause 0x02 and a format fault; a void data token or AMO operand gives a
void token with its cause, whatever an address that is not void holds. -/
def Clause.VoidAddress : Prop :=
  ∀ (f : FM) (s : State), Ready s f.io →
    let tag := modTag f.mod
    let a := s.operand f.io .a
    let data := s.ents s.clk.focus f.io .b
    let b := s.here.burst
    let gives (i : Instr) (n pa pb : Nat) (r : Token × Option Cause) : Prop :=
      exec i s = .next (s.answers f.io { pa := pa, pb := pb, run := .idle, cause := r.2 } (List.replicate n (.both r.1)))
    (f.a.used = true → ∀ r, noAccessCase tag a = some r →
      (modLow f.mod ≠ 2 → gives (.ld f) b 1 0 r) ∧ gives (.lds f) b 1 0 r ∧ gives (.ldx f) 1 1 0 r ∧ gives (.rpop f) b 1 0 r ∧
      (a.void = true ∨ (∀ t ∈ data, t.void = false) → gives (.st f) 1 f.a.popN f.b.popN r ∧ gives (.stf f) 1 f.a.popN f.b.popN r ∧
        gives (.stx f) 1 1 f.b.popN r ∧ gives (.rpush f) 1 f.a.popN f.b.popN r) ∧
      (a.void = true ∨ (s.operand f.io .b).void = false → gives (.amo f) 1 1 1 r)) ∧
    (f.a.used = true → (∀ r, s.noAccessTrigger tag a = some r → modLow f.mod = 2 → gives (.ld f) b 1 0 r) ∧
      ∀ r, s.noAccessTrigger 0 a = some r → gives (.done f) 1 1 0 r) ∧
    (∀ pre v post, data = pre ++ v :: post → (∀ t ∈ pre, t.void = false) → v.void = true → (f.a.used = true → a.void = false) →
      let r : Token × Option Cause := (voidToken zeroLanes tag v.cause, none)
      (f.a.used = true ∨ modLow f.mod ≠ 3 → gives (.st f) 1 f.a.popN f.b.popN r ∧ gives (.stf f) 1 f.a.popN f.b.popN r) ∧
      gives (.rpush f) 1 f.a.popN f.b.popN r ∧ (f.a.used = true → gives (.stx f) 1 1 f.b.popN r)) ∧
    (f.a.used = true → f.b.used = true → a.void = false → (s.operand f.io .b).void = true →
      gives (.amo f) 1 1 1 (voidToken zeroLanes tag (s.operand f.io .b).cause, none))

/-- R255, R289, R247, R251, R254: a firing whose address is refused at once performs nothing and delivers nothing: it pops, and
its region faults with the cause: a load, a store, an access by lanes (a misaligned lane before any other refusal), an AMO, and
a push or a pop of a ring. -/
def Clause.RefusedAddress : Prop :=
  ∀ (f : FM) (s : State) (c : BitVec 8), Ready s f.io → f.a.used = true → s.tagFree → (s.operand f.io .a).void = false →
    (s.operand f.io .a).wordTag = true →
    let x := s.clk.focus
    let tag := modTag f.mod
    let a := s.operand f.io .a
    let data := s.ents x f.io .b
    let bytes (n : Nat) : Nat := 64 * if tagScaled tag then n + 1 else n
    let good (raw : Bool) : Prop := (∀ t ∈ data, t.void = false) ∧ ((∃ t ∈ data, t.poisoned = true) ∨
      ((∀ t ∈ data, Tagged raw tag t) ∧ wellScaled (s.edgeAt x .b) data = .ok ()))
    let refuses (i : Instr) (pa pb : Nat) (l : Loc) : Prop :=
      exec i s = .next (s.refusesAt f.io { pa := pa, pb := pb, run := .idle } l c)
    (∀ l, l = s.locate x f.space f.off (a.lane 0) (bytes s.here.burst) 64 false → l.bad = some c →
      (modLow f.mod = 0 → refuses (.ld f) f.a.popN 0 l) ∧ refuses (.lds f) 1 0 l) ∧
    (∀ l, l = s.locate x f.space f.off (a.lane 0) (bytes data.length) 64 true → l.bad = some c → modLow f.mod = 0 → good true →
      refuses (.st f) f.a.popN f.b.popN l ∧ refuses (.stf f) f.a.popN f.b.popN l) ∧
    (∀ wr l ls on, on = ((List.range 16).map a.lane).filter (· != 0xFFFFFFFF) →
      ls = on.map (fun o => s.locate x f.space f.off o 4 4 wr) → ls.head? = some l →
      (((∃ o ∈ on, o.toNat % 4 ≠ 0) ∧ c = 0x0C) ∨ ((∀ o ∈ on, o.toNat % 4 = 0) ∧ ls.findSome? Loc.bad = some c)) →
      (wr = false → refuses (.ldx f) 1 0 l) ∧ (wr = true → good true → refuses (.stx f) 1 f.b.popN l)) ∧
    (∀ n l, n = (if f.mod.getLsbD 3 then 8 else 4) → l = s.locate x f.space f.off (a.lane 0) n n true → l.bad = some c →
      Clean [s.operand f.io .b] → Tagged false tag (s.operand f.io .b) → refuses (.amo f) 1 1 l) ∧
    (∀ desc, desc = 16 * f.off.toNat + (a.lane 0).toNat → s.ringBusy x = false →
      let tile := (s.elemAt x).val
      let r := s.ringAt x.core tile desc
      let l : Loc := ⟨0, false, false, 0, none⟩
      (good true → s.ringBad x desc (ringPieces x.core tile r r.tail data.length) true = some c →
        refuses (.rpush f) f.a.popN f.b.popN l) ∧
      (s.ringBad x desc (ringPieces x.core tile r (s.ringRes x.core tile desc) s.here.burst) false = some c →
        refuses (.rpop f) 1 0 l))

/-- R243, R248, R245: the last unit of a load is read at its controller; its tokens are computed from the bytes, poisoned where a
unit is, and are on their way; memory is unchanged.  In indirect mode the lanes of an LDX that fall in one line are read as one
access. -/
def Clause.LoadPerformed : Prop :=
  (∀ (s : State) (a : Access) (p : Piece) (pa : Nat) (x : Site) (h : Word64) (e : Nat), LastUnit s a p pa →
    a.agent = .op x h e → (∀ g idx, a.kind = .loadLanes g idx → s.indirect a = false) →
    let data := a.data ++ s.readBytes pa p.len
    let bads := a.bads ++ [s.mem.isPoison pa || s.mem.isUe pa]
    ∀ toks, (∀ c g b, a.kind ≠ .loadFull c g b) → loadResult a.kind data bads = some toks →
      ∃ t, exec (.accessPerform a.id) s = .next t ∧ t.onTheWay a.id (toks.map .both) ∧ t.mem = s.mem) ∧
  ∀ (s : State) (a : Access) (x : Site) (h : Word64) (e : Nat) (g : BitVec 4) (idx : Vector Lane 16) (pas : List Nat) (line :
    Nat),
    Unheld s a → a.agent = .op x h e → a.kind = .loadLanes g idx → s.indirect a = true → a.data = [] → a.bads = [] →
    a.pieces.map Piece.pa = pas.map some → pas ≠ [] → (∀ pa ∈ pas, pa / 128 = line ∧
      ((∃ c o, s.phys pa = .dram c o) ∨ (∃ c t o, s.phys pa = .scratch c t o) ∨ ∃ c o, s.phys pa = .ember c o)) →
    ∃ t, exec (.accessPerform a.id) s = .next t ∧ t.mem = s.mem ∧ t.onTheWay a.id
      [.both (lanesLoaded g idx (pas.flatMap fun pa => s.readBytes pa 4) (pas.map fun pa => s.mem.isPoison pa || s.mem.isUe pa))]

/-- R241, R248: LDS waits for its line's full bit; when it is set the bytes are read, and .C clears it; an LDS that waits goes
on when it is woken.
Where the manual leaves it open this follows the model (log 27). -/
def Clause.LdsWaits : Prop :=
  ∀ (s : State) (a : Access) (p : Piece) (pa : Nat) (x : Site) (h : Word64) (e : Nat) (c : Bool) (g : BitVec 4) (b : Nat),
    LastUnit s a p pa → a.agent = .op x h e → a.kind = .loadFull c g b → (∃ n k o, s.phys pa = .scratch n k o) →
    (s.mem.isFull pa = false → exec (.accessPerform a.id) s = .next (s.onAcc a.id fun a => { a with stage := .wait })) ∧
    (s.mem.isFull pa = true → s.mem.wf = true → ∃ t, exec (.accessPerform a.id) s = .next t ∧
      t.onTheWay a.id ((loadBeats g b (a.data ++ s.readBytes pa p.len)
        (a.bads ++ [s.mem.isPoison pa || s.mem.isUe pa])).map .both) ∧
      t.mem.isFull pa = !c ∧ t.mem.cells = s.mem.cells) ∧
    (s.mem.isFull pa = true → ∃ t, exec (.ldsWake a.id) { s with accs := s.accs.map fun q =>
        if q.id == a.id then { q with stage := .wait } else q } = .next t ∧
      t.onTheWay a.id ((loadBeats g b (a.data ++ s.readBytes pa p.len)
        (a.bads ++ [s.mem.isPoison pa || s.mem.isUe pa])).map .both))

/-- R249, R250, R255, R274, R245: the last unit of a store that stays in its core, of an STF or in indirect mode, writes its
bytes and no other byte, sets the full bit of an STF's line, and its completion token, with status and address, is known; one
that leaves the core is posted with its bytes, its completion token known, and written later.
Where the manual leaves it open this follows the model (log 82). -/
def Clause.StorePerformed : Prop :=
  ∀ (s : State) (a : Access) (p : Piece) (pa : Nat) (x : Site) (h : Word64) (e : Nat) (toks : List Token) (full : Bool),
    LastUnit s a p pa → a.agent = .op x h e → a.kind = .store toks full → a.data.length = p.len → s.holds x h e = true →
    s.noRings → s.mem.wf = true → (∀ b ∈ s.accs, b.id = a.id → b = a) → (∀ b ∈ s.accs, b.id < s.clk.ids) →
    (full = true ∨ s.indirect a = true ∨ s.leaves x.core pa = false →
      ∃ t tok, exec (.accessPerform a.id) s = .next t ∧ Holds t pa a.data ∧ SameBut s t pa p.len ∧ t.mem.wf = true ∧
        (full = true → s.hasFull pa = true → t.mem.isFull pa = true) ∧ (full = false → t.mem.full = s.mem.full) ∧
        Resolved (t.slot x) a.id tok ∧ tok.tag = 7 ∧ tok.lane 0 = (if a.poison then 1 else 0) ∧
        tok.lane 1 = a.addr.setWidth 32 ∧ (∀ l, 2 ≤ l → tok.lane l = 0) ∧ t.acc a.id = none) ∧
    (full = false → s.indirect a = false → s.leaves x.core pa = true →
      ∃ t b, exec (.accessPerform a.id) s = .next t ∧ t.mem = s.mem ∧ t.acc b.id = some b ∧ b.stage = .posted ∧
        b.pieces = [p] ∧ b.data = a.data ∧ Resolved (t.slot x) a.id (storeTok a.poison a.addr) ∧
        ∀ u, u.acc b.id = some b → u.accBlocked b = false → u.noRings → u.mem.wf = true → u.phys pa = s.phys pa →
          ∃ v, exec (.accessPerform b.id) u = .next v ∧ Holds v pa a.data ∧ SameBut u v pa p.len ∧ v.acc b.id = none)

/-- R252, R243: an AMO reads, modifies and writes its location in one action: the old value is on its way and every other
byte is as it was; a location with an uncorrectable error is left poisoned and a poisoned token is on its way. -/
def Clause.AtomicPerformed : Prop :=
  ∀ (s : State) (a : Access) (p : Piece) (pa : Nat) (x : Site) (h : Word64) (e : Nat) (m : BitVec 8) (v : Token),
    LastUnit s a p pa → a.agent = .op x h e → a.kind = .amo m v → p.len = (if m.getLsbD 3 then 8 else 4) → s.noRings →
    s.mem.wf = true →
    let w := 8 * p.len
    let old := bytesNat (s.readBytes pa p.len)
    let lanes (l : Nat) : Nat := if m.getLsbD 3 then (v.lane l).toNat + 2 ^ 32 * (v.lane (l + 1)).toNat else (v.lane l).toNat
    let new : Nat := match (m.extractLsb' 0 3).toNat with
      | 0 => if modTag m = 1 then f32.round .rne ((f32.dec old).add .rne (f32.dec (lanes 0))) else (old + lanes 0) % 2 ^ w
      | 1 => if sgn w old ≤ sgn w (lanes 0) then old else lanes 0
      | 2 => if sgn w (lanes 0) ≤ sgn w old then old else lanes 0
      | 3 => old &&& lanes 0
      | 4 => old ||| lanes 0
      | 5 => old ^^^ lanes 0
      | 6 => lanes 0
      | _ => if old = lanes 2 then lanes 0 else old
    (s.mem.isPoison pa = false → s.mem.isUe pa = false →
      ∃ t tok, exec (.accessPerform a.id) s = .next t ∧ Holds t pa (natBytes p.len new) ∧ SameBut s t pa p.len ∧
        t.onTheWay a.id [.both tok] ∧ IsData tok (modTag m) ∧ tok.lane 0 = BitVec.ofNat 32 old ∧
        tok.lane 1 = (if m.getLsbD 3 then BitVec.ofNat 32 (old / 2 ^ 32) else 0) ∧ ∀ l, 2 ≤ l → tok.lane l = 0) ∧
    (s.mem.isPoison pa = true ∨ s.mem.isUe pa = true →
      ∃ t, exec (.accessPerform a.id) s = .next t ∧ t.mem = s.mem ∧ t.onTheWay a.id [.both poisonToken])

/-- R254, R216: the last unit of an RPUSH is written, then TAIL moves on by 64 for each beat, and its completion token is known;
of an RPOP it is read and, when no pop issued before it on its ring is still to come, HEAD moves on by 64 for each beat and the
beats are on their way. -/
def Clause.RingPushed : Prop :=
  (∀ (s : State) (a : Access) (p : Piece) (pa : Nat) (x : Site) (h : Word64) (e tile desc o res b : Nat) (tag : BitVec 4),
    LastUnit s a p pa → a.agent = .op x h e → a.kind = .ringPop tile desc res tag b → s.mem.wf = true →
    s.phys (tileAddr x.core tile (desc + 8)) = .scratch x.core tile o → s.popBefore x.core tile desc a.id = false →
    let d := tileAddr x.core tile (desc + 8)
    let head := bytesNat (s.readBytes d 4)
    let data := a.data ++ s.readBytes pa p.len
    let bads := a.bads ++ [s.mem.isPoison pa || s.mem.isUe pa]
    ∃ (t : State) (toks : List Token), exec (.accessPerform a.id) s = .next t ∧ t.onTheWay a.id (toks.map .both) ∧
      toks.length = b ∧
      (∀ i < b, bads.getD i false = true → toks.getD i eosToken = poisonToken) ∧
      (∀ i < b, bads.getD i false = false → (toks.getD i eosToken).tag = tag ∧ (toks.getD i eosToken).void = false ∧
        (toks.getD i eosToken).lanes = lanesOfBytes ((data.drop (64 * i)).take 64)) ∧
      Holds t d (natBytes 4 ((head + 64 * b) % 2 ^ 32)) ∧ SameBut s t d 4) ∧
  ∀ (s : State) (a : Access) (p : Piece) (pa : Nat) (x : Site) (h : Word64) (e tile desc o : Nat) (toks : List Token),
    LastUnit s a p pa → a.agent = .op x h e → a.kind = .ringPush tile desc toks → a.data.length = p.len →
    s.holds x h e = true → s.mem.wf = true → s.phys (tileAddr x.core tile (desc + 12)) = .scratch x.core tile o →
    let d := tileAddr x.core tile (desc + 12)
    (pa + p.len ≤ d ∨ d + 4 ≤ pa) →
    let tail := bytesNat (s.readBytes d 4)
    ∃ t, exec (.accessPerform a.id) s = .next t ∧ Holds t pa a.data ∧
      Holds t d (natBytes 4 ((tail + 64 * toks.length) % 2 ^ 32)) ∧
      (∀ b, (b < pa ∨ pa + p.len ≤ b) → (b < d ∨ d + 4 ≤ b) → t.mem.byte b = s.mem.byte b) ∧
      Resolved (t.slot x) a.id (storeTok a.poison a.addr)

/-- R305, R240: a result that arrives enters its operator's reorder buffer and its access ends; the oldest result of a slot
that is due leaves to the slot's targets, one step at a time, whatever later ones are known. -/
def Clause.ResultsInOrder : Prop :=
  (∀ (s : State) (a : Access) (outs : List Emit) (x : Site) (h : Word64) (e : Nat), s.acc a.id = some a →
    a.stage = .late outs → a.agent = .op x h e → s.holds x h e = true →
    ∃ t, exec (.lateResultArrival a.id) s = .next t ∧ t.acc a.id = none ∧
      (t.slot x).rob.map Rob.id = (s.slot x).rob.map Rob.id ∧ ∀ r ∈ (t.slot x).rob, r.id = a.id → r.res = some outs) ∧
  (∀ (s : State) (x : Site) (r : Rob) (rest : List Rob) (k : Emit) (ks : List Emit),
    let g := s.region x.core x.unit
    let t0 := targetOf (s.slot x).word 38
    let t1 := targetOf (s.slot x).word 28
    (g.st = .mapped ∨ g.st = .committing) → g.snap = none → (s.slot x).rob = r :: rest → r.res = some (k :: ks) →
    r.due ≤ s.clk.now → (∀ i ∈ r.after, s.acc i = none) → s.room x false t0 1 = true → s.room x true t1 1 = true →
    ∃ t, exec (.memoryResultDelivery x) s = .next t ∧
      (t.slot x).rob = (if ks = [] then rest else { r with res := some ks } :: rest) ∧
      (∀ tok, k.t0 = some tok → t0.v = true → ∃ n, (s.clk.now + targetD x.slot t0,
        Instr.tokenArrival x t0 tok g.gen n) ∈ t.clk.pending) ∧
      (∀ tok, k.t1 = some tok → t1.v = true → ∃ n, (s.clk.now + targetD x.slot t1,
        Instr.tokenArrival x t1 tok g.gen n) ∈ t.clk.pending))

/-- R239: in a cycle each bank serves at most one read and one write of the accesses that ask for it; one that has to wait gives
way to one of no later rank that uses a bank of its own in the same way, and what is only read is read before anything is
written.
Where the manual leaves it open this follows the model (log 113). -/
def Clause.BankOrder : Prop :=
  ∀ (s : State) (ids : List Nat), ids.Nodup →
    let reqs := s.bankReqs ids
    let r := s.bankRound ids
    (∀ p ∈ reqs, p.id ∈ r.1 ∨ p.id ∈ r.2) ∧
    (∀ p ∈ reqs, ∀ q ∈ reqs, p.id ∈ r.1 → q.id ∈ r.1 → p.id ≠ q.id → ∀ u ∈ p.use, u ∉ q.use) ∧
    (∀ p ∈ reqs, p.id ∈ r.2 → ∃ q ∈ reqs, q.id ∈ r.1 ∧ q.rank ≤ p.rank ∧ ∃ u ∈ p.use, u ∈ q.use) ∧
    ∃ l m, r.1 = l ++ m ∧ (∀ p ∈ reqs, p.id ∈ l → ∀ u ∈ p.use, u.2 = false) ∧ ∀ p ∈ reqs, p.id ∈ m → ∃ u ∈ p.use, u.2 = true

/-! ## Translation (R263..R268) -/

/-- R264, R265: a walk goes from the ASID's root through the tables of levels 0 to 2 to a leaf: of 64 KiB at level 3, of 32 MiB
at level 2, whose frame and permissions it answers; an invalid root is NOASID, an invalid entry NOTMAPPED.
Where the manual leaves it open this follows the model (log 30). -/
def Clause.PageWalk : Prop :=
  ∀ (s : State) (c : Fin 96) (asid : BitVec 12) (va : Nat) (w : Nat → Word64) (table : Nat → Nat) (n : Nat), n ≤ 3 →
    let root := (s.core c).ttbase.toNat * 8192 + 8 * asid.toNat
    let index (k : Nat) : Nat := if k = 0 then va / 2 ^ 45 % 512 else if k = 1 then va / 2 ^ 35 % 1024
      else if k = 2 then va / 2 ^ 25 % 1024 else va / 2 ^ 16 % 512
    let entry (k : Nat) : Nat := table k + 8 * index k
    let next (k : Nat) : Nat := (((w k).extractLsb' 13 35).toNat) * 8192
    root < 0x3000000000 → s.mem.spoilt root = false → ((s.mem.word root).getLsbD 0 = true →
      table 0 = ((s.mem.word root).extractLsb' 13 35).toNat * 8192 ∧ table 0 < 0x3000000000) →
    (∀ k ≤ n, s.mem.word (entry k) = w k ∧ s.mem.spoilt (entry k) = false) →
    (∀ k < n, table (k + 1) = next k ∧ next k < 0x3000000000 ∧ (w k).getLsbD 0 = true ∧ (w k).getLsbD 1 = false ∧
      (w k).extractLsb' 48 16 = 0 ∧ (w k).extractLsb' 4 9 = 0) →
    ((s.mem.word root).getLsbD 0 = false → s.walk c asid va = .refuse 0x01) ∧
    ((s.mem.word root).getLsbD 0 = true → (w n).getLsbD 0 = false → s.walk c asid va = .refuse 0x02) ∧
    ((s.mem.word root).getLsbD 0 = true → (w n).getLsbD 0 = true → (w n).getLsbD 1 = true → (w n).extractLsb' 48 16 = 0 →
      (w n).extractLsb' 4 9 = 0 →
      (n = 3 → (w 3).extractLsb' 13 3 = 0 → s.walk c asid va = .page (next 3) false ((w 3).getLsbD 2) ((w 3).getLsbD 3)) ∧
      (n = 2 → (w 2).extractLsb' 13 12 = 0 → s.walk c asid va = .page (next 2) true ((w 2).getLsbD 2) ((w 2).getLsbD 3)) ∧
      (n < 2 → s.walk c asid va = .refuse 0x04))

/-- R263, R265, R266, R268: a virtual address of at most 54 bits translates through the core's translation cache, or through a
walk that fills it, to frame plus page offset when the page permits the access; a page without the permission refuses it. -/
def Clause.Translation : Prop :=
  ∀ (s : State) (rec_ : CRec) (c : Fin 96) (asid : BitVec 12) (rd wr : Bool) (va : Word64) (n frame : Nat) (big r w : Bool),
    va.extractLsb' 54 10 = 0 →
    ((∃ e, (s.core c).tlb.find? (fun t => t.hits asid va.toNat) = some e ∧ e.frame = frame ∧ e.big = big ∧ e.r = r ∧
        e.w = w) ∨
      ((s.core c).tlb.find? (fun t => t.hits asid va.toNat) = none ∧ s.walk c asid va.toNat = .page frame big r w)) →
    let pa := frame + va.toNat % (if big then 0x2000000 else 0x10000)
    ((rd = true ∧ r = false) ∨ (wr = true ∧ w = false) →
      (s.translate rec_ c asid rd wr false false va n).2 = .error 0x03) ∧
    ((rd = true → r = true) → (wr = true → w = true) → pa < 0x3000000000 →
      (s.translate rec_ c asid rd wr false false va n).2 = .ok pa)

/-- R265, R268, R292: the end of a translation gives an operator's access its physical address, ready to be performed; a
refusal for want of a mapping parks it, with a record for the collector, and any other refusal ends it with a region fault.
Where the manual leaves it open this follows the model (log 37). -/
def Clause.WalkEnds : Prop :=
  ∀ (s : State) (a : Access) (p : Piece) (x : Site) (h : Word64) (e : Nat), s.acc a.id = some a → a.stage = .walk →
    a.held = false → a.agent = .op x h e → a.pieces = [p] → p.pa = none → s.walkFree a = true →
    (∀ b ∈ s.accs, b.id = a.id → b = a) →
    (∀ g b, a.kind = .load g b ∨ a.kind = .loadV g b →
      let r := s.translate (s.accRec a 0x40 0 false 0) x.core a.asid true a.wr false a.column p.va p.len
      (∀ pa, r.2 = .ok pa → ∃ t q, exec (.walkComplete a.id) s = .next t ∧ t.acc a.id = some q ∧ q.stage = .ready ∧
        q.pieces = [{ p with pa := some pa }] ∧ t.mem = s.mem) ∧
      (∀ c, r.2 = .error c → c.toNat ≤ 5 → ∃ t q rec_, exec (.walkComplete a.id) s = .next t ∧ t.acc a.id = some q ∧
        q.stage = .parked c ∧ Act.event (.collectorRecord rec_) ∈ t.clk.agenda ∧ rec_.cause = c ∧ rec_.parked = true ∧
        rec_.acc = a.id ∧ rec_.asid = a.asid ∧ rec_.addr = BitVec.ofNat 54 (p.va.toNat / 65536 * 65536)) ∧
      (∀ c, r.2 = .error c → 5 < c.toNat → s.holds x h e = true → (s.region x.core x.unit).st ≠ .faulted →
        (s.region x.core x.unit).markFault = false → ∃ t, exec (.walkComplete a.id) s = .next t ∧ t.acc a.id = none ∧
          ⟨x.slot, c, p.va, true⟩ ∈ (t.region x.core x.unit).pend))

/-! ## KV pages (R314..R332) -/

/-- R321: a page instruction with a request fires: it takes a tag, pops its request and goes to the table controller. -/
def Clause.PageFirings : Prop :=
  ∀ (f : FM) (s : State) (i : FM → Instr) (wr : Bool),
    (i, wr) ∈ [(Instr.pglk, false), (Instr.pgfork, true), (Instr.pgfree, true), (Instr.pgbase, true)] → Ready s f.io →
    f.a.used = true → s.tagFree → (s.operand f.io .a).void = false → (s.operand f.io .a).wordTag = true →
    exec (i f) s = .next (s.begins f.io { pa := 1, run := .idle } ⟨0, false, false, 0, none⟩
      (.page s.here.word (s.operand f.io .a)) [] [] false wr)

/-- R322, R323, R324, R326, R327: what the table controller does for each page instruction, in one action: PGLK answers the
entry's source, place, position, fill and flags; PGFORK makes an alias of the source page, seals the source and counts it;
PGFREE zeroes an alias but for its reserved bits and takes its reference from the page it names, or takes one reference of a
page's own, and detaches a page whose count saturated; PGBASE sets or adds to the position.
Where the manual leaves it open this follows the model (log 24, 34). -/
def Clause.PageTable : Prop :=
  ∀ (s : State) (a : Access) (w : Word64) (req : Token) (x : Site) (h : Word64) (e p : Nat) (slow : Bool), Unheld s a →
    a.agent = .op x h e → a.kind = .page w req → s.mem.wf = true → (s.tableReads w a.asid req).any s.mem.spoilt = false →
    s.kvFind (kvKey a.asid req 0) = some (p, slow) →
    let en := s.kvGet p
    let op := (w.extractLsb' 56 8).toNat
    let gives (t : State) (ns : List Nat) : Prop := t.onTheWay a.id [.both (i32Token (ns.map (BitVec.ofNat 32)))]
    (op = 0xB0 → ∃ t, exec (.accessPerform a.id) s = .next t ∧ t.mem = s.mem ∧
      gives t [if kvAlias en then kvSrc en else p, p, kvPbase en, kvFill en, (if slow then 1 else 0) +
        (if kvAlias en then 2 else 0) + (if kvSealed en then 4 else 0) + (if kvClip en then 8 else 0) +
        (if kvSticky en then 16 else 0), 0]) ∧
    (op = 0xB3 → ∃ t, exec (.accessPerform a.id) s = .next t ∧ gives t [0, p, kvPbase en] ∧
      kvPbase (t.kvGet p) = (if w.getLsbD 48 then kvPbase en + (req.lane 2).toNat else (req.lane 2).toNat) % 2 ^ 32 ∧
      kvFill (t.kvGet p) = kvFill en ∧ kvValid (t.kvGet p) = kvValid en) ∧
    (op = 0xB1 → s.kvFind (kvKey a.asid req 2) = none → kvAlias en = false → kvSticky en = false → kvRef en < 4095 →
      ∀ q, ((s.kvWindow (kvKey a.asid req 2)).find? fun q => !kvValid (s.kvGet q)) = some q → q ≠ p →
      ∃ t, exec (.accessPerform a.id) s = .next t ∧ gives t [0, q, kvRef en + 1] ∧
        let n := t.kvGet q
        kvValid n = true ∧ kvAlias n = true ∧ kvSealed n = true ∧ kvOwner n = (kvKey a.asid req 2).owner ∧
        kvSeq n = (kvKey a.asid req 2).seq ∧ kvLblk n = (kvKey a.asid req 2).lblk ∧ kvPbase n = kvPbase en ∧
        kvFill n = kvFill en ∧ kvSrc n = p % 2 ^ 24 ∧ kvRef (t.kvGet p) = kvRef en + 1 ∧ kvSealed (t.kvGet p) = true) ∧
    (op = 0xB2 → kvAlias en = false → kvSticky en = false →
      ∃ t, exec (.accessPerform a.id) s = .next t ∧ gives t [0, p, kvRef en - 1] ∧
        (kvRef en ≤ 1 → kvValid (t.kvGet p) = false) ∧
        (1 < kvRef en → kvRef (t.kvGet p) = kvRef en - 1 ∧ kvDet (t.kvGet p) = true)) ∧
    (op = 0xB2 → kvAlias en = false → kvSticky en = true → ∃ t, exec (.accessPerform a.id) s = .next t ∧
      gives t [1, p, kvRef en] ∧ kvDet (t.kvGet p) = true ∧ kvRef (t.kvGet p) = kvRef en ∧ kvValid (t.kvGet p) = kvValid en) ∧
    (op = 0xB2 → kvAlias en = true → kvSrc en ≠ p →
      let q := kvSrc en
      let se := s.kvGet q
      let n := if kvSticky se then kvRef se else kvRef se - 1
      ∃ t, exec (.accessPerform a.id) s = .next t ∧ gives t [0, p, n] ∧ t.kvGet p = en &&& kvReserved ∧
        (kvSticky se = true → t.kvGet q = se) ∧
        (kvSticky se = false → n = 0 → kvDet se = true → t.kvGet q = se &&& kvReserved) ∧
        (kvSticky se = false → n ≠ 0 ∨ kvDet se = false → kvRef (t.kvGet q) = n ∧ kvValid (t.kvGet q) = kvValid se ∧
          kvDet (t.kvGet q) = kvDet se ∧ kvFill (t.kvGet q) = kvFill se))

/-- R328, R329: LDK and LDV with a good head table and a fill of 1 to T read the codes and the scale words of their half page;
the tokens are the slots' values in slot and dimension order, LDK's turned by their positions. -/
def Clause.PageLoads : Prop :=
  ∀ (f : FM) (s : State) (ht : HeadTable), Ready s f.io → f.a.used = true → s.tagFree → (s.operand f.io .a).void = false →
    (s.operand f.io .a).wordTag = true → s.headTable s.clk.focus f.off = .ok ht →
    let a := s.operand f.io .a
    let g : PageGeo := ⟨modTag f.mod, 0, ht.t, 2 * ht.np⟩
    let fill := (a.lane 3).toNat
    let va (half : Nat) : Word64 := s.pageBase s.clk.focus f.off + BitVec.ofNat 64 ((a.lane 0).toNat * g.size + half)
    let goes (i : FM → Instr) (half : Nat) (steps : List Nat) : Prop := (va half).toNat % 64 = 0 →
      exec (i f) s = .next (s.begins f.io { pa := 1, run := .idle } ⟨va half, true, f.space == 1, 0, none⟩
        (.pageLoad g (a.lane 2).toNat fill ht.il steps)
        (piecesFrom (va half) none 64 (g.codeUnits fill) ++
          piecesFrom (va half + BitVec.ofNat 64 g.cb) none 64 (g.scaleUnits fill)) [] false false)
    0 < fill → fill ≤ ht.t → goes .ldk 0 ht.steps ∧ goes .ldv g.h []

/-- R315, R329, R135, R328: the last unit of an LDK or LDV is read, and the tokens of its slots are on their way in slot order,
and within a slot in dimension order: each element the F32 nearest to its code's value under its group's scale word, LDK's pairs
turned by position times step; a token that any poisoned unit has a part in is poisoned. A malformed scale word makes it one
void token with cause 0x02. -/
def Clause.PageValues : Prop :=
  ∀ (s : State) (a : Access) (p : Piece) (pa : Nat) (x : Site) (h : Word64) (e : Nat) (g : PageGeo) (pb fill : Nat) (il : Bool)
    (steps : List Nat), LastUnit s a p pa → a.agent = .op x h e → a.kind = .pageLoad g pb fill il steps →
    let data := a.data ++ s.readBytes pa p.len
    let bads := a.bads ++ [s.mem.isPoison pa || s.mem.isUe pa]
    let w := if g.tag = 6 then 4 else 8
    let cb := g.t * g.d * w / 8
    let at_ (off : Nat) : Nat := if off < cb then off else 64 * ((fill * (g.d * w / 8) + 63) / 64) + (off - cb)
    let byte (off : Nat) : Nat := (data.getD (at_ off) 0).toNat
    let code (t d : Nat) : Nat :=
      if g.tag = 6 then byte ((t * g.d + d) / 2) / 16 ^ ((t * g.d + d) % 2) % 16 else byte (t * g.d + d)
    let group (t j : Nat) : Nat := cb + 2 * (t / 16 * (g.d / 16) + j)
    let word (t j : Nat) : BitVec 16 := BitVec.ofNat 16 (byte (group t j) + 256 * byte (group t j + 1))
    let lost (off : Nat) : Prop := bads.getD (at_ off / 64) false = true
    let spoils (t d : Nat) : Prop := lost ((t * g.d + d) * w / 8) ∨ lost (group t (d / 16))
    let value (t d : Nat) : Nat := f32.round .rne (scaledValue g.tag (word t (d / 16)) (code t d))
    let pair (i d d' : Nat) : Prop := i < g.d / 2 ∧ if il then d = 2 * i ∧ d' = 2 * i + 1 else d = i ∧ d' = i + g.d / 2
    let fails := ∃ t < fill, ∃ j < g.d / 16, ¬lost (group t j) ∧ scaleBad g.tag (word t j) = true
    (fails → ∃ u, exec (.accessPerform a.id) s = .next u ∧ u.onTheWay a.id [.both (voidToken zeroLanes 1 0x02)] ∧ u.mem = s.mem) ∧
    (¬fails → ∃ (u : State) (toks : List Token), exec (.accessPerform a.id) s = .next u ∧ u.onTheWay a.id (toks.map .both) ∧
      u.mem = s.mem ∧ toks.length = fill * (g.d / 16) ∧
      ∀ t < fill, ∀ j < g.d / 16,
        let tok := toks.getD (t * (g.d / 16) + j) eosToken
        let spoilt := ∃ l < 16, spoils t (16 * j + l) ∨
          (steps ≠ [] ∧ ∃ i d', (pair i (16 * j + l) d' ∨ pair i d' (16 * j + l)) ∧ spoils t d')
        (spoilt → tok = poisonToken) ∧
        (¬spoilt → IsData tok 1 ∧ ∀ l < 16,
          (steps = [] → tok.lane l = BitVec.ofNat 32 (value t (16 * j + l))) ∧
          (steps ≠ [] → ∀ i d d', pair i d d' →
            let th := (pb + t) * steps.getD i 0 % 2 ^ 32
            let c := f32.dec (cosCode .rne th)
            let sn := f32.dec (sinCode .rne th)
            let x := f32.dec (value t d)
            let y := f32.dec (value t d')
            (16 * j + l = d → tok.lane l = BitVec.ofNat 32 (f32.round .rne ((x.mul c).add .rne (y.mul sn).flip))) ∧
            (16 * j + l = d' → tok.lane l = BitVec.ofNat 32 (f32.round .rne ((x.mul sn).add .rne (y.mul c)))))))

/-- R330: KAPP takes in its data tokens one a firing, port b alone; the last, with the request, goes to the table controller
with all of them.
Where the manual leaves it open this follows the model (log 33). -/
def Clause.AppendFirings : Prop :=
  ∀ (f : FM) (s : State) (ht : HeadTable) (ds : List Token), Ready s f.io → f.a.used = true → f.b.used = true →
    s.tagFree → s.headTable s.clk.focus f.off = .ok ht → (s.here.run = .kapp ds ∨ (s.here.run = .idle ∧ ds = [])) →
    (s.operand f.io .b).void = false → (s.operand f.io .b).tag = 1 →
    let all := ds ++ [s.operand f.io .b]
    (all.length < 2 * (2 * ht.np / 16) → exec (.kapp f) s = .next (s.shoot s.clk.focus f.io 0 { pb := 1, run := .kapp all })) ∧
    (2 * (2 * ht.np / 16) ≤ all.length → Clean all → (s.operand f.io .a).void = false → (s.operand f.io .a).wordTag = true →
      exec (.kapp f) s = .next (s.begins f.io { pa := 1, pb := 1, run := .idle }
        { addr := 0, virt := false, column := f.space == 1, pa := 0, bad := none }
        (.pageAppend ⟨modTag f.mod, (f.mod.extractLsb' 0 2).toNat, ht.t, 2 * ht.np⟩ (s.operand f.io .a)
          (s.pageBase s.clk.focus f.off) all) [] [] false true))

/-- R330: an append to a page that is not in the table, an alias, or full changes nothing and says so in its status: 2, 4, 3.
Where the manual leaves it open this follows the model (log 33). -/
def Clause.AppendRefused : Prop :=
  ∀ (s : State) (a : Access) (g : PageGeo) (req : Token) (base : Word64) (data : List Token) (x : Site) (h : Word64) (e : Nat),
    Unheld s a → a.agent = .op x h e → a.kind = .pageAppend g req base data →
    (s.kvReads (kvKey a.asid req 0)).any s.mem.spoilt = false →
    let gives (ns : List Nat) : Prop := ∃ t, exec (.accessPerform a.id) s = .next t ∧ t.mem = s.mem ∧
      t.onTheWay a.id [.both (i32Token (ns.map (BitVec.ofNat 32)))]
    (s.kvFind (kvKey a.asid req 0) = none → gives [2]) ∧
    (∀ p slow, s.kvFind (kvKey a.asid req 0) = some (p, slow) →
      (kvAlias (s.kvGet p) = true → gives [4, p, 0, kvFill (s.kvGet p)]) ∧
      (kvAlias (s.kvGet p) = false → g.t ≤ kvFill (s.kvGet p) → gives [3, p, 0, kvFill (s.kvGet p)]) ∧
      (kvAlias (s.kvGet p) = false → kvFill (s.kvGet p) < g.t →
        (∃ d ∈ data, ∃ l < 16, (f32.dec (d.lane l).toNat).isNan = true ∨ (f32.dec (d.lane l).toNat).isInf = true) →
        gives [5, p, 0, kvFill (s.kvGet p)]))

/-- R330, R331, R332: an append to a page that is open writes its slot in both halves. In a fresh band each group's scale word
is computed from the token alone; in an open band a group whose scale is too small rises, its earlier codes re-encoded under the
new scale; the new codes are the values under the group's scale, rounded to nearest even and saturated to QMAX. FILL moves on by
one, the band's open bits are set at its first slot and cleared at its last, a full page is SEALED, and a value beyond QMAX sets
CLIP; the token holds the status, the entry, the slot, FILL after and the groups rescaled. -/
def Clause.AppendDone : Prop :=
  ∀ (s : State) (a : Access) (g : PageGeo) (req : Token) (base : Word64) (data : List Token) (x : Site) (h : Word64) (e p : Nat)
    (slow : Bool) (us : List (Word64 × Nat)),
    Unheld s a → a.agent = .op x h e → a.kind = .pageAppend g req base data → s.mem.wf = true →
    let key := kvKey a.asid req 0
    let en := s.kvGet p
    let t := kvFill en
    let b := t / 16
    let n := g.d / 16
    let fmt := Narrow.ofTag g.tag g.type
    let page := base + BitVec.ofNat 64 (p * g.size)
    let pg : OpenPage := ⟨g, page, us⟩
    let band (h : Nat) : List Word64 := unitsOf page (h + 16 * b * g.row) ((t + 1 - 16 * b) * g.row) ++
      unitsOf page (h + g.scaleOff b 0) (2 * n) ++ unitsOf page (h + g.cb + g.sb) (g.h - (g.cb + g.sb))
    (s.kvReads key).any s.mem.spoilt = false → s.kvFind key = some (p, slow) → kvAlias en = false → t < g.t →
    (g.tag = 4 ∨ g.tag = 5 ∨ g.tag = 6) → g.t % 16 = 0 → g.t ≤ 64 → g.d % 16 = 0 → data.length = 2 * n →
    (∀ d ∈ data, ∀ l < 16, (f32.dec (d.lane l).toNat).isNan = false ∧ (f32.dec (d.lane l).toNat).isInf = false) →
    ((s.meetAll a (s.kvReads key)).mapUnits a (t % 16 != 0) (band 0 ++ band g.h).eraseDups).2 = .ok us →
    (∀ u ∈ us, s.mem.spoilt u.2 = false ∧ s.atPeer u.2 = false ∧ (u.2 + 64 ≤ s.kvEntry p ∨ s.kvEntry p + 32 ≤ u.2)) →
    (∀ u ∈ us, ∀ v ∈ us, u ≠ v → u.2 + 64 ≤ v.2 ∨ v.2 + 64 ≤ u.2) →
    let halves : List (Nat × List Token × Nat) := [(0, data.take n, kvKopen en), (g.h, data.drop n, kvVopen en)]
    let val (q : Nat × List Token × Nat) (j l : Nat) : Machine.Num := f32.dec ((q.2.1.getD j eosToken).lane l).toNat
    let amax (q : Nat × List Token × Nat) (j : Nat) : Machine.Num := groupMax ((List.range 16).map (val q j))
    let word (q : Nat × List Token × Nat) (j : Nat) : BitVec 16 :=
      if t % 16 = 0 then scaleWord g.type (freshExp fmt (amax q j)) else s.pageScale pg q.1 b j
    let exp (q : Nat × List Token × Nat) (j : Nat) : Int := scaleX (word q j) - 256
    let up (q : Nat × List Token × Nat) (j : Nat) : Bool := decide (exp q j < needOf fmt (amax q j) ∧ exp q j < 254) &&
      (t % 16 == 0 || q.2.2 / 2 ^ b % 2 == 1)
    let after (q : Nat × List Token × Nat) (j : Nat) : Int := if up q j then min (needOf fmt (amax q j)) 254 else exp q j
    let clips (q : Nat × List Token × Nat) (j l : Nat) : Bool := decide (fmt.qmax.cmp ((val q j l).mag.scale (-after q j)) < 0)
    let clipped := halves.any fun q => (List.range n).any fun j => (List.range 16).any (clips q j)
    let raised := (halves.map fun q => ((List.range n).filter (up q)).length).sum
    ∃ u, exec (.accessPerform a.id) s = .next u ∧
      u.onTheWay a.id [.both (i32Token ([if clipped then 1 else 0, p, t, t + 1, raised].map (BitVec.ofNat 32)))] ∧
      (∀ q ∈ halves, ∀ j < n,
        u.pageScale pg q.1 b j = (if up q j then scaleWord (scaleType (word q j)) (after q j) else word q j) ∧
        ∀ l < 16, (let v := (val q j l).scale (-after q j)
            u.pageCode pg q.1 t (16 * j + l) =
              neCode fmt (if clips q j l then (if v.neg then fmt.qmax.flip else fmt.qmax) else v)) ∧
          ∀ i < t % 16, u.pageCode pg q.1 (16 * b + i) (16 * j + l) =
            (let f := Narrow.ofTag g.tag (scaleType (word q j))
             let c := s.pageCode pg q.1 (16 * b + i) (16 * j + l)
             if up q j then neCode f ((f.dec c).scale (exp q j - after q j)) else c)) ∧
      let z := u.kvGet p
      let bits (v : Nat) : Nat := if (t + 1) % 16 = 0 then v &&& (15 - 2 ^ b % 16) else if t % 16 = 0 then v ||| 2 ^ b else v
      kvFill z = t + 1 ∧ kvKopen z = bits (kvKopen en) ∧ kvVopen z = bits (kvVopen en) ∧
        kvSealed z = (kvSealed en || t + 1 == g.t) ∧ kvClip z = (kvClip en || clipped) ∧ kvRef z = kvRef en ∧
        kvPbase z = kvPbase en ∧ kvValid z = kvValid en

/-! ## Egress (R352..R361, R382) -/

/-- R353: an egress operation with a request fires: it takes a tag, pops its request and goes to the hold queue.
Where the manual leaves it open this follows the model (log 35). -/
def Clause.EgressFirings : Prop :=
  ∀ (f : FM) (s : State) (i : FM → Instr), i ∈ [Instr.egput, Instr.egver, Instr.egrst] → Ready s f.io → f.a.used = true →
    s.tagFree → (s.operand f.io .a).void = false → (s.operand f.io .a).wordTag = true →
    exec (i f) s = .next (s.begins f.io { pa := 1, run := .idle } ⟨0, false, false, 0, none⟩
      (.egress s.here.word (s.operand f.io .a)) [] [] false true)

/-- R354: EGPUT holds its token when it is its stream's next and the stream is its owner's or nobody's: the stream's last
sequence number moves on and the copy is on its way; out of sequence it is refused with status 2, and another tenant's stream
with status 4, the copy void. -/
def Clause.EgressPut : Prop :=
  ∀ (s : State) (a : Access) (w : Word64) (req : Token) (x : Site) (h : Word64) (e : Nat), Unheld s a → s.streamAlone a →
    a.agent = .op x h e → a.kind = .egress w req → egressOp w = 0xBB → (req.lane 2).toNat ≤ 4095 →
    let i := (req.lane 2).toNat
    let q := req.lane 1
    let st := s.egress.stream i
    let tok (n : Nat) : Token := i32Token [BitVec.ofNat 32 n, req.lane 2, q]
    let out (n : Nat) (copy : Token) : List Emit := [⟨some copy, some (if w.getLsbD 48 then tok n else copy)⟩]
    (∀ o, st.owner = some o → o ≠ a.asid → ∃ t, exec (.accessPerform a.id) s = .next t ∧ t.egress.held = s.egress.held ∧
      t.egress.stream i = st ∧ t.onTheWay a.id (out 4 (voidToken zeroLanes req.tag 0))) ∧
    ((st.owner = none ∨ st.owner = some a.asid) →
      (q ≠ st.hput + 1 → ∃ t, exec (.accessPerform a.id) s = .next t ∧ t.egress.held = s.egress.held ∧
        t.egress.stream i = st ∧ t.onTheWay a.id (out 2 (voidToken zeroLanes req.tag 0))) ∧
      (q = st.hput + 1 → st.hput ≠ 0xFFFFFFFF → st.wseq = 0 → s.egress.held.length + s.egress.out.length < 16384 →
        st.id = i → ∃ t, exec (.accessPerform a.id) s = .next t ∧ t.egress.held = s.egress.held ++ [⟨i, q, req.lane 0, h⟩] ∧
          (t.egress.stream i).hput = q ∧ (t.egress.stream i).owner = some a.asid ∧ t.onTheWay a.id (out 0 req)))

/-- R355: EGVER releases the held tokens of a stream up to its number, in sequence order, as records for the outbound port, or
withholds and drops those from its number on; only a configuration that the armed set lists may do either. -/
def Clause.EgressVerdict : Prop :=
  ∀ (s : State) (a : Access) (w : Word64) (req : Token) (x : Site) (h : Word64) (e : Nat), Unheld s a → s.streamAlone a →
    a.agent = .op x h e → a.kind = .egress w req → egressOp w = 0xBC → (req.lane 0).toNat ≤ 4095 →
    let i := (req.lane 0).toNat
    let n := req.lane 1
    let st := s.egress.stream i
    let out (ns : List Nat) : List Emit :=
      let tok := i32Token (BitVec.ofNat 32 (ns.headD 0) :: req.lane 0 :: n :: ns.tail.map (BitVec.ofNat 32))
      [⟨some tok, some tok⟩]
    (s.verdictCapable h = false → ∃ t, exec (.accessPerform a.id) s = .next t ∧ t.egress.held = s.egress.held ∧
      t.egress.out = s.egress.out ∧ t.onTheWay a.id (out [4, 0, 0])) ∧
    (s.verdictCapable h = true → n ≤ st.hput → st.wseq = 0 → st.id = i →
      (req.lane 2 = 0 → st.rel < n →
        let go := s.egress.held.filter fun u => u.stream == i && u.seq ≤ n
        ∃ t, exec (.accessPerform a.id) s = .next t ∧ (t.egress.stream i).rel = n ∧
          t.egress.held = (s.egress.held.filter fun u => !(u.stream == i && u.seq ≤ n)) ∧
          t.egress.out.map OutRec.val = s.egress.out.map OutRec.val ++ go.map HeldTok.val ∧
          t.egress.out.map OutRec.seq = s.egress.out.map OutRec.seq ++ go.map HeldTok.seq ∧
          t.onTheWay a.id (out [0, go.length, 0])) ∧
      (req.lane 2 = 1 → st.rel < n →
        let gone := s.egress.held.filter fun u => u.stream == i && n ≤ u.seq
        ∃ t, exec (.accessPerform a.id) s = .next t ∧ (t.egress.stream i).wseq = n ∧
          t.egress.held = (s.egress.held.filter fun u => !(u.stream == i && n ≤ u.seq)) ∧ t.egress.out = s.egress.out ∧
          t.onTheWay a.id (out [0, 0, gone.length])))

/-- R356: EGRST, from a configuration of the stream's owner's ASID or one that may give verdicts, and of an unbound stream from
any, drops every held token of its stream, leaves the released ones, and makes the stream unbound with its numbers at zero; its
token gives DONE and the tokens dropped; another is refused with 4, a stream above 4,095 with 3. -/
def Clause.EgressReset : Prop :=
  ∀ (s : State) (a : Access) (w : Word64) (req : Token) (x : Site) (h : Word64) (e : Nat), Unheld s a → s.streamAlone a →
    a.agent = .op x h e → a.kind = .egress w req → egressOp w = 0xBD →
    let i := (req.lane 0).toNat
    let st := s.egress.stream i
    let out (m k : Nat) : List Emit :=
      let tok := i32Token [BitVec.ofNat 32 m, req.lane 0, BitVec.ofNat 32 k]
      [⟨some tok, some tok⟩]
    (i ≤ 4095 → st.owner = none ∨ st.owner = some a.asid ∨ s.verdictCapable h = true →
      ∃ t, exec (.accessPerform a.id) s = .next t ∧
      t.egress.held = (s.egress.held.filter fun u => !(u.stream == i)) ∧ t.egress.out = s.egress.out ∧
      t.egress.stream i = ⟨i, none, 0, 0, 0⟩ ∧
      t.onTheWay a.id (out 0 (s.egress.held.filter fun u => u.stream == i).length)) ∧
    (∀ o, i ≤ 4095 → st.owner = some o → o ≠ a.asid → s.verdictCapable h = false →
      ∃ t, exec (.accessPerform a.id) s = .next t ∧ t.egress = s.egress ∧ t.onTheWay a.id (out 4 0)) ∧
    (4095 < i → ∃ t, exec (.accessPerform a.id) s = .next t ∧ t.egress = s.egress ∧ t.onTheWay a.id (out 3 0))

/-- R357, R382: the oldest released record goes through the port that EGO_BASE names to slot k mod size of the host's ring, then
the count k + 1 to ADDR − 16, while the host's consumed count leaves room; the host's write of that count is kept. -/
def Clause.EgressPort : Prop :=
  ∀ (s : State),
    (∀ r rest, s.egress.out = r :: rest → s.egress.count < s.egress.head.toNat + 2 ^ (s.egress.logsz.toNat + 8) →
      let base : Word64 := s.egress.addr.setWidth 64 * 16
      let slot := base + BitVec.ofNat 64 (16 * (s.egress.count % 2 ^ (s.egress.logsz.toNat + 8)))
      let rec_ := natBytes 4 r.val.toNat ++ natBytes 4 r.seq.toNat ++ natBytes 4 r.stream.toNat ++ natBytes 4 r.rseq.toNat
      ∃ t, exec .egressRecordOut s = .next t ∧ t.egress.out = rest ∧ t.egress.count = s.egress.count + 1 ∧
        t.host.out = s.host.out ++ [.portWrite s.egress.port slot rec_,
          .portWrite s.egress.port (base - 16) (natBytes 8 (s.egress.count + 1))]) ∧
    (∀ v, exec (.egoHeadWrite v) s = .next { s with egress := { s.egress with head := v } }) ∧
    (∀ a w req x h e rest, s.egress.waiting = a.id :: rest → s.egress.held.length + s.egress.out.length < 16384 →
      s.acc a.id = some a → a.kind = .egress w req → a.agent = .op x h e → egressOp w = 0xBB →
      (∀ b ∈ s.accs, b.id ≠ a.id → b.egressId = none) →
      ∃ t, exec .egputEntryFree s = .next t ∧
        t.egress.held = s.egress.held ++ [⟨(req.lane 2).toNat, req.lane 1, req.lane 0, h⟩] ∧ t.egress.waiting = rest)

/-! ## Islands (R209..R232, R257..R262) -/

/-- R211, R228, R230, R259, R261: an island command whose operands can be used, whose port has a free entry and whose island is
of its element's tenant fires: it pops its record, takes a place in order due 8 cycles on, and its request, the record with the
words that MTASK replaces, goes onto the port's path. -/
def Clause.IslandCommands : Prop :=
  ∀ (f : FT) (s : State),
    let x := s.clk.focus
    let g := s.region x.core x.unit
    let k := s.core x.core
    let a := s.operand f.io .a
    let asked (io : Io) : State := (s.shoot x io 0
      { pa := f.a.popN, pb := io.b.popN, run := .idle, rob := some ⟨s.clk.ids, none, [], s.clk.now + 8⟩ }).tickId
    let req (lanes : Vector Lane 16) : IslandReq :=
      ⟨x, g.handle, g.entry, s.clk.ids, Fin.ofNat 4 f.island.toNat, s.here.word, lanes⟩
    let good (t : Token) : Prop := t.void = false ∧ t.poisoned = false ∧ t.wordTag = true
    let mine := k.tenant (g.at_ x.slot).1 (g.at_ x.slot).2
    let io1 : Io := ⟨f.t0, f.t1, f.a, noPort, noPort⟩
    f.a.used = true →
    (Ready s f.io → (∀ t ∈ s.reads f.io, good t) → mine = k.matrixTenant →
      k.matrix.pathFree (f.island.toNat % 4) = true →
      let send (lanes : Vector Lane 16) : State := (asked f.io).onCore x.core fun q =>
        { q with matrix := { q.matrix with reqs := q.matrix.reqs ++ [req lanes] } }
      ((f.b.used = true ∨ f.params = 0) →
        ∃ lanes, exec (.mtask f) s = .next (send lanes) ∧ ∀ i : Fin 16,
          lanes[i] = if i.val < 8 ∧ f.params.getLsbD i.val = true then (s.operand f.io .b).lane i.val else a.lane i.val) ∧
      exec (.msync f) s = .next (send a.lanes) ∧ exec (.mdrain f) s = .next (send a.lanes)) ∧
    (Ready s io1 → good a → mine = k.streamerTenant → k.streamer.pathFree (f.island.toNat % 4) = true →
      let t := (asked io1).onCore x.core fun q =>
        { q with streamer := { q.streamer with reqs := q.streamer.reqs ++ [req a.lanes] } }
      exec (.xreq f) s = .next t ∧ exec (.xmc f) s = .next t)

/-- R203, R204, R205, R228, R129: an island command of another tenant than the island's sends nothing: it delivers a void
completion token with port a's payload and TAG in its place in order, and its port's guard report, which says where the command
stands, is opened with a count of 1 and posted after 256 cycles without a further drop; a drop while the report is open adds to
its count.
Where the manual leaves it open this follows the model (log 59). -/
def Clause.IslandGuard : Prop :=
  ∀ (f : FT) (s : State),
    let x := s.clk.focus
    let g := s.region x.core x.unit
    let k := s.core x.core
    let a := s.operand f.io .a
    let mine := k.tenant (g.at_ x.slot).1 (g.at_ x.slot).2
    let port := f.island.toNat % 4
    let good (t : Token) : Prop := t.void = false ∧ t.poisoned = false ∧ t.wordTag = true
    let turnedAway (i : Instr) (link : Nat) (tenant : BitVec 2) (status : Token → Emit) : Prop :=
      ∃ t tok, exec i s = .next t ∧ tok.void = true ∧ tok.cause = 0 ∧ tok.lanes = a.lanes ∧ tok.tag = a.tag ∧
        (t.core x.core).matrix = k.matrix ∧ (t.core x.core).streamer = k.streamer ∧
        (∃ r ∈ t.here.rob, r.id = s.clk.ids ∧ r.res = some [status tok]) ∧
        ((∀ q ∈ g.guards, q.handle = g.handle → q.link ≠ BitVec.ofNat 7 link) →
          ∃ r, (t.region x.core x.unit).guards = g.guards ++ [r] ∧ r.handle = g.handle ∧ r.code = 0x30 ∧
            r.link = BitVec.ofNat 7 link ∧ r.count = 1 ∧ r.slot = x.slot ∧ r.sten = mine ∧ r.dten = tenant ∧
            r.agent = s.slotAgent x.core x.unit x.slot ∧ r.last = s.clk.now ∧
            (s.clk.now + 256, Instr.guardReportPost x.core x.unit (BitVec.ofNat 7 link)) ∈ t.clk.pending) ∧
        ∀ q, g.guards = [q] → q.handle = g.handle → q.link = BitVec.ofNat 7 link → q.count + 1 ≠ 0xFFFFFFFF →
          (t.region x.core x.unit).guards = [{ q with count := q.count + 1, last := s.clk.now }]
    let io1 : Io := ⟨f.t0, f.t1, f.a, noPort, noPort⟩
    f.a.used = true → g.snap = none →
    (Ready s f.io → (∀ t ∈ s.reads f.io, good t) → k.matrix.pathFree port = true → mine ≠ k.matrixTenant →
      turnedAway (.mtask f) (0x10 + port) k.matrixTenant .both ∧ turnedAway (.msync f) (0x10 + port) k.matrixTenant .both ∧
      turnedAway (.mdrain f) (0x10 + port) k.matrixTenant (fun t => ⟨none, some t⟩)) ∧
    (Ready s io1 → good a → k.streamer.pathFree port = true → mine ≠ k.streamerTenant →
      turnedAway (.xreq f) (0x14 + port) k.streamerTenant .both ∧
      turnedAway (.xmc f) (0x14 + port) k.streamerTenant (fun t => ⟨none, some t⟩))

/-- R220, R221, R231: the oldest request of the one port that holds any is taken off its path: a record or request that fails a
check is answered with its status at once, as is a task whose ring descriptors lie in a spoilt unit, an MSYNC waits for its
version, and any other becomes the youngest entry of the queue, not issued.
Where the manual leaves it open this follows the model (log 65, 115). -/
def Clause.Enqueue : Prop :=
  ∀ (s : State) (c : Fin 96) (r : IslandReq),
    let m := (s.core c).matrix
    let rec_ := taskRec r.lanes
    let op := opOf r.word
    m.reqs = [r] → m.queue.length < 64 → (op = 0xA0 ∨ op = 0xA1 ∨ op = 0xA2) → s.holds r.site r.handle r.entry = true →
    ∃ t, exec (.taskEnqueue c) s = .next t ∧ (t.core c).matrix.reqs = [] ∧
      (s.refusal c r = none → s.descSpoilt c r = true → op = 0xA0 → (t.core c).matrix.queue = m.queue ∧
        ∃ tok : Token, Resolved (t.slot r.site) r.rob tok ∧ tok.lane 0 = 4) ∧
      (s.refusal c r = none → op = 0xA1 → (t.core c).matrix.syncs = m.syncs ++ [r] ∧ (t.core c).matrix.queue = m.queue) ∧
      (s.refusal c r = none → op ≠ 0xA1 → (op = 0xA0 → s.descSpoilt c r = false) →
        ∃ e, (t.core c).matrix.queue = m.queue ++ [e] ∧ e.req = r ∧ e.issued = none ∧
        (op = 0xA0 → e.tile = rec_.tile ∧ e.ever = rec_.ever) ∧
        (op = 0xA2 → e.tile = (r.lanes[0]).toNat ∧ e.ever = (r.lanes[1]).setWidth 16)) ∧
      (∀ st, s.refusal c r = some st → (t.core c).matrix.queue = m.queue ∧ (t.core c).matrix.syncs = m.syncs ∧
        ∃ tok : Token, tok.tag = 7 ∧ tok.lane 0 = BitVec.ofNat 32 st ∧
          ∀ q ∈ (t.slot r.site).rob, q.id = r.rob → q.res = some [if op = 0xA2 then ⟨none, some tok⟩ else .both tok]) ∧
      ((s.core c).poolA = 0 → s.refusal c r = some 7) ∧
      ((s.core c).poolA ≠ 0 → op = 0xA0 → (rec_.k = 0 ∨ 4096 < rec_.k ∨ rec_.aring % 16 ≠ 0 ∨ rec_.bring % 16 ≠ 0 ∨
        rec_.aring = rec_.bring ∨ rec_.bl = 3 ∨ pairOk rec_.atag rec_.btag = false) → s.refusal c r = some 2) ∧
      ((s.core c).poolA ≠ 0 → op = 0xA1 → m.tiles.length ≤ (r.lanes[0]).toNat → s.refusal c r = some 3) ∧
      ((s.core c).poolA ≠ 0 → op = 0xA2 → 64 < (drainRows r.lanes).1 + (drainRows r.lanes).2 → s.refusal c r = some 2)

/-- R222: the scheduler lets every stale entry retire, and issues the first unissued entry that is version-ready, whose tile no
issued entry names and whose operands are present, to the lowest free engine. -/
def Clause.Scheduler : Prop :=
  ∀ (s : State) (c : Fin 96),
    let m := (s.core c).matrix
    let d (e : MEntry) : Nat := ((m.tiles.getD e.tile .fresh).ver - e.ever).toNat
    (∃ t, exec (.taskIssue c) s = .next t ∧
      (t.core c).matrix.queue.map MEntry.req = (m.queue.filter fun e => !(e.issued.isNone && 1 ≤ d e &&
        d e ≤ 32767)).map MEntry.req ∧
      ∀ e ∈ (t.core c).matrix.queue, e.issued = none → d e = 0 ∨ 32768 ≤ d e) ∧
    (∀ (older rest : List MEntry) (e : MEntry) (k : Fin 4), m.queue = older ++ e :: rest →
      (∀ q ∈ m.queue, q.issued = none → d q = 0 ∨ 32768 ≤ d q) → (s.core c).hfab = false →
      (∀ q ∈ older, q.issued ≠ none ∧ q.tile ≠ e.tile) → (∀ q ∈ rest, q.issued = none) → e.issued = none → d e = 0 →
      s.operandsPresent c e = true → (∀ j, j < k → ∃ q ∈ older, q.issued = some j) → (∀ q ∈ older, q.issued ≠ some k) →
      ∃ t e', exec (.taskIssue c) s = .next t ∧ (t.core c).matrix.queue = older ++ e' :: rest ∧ e'.req = e.req ∧
        e'.tile = e.tile ∧ e'.issued = some k ∧ e'.issuedAt = s.clk.now ∧
        ∃ n, 1 ≤ n ∧ (s.clk.now + n, Instr.taskRetire c k) ∈ t.clk.pending)

/-- R223, R224, R225, R227, R229: a task with ZERO set whose operands are clean gives each output the sum of its groups, pops
the ring it does not keep, sets its tile's version to EVER + 1, leaves the queue, and its completion token is known.
Where the manual leaves it open this follows the model (log 20). -/
def Clause.TaskRetires : Prop :=
  ∀ (s : State) (c : Fin 96) (k : Fin 4) (e : MEntry),
    let m := (s.core c).matrix
    let r := taskRec e.req.lanes
    let tile := 8 * e.req.port.val
    m.queue = [e] → s.popWaits c e = false → s.descSpoilt c e.req = false → e.issued = some k → opOf e.req.word = 0xA0 →
      r.zero = true → r.drain = false → r.keepA = false →
    r.keepB = true → r.tile < m.tiles.length → s.holds e.req.site e.req.handle e.req.entry = true →
    let bytes (base size res n : Nat) : List Byte :=
      (List.range n).map fun i => s.readByte (tileAddr c tile (base + (res + i) % 2 ^ 32 % size))
    let clean (base size res n : Nat) : Prop := ∀ i < n, let u := tileAddr c tile (base + (res + i) % 2 ^ 32 % size)
      s.mem.isPoison u = false ∧ s.mem.isUe u = false
    let na := operandBytes 64 r.k r.atag r.bl
    let nb := operandBytes 96 r.k r.btag r.bl
    let a : Operand := ⟨r.atag, groupLen r.atag r.bl, 64, codeBytes 64 r.k r.atag r.bl, bytes e.baseA e.sizeA e.resA na⟩
    let b : Operand := ⟨r.btag, groupLen r.btag r.bl, 96, codeBytes 96 r.k r.btag r.bl, bytes e.baseB e.sizeB e.resB nb⟩
    clean e.baseA e.sizeA e.resA na → clean e.baseB e.sizeB e.resB nb →
    (∀ g < r.k, (∀ i < 64, a.badScale g i = false) ∧ ∀ i < 96, b.badScale g i = false) →
    ∃ t u tok, exec (.taskRetire c k) s = .next t ∧ (t.core c).matrix.queue = [] ∧
      (t.core c).matrix.retired = m.retired + 1 ∧ (t.core c).matrix.tiles[r.tile]? = some u ∧ u.ver = r.ever + 1 ∧
      u.poison = false ∧ u.kind = (if r.atag = 9 then 1 else 0) ∧
      (∀ i < 64, ∀ j < 96, (u.vals.getD [])[96 * i + j]? = some
        (if r.atag = 9 then ((List.range r.k).foldl (fun acc g => BitVec.ofInt 32 (max (-(2 ^ 31 - 1)) (min (2 ^ 31 - 1)
            (acc.toInt + ((List.range (groupLen r.atag r.bl)).map fun n => sgn 8 (a.code g i n) * sgn 8 (b.code g j n)).sum)))) 0)
         else ((List.range r.k).foldl (fun acc g => BitVec.ofNat 32 (f32.round .rne ((f32.dec acc.toNat).add .rne (groupSum a b g
           i j)))) 0))) ∧
      Holds t (tileAddr c tile (r.aring + 8)) (natBytes 4 ((s.ringAt c tile r.aring).head + na)) ∧
      Resolved (t.slot e.req.site) e.req.rob tok ∧ tok.tag = 7 ∧ tok.lane 0 = 0 ∧ tok.lane 1 = BitVec.ofNat 32 r.tile ∧
      tok.lane 2 = (r.ever + 1).setWidth 32 ∧ tok.lane 3 = BitVec.ofNat 32 k.val ∧
      tok.lane 4 = BitVec.ofNat 32 (s.clk.now - e.issuedAt)

/-- R232, R230: an MDRAIN of a clean tile whose values are known delivers the rows' values on T0, 16 a token, then its status on
T1, and leaves the tile as it was; MSYNC completes when its version has been reached or passed, and waits before. -/
def Clause.DrainsAndSyncs : Prop :=
  (∀ (s : State) (c : Fin 96) (k : Fin 4) (e : MEntry) (u : Tile) (vs : List Lane),
    let m := (s.core c).matrix
    let ls := e.req.lanes
    let n := (drainRows ls).2
    m.queue = [e] → e.issued = some k → opOf e.req.word = 0xA2 → m.tiles[e.tile]? = some u → u.vals = some vs →
    vs.length = 6144 → u.poison = false → u.kind = 1 → (drainRows ls).1 + n ≤ 64 →
    e.req.word.extractLsb' 0 8 = 7 → s.holds e.req.site e.req.handle e.req.entry = true →
    ∃ (t : State) (toks : List Token) (st : Token), exec (.taskRetire c k) s = .next t ∧ (t.core c).matrix.queue = [] ∧
      (t.core c).matrix.tiles = m.tiles ∧
      (∀ q ∈ (t.slot e.req.site).rob, q.id = e.req.rob → q.res = some (toks.map (fun d => ⟨some d, none⟩) ++ [⟨none, some st⟩])) ∧
      toks.length = 6 * n ∧ (∀ q < 6 * n, ∀ l < 16, (toks.getD q eosToken).tag = 7 ∧
        (toks.getD q eosToken).lane l = vs.getD (96 * (drainRows ls).1 + 16 * q + l) 0) ∧
      st.lane 0 = 0 ∧ st.lane 1 = BitVec.ofNat 32 e.tile ∧ st.lane 2 = u.ver.setWidth 32) ∧
  (∀ (s : State) (c : Fin 96) (r : IslandReq) (u : Tile), (s.core c).matrix.syncs = [r] → opOf r.word = 0xA1 →
    (s.core c).matrix.tiles[(r.lanes[0]).toNat]? = some u → s.holds r.site r.handle r.entry = true →
    let d := (u.ver - (r.lanes[1]).setWidth 16).toNat
    ∃ t, exec (.msyncComplete c) s = .next t ∧
      (32767 < d → (t.core c).matrix.syncs = [r]) ∧
      (d ≤ 32767 → (t.core c).matrix.syncs = [] ∧ ∃ tok : Token, Resolved (t.slot r.site) r.rob tok ∧ tok.lane 0 = 0 ∧
        tok.lane 1 = r.lanes[0] ∧ tok.lane 2 = u.ver.setWidth 32))

/-- R258, R259, R261: the oldest transfer request is refused with BADREQ, or accepted while fewer than 64 are held; an XMC that
waits takes one token of its port b for each permit.
Where the manual leaves it open this follows the model (log 69). -/
def Clause.TransferStarts : Prop :=
  (∀ (s : State) (c : Fin 96) (r : IslandReq) (rest : List IslandReq),
    let m := (s.core c).streamer
    let p := packetOf r.lanes
    m.reqs = r :: rest → (s.core c).hfab = false → m.xfers.length < 64 → s.holds r.site r.handle r.entry = true →
    (∀ g, s.cfg r.handle = some g → p.event = false) →
    ∃ t, exec (.transferAccept c) s = .next t ∧ (t.core c).streamer.reqs = rest ∧
      (s.badRequest c r = false → ∃ x, (t.core c).streamer.xfers = m.xfers ++ [x] ∧ x.req = r ∧ x.next = 0 ∧ x.flight = [] ∧
        x.written = 0 ∧ x.permits = 0) ∧
      (s.badRequest c r = true → (t.core c).streamer.xfers = m.xfers ∧ ∃ tok : Token, tok.lane 0 = 1 ∧ tok.lane 1 = p.cookie ∧
        tok.lane 2 = 0 ∧ ∀ q ∈ (t.slot r.site).rob, q.id = r.rob →
          q.res = some [if opOf r.word = 0xA4 then ⟨none, some tok⟩ else .both tok]) ∧
      ((p.reserved = true ∨ 3 < p.dsp ∨ 3 < p.ssp ∨ p.len = 0 ∨ p.len % 64 ≠ 0 ∨ p.stride % 64 ≠ 0 ∨ p.src.toNat % 64 ≠ 0 ∨
        (opOf r.word ≠ 0xA4 ∧ p.dst.toNat % 64 ≠ 0)) → s.badRequest c r = true)) ∧
  (∀ (s : State) (c : Fin 96) (x : Transfer) (tok : Token) (e : Entry) (rest : List Entry),
    let y := x.req.site
    s.xfer c x.id = some x → opOf x.req.word = 0xA4 → x.cancelled = false → x.next < x.total →
    x.req.slots + x.permits ≤ x.row x.next → s.holds y x.req.handle x.req.entry = true →
    (s.region y.core y.unit).st = .mapped → (s.region y.core y.unit).snap = none → (s.slot y).snap = .off →
    (s.slot y).b.q = e :: rest → e.tok = tok → tok.eos = false →
    ∃ t, exec (.xmcPermit c x.id) s = .next t ∧ (t.slot y).b.q = rest ∧ t.xfer c x.id = some { x with permits := x.permits + 1 })

/-- R257, R258, R260, R261, R241, R243, R262: a transfer starts its next unit of 64 bytes, read from SRC + r·SSTRIDE and written
to DST + r·LEN, for an XMC to each destination's slot r mod W, in scratch, ember or virtual space, once its line has a tag. A
unit that passes its tile or store, or meets a rotation area, stops the transfer with a region fault. When the unit is performed
its bytes stand at every destination, poisoned when the source is, and with FULL a destination's line is full once its other
unit is not to come; an XMC's tile that is then complete lands before the command's completion. A transfer all of whose units
are performed ends with its completion token, and a record where it asks for one.
Where the manual leaves it open this follows the model (log 70). -/
def Clause.TransferMoves : Prop :=
  (∀ (s : State) (c : Fin 96) (x : Transfer),
    let p := packetOf x.req.lanes
    let m := (s.core c).streamer
    let multi := opOf x.req.word = 0xA4
    let r := x.next / (p.len / 64)
    let i := 64 * (x.next % (p.len / 64))
    let tile (a : Word64) : Nat := (a.extractLsb' 18 5).toNat
    let off (a : Word64) : Nat := (a.extractLsb' 0 18).toNat
    let pa (sp : Nat) (a : Word64) : Option Nat :=
      if sp = 0 then some (tileAddr c (tile a) (off a)) else if sp = 3 then some (emberAddr c a.toNat) else none
    let refused (sp : Nat) (wr : Bool) (a : Word64) : Option (BitVec 8) :=
      if sp = 0 then (if s.scratchBytes c (tile a) < off a + 64 then some 0x0D
        else if wr = true ∧ s.hitsRotation c (Fin.ofNat 32 (tile a)) (off a) 64 = true then some 0x14 else none)
      else if sp = 3 then (if s.emberBytes c < a.toNat + 64 then some 0x0D else none) else none
    let src := p.src + BitVec.ofNat 64 (r * p.stride + i)
    let row := if multi then r % (x.req.word.extractLsb' 0 8).toNat else r
    let dsts := x.req.dests.map fun d => d + BitVec.ofNat 64 (row * p.len + i)
    s.xfer c x.id = some x → m.moves x.id = true → (opOf x.req.word = 0xA3 ∨ multi) →
    (m.inFlight < 512 ∨ x.lineOf x.next ∈ x.linesOf x.flight) →
    (refused p.ssp false src = none → (∀ d ∈ dsts, refused p.dsp true d = none) →
      ∃ t a, exec (.transferLine c x.id x.next) s = .next t ∧
        t.xfer c x.id = some { x with next := x.next + 1, flight := x.flight ++ [x.next] } ∧
        t.accs = s.accs ++ [a] ∧ a.agent = .line c x.id x.next ∧ a.kind = .copyLine ∧
        a.pieces.map Piece.va = src :: dsts ∧ a.pieces.map Piece.pa = pa p.ssp src :: dsts.map (pa p.dsp) ∧
        (∀ q ∈ a.pieces, q.len = 64) ∧ a.stage = (if ∃ q ∈ a.pieces, q.pa = none then .walk else .ready) ∧ t.mem = s.mem) ∧
    (∀ e, (refused p.ssp false src :: dsts.map (refused p.dsp true)).findSome? id = some e →
      let y := x.req.site
      s.holds y x.req.handle x.req.entry = true → (s.region y.core y.unit).st ≠ .faulted →
      (s.region y.core y.unit).markFault = false → x.next ∉ x.flight →
      ∃ t, exec (.transferLine c x.id x.next) s = .next t ∧
        t.xfer c x.id = some { x with next := x.next + 1, cancelled := true } ∧ t.accs = s.accs ∧
        ⟨y.slot, e, 0, true⟩ ∈ (t.region y.core y.unit).pend)) ∧
  (∀ (s : State) (c : Fin 96) (x : Transfer) (a : Access) (sa n : Nat) (das : List Nat),
    let p := packetOf x.req.lanes
    let u := p.len / 64
    let multi := opOf x.req.word = 0xA4
    let row := if multi then n / u % (x.req.word.extractLsb' 0 8).toNat else n / u
    let dsts := x.req.dests.map fun d => d + BitVec.ofNat 64 (row * p.len + 64 * (n % u))
    let bad := s.mem.isPoison sa || s.mem.isUe sa
    let y := x.req.site
    let land := i32Token [BitVec.ofNat 32 x.tile, if x.poison = true ∨ bad = true then 2 else 0]
    Unheld s a → a.kind = .copyLine → a.agent = .line c x.id n → s.xfer c x.id = some x → (opOf x.req.word = 0xA3 ∨ multi) →
    a.pieces.map Piece.pa = (sa :: das).map some → sa % 64 = 0 → (∀ d ∈ das, d % 64 = 0) → das.Nodup → das.length = dsts.length →
    (∀ q ∈ sa :: das, (∃ k o, s.phys q = .dram k o) ∨ (∃ k t o, s.phys q = .scratch k t o) ∨ ∃ k o, s.phys q = .ember k o) →
    s.mem.wf = true →
    ∃ t x', exec (.accessPerform a.id) s = .next t ∧ t.acc a.id = none ∧ t.mem.wf = true ∧
      (∀ d ∈ das, Holds t d (s.mem.bytes sa 64) ∧ t.mem.isPoison d = bad) ∧
      (∀ b, (∀ d ∈ das, b < d ∨ d + 64 ≤ b) → t.mem.byte b = s.mem.byte b) ∧
      t.xfer c x.id = some x' ∧ x'.written = x.written + 64 * das.length ∧ x'.flight = x.flight.filter (· != n) ∧
      x'.poison = (x.poison || bad) ∧ (p.full = false → t.mem.full = s.mem.full) ∧
      (∀ (k d : Nat) (v : Word64), das[k]? = some d → dsts[k]? = some v → p.full = true → s.hasFull d = true →
        (let o := if v.toNat / 64 % 2 = 0 then n + 1 else n - 1
         o = n ∨ p.rows * u ≤ o ∨ (multi ∧ o / u ≠ n / u) ∨ (o < x.next ∧ o ∉ x.flight)) → t.mem.isFull d = true) ∧
      (multi → 0 < u → x.tile * u < p.rows * u → (x.tile + 1) * u ≤ x.next → x.next < (x.tile + 2) * u →
        (∀ k ∈ x.flight, k ≠ n → k / u ≠ x.tile) → s.holds y x.req.handle x.req.entry = true →
        x'.tile = x.tile + 1 ∧ (t.slot y).rob = (s.slot y).rob.flatMap fun r =>
          if r.id = x.req.rob then [⟨0, some [⟨some land, none⟩], [], 0⟩, r] else [r])) ∧
  (∀ (s : State) (c : Fin 96) (x : Transfer),
    let p := packetOf x.req.lanes
    let st : Nat := if x.cancelled then 3 else if x.poison then 2 else 0
    let tok := i32Token [BitVec.ofNat 32 st, p.cookie, BitVec.ofNat 32 x.written]
    s.xfer c x.id = some x → x.ended = true → x.written < 2 ^ 32 → s.holds x.req.site x.req.handle x.req.entry = true →
    ∃ t, exec (.transferComplete c x.id) s = .next t ∧ t.xfer c x.id = none ∧
      (∀ q ∈ (t.slot x.req.site).rob, q.id = x.req.rob →
        q.res = some [if opOf x.req.word = 0xA4 then ⟨none, some tok⟩ else .both tok]) ∧
      ∀ g, p.event = true → s.cfg x.req.handle = some g → (s.ctx c p.ctx).asid = g.asid → (s.ctx c p.ctx).evq.length < 64 →
        ∃ r ∈ (t.ctx c p.ctx).evq, r.extractLsb' 192 64 = x.req.handle ∧ r.extractLsb' 160 32 = p.cookie ∧
          r.extractLsb' 128 32 = BitVec.ofNat 32 x.written ∧ r.extractLsb' 120 8 = (if st = 0 then 2 else 3) ∧
          r.extractLsb' 104 8 = BitVec.ofNat 8 st)

/-! ## Reins (R341..R351) -/

/-- R349: REIN pops its command and its result takes its place in order, due no sooner than 8 cycles on: READ gives the record; a
write that keeps rules 0x03, 0x04 and 0x06 and whose values fit is applied, any other refused; CLEAR clears; a lane 0 above 5
is BADOP. -/
def Clause.ReinCommands : Prop :=
  ∀ (f : FO) (s : State) (r : Rein),
    let x := s.clk.focus
    let h := (s.region x.core x.unit).handle
    let n := (f.params.extractLsb' 0 5).toNat
    let c := s.operand f.io .a
    let v1 := (c.lane 1).toNat
    let v2 := (c.lane 2).toNat
    Ready s f.io → f.a.used = true → c.void = false → c.poisoned = false → c.wordTag = true → s.rein h n = some r →
    ∃ (r' : Rein) (tok : Token) (due : Nat), s.clk.now + 8 ≤ due ∧
      exec (.rein f) s = .next (((s.shoot x f.io 0
        { pa := 1, run := .idle, rob := some ⟨s.clk.ids, some [.both tok], [], due⟩ }).tickId.tickFresh).onRein h n fun _ => r') ∧
      (let ok (q : Rein) : Prop := q.kp.toNat * q.g.toNat ≤ 128 ∧ 8 * q.ki.toNat ≤ q.kp.toNat ∧ q.g ≠ 0 ∧ 1 ≤ q.wfloor ∧
        q.wfloor ≤ q.wp0 ∧ q.wfloor ≤ q.wc0 ∧ q.wp0 ≤ q.wceil ∧ q.wc0 ≤ q.wceil ∧ q.wceil ≤ 256
       let tells (st : Nat) : Prop := tok.tag = 7 ∧ tok.lane 0 = BitVec.ofNat 32 st ∧ tok.lane 1 = BitVec.ofNat 32 n ∧
         ∀ l, 2 ≤ l → tok.lane l = 0
       let writes (fit : Prop) (q : Rein) : Prop := (fit ∧ ok q → r' = q ∧ tells 0) ∧ (¬(fit ∧ ok q) → r' = r ∧ tells 1)
       (c.lane 0 = 0 → r' = r ∧ tok.tag = 0 ∧ ∀ l < 16, tok.lane l = r.bits.extractLsb' (32 * l) 32) ∧
       (c.lane 0 = 1 → writes (v1 < 2 ^ 16) { r with setpt := BitVec.ofNat 16 v1 }) ∧
       (c.lane 0 = 2 → writes (v1 < 2 ^ 8 ∧ v2 < 2 ^ 8) { r with kp := BitVec.ofNat 8 v1, ki := BitVec.ofNat 8 v2 }) ∧
       (c.lane 0 = 3 → writes (v1 < 2 ^ 9 ∧ v2 < 2 ^ 9) { r with wp0 := v1, wc0 := v2 }) ∧
       (c.lane 0 = 4 → writes (v1 < 2 ^ 9 ∧ v2 < 2 ^ 9) { r with wfloor := v1, wceil := v2 }) ∧
       (c.lane 0 = 5 → r' = { r with i := 0, emptyev := 0, fullev := 0, updates := 0 } ∧ tells 0) ∧
       (5 < (c.lane 0).toNat → r' = r ∧ tells 2))

/-- R342, R345: an update that is due samples the occupancy of its buffer and sets I, the weights and the counts as R345 says; the
occupancy of a long channel is its data and void tokens, and it is full at DEPTH. -/
def Clause.ReinUpdates : Prop :=
  ∀ (s : State) (h : Word64) (n : Nat) (g : Cfg) (r : Rein), s.cfg h = some g → s.rein h n = some r →
    max r.period.toNat 16 ≤ r.counted →
    let o := s.occupancy g r
    let e : Int := o.1 - r.setpt.toNat
    let i : Int := if o.1 = 0 ∨ o.2 = true then r.i else max (-r.ilim.toNat) (min r.ilim.toNat (r.i + e))
    let u : Int := (r.kp.toNat * e + r.ki.toNat * i) / 256
    (∀ c, r.bkind = 0 → g.chans[r.bufid.toNat]? = some c →
      o.1 = (c.buf.filter fun t => !t.eos).length ∧ (o.2 = true ↔ o.1 = c.depth)) ∧
    ∃ t r', exec (.reinUpdate h n) s = .next t ∧ t.rein h n = some r' ∧ r'.i = i ∧ r'.updates = r.updates + 1 ∧
      r'.occ = BitVec.ofNat 16 o.1 ∧ r'.counted = r.counted - max r.period.toNat 16 ∧
      (r.wfloor ≤ r.wceil → (r'.wp : Int) = max (r.wfloor : Int) (min r.wceil (r.wp0 - u)) ∧
        (r'.wc : Int) = max (r.wfloor : Int) (min r.wceil (r.wc0 + u))) ∧
      r'.emptyev = (if o.1 = 0 ∧ r.emptyev ≠ 0xFFFFFFFF then r.emptyev + 1 else r.emptyev) ∧
      r'.fullev = (if o.1 ≠ 0 ∧ o.2 = true ∧ r.fullev ≠ 0xFFFFFFFF then r.fullev + 1 else r.fullev) ∧
      r'.pEff = r.pEff ∧ r'.cEff = r.cEff

/-- R344: a source whose window of 256 counted cycles has passed starts the next one at its present weight, its firings counted
anew. -/
def Clause.ReinWindows : Prop :=
  ∀ (s : State) (h : Word64) (n : Nat) (g : Cfg) (r : Rein), s.cfg h = some g → s.rein h n = some r →
    ∃ t r', exec (.reinWindowStart h n) s = .next t ∧ t.rein h n = some r' ∧
      r'.pEff = (if 256 ≤ r.pCount then r.wp else r.pEff) ∧ r'.cEff = (if 256 ≤ r.cCount then r.wc else r.cEff) ∧
      r'.pCount = (if 256 ≤ r.pCount then r.pCount - 256 else r.pCount) ∧
      (∀ x, g.sourceSite r.psrc = some x → 256 ≤ r.pCount → (t.slot x).winUsed = 0) ∧
      (∀ x, g.sourceSite r.csrc = some x → 256 ≤ r.cCount → (t.slot x).winUsed = 0)

/-! ## Control blocks (R184..R197) -/

/-- R192, R189: each two-operand scalar instruction delivers its value of a and b, b being IMM10 read as a signed number when
port b is unused; a void operand makes the result void and has no other effect. -/
def Clause.ScalarArithmetic : Prop :=
  ∀ (f : FC) (s : State) (b : KBlock) (i : FC → Instr) (lat : Nat) (v : BitVec 8 → Word64 → Word64 → Word64),
    (i, lat, v) ∈ scalarTable → KReady s f.io b →
    let y := if f.b.used then (s.kin b f.io .b).val else BitVec.ofInt 64 f.imm.toInt
    (s.kClean b f.io → exec (i f) s = .next (s.kanswers f.io lat ⟨v f.mod (s.kin b f.io .a).val y, false⟩)) ∧
    (∀ p, (s.kin b f.io p).void = true → exec (i f) s = .next (s.kanswers f.io lat ⟨0, true⟩))

/-- R192, R70: KSEL delivers a where c is not zero, else b; KMOVI, a source, delivers its 28 bits zero-extended, sign-extended or
at the top of the word. -/
def Clause.ScalarChoice : Prop :=
  (∀ (f : FC) (s : State) (b : KBlock), KReady s f.io b → s.kClean b f.io →
    exec (.ksel f) s = .next (s.kanswers f.io 1
      ⟨if (s.kin b f.io .c).val ≠ 0 then (s.kin b f.io .a).val else (s.kin b f.io .b).val, false⟩)) ∧
  (∀ (f : FK) (s : State) (b : KBlock),
    let io : Io := ⟨f.t0, f.t1, noPort, noPort, noPort⟩
    KReady s io b → exec (.kmovi f) s = .next (s.kanswers io 1 ⟨match (f.mod.extractLsb' 0 2).toNat with
      | 0 => BitVec.ofNat 64 f.imm.toNat
      | 1 => BitVec.ofInt 64 f.imm.toInt
      | _ => BitVec.ofNat 64 (f.imm.toNat * 2 ^ 36), false⟩))

/-- R192, R193, R191: KLD and KST at an 8-byte-aligned address begin their access under the context's ASID, KST with its bytes;
at any other the context traps with ALIGN. -/
def Clause.ScalarMemory : Prop :=
  ∀ (f : FC) (s : State) (b : KBlock), KReady s f.io b → s.kClean b f.io →
    let x := s.clk.focus
    let va := (s.kin b f.io .a).val + 8 * BitVec.ofInt 64 f.imm.toInt
    let v := (s.kin b f.io .b).val
    let asid := (s.ctx x.core (ctxOf x)).asid
    let begins (t : State) (k : AKind) (data : List Byte) (wr : Bool) : Prop :=
      ∃ a b', t.accs = s.accs ++ [a] ∧ a.id = s.clk.ids ∧ a.kind = k ∧ a.asid = asid ∧ a.wr = wr ∧ a.virt = true ∧ a.addr = va ∧
        a.pieces = [⟨va, 8, none⟩] ∧ a.data = data ∧ a.stage = .walk ∧ t.mem = s.mem ∧ t.kblk x = some b' ∧
        b'.slots[x.slot].rob = b.slots[x.slot].rob ++ [⟨s.clk.ids, none, s.clk.now + 1⟩]
    (va.toNat % 8 = 0 → (∃ t, exec (.kld f) s = .next t ∧ begins t .kload [] false) ∧
      ∃ t, exec (.kst f) s = .next t ∧ begins t (.kstore v) (natBytes 8 v.toNat) true) ∧
    (va.toNat % 8 ≠ 0 → (∃ t, exec (.kld f) s = .next t ∧ TakesTrap s t x 0x02) ∧
      ∃ t, exec (.kst f) s = .next t ∧ TakesTrap s t x 0x02)

/-- R186, R189, R194: KRD delivers its register as it stood at block start, and a queue-mapped one the value it pops; KWR leaves
its write for the commit; a register at or above the allotment traps with ALLOT.
Where the manual leaves it open this follows the model (log 53, 54). -/
def Clause.ScalarRegisters : Prop :=
  ∀ (f : FC) (s : State) (b : KBlock), KReady s f.io b → s.kClean b f.io →
    let x := s.clk.focus
    let c := s.core x.core
    let k := ctxOf x
    let r := (f.imm.extractLsb' 5 5).toNat
    let v := (s.kin b f.io .a).val
    (r < c.allot k → s.mapped x.core k r = false →
      (c.sbad.getLsbD (c.regBase k + r) = false → exec (.krd f) s = .next (s.kanswers f.io 1 ⟨b.regs.getD r 0, false⟩)) ∧
      exec (.kwr f) s = .next ((s.took f.io).onBlk x fun b => { b with writes := b.writes ++ [⟨x.slot, 0, r, ⟨v, false⟩⟩] })) ∧
    (c.allot k ≤ r → (∃ t, exec (.krd f) s = .next t ∧ TakesTrap s t x 0x01) ∧
      ∃ t, exec (.kwr f) s = .next t ∧ TakesTrap s t x 0x01) ∧
    (∀ q ch (tok : Token) rest, r < c.allot k → s.mapped x.core k r = true → s.queueOf x.core k (r - 24) false = some q →
      s.chan q.1 q.2 = some ch → ch.buf = tok :: rest → (∀ p ∈ b.qregs, p.1 ≠ r) → b.wants.contains r = false →
      ∃ t b', exec (.krd f) s = .next t ∧ t.kblk x = some b' ∧ (t.chan q.1 q.2).map Chan.buf = some rest ∧
        b'.qregs = b.qregs ++ [(r, ⟨tok.lane 1 ++ tok.lane 0, tok.void⟩)] ∧
        ⟨s.clk.ids, some ⟨tok.lane 1 ++ tok.lane 0, tok.void⟩, s.clk.now + 1⟩ ∈ b'.slots[x.slot].rob) ∧
    (r < c.allot k → s.mapped x.core k r = true → s.queueOf x.core k (r - 24) true = none →
      ∃ t, exec (.kwr f) s = .next t ∧ TakesTrap s t x 0x07)

/-- R194, R195: the range instructions begin their repetitions, one or the count their REP gave, with the REP's stride; REP gives
count and stride to the next slot.
Where the manual leaves it open this follows the model (log 51). -/
def Clause.RangeFirings : Prop :=
  ∀ (f : FC) (s : State) (b : KBlock),
    let x := s.clk.focus
    let t := s.ctx x.core (ctxOf x)
    let a := (s.kin b f.io .a).val
    let begins (o : Done) (n : Nat) (stride : Int) (shown : Bool) : Prop := ∃ u b', o = .next u ∧ u.kblk x = some b' ∧
      b'.reps = b.reps ++ [⟨x.slot, s.clk.ids, a, 0, n, stride, shown, none⟩] ∧ u.mem = s.mem ∧ u.accs = s.accs ∧
      (shown = true → (u.ctx x.core (ctxOf x)).repActive = true ∧
        (u.ctx x.core (ctxOf x)).repRemain = BitVec.ofNat 6 n ∧ (u.ctx x.core (ctxOf x)).repIndex = 0)
    (∀ i ∈ [Instr.kstm f, .kldm f, .qsend f, .qrecv f],
      (KReady s f.io b → s.kClean b f.io → begins (exec i s) 1 0 false) ∧
      (∀ q n, s.kblk x = some b → t.st = .run → (s.core x.core).hctx.getLsbD (ctxOf x).val = false →
        b.can s.clk.now f.io x.slot = true → b.spoilt f.io x.slot = false →
        (b.prefixed x.slot && isRange (opOf b.slots[x.slot].word)) = true →
        b.counts.find? (·.slot == x.slot) = some q → q.count = some n → s.kClean b f.io → b.resume = none →
        (n ≤ 32 → begins (exec i s) n q.stride true) ∧
        (32 < n → ∃ u, exec i s = .next u ∧ TakesTrap s u x 0x01))) ∧
    (KReady s f.io b → exec (.rep f) s = .next ((s.took f.io).onBlk x fun b' => { b' with
      counts := b'.counts ++ [⟨x.slot + 1, if f.a.used then (if (s.kin b f.io .a).void then none else some a.toNat)
        else some (f.imm.extractLsb' 4 6).toNat, (f.imm.extractLsb' 0 4).toInt⟩] }))

/-- R194, R195: repetition i acts with register RA + i·d and address base + 8·i: KSTM begins the store of the register, KLDM the
load, QSEND sends the register to its queue, QRECV pops a token whose value is written at commit; a register outside the
allotment traps with ALLOT, an unbound queue with QUNBOUND.
Where the manual leaves it open this follows the model (log 51, 52). -/
def Clause.Repetitions : Prop :=
  ∀ (s : State) (c : Fin 96) (k : Fin 4) (b : KBlock) (r : KRep) (n : Nat),
    let x := ksite c k r.slot
    let w := b.slots[r.slot].word
    let reg : Int := (w.extractLsb' 5 5).toNat + r.index * r.stride
    let va := r.base + BitVec.ofNat 64 (8 * r.index)
    let q := (w.extractLsb' 48 3).toNat
    let allot := (s.core c).allot k
    (s.ctx c k).blk = some b → (s.ctx c k).st = .run → (s.core c).hctx.getLsbD k.val = false → (s.ctx c k).drains = [] →
    b.reps = [r] → r.wait = none → r.remain = n + 1 →
    let step := exec (.repRepetition c k) s
    let begun (kind : AKind) (data : List Byte) (wr : Bool) : Prop := ∃ t a, step = .next t ∧ t.accs = s.accs ++ [a] ∧
      a.kind = kind ∧ a.addr = va ∧ a.pieces = [⟨va, 8, none⟩] ∧ a.data = data ∧ a.wr = wr ∧
      (t.kblk x).map KBlock.reps = some [{ r with wait := some s.clk.ids }]
    let moved (t : State) : Prop := ((t.kblk x).map KBlock.reps = some (if n = 0 then [] else
      [{ r with index := r.index + 1, remain := n }]))
    (reg < 0 ∨ allot ≤ reg → va.toNat % 8 = 0 ∨ opOf w = 0xD4 ∨ opOf w = 0xD5 → opOf w ∈ [0xCC, 0xCD, 0xD4, 0xD5] →
      ∃ t, step = .next t ∧ TakesTrap s t x 0x01) ∧
    (0 ≤ reg → reg < allot → s.mapped c k reg.toNat = false → va.toNat % 8 = 0 →
      (opOf w = 0xCC → (s.core c).sbad.getLsbD ((s.core c).regBase k + reg.toNat) = false →
        begun (.kstore (b.regs.getD reg.toNat 0)) (natBytes 8 (b.regs.getD reg.toNat 0).toNat) true) ∧
      (opOf w = 0xCD → begun .kload [] false)) ∧
    (0 ≤ reg → reg < allot → s.mapped c k reg.toNat = false → (s.core c).sbad.getLsbD ((s.core c).regBase k + reg.toNat) = false →
      opOf w = 0xD4 →
      (s.queueOf c k q true = none → ∃ t, step = .next t ∧ TakesTrap s t x 0x07) ∧
      (∀ h ch, s.queueOf c k q true = some h → s.chan h.1 h.2 = some ch → ch.out.length < 8 →
        ∃ t ct, step = .next t ∧ moved t ∧ (t.chan h.1 h.2).map Chan.out = some (ch.out ++ [ct]) ∧ ct.tok.tag = 0 ∧
          ct.tok.void = false ∧ ct.tok.lane 0 = (b.regs.getD reg.toNat 0).extractLsb' 0 32 ∧
          ct.tok.lane 1 = (b.regs.getD reg.toNat 0).extractLsb' 32 32 ∧ ∀ l, 2 ≤ l → ct.tok.lane l = 0)) ∧
    (0 ≤ reg → reg < allot → s.mapped c k reg.toNat = false → opOf w = 0xD5 → b.wants.contains (24 + q) = false →
      (s.queueOf c k q false = none → ∃ t, step = .next t ∧ TakesTrap s t x 0x07) ∧
      (∀ h ch (tok : Token) rest, s.queueOf c k q false = some h → s.chan h.1 h.2 = some ch → ch.buf = tok :: rest →
        tok.void = false → ∃ t b', step = .next t ∧ moved t ∧ (t.chan h.1 h.2).map Chan.buf = some rest ∧ t.kblk x = some b' ∧
          b'.writes = b.writes ++ [⟨r.slot, r.index, reg.toNat, ⟨tok.lane 1 ++ tok.lane 0, false⟩⟩]))

/-- R196, R190, R191: BRA makes the named block the successor; BCALL also pushes the block SUCC0 names; BRET takes the popped
entry; HALT stops the context at commit.  A misaligned target traps with ALIGN, a second branch with BRANCH2, a full or empty
call stack with STACK. -/
def Clause.Branches : Prop :=
  ∀ (f : FC) (s : State) (b : KBlock), KReady s f.io b → s.kClean b f.io →
    let x := s.clk.focus
    let stack := (s.ctx x.core (ctxOf x)).stack
    let at_ (off : Int) : Word64 := if off = 0 then 0 else BitVec.ofInt 64 (b.addr.toNat + 64 * off)
    let target := if f.a.used then (s.kin b f.io .a).val else at_ f.imm.toInt
    let traps (i : Instr) (c : BitVec 8) : Prop := ∃ t, exec i s = .next t ∧ TakesTrap s t x c
    let goes (i : Instr) (g : KBlock → KBlock) : Prop := exec i s = .next ((s.took f.io).onBlk x g)
    (b.branch = none → target.toNat % 64 = 0 → goes (.bra f) fun q => { q with branch := some target }) ∧
    (b.branch = none → target.toNat % 64 = 0 → stack.length < 8 → goes (.bcall f) fun q => { q with
      branch := some target, push := some ((at_ (hdrSucc b.hdr 0)).setWidth 54) }) ∧
    (∀ a, b.branch = none → stack.getLast? = some a →
      goes (.bret f) fun q => { q with branch := some ((a ++ 0#6 : BitVec 54).setWidth 64), pop := true }) ∧
    goes (.halt f) (fun q => { q with halt := true }) ∧
    (target.toNat % 64 ≠ 0 → traps (.bra f) 0x02) ∧
    (∀ a, b.branch = some a → target.toNat % 64 = 0 → traps (.bra f) 0x06) ∧
    (8 ≤ stack.length → traps (.bcall f) 0x05) ∧ (stack = [] → traps (.bret f) 0x05)

/-- R190, R41: a block that is quiescent commits: its register writes take effect in order of slot and repetition, the branch
target or the successor that the exit value selects is fetched next, and HALT or a zero successor stops the context.
Where the manual leaves it open this follows the model (log 56). -/
def Clause.BlockCommits : Prop :=
  ∀ (s : State) (c : Fin 96) (k : Fin 4) (b : KBlock),
    let t0 := s.ctx c k
    t0.blk = some b → t0.st = .run → (s.core c).hctx.getLsbD k.val = false → b.quiet s.clk.now = true →
    (∀ w ∈ b.writes, w.reg < (s.core c).allot k ∧ s.mapped c k w.reg = false) →
    let a : Word64 := match b.branch with
      | some a => a
      | none =>
        let off := hdrSucc b.hdr (b.exitV.getD 0).toNat
        if off = 0 then 0 else BitVec.ofInt 64 (b.addr.toNat + 64 * off)
    let wins (r : Nat) (w : KWrite) : Prop := w ∈ b.writes ∧ w.reg = r ∧ ∀ v ∈ b.writes, v.reg = r → v ≠ w →
      v.slot < w.slot ∨ (v.slot = w.slot ∧ v.rep < w.rep)
    ∃ t, exec (.controlBlockCommit c k) s = .next t ∧ (t.ctx c k).blk = none ∧ t.mem = s.mem ∧
      (∀ r w, r < (s.core c).allot k → (s.core c).regBase k + r < 64 → wins r w → (t.core c).sreg k r = w.val.val) ∧
      (∀ r, (∀ w ∈ b.writes, w.reg ≠ r) → (t.core c).sreg k r = (s.core c).sreg k r) ∧
      (b.halt = true ∨ a = 0 → (t.ctx c k).st = .stopped) ∧
      (b.halt = false → a ≠ 0 → a.toNat < 2 ^ 54 → t0.stopReq = false → (t.ctx c k).st = .run ∧
        (t.ctx c k).bptr = a.extractLsb' 6 48 ∧
        ∃ n, 1 ≤ n ∧ (s.clk.now + n, Instr.blockFetch c k (t.ctx c k).gen) ∈ t.clk.pending) ∧
      (b.push = none → b.pop = false → (t.ctx c k).stack = t0.stack) ∧
      (∀ p, b.push = some p → b.pop = false → (t.ctx c k).stack = t0.stack ++ [p.extractLsb' 6 48]) ∧
      (b.push = none → b.pop = true → (t.ctx c k).stack = t0.stack.dropLast)

/-- R189, R195: a fetch whose header and words are read and pass their checks starts the block, its slots holding the words and
every register read seeing the value it holds now; a header that fails traps with BADBLOCK, and a fetch refused for want of a
mapping parks.
Where the manual leaves it open this follows the model (log 55). -/
def Clause.BlockStarts : Prop :=
  ∀ (s : State) (c : Fin 96) (k : Fin 4) (pa : Nat) (hdr : BitVec 128) (w : Word64),
    let t0 := s.ctx c k
    let va : Word64 := (t0.bptr ++ 0#6 : BitVec 54).setWidth 64
    t0.st = .run → t0.blk = none →
    (∀ rec_, (s.translate rec_ c t0.asid true false false false va 64).2 = .ok pa) → (∃ col off, s.phys pa = .dram col off) →
    s.ownWrites c k [pa] = false →
    s.mem.isPoison pa = false → s.mem.isUe pa = false → s.mem.isCe pa = false → pa % 64 = 0 →
    s.mem.word pa = hdr.extractLsb' 0 64 → s.mem.word (pa + 8) = hdr.extractLsb' 64 64 → s.mem.word (pa + 16) = w →
    (hdrKind hdr = 2 → headerReasons hdr = [] → hdrCount hdr = 0 →
      (BlockCtx.mk hdr 0 0 [w] [] [] [] [] none 0).failures = [] →
      ∃ t b, exec (.blockFetch c k t0.gen) s = .next t ∧ (t.ctx c k).blk = some b ∧ b.hdr = hdr ∧ b.addr = t0.bptr ++ 0#6 ∧
        b.slots[0].word = w ∧ (∀ i : Fin 128, i ≠ 0 → b.slots[i].word = 0) ∧
        (∀ r, r < (s.core c).allot k → b.regs.getD r 0 = (s.core c).sreg k r) ∧ b.branch = none ∧ b.writes = [] ∧
        b.exitV = none ∧ b.resume = (if t0.repActive then some (t0.repIndex.toNat, t0.repRemain.toNat) else none) ∧
        t.mem = s.mem) ∧
    (hdrKind hdr = 1 ∨ headerReasons hdr ≠ [] → ∃ t, exec (.blockFetch c k t0.gen) s = .next t ∧ (t.ctx c k).st = .trapped ∧
      (t.ctx c k).trapCause = 0x08 ∧ (t.ctx c k).blk = none ∧ (t.core c).sregs = (s.core c).sregs)

/-- R189, R268: a fetch refused for want of a mapping waits as a parked access, its context in RUN; one refused for another cause
traps with ACCESS and the address. -/
def Clause.FetchRefused : Prop :=
  ∀ (s : State) (c : Fin 96) (k : Fin 4) (e : BitVec 8),
    let t0 := s.ctx c k
    let va : Word64 := (t0.bptr ++ 0#6 : BitVec 54).setWidth 64
    t0.st = .run → t0.blk = none → (∀ rec_, (s.translate rec_ c t0.asid true false false false va 64).2 = .error e) →
    (e.toNat ≤ 5 → ∃ t a, exec (.blockFetch c k t0.gen) s = .next t ∧ (t.ctx c k).st = .run ∧ t.accs = s.accs ++ [a] ∧
      a.stage = .parked e ∧ a.agent = .fetch c k t0.gen ∧ a.addr = va) ∧
    (5 < e.toNat → ∃ t, exec (.blockFetch c k t0.gen) s = .next t ∧ (t.ctx c k).st = .trapped ∧
      (t.ctx c k).trapCause = 0x09 ∧ (t.ctx c k).trapVal = va)

/-- R196, R187: CSRRD delivers the value of its CSR; CSRWR writes at its firing and delivers the old value; an undefined number
traps with BADCSR, a write of 0x100..0x1FF or 0x300..0x3FF without PRIV with PRIV.
Where the manual leaves it open this follows the model (log 58). -/
def Clause.CsrAccess : Prop :=
  ∀ (f : FC) (s : State) (b : KBlock), KReady s f.io b → s.kClean b f.io →
    let x := s.clk.focus
    let t0 := s.ctx x.core (ctxOf x)
    let num : BitVec 12 := f.imm.setWidth 12
    let v := (s.kin b f.io .a).val
    let w : Writer := ⟨x.core, ctxOf x, t0.priv, false⟩
    (∀ old, (s.took f.io).csrRead x.core (ctxOf x) num = some old →
      exec (.csrrd f) s = .next (s.kanswers f.io 1 ⟨old, false⟩) ∧
      ((t0.priv = true ∨ num.toNat < 0x100 ∨ (0x200 ≤ num.toNat ∧ num.toNat < 0x300)) → num ≠ 0x340 →
        exec (.csrwr f) s = .next (((s.took f.io).writeCsr x.core w num v).kplace x 1 (some ⟨old, false⟩))) ∧
      (t0.priv = false → (0x100 ≤ num.toNat ∧ num.toNat < 0x200) ∨ 0x300 ≤ num.toNat →
        ∃ t, exec (.csrwr f) s = .next t ∧ TakesTrap s t x 0x03)) ∧
    ((s.took f.io).csrRead x.core (ctxOf x) num = none →
      (∃ t, exec (.csrrd f) s = .next t ∧ TakesTrap s t x 0x04) ∧ ∃ t, exec (.csrwr f) s = .next t ∧ TakesTrap s t x 0x04)

/-- R187, R188, R195, R214, R236, R291: what CSR reads give, field by field. -/
def Clause.CsrValues : Prop :=
  ∀ (s : State) (c : Fin 96) (k : Fin 4),
    let t := s.ctx c k
    let q := s.core c
    let reads (n : BitVec 12) (p : Word64 → Prop) : Prop := ∃ v, s.csrRead c k n = some v ∧ p v
    reads 0x000 (fun v => v.extractLsb' 16 48 = 0 ∧ v.getLsbD 15 = t.priv ∧ v.getLsbD 14 = t.qmap ∧ v.extractLsb' 2 12 = 0 ∧
      v.extractLsb' 0 2 = BitVec.ofNat 2 k.val) ∧
    reads 0x001 (fun v => v.toNat = t.asid.toNat) ∧ reads 0x002 (fun v => v.toNat = 64 * t.bptr.toNat) ∧
    reads 0x003 (fun v => v.getLsbD 23 = t.repActive ∧ v.extractLsb' 16 7 = t.repSlot ∧ v.extractLsb' 8 6 = t.repRemain ∧
      v.extractLsb' 0 6 = t.repIndex ∧ v.extractLsb' 24 40 = 0) ∧
    (t.evq.length ≤ 64 → reads 0x004 fun v => (v.extractLsb' 0 7).toNat = t.evq.length ∧ v.extractLsb' 8 24 = t.lost ∧
      v.getLsbD 32 = t.ovf) ∧
    reads 0x005 (fun v => v.extractLsb' 56 8 = t.trapCause ∧ v.extractLsb' 49 7 = t.trapSlot ∧ v.extractLsb' 0 49 = 0) ∧
    reads 0x006 (fun v => v = t.trapVal) ∧ reads 0x100 (fun v => v.toNat = q.ctxpart.toNat) ∧
    (q.matrix.tiles.length < 256 → q.matrix.queue.length ≤ 64 → reads 0x250 fun v => v.extractLsb' 32 32 = q.matrix.retired ∧
      (v.extractLsb' 16 8).toNat = q.matrix.tiles.length ∧ (v.extractLsb' 0 7).toNat = q.matrix.queue.length) ∧
    (q.poolS + q.poolA + q.poolE = 96 → reads 0x260 fun v => (v.extractLsb' 0 8).toNat = q.poolS ∧
      (v.extractLsb' 8 8).toNat = q.poolA ∧ (v.extractLsb' 16 8).toNat = q.poolE) ∧
    reads 0x320 (fun v => v.toNat = 8192 * q.ttbase.toNat) ∧
    reads 0x361 (fun v => v.extractLsb' 32 32 = q.eccUe ∧ v.extractLsb' 0 32 = q.eccCe) ∧
    s.csrRead c k 0x007 = none ∧ s.csrRead c k 0x200 = none

/-- R191, R196, R195: TRAP takes the trap whose cause is IMM10[7:0], TRAPVAL taking a.  ERET needs PRIV and an aligned address:
it resumes the TRAPPED context that a names, at the block b names, or at the trapped block when port B is unused, and delivers 0;
it delivers 1 when the context named is not TRAPPED. -/
def Clause.TrapAndReturn : Prop :=
  (∀ (f : FC) (s : State) (b : KBlock), KReady s f.io b → s.kClean b f.io →
    let x := s.clk.focus
    let t0 := s.ctx x.core (ctxOf x)
    let a := (s.kin b f.io .a).val
    let p := (s.kin b f.io .b).val
    let k := Fin.ofNat 4 a.toNat
    (∃ t, exec (.trap f) s = .next t ∧ TakesTrap s t x (f.imm.extractLsb' 0 8) ∧
      (f.a.used = true → (t.ctx x.core (ctxOf x)).trapVal = a)) ∧
    (t0.priv = false → ∃ t, exec (.eret f) s = .next t ∧ TakesTrap s t x 0x03) ∧
    (t0.priv = true → f.b.used = true → p.toNat % 64 ≠ 0 → ∃ t, exec (.eret f) s = .next t ∧ TakesTrap s t x 0x02) ∧
    (t0.priv = true → (f.b.used = true → p.toNat % 64 = 0) → 4 ≤ a.toNat ∨ (s.ctx x.core k).st ≠ .trapped →
      exec (.eret f) s = .next (s.kanswers f.io 1 ⟨1, false⟩)) ∧
    (t0.priv = true → a.toNat < 4 → (s.ctx x.core k).st = .trapped →
      (f.b.used = false →
        exec (.eret f) s = .next (((s.took f.io).resumeTrapped x.core k none).kplace x 1 (some ⟨0, false⟩))) ∧
      (f.b.used = true → p.toNat % 64 = 0 → p.toNat < 2 ^ 54 →
        exec (.eret f) s = .next (((s.took f.io).resumeTrapped x.core k (some (p.setWidth 54))).kplace x 1 (some ⟨0, false⟩))))) ∧
  ∀ (s : State) (c : Fin 96) (k : Fin 4) (addr : Option (BitVec 54)),
    let t0 := s.ctx c k
    let t := (s.resumeTrapped c k addr).ctx c k
    t.st = .run ∧ t.blk = none ∧ t.bptr = (addr.map fun a => a.extractLsb' 6 48).getD t0.bptr ∧
    (addr = none → t.repActive = t0.repActive ∧ t.repIndex = t0.repIndex ∧ t.repRemain = t0.repRemain) ∧
    t.trapCause = t0.trapCause ∧ t.priv = t0.priv ∧ t.evq = t0.evq ∧ (s.resumeTrapped c k addr).mem = s.mem ∧
    ∃ n, 1 ≤ n ∧ (s.clk.now + n, Instr.blockFetch c k t.gen) ∈ (s.resumeTrapped c k addr).clk.pending

/-- R196: WFE delivers 1 with a record in the queue and 0 after a cycles without one, at once for a limit of 0; EVPOP waits for a
record and delivers the word it names, popping the record when P is set.
Where the manual leaves it open this follows the model (log 87). -/
def Clause.Waits : Prop :=
  (∀ (f : FC) (s : State) (b : KBlock), KReady s f.io b → s.kClean b f.io →
    let x := s.clk.focus
    let t0 := s.ctx x.core (ctxOf x)
    let a := (s.kin b f.io .a).val
    (t0.evq ≠ [] → exec (.wfe f) s = .next (s.kanswers f.io 1 ⟨1, false⟩)) ∧
    (t0.evq = [] → a = 0 → exec (.wfe f) s = .next (s.kanswers f.io 1 ⟨0, false⟩)) ∧
    (t0.evq = [] → a ≠ 0 → ∃ t q, exec (.wfe f) s = .next t ∧ t.kblk x = some q ∧
      q.waits = b.waits ++ [⟨x.slot, s.clk.ids, .event (s.clk.now + a.toNat)⟩] ∧ t.mem = s.mem ∧
      (s.clk.now + a.toNat, Instr.wfeTimeout x.core (ctxOf x) x.slot t0.gen) ∈ t.clk.pending) ∧
    ∃ t q, exec (.evpop f) s = .next t ∧ t.kblk x = some q ∧ t.mem = s.mem ∧
      q.waits = b.waits ++ [⟨x.slot, s.clk.ids, .record (f.imm.extractLsb' 0 2).toNat (f.imm.getLsbD 2)⟩]) ∧
  (∀ (s : State) (c : Fin 96) (k : Fin 4) (i : Fin 128) (id w : Nat) (p : Bool) (r : Record) (rest : List Record),
    (s.ctx c k).evq = r :: rest →
    let t := s.kpoll c k ⟨i, id, .record w p⟩
    (t.ctx c k).evq = (if p then rest else r :: rest) ∧
    ∀ q, (t.ctx c k).blk = some q → (∀ v ∈ q.waits, v.id ≠ id) ∧
      ∀ e ∈ q.slots[i].rob, e.id = id → e.res = some ⟨r.extractLsb' (64 * w) 64, false⟩) ∧
  ∀ (s : State) (c : Fin 96) (k : Fin 4) (b : KBlock) (w : KWait) (d : Nat),
    (s.ctx c k).blk = some b → w ∈ b.waits → w.what = .event d → d ≤ s.clk.now → (∀ v ∈ b.waits, v.slot = w.slot → v = w) →
    (s.ctx c k).evq = [] →
    ∃ t q, exec (.wfeTimeout c k w.slot (s.ctx c k).gen) s = .next t ∧ (t.ctx c k).blk = some q ∧ t.mem = s.mem ∧ w ∉ q.waits ∧
      ∀ e ∈ q.slots[w.slot].rob, e.id = w.id → e.res = some ⟨0, false⟩

/-- R188: a record enters a context's queue of 64 behind the records of earlier cycles, and those of one cycle stand in the
order of their posters, core, region, slot; one that finds the queue full is lost, which sets OVF and counts in LOST. -/
def Clause.EventQueue : Prop :=
  ∀ (s : State) (c : Fin 96) (k : Fin 4) (r q : Record),
    let t0 := s.ctx c k
    let one := s.pushEvent c k r true
    let poster (r : Record) : Nat := 1024 * (8 * (r.extractLsb' 52 4).toNat + (r.extractLsb' 49 3).toNat) +
      128 * (r.extractLsb' 41 3).toNat + (r.extractLsb' 57 7).toNat
    t0.evAt ≠ s.clk.now →
    (t0.evq.length < 64 → (one.ctx c k).evq = t0.evq ++ [r] ∧ (one.ctx c k).ovf = t0.ovf ∧ (one.ctx c k).lost = t0.lost) ∧
    (t0.evq.length = 64 → (one.ctx c k).evq = t0.evq ∧ (one.ctx c k).ovf = true ∧
      (one.ctx c k).lost = if t0.lost = 0xFFFFFF then t0.lost else t0.lost + 1) ∧
    (t0.evq.length < 63 → ((one.pushEvent c k q true).ctx c k).evq =
      t0.evq ++ if poster q < poster r then [q, r] else [r, q])

/-- R302: a context asked to stop does so while it fetches, at a wait of WFE or EVPOP, or between two repetitions of a REP; the
block in progress is not committed. -/
def Clause.ContextStops : Prop :=
  ∀ (s : State) (c : Fin 96) (k : Fin 4),
    let t0 := s.ctx c k
    t0.st = .run → t0.stopReq = true →
    (t0.blk = none ∨ ∃ b, t0.blk = some b ∧ ((∃ w ∈ b.waits, (∃ d, w.what = .event d) ∨ ∃ n p, w.what = .record n p) ∨
      ∃ r ∈ b.reps, r.shown = true ∧ r.wait = none)) →
    ∃ t, exec (.contextStop c k) s = .next t ∧ (t.ctx c k).st = .stopped ∧ (t.ctx c k).blk = none ∧ t.mem = s.mem ∧
      (t.ctx c k).bptr = t0.bptr ∧ (t.core c).sregs = (s.core c).sregs ∧ (t.ctx c k).evq = t0.evq ∧
      (t.ctx c k).repIndex = t0.repIndex ∧ (t.ctx c k).repRemain = t0.repRemain

/-- R197: PRCW traps with ALIGN on a misaligned address, answers 1 when the region is not MAPPED, 2 when the context is not its
owner, 4 when a slot would exceed 127, and otherwise reads its words from b on.  PRCW.S sets the exit value, or answers 5 when it
is set already; behind a PRCW of its core to the region it waits for its turn. -/
def Clause.Rewrites : Prop :=
  ∀ (f : FC) (s : State) (b : KBlock), KReady s f.io b → s.kClean b f.io →
    let x := s.clk.focus
    let a := (s.kin b f.io .a).val
    let p := (s.kin b f.io .b).val
    let r := Fin.ofNat 8 (a.extractLsb' 11 3).toNat
    let n : Nat := (a.extractLsb' 7 4).toNat + 1
    let slot : Nat := (a.extractLsb' 0 7).toNat
    let g := s.region x.core r
    let mine : Prop := ∃ q, s.cfg g.handle = some q ∧ q.core = x.core ∧ q.ctx = ctxOf x
    let tells (i : Instr) (v : Word64) : Prop := exec i s = .next (s.kanswers f.io 1 ⟨v, false⟩)
    (p.toNat % 8 ≠ 0 → ∃ t, exec (.prcw f) s = .next t ∧ TakesTrap s t x 0x02) ∧
    (p.toNat % 8 = 0 → g.st ≠ .mapped → tells (.prcw f) 1) ∧
    (p.toNat % 8 = 0 → g.st = .mapped → ¬ mine → tells (.prcw f) 2) ∧
    (p.toNat % 8 = 0 → g.st = .mapped → mine → 127 < slot + n - 1 → tells (.prcw f) 4) ∧
    (p.toNat % 8 = 0 → g.st = .mapped → mine → slot + n - 1 ≤ 127 → ∃ t q, exec (.prcw f) s = .next t ∧
      t.accs = s.accs ++ [q] ∧ q.kind = .kwords a ∧ q.addr = p ∧ q.wr = false ∧ q.asid = (s.ctx x.core (ctxOf x)).asid ∧
      q.pieces.map (fun u => (u.va, u.len)) = (List.range n).map (fun i => (p + BitVec.ofNat 64 (8 * i), 8)) ∧
      t.mem = s.mem ∧ t.region x.core r = g) ∧
    (let first : Prop := ∀ b ∈ s.accs, prcwRegion b.kind = some r → b.agent.core ≠ x.core
     (first → g.st ≠ .mapped → tells (.prcwS f) 1) ∧ (first → g.st = .mapped → ¬ mine → tells (.prcwS f) 2) ∧
     (first → g.st = .mapped → mine → g.exitV ≠ none → tells (.prcwS f) 5) ∧
     (first → g.st = .mapped → mine → g.exitV = none → exec (.prcwS f) s =
       .next (((s.took f.io).onRegion x.core r fun q => { q with exitV := some (p.extractLsb' 0 2) }).kplace x 1
         (some ⟨0, false⟩))) ∧
     (¬ first → ∃ t q, exec (.prcwS f) s = .next t ∧ t.accs = s.accs ++ [q] ∧ q.id = s.clk.ids ∧
       q.kind = .kexit a (p.extractLsb' 0 2) ∧ q.stage = .late [] ∧
       (s.clk.now + 1, Instr.lateResultArrival q.id) ∈ t.clk.pending ∧ t.region x.core r = g))

/-- R197, R76: the word that PRCW has read goes into the region's slot at the end of the cycle and after the earlier PRCWs to the
region, and the instruction there begins afresh; when the block then fails a check the region enters FAULTED and the status is 3.
Where the manual leaves it open this follows the model (log 76). -/
def Clause.RewriteApplied : Prop :=
  ∀ (s : State) (a : Access) (c : Fin 96) (k : Fin 4) (j : Fin 128) (d w : Word64) (q : Cfg),
    let r := Fin.ofNat 8 (d.extractLsb' 11 3).toNat
    let i : Fin 128 := Fin.ofNat 128 (d.extractLsb' 0 7).toNat
    let g := s.region c r
    let blk := s.mappedBlock q c r
    let whole := ({ blk with words := blk.words.set i.val w } : BlockCtx).failures
    s.acc a.id = some a → a.agent = .ctx c k j (s.ctx c k).gen → a.kind = .kwords d → s.prcwBefore a = false →
    a.data.length = 8 → a.bads = [false] → BitVec.ofNat 64 (bytesNat a.data) = w →
    d.extractLsb' 7 4 = 0 → g.st = .mapped → s.cfg g.handle = some q → q.core = c → q.ctx = k → g.hasK (i.val / 8) = true →
    g.ex0 + g.w ≤ 8 → g.ey0 + g.h ≤ 4 → w ≠ (s.slot (siteOf c r i)).word →
    (a.stage = .late [] → exec (.lateResultArrival a.id) s =
      .next ((s.onAcc a.id fun a => { a with stage := .late [Emit.none] }).soon (.lateResultArrival a.id))) ∧
    (a.stage = .late [Emit.none] → ∃ t, exec (.lateResultArrival a.id) s = .next t ∧ t.acc a.id = none ∧
      (t.slot (siteOf c r i)).word = w ∧ (t.slot (siteOf c r i)).run = .idle ∧
      (∀ m : Fin 128, m ≠ i → g.hasK (m.val / 8) = true → (t.slot (siteOf c r m)).word = (s.slot (siteOf c r m)).word) ∧
      (t.region c r).st = (if whole = [] then .mapped else .faulted) ∧
      ∀ b, (t.ctx c k).blk = some b → ∀ e ∈ b.slots[j].rob, e.id = a.id →
        e.res = some ⟨if whole = [] then 0 else 3, false⟩)

/-- R196, R374, R373, R284: LAUNCH asks for the configuration of the image a under the context's ASID: a held one enters its
launch, owned by this context and after the context's posted writes, and its handle is delivered; one already queued or running
gives 0; an image not known yet gets a handle given to no configuration since reset.
Where the manual leaves it open this follows the model (log 19, 83). -/
def Clause.Launches : Prop :=
  ∀ (f : FC) (s : State) (b : KBlock), KReady s f.io b → s.kClean b f.io →
    let x := s.clk.focus
    let asid := (s.ctx x.core (ctxOf x)).asid
    let image := (s.kin b f.io .a).val
    let enters (t : State) (h : Word64) : Prop := t.kanswered x ⟨h, false⟩ ∧ t.mem = s.mem ∧ ∃ q, t.cfg h = some q ∧
      q.image = image ∧ q.asid = asid ∧ q.core = x.core ∧ q.ctx = ctxOf x ∧ q.st = .queued ∧ q.queuedAt = s.clk.now ∧
      q.after = s.kreleases x.core (ctxOf x) ∧
      if q.cached then Act.event (.launchAging h) ∈ t.clk.agenda else ∃ a ∈ t.accs, a.agent = .image h ∧ a.stage = .walk
    (∀ g, s.named image asid = some g → s.cfg g.handle = some g → g.st = .held →
      ∃ t, exec (.launch f) s = .next t ∧ enters t g.handle) ∧
    (∀ g, s.named image asid = some g → g.st ≠ .held → exec (.launch f) s = .next (s.kanswers f.io 1 ⟨0, false⟩)) ∧
    (s.named image asid = none → s.kiln.cfgs.length < 256 → s.kiln.handles.length + 1 < 2 ^ 64 →
      (∀ g ∈ s.kiln.cfgs, g.handle ∈ s.kiln.handles) →
      ∃ t h, exec (.launch f) s = .next t ∧ h ≠ 0 ∧ h ∉ s.kiln.handles ∧ t.kiln.handles = s.kiln.handles ++ [h] ∧ enters t h)

/-- R359, R196: EGARM needs PRIV; it answers 1 when the queue is armed, 2 for a malformed record, and otherwise arms the queue
with the digests of the record and answers 0.
Where the manual leaves it open this follows the model (log 88). -/
def Clause.Arms : Prop :=
  ∀ (f : FC) (s : State) (b : KBlock), KReady s f.io b → s.kClean b f.io →
    let x := s.clk.focus
    let a := (s.kin b f.io .a).val.toNat
    let priv := (s.ctx x.core (ctxOf x)).priv
    let n : Nat := (s.mem.byte a).toNat
    let good : Prop := 1 ≤ n ∧ n ≤ 8 ∧ (∀ j, 1 ≤ j → j < 64 → s.mem.byte (a + j) = 0) ∧
      ∀ j, 64 + 48 * n ≤ j → j < 512 → s.mem.byte (a + j) = 0
    (priv = false → ∃ t, exec (.egarm f) s = .next t ∧ TakesTrap s t x 0x03) ∧
    (priv = true → s.egress.armed ≠ none → exec (.egarm f) s = .next (s.kanswers f.io 1 ⟨1, false⟩)) ∧
    (priv = true → s.egress.armed = none → a % 64 ≠ 0 → exec (.egarm f) s = .next (s.kanswers f.io 1 ⟨2, false⟩)) ∧
    (priv = true → s.egress.armed = none → a % 64 = 0 → a + 512 ≤ 0x3000000000 →
      (∀ i, i < 8 → s.mem.isPoison (a + 64 * i) = false ∧ s.mem.isUe (a + 64 * i) = false) →
      (good → ∃ t, exec (.egarm f) s = .next t ∧ t.kanswered x ⟨0, false⟩ ∧ t.mem = s.mem ∧
        t.egress = { s.egress with
          armed := some ((List.range n).map fun i => BitVec.ofNat 384 (s.mem.nat (a + 64 + 48 * i) 48)) }) ∧
      (¬ good → ∃ t, exec (.egarm f) s = .next t ∧ t.kanswered x ⟨2, false⟩ ∧ t.mem = s.mem ∧ t.egress = s.egress))

/-- R193, R192, R275: a store of a context writes its 8 bytes and its completion token is 0; a load's bytes come as its value, and
one that is refused for good traps with ACCESS and the address. -/
def Clause.ContextAccesses : Prop :=
  ∀ (s : State) (a : Access) (c : Fin 96) (k : Fin 4) (i : Fin 128) (b : KBlock),
    a.agent = .ctx c k i (s.ctx c k).gen → (s.ctx c k).blk = some b → (∀ r ∈ b.reps, r.wait ≠ some a.id) → s.acc a.id = some a →
    let given (t : State) (v : Word64) : Prop := ∃ q, (t.ctx c k).blk = some q ∧
      ∀ e ∈ q.slots[i].rob, e.id = a.id → e.res = some ⟨v, false⟩
    (∀ p pa v, LastUnit s a p pa → a.kind = .kstore v → a.data = natBytes 8 v.toNat → p.len = 8 → a.poison = false → s.noRings →
      s.leaves c pa = false → ∃ t, exec (.accessPerform a.id) s = .next t ∧ Holds t pa (natBytes 8 v.toNat) ∧
        SameBut s t pa 8 ∧ t.acc a.id = none ∧ given t 0) ∧
    (∀ p pa, LastUnit s a p pa → a.kind = .kload → a.data = [] → a.bads = [] → p.len = 8 →
      ∃ t q, exec (.accessPerform a.id) s = .next t ∧ t.mem = s.mem ∧ t.acc a.id = some q ∧ q.stage = .late [] ∧
        q.data = s.readBytes pa 8 ∧ q.bads = [s.mem.isPoison pa || s.mem.isUe pa] ∧
        ∃ n, 1 ≤ n ∧ (s.clk.now + n, Instr.lateResultArrival a.id) ∈ t.clk.pending) ∧
    (∀ outs, a.stage = .late outs → a.kind = .kload → a.data.length = 8 → a.bads = [false] →
      ∃ t, exec (.lateResultArrival a.id) s = .next t ∧ t.mem = s.mem ∧ t.acc a.id = none ∧
        given t (BitVec.ofNat 64 (bytesNat a.data))) ∧
    (∀ p e, a.stage = .walk → a.held = false → a.kind = .kload → a.pieces = [p] → p.pa = none →
      s.walkFree a = true →
      (s.translate (s.accRec a 0x40 0 false 0) c a.asid true a.wr false a.column p.va p.len).2 = .error e → 5 < e.toNat →
      ∃ t, exec (.walkComplete a.id) s = .next t ∧ (t.ctx c k).st = .trapped ∧ (t.ctx c k).trapCause = 0x09 ∧
        (t.ctx c k).trapVal = p.va ∧ (t.ctx c k).trapSlot = BitVec.ofNat 7 i.val ∧ t.acc a.id = none)

/-- R196, R187, R188, R236, R264, R297, R309, R310, R113: what a write of each plain CSR changes; a write without the PRIV that
its number needs changes nothing.
Where the manual leaves it open this follows the model (log 85). -/
def Clause.CsrWrites : Prop :=
  ∀ (s : State) (c : Fin 96) (w : Writer) (v : Word64),
    let writes (num : BitVec 12) (t : State) : Prop := exec (.csrWrite c w num v) s = .next t
    let k := s.core c
    let t0 := s.ctx c w.ctx
    (∀ num : BitVec 12, (0x100 ≤ num.toNat ∧ num.toNat < 0x200) ∨ 0x300 ≤ num.toNat → w.priv = false → w.sysctl = false →
      writes num s) ∧
    writes 0x240 (s.onCore c fun q => { q with snapwin := v.extractLsb' 0 16 }) ∧
    writes 0x004 (s.onCtx c w.ctx fun q => { q with ovf := t0.ovf && !v.getLsbD 32 }) ∧
    (w.sysctl = false → writes 0x001 s ∧ writes 0x000 (s.onCtx c w.ctx fun q => { q with
      qmap := if allotIn k.ctxpart w.ctx.val = 32 then v.getLsbD 14 else t0.qmap })) ∧
    (w.sysctl = true → writes 0x001 (s.onCtx c w.ctx fun q => { q with asid := v.extractLsb' 0 12 })) ∧
    writes 0x250 s ∧ writes 0x260 s ∧ writes 0x243 s ∧
    (w.priv = true →
      writes 0x320 (s.onCore c fun q => { q with ttbase := v.extractLsb' 13 35 }) ∧
      writes 0x331 { s with col := { s.col with base := v.extractLsb' 12 36, logcap := v.extractLsb' 0 4 } } ∧
      writes 0x360 (s.onCore c fun q => { q with drate := v.extractLsb' 8 8, srate := v.extractLsb' 0 8 }) ∧
      writes 0x361 (s.onCore c fun q => { q with
        eccUe := k.eccUe &&& ~~~(v.extractLsb' 32 32), eccCe := k.eccCe &&& ~~~(v.extractLsb' 0 32) }) ∧
      (∀ n : BitVec 12, 0x310 ≤ n.toNat → n.toNat ≤ 0x314 → writes n (s.later 1 (.guardMapWrite c w n v))) ∧
      writes 0x350 (s.later 1 (.dbgCtlWrite c w v)) ∧
      (s.egress.armed ≠ none → writes 0x381 s) ∧
      (s.egress.armed = none → writes 0x381 { s with egress := { s.egress with
        logsz := v.extractLsb' 60 4, port := v.extractLsb' 54 4, addr := v.extractLsb' 4 50 } }) ∧
      (s.dev.lock = true → ∀ n : BitVec 12, 0x400 ≤ n.toNat → n.toNat < 0x800 → writes n s))

/-- R185: a core's 64 scalar registers are allotted by CTXPART, 0, 8, 16 or 32 to each context, from the sum of the allotments
of the contexts before it; it reads back, its reserved bits zero, and reset leaves 16 to each. A write whose allotments come to
more than 64 registers, or that changes the allotment of a context that is not STOPPED, is ignored; any other takes effect, and
the contents of the registers are not known after it. -/
def Clause.Allotments : Prop :=
  ∀ (s : State) (c : Fin 96) (w : Writer) (v : Word64),
    let new := v.extractLsb' 0 8
    let old := (s.core c).ctxpart
    let size (p : BitVec 8) (k : Nat) : Nat := match (p.extractLsb' (2 * k) 2).toNat with
      | 0 => 0
      | 1 => 8
      | 2 => 16
      | _ => 32
    let total : Nat := size new 0 + size new 1 + size new 2 + size new 3
    let moves (k : Fin 4) : Prop := size new k.val ≠ size old k.val
    (s.core c).sregs.toList.length = 64 ∧
    (∀ k : Fin 4, (s.core c).allot k = size old k.val ∧
      (s.core c).regBase k = ((List.range k.val).map (size old)).sum) ∧
    (∀ k, s.csrRead c k 0x100 = some (0#56 ++ old)) ∧ (State.reset.core c).ctxpart = 0b10101010 ∧
    (w.priv = false → w.sysctl = false → exec (.ctxpartWrite c w v) s = .next s) ∧
    (64 < total → exec (.ctxpartWrite c w v) s = .next s) ∧
    (∀ k, moves k → (s.ctx c k).st ≠ .stopped → exec (.ctxpartWrite c w v) s = .next s) ∧
    (w.priv = true ∨ w.sysctl = true → total ≤ 64 → (∀ k, moves k → (s.ctx c k).st = .stopped) → new ≠ old →
      ∃ t rs, exec (.ctxpartWrite c w v) s = .next t ∧ t.core c = { s.core c with ctxpart := new, sregs := rs } ∧
        (∀ d, d ≠ c → t.core d = s.core d) ∧ t.mem = s.mem)

/-- R198, R199, R200: a GUARD_MAP write takes effect unless it would change the tenant of an element of a region that is not
FREE, of a context that is not STOPPED, or of an island at work.
Where the manual leaves it open this follows the model (log 85). -/
def Clause.GuardMap : Prop :=
  ∀ (s : State) (c : Fin 96) (w : Writer) (v : Word64) (ey : Fin 4),
    let k := s.core c
    let rowNo : BitVec 12 := BitVec.ofNat 12 (0x310 + ey.val)
    let used (ex : Nat) : Prop := ∃ r : Fin 8, (s.region c r).st ≠ .free ∧
      ∃ i ∈ (s.region c r).ks, (s.region c r).elem i = elemNo ex ey.val
    let rowMoves (ex : Nat) : Prop := v.extractLsb' (2 * ex) 2 ≠ k.guardRow[ey].extractLsb' (2 * ex) 2
    let ctxMoves (x : Fin 4) : Prop := v.extractLsb' (2 * x.val) 2 ≠ k.guardPt.extractLsb' (2 * x.val) 2
    (w.priv = false → w.sysctl = false → ∀ n, exec (.guardMapWrite c w n v) s = .next s) ∧
    (∀ ex, ex < 8 → rowMoves ex → used ex → exec (.guardMapWrite c w rowNo v) s = .next s) ∧
    (w.priv = true → (∀ ex, ex < 8 → rowMoves ex → ¬ used ex) → exec (.guardMapWrite c w rowNo v) s =
      .next (s.onCore c fun q => { q with guardRow := q.guardRow.set ey (v.extractLsb' 0 16) })) ∧
    (∀ x, ctxMoves x → (s.ctx c x).st ≠ .stopped → exec (.guardMapWrite c w 0x314 v) s = .next s) ∧
    (v.extractLsb' 8 2 ≠ k.guardPt.extractLsb' 8 2 → k.matrix.queue ≠ [] → exec (.guardMapWrite c w 0x314 v) s = .next s) ∧
    (v.extractLsb' 10 2 ≠ k.guardPt.extractLsb' 10 2 → k.streamer.xfers ≠ [] → exec (.guardMapWrite c w 0x314 v) s = .next s) ∧
    (w.priv = true → (∀ x, ctxMoves x → (s.ctx c x).st = .stopped) → k.matrix.queue = [] → k.streamer.xfers = [] →
      exec (.guardMapWrite c w 0x314 v) s = .next (s.onCore c fun q => { q with guardPt := v.extractLsb' 0 12 }))

/-- R267: a TLBINV write drops, on every core, every cached translation, those of an ASID, or those of the pages that hold an
address; nothing else changes. -/
def Clause.Invalidations : Prop :=
  ∀ (s : State) (w : Writer) (asid : BitVec 12) (vpn : BitVec 38),
    let drops (i : Instr) (gone : TlbEntry → Prop) : Prop := ∃ t, exec i s = .next t ∧
      (∀ d : Fin 96, t.core d = { s.core d with tlb := (t.core d).tlb } ∧
        ∀ e, e ∈ (t.core d).tlb ↔ e ∈ (s.core d).tlb ∧ ¬ gone e) ∧ t.mem = s.mem ∧ t.accs = s.accs ∧ t.kiln = s.kiln
    (w.priv = false → w.sysctl = false →
      drops (.tlbinvAll w) (fun _ => False) ∧ drops (.tlbinvAsid w asid) (fun _ => False) ∧
        drops (.tlbinvPage w asid vpn) fun _ => False) ∧
    (w.priv = true → drops (.tlbinvAll w) (fun _ => True) ∧ drops (.tlbinvAsid w asid) (fun e => e.asid = asid) ∧
      drops (.tlbinvPage w asid vpn) fun e => e.asid = asid ∧ e.page = if e.big then vpn.toNat / 512 else vpn.toNat)

/-- R293, R316, R390, R307: FW_CTL takes its fields unless HCORE is above 95; the page-table CSRs take theirs while the table
and its overflow bits each lie in one column and LOGN and LOGH are in range; a lock of the DMA windows stays until reset;
DBG_CTL halts the fabric and the contexts it names.
Where the manual leaves it open this follows the model (log 85). -/
def Clause.DeviceCsrs : Prop :=
  ∀ (s : State) (w : Writer) (v : Word64), w.priv = true →
    let d := s.dev
    let oneCol (a n : Nat) : Prop := a + n ≤ 0x3000000000 ∧ a / 0x80000000 = (a + n - 1) / 0x80000000
    let good (base : BitVec 36) (h n : BitVec 5) (ovf : BitVec 45) : Prop := 8 ≤ n.toNat ∧ n.toNat ≤ 24 ∧ h.toNat ≤ 20 ∧
      oneCol (4096 * base.toNat) (32 * 2 ^ n.toNat) ∧ oneCol (8 * ovf.toNat) (8 * 2 ^ h.toNat)
    let kvt (num : BitVec 12) (new : Device) : Prop :=
      (good new.kvtBase new.logh new.logn new.kvtOvf → exec (.kvtCsrWrite w num v) s = .next { s with dev := new }) ∧
      (¬ good new.kvtBase new.logh new.logn new.kvtOvf → exec (.kvtCsrWrite w num v) s = .next s)
    kvt 0x370 { d with kvtBase := v.extractLsb' 12 36 } ∧
    kvt 0x371 { d with logh := v.extractLsb' 8 5, logn := v.extractLsb' 0 5 } ∧
    kvt 0x372 { d with kvtOvf := v.extractLsb' 3 45 } ∧
    ((v.extractLsb' 16 7).toNat ≤ 95 → exec (.fwCtlWrite w v) s = .next { s with col := { s.col with
      hctx := v.extractLsb' 23 2, hcore := v.extractLsb' 16 7, window := v.extractLsb' 0 16 } }) ∧
    (95 < (v.extractLsb' 16 7).toNat → exec (.fwCtlWrite w v) s = .next s) ∧
    (v.getLsbD 0 = true → exec (.dmawinLockSet w v) s = .next { s with dev := { d with lock := true } }) ∧
    (v.getLsbD 0 = false → exec (.dmawinLockSet w v) s = .next s) ∧
    ∀ c, exec (.dbgCtlWrite c w v) s = .next (s.onCore c fun k => { k with hfab := v.getLsbD 4, hctx := v.extractLsb' 0 4 })

/-- R302, R303: SAVE of a context that is not in RUN writes its area, leaves it STOPPED with its queue empty and gives RESULT 0;
RESTORE of a STOPPED context from an area of the same allotment takes its registers, BPTR, call stack, trap and queue.
Where the manual leaves it open this follows the model (log 84). -/
def Clause.ContextSwitch : Prop :=
  ∀ (s : State) (c : Fin 96) (w : Writer) (k : Fin 4) (addr : BitVec 48), w.priv = true →
    let a : Nat := addr.toNat / 512 * 512
    let t0 := s.ctx c k
    let n := (s.core c).allot k
    let cfgWord : Word64 := 0#48 ++ BitVec.ofBool t0.priv ++ BitVec.ofBool t0.qmap ++ 0#12 ++ BitVec.ofNat 2 k.val
    let inside : Prop := a + 2560 ≤ 0x3000000000
    (t0.st = .run ∨ ¬ inside → ∃ t, exec (.ctxswSave c w k addr) s = .next t ∧ (t.core c).ctxswResult = 1 ∧ t.mem = s.mem ∧
      t.ctx c k = t0) ∧
    (t0.st ≠ .run → inside → t0.evq.length ≤ 64 → t0.stack.length ≤ 8 → ∃ t, exec (.ctxswSave c w k addr) s = .next t ∧
      (t.core c).ctxswResult = 0 ∧ (t.ctx c k).st = .stopped ∧ (t.ctx c k).evq = [] ∧ (t.core c).sregs = (s.core c).sregs ∧
      SameBut s t a 2560 ∧
      (∀ i, i < n → t.mem.word (a + 8 * i) = (s.core c).sreg k i) ∧ (∀ i, n ≤ i → i < 32 → t.mem.word (a + 8 * i) = 0) ∧
      (t.mem.word (a + 256)).toNat = 64 * t0.bptr.toNat ∧ (t.mem.word (a + 272)).toNat = t0.asid.toNat ∧
      t.mem.word (a + 280) = cfgWord ∧ t.mem.word (a + 288) = t0.trapCause ++ t0.trapSlot ++ 0#49 ∧
      t.mem.word (a + 296) = t0.trapVal ∧ t.mem.word (a + 304) = (if t0.st = .trapped then 2 else 0) ∧
      (∀ i b, t0.stack[i]? = some b → (t.mem.word (a + 312 + 8 * i)).toNat = 64 * b.toNat) ∧
      (t.mem.byte (a + 376)).toNat = t0.stack.length ∧ (t.mem.byte (a + 377)).toNat = n ∧
      ∀ i r, t0.evq[i]? = some r → t.mem.nat (a + 512 + 32 * i) 32 = r.toNat) ∧
    (t0.st ≠ .stopped ∨ ¬ inside → ∃ t, exec (.ctxswRestore c w k addr) s = .next t ∧ (t.core c).ctxswResult = 1 ∧
      t.ctx c k = t0 ∧ t.mem = s.mem) ∧
    (t0.st = .stopped → inside → (∀ i, i < 40 → s.mem.isPoison (a + 64 * i) = false ∧ s.mem.isUe (a + 64 * i) = false) →
      ((s.mem.byte (a + 377)).toNat ≠ n → ∃ t, exec (.ctxswRestore c w k addr) s = .next t ∧ (t.core c).ctxswResult = 1 ∧
        t.ctx c k = t0 ∧ (t.core c).sregs = (s.core c).sregs ∧ t.mem = s.mem) ∧
      ((s.mem.byte (a + 377)).toNat = n → (s.mem.byte (a + 376)).toNat ≤ 8 → ∃ t, exec (.ctxswRestore c w k addr) s = .next t ∧
        (t.core c).ctxswResult = 0 ∧ t.mem = s.mem ∧
        (∀ i, i < n → (s.core c).regBase k + i < 64 → (t.core c).sreg k i = s.mem.word (a + 8 * i)) ∧
        (t.ctx c k).bptr = (s.mem.word (a + 256)).extractLsb' 6 48 ∧ (t.ctx c k).asid = (s.mem.word (a + 272)).extractLsb' 0 12 ∧
        (t.ctx c k).trapVal = s.mem.word (a + 296) ∧ (t.ctx c k).trapCause = (s.mem.word (a + 288)).extractLsb' 56 8 ∧
        (t.ctx c k).st = (if s.mem.word (a + 304) = 2 then .trapped else .stopped) ∧
        (t.ctx c k).stack = (List.range (s.mem.byte (a + 376)).toNat).map fun i => (s.mem.word (a + 312 + 8 * i)).extractLsb' 6
          48))

/-- R302: CLEAR zeroes a context that is not in RUN; STOP asks a running one to stop.
Where the manual leaves it open this follows the model (log 84). -/
def Clause.ContextControl : Prop :=
  ∀ (s : State) (c : Fin 96) (w : Writer) (k : Fin 4), w.priv = true →
    let t0 := s.ctx c k
    (t0.st = .run → ∃ t, exec (.ctxswClear c w k) s = .next t ∧ (t.core c).ctxswResult = 1 ∧ t.ctx c k = t0) ∧
    (t0.st ≠ .run → ∃ t, exec (.ctxswClear c w k) s = .next t ∧ (t.core c).ctxswResult = 0 ∧ (t.ctx c k).st = .stopped ∧
      (∀ i, i < (s.core c).allot k → (s.core c).regBase k + i < 64 → (t.core c).sreg k i = 0) ∧ (t.ctx c k).bptr = 0 ∧
      (t.ctx c k).asid = 0 ∧ (t.ctx c k).stack = [] ∧ (t.ctx c k).evq = [] ∧ (t.ctx c k).repActive = false ∧
      (t.ctx c k).trapCause = 0 ∧ (t.ctx c k).qbind = t0.qbind ∧ t.mem = s.mem) ∧
    (t0.st = .run → ∃ t, exec (.ctxswStop c w k) s = .next t ∧ t.ctx c k = { t0 with stopReq := true } ∧
      (t.core c).ctxswResult = 0) ∧
    (t0.st ≠ .run → ∃ t, exec (.ctxswStop c w k) s = .next t ∧ t.ctx c k = t0 ∧ (t.core c).ctxswResult = 0)

/-- R383: a write of CTXGO by a writer without PRIV changes nothing; of another writer it sets a STOPPED context's BPTR and enters
RUN, its block to be fetched, and is ignored for any other context; CTXGO is write-only and reads as zero. -/
def Clause.ContextStart : Prop :=
  ∀ (s : State) (c : Fin 96) (w : Writer) (v : Word64),
    let k : Fin 4 := Fin.ofNat 4 (v.extractLsb' 62 2).toNat
    let t0 := s.ctx c k
    (w.priv = false → w.sysctl = false → exec (.ctxgo c w v) s = .next s) ∧
    (w.priv = true → t0.st = .stopped → ∃ t, exec (.ctxgo c w v) s = .next t ∧ (t.ctx c k).st = .run ∧
      (t.ctx c k).bptr = v.extractLsb' 6 48 ∧ t.mem = s.mem ∧ (t.core c).sregs = (s.core c).sregs ∧
      (∀ d, d ≠ c → t.core d = s.core d) ∧ (∀ j, j ≠ k → t.ctx c j = s.ctx c j) ∧
      ∃ n, 1 ≤ n ∧ (s.clk.now + n, Instr.blockFetch c k (t.ctx c k).gen) ∈ t.clk.pending) ∧
    (w.priv = true → t0.st ≠ .stopped → exec (.ctxgo c w v) s = .next s) ∧ ∀ j, s.csrRead c j 0x341 = some 0

/-- R292, R293, R296, R298: a record opens a window or joins the open one, merging with an entry of its kind; a window that closes
is written as a list with LIST READY, or waits while a list awaits RESUME; a parked record is offered again while its access is
still parked.
Where the manual leaves it open this follows the model (log 78). -/
def Clause.CollectorWindows : Prop :=
  (∀ (s : State) (r : CRec),
    let first : FEntry := ⟨r, 1, if r.parked then [r] else [], s.clk.now⟩
    let same (q : CRec) : Prop := r.parked = q.parked ∧ r.asid = q.asid ∧ r.cause = q.cause ∧
      if r.parked then r.addr = q.addr else r.aux = q.aux ∧ r.place = q.place
    (s.col.open_ = none → exec (.collectorRecord r) s = .next { s with col := { s.col with open_ := some (s.clk.now,
      [first]) } }) ∧
    (∀ t0 es, s.col.open_ = some (t0, es) → (∀ e ∈ es, ¬ same e.first) → es.Pairwise (fun a b => a.first.key ≤ b.first.key) →
      ∃ fs, exec (.collectorRecord r) s = .next { s with col := { s.col with open_ := some (t0, fs) } } ∧
        fs.Perm (first :: es) ∧ fs.Pairwise (fun a b => a.first.key ≤ b.first.key)) ∧
    (∀ t0 l e m, s.col.open_ = some (t0, l ++ e :: m) → same e.first → (∀ q ∈ l ++ m, ¬ same q.first) → e.count < 65535 →
      ∃ f, exec (.collectorRecord r) s = .next { s with col := { s.col with open_ := some (t0, l ++ f :: m) } } ∧
        f.count = e.count + 1 ∧ f.at_ = e.at_ ∧ f.first.wr = (e.first.wr || r.wr) ∧
        f.accs = (if r.parked then e.accs ++ [r] else e.accs) ∧ f.first.place ≤ e.first.place) ∧
    (s.isParked r.acc = true → exec (.parkedReoffer r) s = exec (.collectorRecord r) s) ∧
    (s.isParked r.acc = false → exec (.parkedReoffer r) s = .next s)) ∧
  ∀ (s : State) (t0 : Nat) (es : List FEntry), s.col.open_ = some (t0, es) → s.col.closes s.clk.now = true →
    es.length ≤ s.col.cap →
    (s.col.ready = true → exec .collectorWindowClose s =
      .next { s with col := { s.col with open_ := none, waiting := s.col.waiting ++ [es] } }) ∧
    (s.col.ready = false → s.col.waiting = [] → s.col.base.toNat * 4096 < 0x3000000000 →
      ∃ t, exec .collectorWindowClose s = .next t ∧ t.col.open_ = none ∧ t.col.ready = true ∧ t.col.seq = s.col.seq + 1 ∧
        t.col.nent = BitVec.ofNat 16 es.length ∧ t.col.current = es ∧
        (∀ i e, es[i]? = some e → t.mem.nat (s.col.base.toNat * 4096 + 32 * i) 32 = e.bits.toNat) ∧
        SameBut s t (s.col.base.toNat * 4096) (32 * es.length) ∧
        ∀ hc : s.col.hcore.toNat < 96, let c : Fin 96 := ⟨s.col.hcore.toNat, hc⟩
          let k := Fin.ofNat 4 s.col.hctx.toNat
          (s.ctx c k).evq.length < 64 → s.tookRecord t c k (listRecord (s.col.seq + 1) es.length))

/-- R299, R300: FW_RESUME with the SEQ of the list that awaits it carries out each entry's ACTION: RETRY begins the parked
access afresh, CANCEL ends it with its cause raised in its region, DEFER offers its own record again; one that a pre-emption has
withdrawn takes a CANCEL or DEFER only at its reissue. Any other write does nothing.
Where the manual leaves it open this follows the model (log 74, 78). -/
def Clause.Resume : Prop :=
  ∀ (s : State) (w : Writer) (v : Word64),
    (w.priv = false → w.sysctl = false → exec (.fwResume w v) s = .next s) ∧
    (s.col.ready = false → exec (.fwResume w v) s = .next s) ∧
    (v.extractLsb' 0 16 ≠ s.col.seq → exec (.fwResume w v) s = .next s) ∧
    ∀ (e : FEntry) (r : CRec) (id : Nat) (a : Access) (x : Site) (h : Word64) (n : Nat) (cause : BitVec 8),
      let base := s.col.listAt.toNat * 4096
      let action := ((s.mem.word (base + 8)).extractLsb' 36 2).toNat
      w.priv = true → s.col.ready = true → v.extractLsb' 0 16 = s.col.seq → s.col.current = [e] → s.col.waiting = [] →
      e.accs = [r] → r.acc = id → s.acc id = some a → a.stage = .parked cause → a.agent = .op x h n → a.virt = true →
        base < 0x3000000000 →
      s.mem.isPoison (base + 8) = false → s.mem.isUe (base + 8) = false →
      ∃ t, exec (.fwResume w v) s = .next t ∧ t.col.ready = false ∧ t.col.current = [] ∧ t.mem = s.mem ∧
        (action = 0 → t.acc id = some { a with stage := .walk, held := false } ∧
          ∃ d, 1 ≤ d ∧ (s.clk.now + d, Instr.walkComplete id) ∈ t.clk.pending) ∧
        (1 ≤ action → a.held = true → t.acc id = some { a with stage := .fated cause (action == 1) r } ∧
          t.region x.core x.unit = s.region x.core x.unit) ∧
        (action = 1 → a.held = false → (∀ b ∈ s.accs, b.id = id → b = a) → t.acc id = none ∧
          (cause ≠ 5 → s.holds x h n = true → (s.region x.core x.unit).st ≠ .faulted →
          (s.region x.core x.unit).markFault = false → (t.region x.core x.unit).pend = (s.region x.core x.unit).pend ++
            [⟨x.slot, cause, a.addr, false⟩])) ∧
        (2 ≤ action → a.held = false → t.acc id = some a ∧ Act.event (.collectorRecord r) ∈ t.clk.agenda)

/-- R29, R30, R34, R41, R77, R94, R202: a token reaches the port its producer's target names, behind every entry there; one that
fails parity, or that finds 8 entries, faults the region and does not enter, but at a head-driven slot a void token stands for it;
before a blocked element it waits; the first value at exit sets the exit value, and one that fails parity there faults the region;
a token at an unbound out-link is dropped and counted; a token of an earlier mapping is gone.
Where the manual leaves it open this follows the model (log 59, 60, 109). -/
def Clause.Arrivals : Prop :=
  ∀ (s : State) (x : Site) (t : Target) (tok : Token) (gen : Nat) (n : Stamp),
    let g := s.region x.core x.unit
    let y : Site := ⟨x.core, x.unit, t.idx⟩
    let p := portNamed t.port
    let e : Instr := .tokenArrival x t tok gen n
    let q := ((s.slot y).port p).q
    (g.gen ≠ gen → exec e s = .next s) ∧
    (g.gen = gen → g.st = .mapped →
      (t.isLink = false → s.blockedAt y = true → exec e s = .next (s.later 1 e)) ∧
      (t.isLink = false → s.blockedAt y = false → s.head y = none → tok.parityOk = true → q.length < 8 →
        exec e s = .next (s.onSlot y fun u => u.onPort p fun v => { v with q := v.q ++ [⟨tok, s.clk.now, n.origin⟩] })) ∧
      (t.isLink = false → s.blockedAt y = false → s.head y = none → tok.parityOk = false ∨ 8 ≤ q.length →
        (s.slot y).driven = false → g.markFault = false →
        ∃ u, exec e s = .next u ∧ ((u.slot y).port p).q = q ∧ (u.region x.core x.unit).pend = g.pend ++
          [⟨t.idx, 0x11, 0, true⟩]) ∧
      (t.isLink = false → s.blockedAt y = false → s.head y = none → tok.parityOk = false ∨ 8 ≤ q.length →
        (s.slot y).driven = true → exec e s = .next (s.onSlot y fun u => u.onPort p fun v => { v with
          q := v.q ++ [⟨voidToken zeroLanes 0 causeParity, s.clk.now, ⟨n.origin.pos, some t.idx⟩⟩] })) ∧
      (t.isLink = true → t.slot = 8 → tok.parityOk = true → tok.void = false → tok.eos = false → g.exitV = none →
        exec e s = .next (s.onRegion x.core x.unit fun r => { r with exitV := some ((tok.lane 0).extractLsb' 0 2) })) ∧
      (t.isLink = true → t.slot = 8 → tok.parityOk = true → tok.void = true ∨ tok.eos = true ∨ g.exitV ≠ none →
        exec e s = .next s) ∧
      (t.isLink = true → t.slot = 8 → tok.parityOk = false → (s.slot x).driven = false → s.head x = none → g.markFault = false →
        exec e s = .next (s.onRegion x.core x.unit fun r => { r with pend := g.pend ++ [⟨x.slot, 0x11, 0, true⟩] })) ∧
      (t.isLink = true → t.slot.toNat < 8 → s.boundChan x t.slot.toNat = none → tok.eos = true → exec e s = .next s) ∧
      (t.isLink = true → t.slot.toNat < 8 → s.boundChan x t.slot.toNat = none → tok.eos = false →
        (∀ r ∈ g.guards, r.link ≠ BitVec.ofNat 7 t.slot.toNat) →
        ∃ u r, exec e s = .next u ∧ (u.region x.core x.unit).guards = g.guards ++ [r] ∧ r.count = 1 ∧ r.slot = x.slot ∧
          r.handle = g.handle ∧ r.first = BitVec.ofNat 32 n.made ∧ r.link = BitVec.ofNat 7 t.slot.toNat ∧
            (r.code = 0x30 ∨ r.code = 0x31) ∧
          (r.code = 0x30 ↔ r.sten ≠ r.dten) ∧ u.mem = s.mem ∧
          (s.clk.now + 256, Instr.guardReportPost x.core x.unit (BitVec.ofNat 7 t.slot.toNat)) ∈ u.clk.pending))

/-- R29, R197: a credit that comes back raises the credit of its output by one; while a rewritten output's old target still owes
credits, it pays those, and the last of them gives the output the credits of its new target. -/
def Clause.Credits : Prop :=
  ∀ (s : State) (x : Site) (gen : Nat),
    let g := s.region x.core x.unit
    let u := s.slot x
    (g.gen ≠ gen → ∀ o, exec (.creditReturn x o gen) s = .next s) ∧
    (g.gen = gen → g.st = .mapped →
      (u.hold0 = none → exec (.creditReturn x .t0 gen) s = .next (s.onSlot x fun v => { v with cred0 := u.cred0 + 1 })) ∧
      (u.hold1 = none → exec (.creditReturn x .t1 gen) s = .next (s.onSlot x fun v => { v with cred1 := u.cred1 + 1 })) ∧
      (∀ n, u.hold0 = some (n + 2) → exec (.creditReturn x .t0 gen) s = .next (s.onSlot x fun v => { v with hold0 := some (n + 1)
        })) ∧
      (u.hold0 = some 1 → ∃ t, exec (.creditReturn x .t0 gen) s = .next t ∧ (t.slot x).hold0 = none ∧
        (t.slot x).cred0 = s.credits x (targetOf u.word 38)) ∧
      (∀ h, s.head x = some h → exec (.creditReturn x .drain gen) s =
        .next (s.onHead x fun v => { v with drainCred := h.drainCred + 1 })))

/-- R37, R38, R276, R29, R36: a token at the out-link of a long channel passes into the buffer once the posted writes it
releases are visible and an entry is free: its payload, its sideband and zeros stand in the next entry's 128 bytes, and its
credit returns to the slot that sent it, where that mapping still stands; the oldest of the buffer enters the port of its
in-link when that has room, and is dropped where the block does not enable the in-link. -/
def Clause.LongChannels : Prop :=
  ∀ (s : State) (h : Word64) (g : Cfg) (i : Nat) (c : Chan), s.cfg h = some g → g.chans[i]? = some c →
    let step (t : State) : Prop := exec (.longChannelDelivery h i) s = .next t
    (∀ (k : ChanTok) (rest : List ChanTok), c.out = k :: rest → c.buf = [] → 0 < c.depth → (∀ a ∈ k.after, s.acc a = none) →
      ∃ t q, step t ∧ t.chan h i = some q ∧ q.out = rest ∧ q.buf = [k.tok] ∧ q.moving = false ∧ q.next = (c.next + 1) % c.depth ∧
        (g.bufferAddr c c.next = none → t.mem = s.mem) ∧
        (∀ a, g.bufferAddr c c.next = some a → SameBut s t a 128 ∧ Holds t a k.tok.bytes ∧
          t.mem.nat (a + 64) 4 = k.tok.sideWord.toNat ∧ ∀ j, 68 ≤ j → j < 128 → t.mem.byte (a + j) = 0) ∧
        ∀ (x : Creditor) (pl : Place), k.src = some x → g.places[x.entry]? = some pl → pl.st = .placed →
          let r := s.region pl.core pl.region
          r.st = .mapped → r.handle = h → r.mapAt = x.mapAt →
          (s.clk.now + 2, Instr.creditReturn ⟨pl.core, pl.region, x.slot⟩ x.out r.gen) ∈ t.clk.pending) ∧
    (∀ (k : ChanTok) (rest : List ChanTok) (a : Nat), c.out = k :: rest → c.buf = [] → a ∈ k.after → s.acc a ≠ none →
      ∃ t q, step t ∧ t.chan h i = some q ∧ q.out = c.out ∧ q.buf = [] ∧ q.moving = false) ∧
    (∀ (k : Token) (rest : List Token) (pl : Place), c.out = [] → c.buf = k :: rest → c.dkind = 0 → g.places[c.dent]? = some pl →
      pl.st = .placed → (s.region pl.core pl.region).st = .mapped →
      let y : Site := ⟨pl.core, pl.region, c.dslot⟩
      let r := s.region pl.core pl.region
      let port := (s.slot y).port c.dport
      ((r.hdr.extractLsb' 96 8).getLsbD c.dlink = true → r.hasK (c.dslot.val / 8) = true →
        port.feeder = .link (BitVec.ofNat 3 c.dlink) → (s.elem y.core (s.elemAt y)).blocked = false → s.head y = none →
        k.parityOk = true → (port.q.length < 8 → ∃ t q, step t ∧ t.chan h i = some q ∧ q.buf = rest ∧
          ((t.slot y).port c.dport).q = port.q ++ [⟨k, s.clk.now, .none⟩]) ∧
        (8 ≤ port.q.length → ∃ t q, step t ∧ t.chan h i = some q ∧ q.buf = c.buf ∧ t.slot y = s.slot y)) ∧
      ((r.hdr.extractLsb' 96 8).getLsbD c.dlink = false → (∀ q ∈ r.guards, q.link ≠ BitVec.ofNat 7 (8 + c.dlink)) →
        ∃ t q n, step t ∧ t.chan h i = some q ∧ q.buf = rest ∧ (t.region pl.core pl.region).guards = r.guards ++ [n] ∧
          n.link = BitVec.ofNat 7 (8 + c.dlink) ∧ n.code = 0x31 ∧ n.count = 1))

/-- R204, R205: a drop report is posted, to its owner and to the collector, when 256 cycles have passed without a new drop, and is
then closed; it waits on while drops go on. -/
def Clause.DropReports : Prop :=
  ∀ (s : State) (c : Fin 96) (r : Fin 8) (q : GuardRep) (g : Cfg),
    let e := s.region c r
    e.guards = [q] → s.cfg q.handle = some g →
    (q.last + 256 ≤ s.clk.now → (s.ctx g.core g.ctx).asid = g.asid → (s.ctx g.core g.ctx).evq.length < 64 →
      ∃ t n, exec (.guardReportPost c r q.link) s = .next t ∧ (t.region c r).guards = [] ∧
        s.tookRecord t g.core g.ctx n ∧ n.extractLsb' 192 64 = q.handle ∧
        n.extractLsb' 160 32 = q.count ∧ n.extractLsb' 128 32 = q.first ∧ recordCode n = q.code ∧ n.extractLsb' 113 7 = q.link ∧
        ∃ m, Act.event (.collectorRecord m) ∈ t.clk.agenda ∧ m.aux = q.count ∧ m.agent = q.agent ∧
          m.cause = if q.code = 0x30 then 0x20 else 0x21) ∧
    (s.clk.now < q.last + 256 → exec (.guardReportPost c r q.link) s =
      .next (s.later (q.last + 256 - s.clk.now) (.guardReportPost c r q.link)))

/-- R23, R76, R344: a region in LOADING takes the words of its block into its elements' slots, with empty ports, full credits and
counters at zero, and is MAPPED when no check failed, the windows of the sources in it beginning there; it waits while an element
still holds another owner's state.
Where the manual leaves it open this follows the model (log 102). -/
def Clause.RegionLoading : Prop :=
  ∀ (s : State) (c : Fin 96) (r : Fin 8) (g : Cfg) (p : Place),
    let q := s.region c r
    let off : Nat := q.baddr.toNat - g.image.toNat
    let hdr : BitVec 128 := BitVec.ofNat 128 (g.field off 16)
    s.cfg q.handle = some g → q.st = .loading → g.places[q.entry]? = some p →
    ((∃ k ∈ q.ks, ∃ o, (s.elem c (q.elem k)).owner = some o ∧ (o.handle ≠ q.handle ∨ o.entry ≠ q.entry)) →
      exec (.regionLoad c r q.gen) s = .next (s.later 1 (.regionLoad c r q.gen))) ∧
    ((s.core c).hfab = false →
      (∀ k ∈ q.ks, ∀ o, (s.elem c (q.elem k)).owner = some o → o.handle = q.handle ∧ o.entry = q.entry) →
      q.ex0 + q.w ≤ 8 → q.ey0 + q.h ≤ 4 → p.first = false → hdrRot hdr = false →
      ∃ t, exec (.regionLoad c r q.gen) s = .next t ∧ t.mem = s.mem ∧ (t.region c r).hdr = hdr ∧ (t.region c r).st = .loading ∧
        (∀ i : Fin 128, q.hasK (i.val / 8) = true →
          (t.slot (siteOf c r i)).word = (if i.val ≤ hdrCount hdr then BitVec.ofNat 64 (g.field (off + 16 + 8 * i.val) 8) else 0)
            ∧
          (t.slot (siteOf c r i)).cred0 = 8 ∧ (t.slot (siteOf c r i)).cred1 = 8 ∧ (t.slot (siteOf c r i)).fired = false ∧
          ∀ n, ((t.slot (siteOf c r i)).port n).q = []) ∧
        (∀ k ∈ q.ks, (t.elem c (q.elem k)).ctr = Vector.replicate 4 .zero ∧
          (t.elem c (q.elem k)).owner = some ⟨q.handle, q.entry, k⟩ ∧ (t.elem c (q.elem k)).blocked = false) ∧
        ∃ n, 1 ≤ n ∧ (s.clk.now + n, Instr.loadComplete c r q.gen) ∈ t.clk.pending) ∧
    (q.bad = [] → ∃ t, exec (.loadComplete c r q.gen) s = .next t ∧ (t.region c r).st = .mapped ∧
      (t.region c r).mapAt = s.clk.now ∧ (t.region c r).last = (q.baddr, q.loads) ∧ (∀ e, t.elem c e = s.elem c e) ∧
      t.mem = s.mem ∧ ∀ n v, t.rein q.handle n = some v →
        (sourceEntry v.psrc = q.entry → v.pCount = 0 ∧ v.pEff = v.wp) ∧
        (sourceEntry v.csrc = q.entry → v.cCount = 0 ∧ v.cEff = v.wc)) ∧
    (q.bad ≠ [] → p.first = false → ∃ t, exec (.loadComplete c r q.gen) s = .next t ∧ (t.region c r).st = .faulted ∧
      ∃ m, Act.event (.collectorRecord m) ∈ t.clk.agenda ∧ m.cause = 0x29 ∧ m.handle = g.handle)

/-- R40, R37, R41, R42, R43: a region in COMMITTING whose accesses have all completed, and with no token on its way to an
out-link, loads the successor that its exit value selects, or with none issues the release OR of its bit; one whose successor
has another shape enters FAULTED. Once the OR is performed, the completion record is posted and the region is FREE.
Where the manual leaves it open this follows the model (log 73, 110). -/
def Clause.RegionCommits : Prop :=
  ∀ (s : State) (c : Fin 96) (r : Fin 8) (g : Cfg),
    let q := s.region c r
    let off := hdrSucc q.hdr (q.exitV.getD 0).toNat
    let addr : BitVec 54 := BitVec.ofInt 54 ((q.baddr.toNat : Int) + 64 * off)
    let hdr : BitVec 128 := BitVec.ofNat 128 (g.field (addr.toNat - g.image.toNat) 16)
    let idle : Prop := s.regionBusy c r = false ∧ s.sending c r = false
    s.cfg q.handle = some g → q.st = .committing →
    (¬ idle → exec (.regionCommit c r) s = .next (s.later 1 (.regionCommit c r))) ∧
    (idle → off ≠ 0 → hdrW hdr = q.w → hdrH hdr = q.h →
      ∃ t, exec (.regionCommit c r) s = .next t ∧ (t.region c r).st = .loading ∧ (t.region c r).baddr = addr ∧
        (t.region c r).handle = q.handle ∧ (t.region c r).entry = q.entry ∧ t.mem = s.mem ∧
        ∃ n, 1 ≤ n ∧ (s.clk.now + n, Instr.regionLoad c r (t.region c r).gen) ∈ t.clk.pending) ∧
    (idle → off ≠ 0 → hdrW hdr ≠ q.w ∨ hdrH hdr ≠ q.h →
      ∃ t, exec (.regionCommit c r) s = .next t ∧ (t.region c r).st = .faulted ∧ (t.region c r).last = q.last ∧
        ∃ m, Act.event (.collectorRecord m) ∈ t.clk.agenda ∧ m.cause = 0x29 ∧ m.aux = 0x19) ∧
    (idle → off = 0 → ∃ t a, exec (.regionCommit c r) s = .next t ∧ t.accs = s.accs ++ [a] ∧
      a.agent = .completion c r q.handle ∧ a.kind = .orWord (1#64 <<< q.entry) ∧ a.addr = g.completionWord ∧ a.asid = g.asid ∧
      (t.region c r).st = .committing) ∧
    ∀ (a : Access) (pa : Nat), s.accs = [a] → a.stage = .ready → a.agent = .completion c r q.handle →
      a.kind = .orWord (1#64 <<< q.entry) → a.pieces.map Piece.pa = [some pa] → pa + 8 ≤ 0x3000000000 → pa % 8 = 0 →
      (s.ctx g.core g.ctx).asid = g.asid → (s.ctx g.core g.ctx).evq.length < 64 →
      (∃ p ∈ g.places.eraseIdx q.entry, p.st ≠ .ended) →
      ∃ t n, exec (.completionRelease c r) s = .next t ∧ t.mem.word pa = s.mem.word pa ||| (1#64 <<< q.entry) ∧
        SameBut s t pa 8 ∧ (t.region c r).st = .free ∧ (∀ k ∈ q.ks, t.elem c (q.elem k) = .blank) ∧ t.accs = [] ∧
        s.tookRecord t g.core g.ctx n ∧ n.extractLsb' 192 64 = q.handle ∧ recordCode n = 0x01 ∧
        n.extractLsb' 160 32 = BitVec.ofNat 32 (bytesNat a.data) ∧ n.extractLsb' 112 2 = q.exitV.getD 0

/-- R291, R117: REGCTL frees a FAULTED region or loads the block last mapped there again for a context with PRIV or its owner,
and pre-empts a MAPPED one for PRIV: it stops firing, its accesses not yet performed are withdrawn, and within 16 cycles it is
FREE, its elements keeping the owner's state.
Where the manual leaves it open this follows the model (log 74). -/
def Clause.RegionRecovery : Prop :=
  ∀ (s : State) (c : Fin 96) (r : Fin 8) (w : Writer),
    let q := s.region c r
    let owner : Prop := ∃ g, s.cfg q.handle = some g ∧ g.core = w.core ∧ g.ctx = w.ctx
    (q.st ≠ .faulted → exec (.regctlRelease c w r) s = .next s ∧ exec (.regctlRemap c w r) s = .next s) ∧
    (w.priv = false → w.sysctl = false → ¬ owner → exec (.regctlRelease c w r) s = .next s ∧
      exec (.regctlRemap c w r) s = .next s) ∧
    (q.st ≠ .mapped → exec (.regctlPreempt c w r) s = .next s) ∧
    (w.priv = false → w.sysctl = false → exec (.regctlPreempt c w r) s = .next s) ∧
    (q.st = .faulted → w.priv = true ∨ owner →
      (∃ t, exec (.regctlRelease c w r) s = .next t ∧ (t.region c r).st = .free ∧ (∀ k ∈ q.ks, t.elem c (q.elem k) = .blank) ∧
        t.mem = s.mem) ∧
      ∃ t, exec (.regctlRemap c w r) s = .next t ∧ (t.region c r).st = .loading ∧ (t.region c r).baddr = q.last.1 ∧
        (t.region c r).loads = q.last.2 ∧ (t.region c r).tags = [] ∧ t.mem = s.mem ∧
        ∃ n, 1 ≤ n ∧ (s.clk.now + n, Instr.regionLoad c r (t.region c r).gen) ∈ t.clk.pending) ∧
    (q.st = .mapped → w.priv = true → ∃ t, exec (.regctlPreempt c w r) s = .next t ∧ (t.region c r).st = .evicting ∧
      (∀ e, t.elem c e = s.elem c e) ∧ t.mem = s.mem ∧
      (∀ a ∈ t.accs, (∃ x, a.agent = .op x q.handle q.entry ∧ x.core = c ∧ x.unit = r) → a.kind ≠ .done →
        a.stage = .walk ∨ a.stage = .ready ∨ a.stage = .wait ∨ (∃ e, a.stage = .parked e) ∨ (∃ e k m, a.stage = .fated e k m) →
        a.held = true) ∧
      ∃ n, 1 ≤ n ∧ n ≤ 16 ∧ (s.clk.now + n, Instr.preemptComplete c r q.gen) ∈ t.clk.pending) ∧
    ∀ (g : Cfg) (p : Place), q.st = .evicting → s.cfg q.handle = some g → g.places[q.entry]? = some p →
      (∀ e ∈ s.clk.pending, bringsTo c r q.gen e.2 = false) →
      ∃ t g' p', exec (.preemptComplete c r q.gen) s = .next t ∧ (t.region c r).st = .free ∧ (∀ e, t.elem c e = s.elem c e) ∧
        t.cfg q.handle = some g' ∧ g'.st = .preempted ∧ g'.places[q.entry]? = some p' ∧ p'.st = .preempted ∧
        p'.kept = some { q with guards := [] } ∧ (t.region c r).guards = q.guards ∧ t.mem = s.mem

/-- R118, R119: the eviction of an element leaves it blank, its state going to the eviction area of its owner, 16 KiB and for an
element with a head 40 KiB more; its restore puts that state back from the core where the record stands, and raises a parity fault
where the record in the ember store has changed.
Where the manual leaves it open this follows the model (log 75). -/
def Clause.EvictAndRestore : Prop :=
  (∀ (s : State) (c : Fin 96) (e : Fin 32) (o : Owner) (g : Cfg) (p : Place),
    (s.elem c e).owner = some o → s.cfg o.handle = some g → g.places[o.entry]? = some p → p.kept ≠ none →
    let parts := g.evictParts c (s.elem c e).head.isSome
    let base := g.field 24 4
    let elems := min 32 ((g.shapes.map fun p => p.1 * p.2).sum)
    ((∀ q ∈ g.places, ∀ v ∈ q.evicted, v.core ≠ c) → parts = (base, 16384) ::
      if (s.elem c e).head.isSome then [(base + 16384 * elems, 40960)] else []) ∧
    ∃ t g', exec (.elementEviction c e) s = .next t ∧ t.elem c e = .blank ∧ t.cfg o.handle = some g' ∧
      (g'.places[o.entry]?).map Place.evicted = some (p.evicted ++ [⟨o.k, s.elem c e, c, parts, s.clk.fresh⟩]) ∧
      (∀ j off n, parts[j]? = some (off, n) → s.emberHas c off n = true →
        (∀ i o m, parts[i]? = some (o, m) → i ≠ j → o + m ≤ off ∨ off + n ≤ o) →
        t.emberRead c off n = evictionBytes s.clk.fresh j n) ∧
      (∀ d, d ≠ e → t.elem c d = s.elem c d)) ∧
  ∀ (s : State) (c : Fin 96) (e : Fin 32) (r : Fin 8) (g : Cfg) (p : Place) (v : Evicted),
    let q := s.region c r
    let same : Prop := ∀ j off n, v.parts[j]? = some (off, n) → s.emberHas v.core off n = true →
      s.emberRead v.core off n = evictionBytes v.seed j n
    q.st = .mapped → v.k ∈ q.ks → q.elem v.k = e → (∀ d, d ≠ r → (s.region c d).st = .free) → s.cfg q.handle = some g →
    g.places[q.entry]? = some p → v ∈ p.evicted → (∀ u ∈ p.evicted, q.elem u.k = e → u = v) →
    (same → ∃ t, exec (.elementRestore c e) s = .next t ∧ t.elem c e = v.elem ∧ t.region c r = q ∧ t.mem = s.mem) ∧
    (¬ same → q.markFault = false → ∃ t, exec (.elementRestore c e) s = .next t ∧ t.elem c e = v.elem ∧
      (t.region c r).pend = q.pend ++ [⟨Fin.ofNat 128 (8 * v.k), 0x11, 0, true⟩])

/-- R379, R380, R347, R372, R374, R38, R201: a waiting launch moves up one queue for each 65,536 cycles it has waited; an image
that cannot be read, that fails a check, or that no admissible placement takes, ends its launch with a report and stays out of
the cache; of one that is read the digest is its SHA-384.
Where the manual leaves it open this follows the model (log 83, 89). -/
def Clause.LaunchQueue : Prop :=
  ∀ (s : State) (h : Word64) (g : Cfg), s.cfg h = some g →
    let waited := s.clk.now - g.queuedAt
    let aged := g.prio - waited / 65536
    (g.st ≠ .queued → g.st ≠ .preempted → exec (.launchAging h) s = .next s) ∧
    (g.st = .queued ∨ g.st = .preempted → ∃ t g', exec (.launchAging h) s = .next t ∧ t.cfg h = some g' ∧ g'.aged = aged ∧
      g'.st = g.st ∧ t.mem = s.mem ∧ (0 < aged → (s.clk.now + (65536 - waited % 65536), Instr.launchAging h) ∈ t.clk.pending)) ∧
    (g.st = .queued → g.cached = false → (s.ctx g.core g.ctx).asid = g.asid → (s.ctx g.core g.ctx).evq.length < 64 →
      ∃ t g' r, exec (.imageReadDone h false) s = .next t ∧ t.cfg h = some g' ∧ g'.st = .held ∧ g'.cached = false ∧
        s.tookRecord t g.core g.ctx r ∧ recordCode r = 0x10 ∧ t.mem = s.mem ∧
        ∃ m, Act.event (.collectorRecord m) ∈ t.clk.agenda ∧ m.cause = 0x28 ∧ m.handle = g.handle) ∧
    ∀ (a : Access) (pa : Nat) (p : Piece), g.st = .queued → g.cached = false → s.accs = [a] → a.agent = .image h →
      a.stage = .ready →
      a.pieces = [p] → p.pa = some pa → pa % 4096 = 0 → pa + 4096 ≤ 0x3000000000 →
      (∀ i, i < 64 → s.mem.isPoison (pa + 64 * i) = false ∧ s.mem.isUe (pa + 64 * i) = false ∧ s.mem.isCe (pa + 64 * i) = false) →
      s.mem.nat (pa + 96) 8 ≤ 4096 →
      let image : Cfg := { g with
        bytes := s.mem.bytes pa (s.mem.nat (pa + 96) 8), digest := sha384 (s.mem.bytes pa (s.mem.nat (pa + 96) 8)) }
      let known : Cfg := { image with
        cached := true, shapes := image.shapesOf, prio := hdrPrio (image.hdrAt (image.entryOff 0))
        aged := hdrPrio (image.hdrAt (image.entryOff 0)) }
      let places := (s.search known .bare true image.shapesOf []).isSome
      (image.imageFails = [] → image.reinFails = none → places = false →
        ∃ t g', exec (.imageReadDone h true) s = .next t ∧ t.cfg h = some g' ∧ g'.st = .held ∧ g'.cached = false ∧ t.mem = s.mem ∧
          ∃ m, Act.event (.collectorRecord m) ∈ t.clk.agenda ∧ m.handle = g.handle ∧ m.cause = 0x28 ∧
            m.aux = if s.fitsBare known image.shapesOf [] then 0x18 else 0x15) ∧
      (image.imageFails = [] → image.reinFails = none → places = true →
        ∃ t g', exec (.imageReadDone h true) s = .next t ∧ t.cfg h = some g' ∧ g'.st = .queued ∧ g'.cached = true ∧
          g'.bytes = image.bytes ∧ g'.digest = image.digest ∧ g'.shapes = image.shapesOf ∧
            g'.prio = hdrPrio (image.hdrAt (image.entryOff 0)) ∧
          Act.event (.launchAging h) ∈ t.clk.agenda ∧ t.mem = s.mem) ∧
      (image.imageFails ≠ [] ∨ image.reinFails ≠ none → ∃ t g', exec (.imageReadDone h true) s = .next t ∧ t.cfg h = some g' ∧
        g'.st = .held ∧ g'.cached = false ∧ ∃ m, Act.event (.collectorRecord m) ∈ t.clk.agenda ∧ m.handle = g.handle ∧
          m.cause = (if image.imageFails ≠ [] then 0x28 else 0x30))

/-- R19, R23, R118, R201, R307, R379: an entry block that is claimed and whose rectangle is FREE and of its owner's tenant
begins to load there, on a core that is not halted; the kiln does nothing when no launch waits and no block is claimed.
Where the manual leaves it open this follows the model (log 77). -/
def Clause.KilnPlacing : Prop :=
  (∀ s : State, s.kiln.works = false → exec .kilnPlace s = .next s) ∧
  (∀ (s : State) (g : Cfg) (e : Nat) (p : Place), s.kiln.cfgs = [g] → g.st = .running → g.places[e]? = some p → p.st = .claimed →
    p.kept = none → (∀ i q, g.places[i]? = some q → i ≠ e → q.st ≠ .claimed) → (s.core p.core).hfab = false →
    (∀ r, (s.region p.core r).st = .free) → (∀ x, (s.elem p.core x).owner = none) →
    s.tenantsFit g ⟨p.core, p.ex0, p.ey0, (g.shapes.getD e (1, 1)).1, (g.shapes.getD e (1, 1)).2⟩ = true →
    ∃ t g', exec .kilnPlace s = .next t ∧ (t.region p.core 0).st = .loading ∧ (t.region p.core 0).handle = g.handle ∧
      (t.region p.core 0).entry = e ∧ (t.region p.core 0).ex0 = p.ex0 ∧ (t.region p.core 0).ey0 = p.ey0 ∧
      ((t.region p.core 0).w, (t.region p.core 0).h) = g.shapes.getD e (1, 1) ∧
      (t.region p.core 0).baddr = (g.image + BitVec.ofNat 64 (g.entryOff e)).setWidth 54 ∧
      t.cfg g.handle = some g' ∧ (g'.places[e]?).map Place.st = some .placed ∧ t.mem = s.mem ∧
      ∃ n, 1 ≤ n ∧ (s.clk.now + n, Instr.regionLoad p.core 0 (t.region p.core 0).gen) ∈ t.clk.pending) ∧
  ∀ (s : State) (g : Cfg) (p : Place), s.kiln.cfgs = [g] → g.st = .running → g.places = [p] → p.st = .claimed →
    (s.core p.core).hfab = true → exec .kilnPlace s = .next s

/-- R374, R385: a packet whose OP or reserved bits are not in order, or with an owner beyond the device, gets BADPKT; in the
boot state every packet but BOOT gets REFUSED, and while a BOOT is being verified a packet waits behind it; LAUNCH and REGISTER
are refused when the ASID is not their owner's; DROP and QUERY of a handle that the kiln does not hold get BADHANDLE.
Where the manual leaves it open this follows the model (log 95, 97). -/
def Clause.PacketReplies : Prop :=
  ∀ (s : State) (p : Packet),
    let tells (i : Instr) (status : Nat) (h : Word64) : Prop := ∃ t, exec i s = .next t ∧
      t.host.out = s.host.out ++ [.write (p.extractLsb' 448 64) (natBytes 4 (p.extractLsb' 64 32).toNat ++
        [BitVec.ofNat 8 status, 0, 0, 0] ++
        natBytes 8 h.toNat ++ List.replicate 48 0)] ∧ t.mem = s.mem
    let bad : Prop := p.extractLsb' 105 11 ≠ 0 ∨ p.extractLsb' 8 56 ≠ 0 ∨ 96 ≤ (p.extractLsb' 98 7).toNat
    let is (op : Nat) : Prop := (p.extractLsb' 0 8).toNat = op ∧ ¬ bad
    let h := p.extractLsb' 192 64
    let c : Fin 96 := Fin.ofNat 96 (p.extractLsb' 98 7).toNat
    let k : Fin 4 := Fin.ofNat 4 (p.extractLsb' 96 2).toNat
    (s.dev.boot = .verifying → ∀ i ∈ [Instr.launchPacket p, .register p, .dropPacket p, .query p, .attest p],
      exec i s = .next { s with dev := { s.dev with packets := s.dev.packets ++ [p] } }) ∧
    (s.dev.boot = .running → 6 < (p.extractLsb' 0 8).toNat ∨ (p.extractLsb' 0 8).toNat = 0 → tells (packetStep p) 2 0) ∧
    (s.dev.boot = .waiting ∨ s.dev.boot = .failed → tells (.launchPacket p) 1 0 ∧ tells (.register p) 1 0 ∧
      tells (.dropPacket p) 1 0 ∧ tells (.query p) 1 0 ∧ tells (.attest p) 1 0) ∧
    (s.dev.boot = .running →
      (bad → tells (.launchPacket p) 2 0 ∧ tells (.register p) 2 0 ∧ tells (.dropPacket p) 2 0 ∧ tells (.query p) 2 0 ∧
        tells (.attest p) 2 0) ∧
      (is 3 → s.cfg h = none → tells (.dropPacket p) 3 h) ∧
      (is 3 → s.cfg h ≠ none → ∃ t, exec (.dropPacket p) s = .next t ∧ t.cfg h = none ∧
        (∀ c r, (s.region c r).handle = h → (t.region c r).st = .free) ∧
        ∃ bs, t.host.out.getLast? = some (.write (p.extractLsb' 448 64) (natBytes 4 (p.extractLsb' 64 32).toNat ++ bs))) ∧
      (is 4 → h ≠ 0 → s.cfg h = none → tells (.query p) 3 h) ∧
      (p.extractLsb' 96 9 ≠ 0 → (s.ctx c k).asid ≠ p.extractLsb' 116 12 →
        (is 1 → tells (.launchPacket p) 1 0) ∧ (is 2 → tells (.register p) 1 0)) ∧
      (∀ g, p.extractLsb' 96 9 ≠ 0 → (s.ctx c k).asid = p.extractLsb' 116 12 →
        s.named (p.extractLsb' 128 64) (p.extractLsb' 116 12) = some g → s.cfg g.handle = some g →
        (is 2 → tells (.register p) 0 g.handle) ∧
        (is 1 → g.st ≠ .held → tells (.launchPacket p) 1 0) ∧
        (is 1 → g.st = .held → tells (.launchPacket p) 0 g.handle ∧
          ∃ t q, exec (.launchPacket p) s = .next t ∧ t.cfg g.handle = some q ∧ q.st = .queued ∧ q.core = c ∧ q.ctx = k)) ∧
      (is 4 → h = 0 → ∃ t bs, exec (.query p) s = .next t ∧ bs.length = 64 + 32 * 96 + 64 * s.kiln.cfgs.length ∧
        t.host.out.drop (s.host.out.length + 1) = [.write (p.extractLsb' 448 64 + 64) bs] ∧
        bs.take 2 = natBytes 2 s.kiln.cfgs.length) ∧
      (is 5 → (s.egress.armed.getD []).length ≤ 8 → ∃ t bs, exec (.attest p) s = .next t ∧
        t.host.out.drop (s.host.out.length + 1) = [.write (p.extractLsb' 448 64 + 64) bs] ∧
        bs.length = 6144 ∧ (bs.drop 8).take 24 = natBytes 24 (p.extractLsb' 256 192).toNat ∧
        (bs.drop 136).take 48 = natBytes 48 s.dev.fwDigest.toNat ∧
        (bs.drop 2624).take 64 = natBytes 64 (Config.edSign (sha384 (bs.take 2624))).toNat))

/-- R385, R386: a BOOT packet in the boot state begins the verification of the image in the boot area and counts an attempt; a
good image leaves the device running, its rollback counter at the image's version; the first step that fails is named in the
reply, of STATUS 4, and in FAILSTEP, and the device stays in the boot state; a BOOT of a running device is REFUSED.
Where the manual leaves it open this follows the model (log 96, 98). -/
def Clause.Boot : Prop :=
  ∀ (s : State) (p : Packet),
    let bad : Prop := p.extractLsb' 105 11 ≠ 0 ∨ p.extractLsb' 8 56 ≠ 0 ∨ 96 ≤ (p.extractLsb' 98 7).toNat
    let m := s.mem
    let base : Nat := 0x7C000000
    let len := m.nat base 8
    let version := m.nat (base + 8) 8
    let digest := sha384 (m.bytes (base + 8) 8 ++ m.bytes (base + 8192) len)
    let okImage : Prop := len % 64 = 0 ∧ len ≤ 0x4000000 - 8192 ∧ ∀ i, 5373 ≤ i → i < 8192 → m.byte (base + i) = 0
    let okKeys : Prop := sha384 (m.bytes (base + 16) 32) = Config.fusedEdDigest ∧
      sha384 (m.bytes (base + 48) 1952) = Config.fusedMlDigest
    let okSigned : Prop :=
      Config.edVerify (BitVec.ofNat 256 (m.nat (base + 16) 32)) (BitVec.ofNat 512 (m.nat (base + 2000) 64)) digest = true ∧
        Config.mlVerify (m.bytes (base + 48) 1952) (m.bytes (base + 2064) 3309) digest = true
    let okVersion : Prop := s.dev.rollback.toNat ≤ version
    let failsAt (n : Nat) : Prop := ∃ t bs, exec (.boot p) s = .next t ∧ t.dev.boot = .failed ∧
      t.dev.failstep = BitVec.ofNat 4 n ∧
      t.dev.rollback = s.dev.rollback ∧ t.host.out = s.host.out ++ [.write (p.extractLsb' 448 64)
        (natBytes 4 (p.extractLsb' 64 32).toNat ++ [4, BitVec.ofNat 8 n, 0, 0] ++ bs)]
    (p.extractLsb' 0 8 = 6 → ¬ bad → s.dev.boot = .waiting ∨ s.dev.boot = .failed → ∃ t, exec (.boot p) s = .next t ∧
      t.dev.boot = .verifying ∧ t.dev.packets = [p] ∧ t.dev.attempts.toNat = min 255 (s.dev.attempts.toNat + 1) ∧ t.mem = s.mem ∧
      ∃ n, 1 ≤ n ∧ (s.clk.now + n, Instr.boot p) ∈ t.clk.pending) ∧
    (s.dev.boot = .running → p.extractLsb' 0 8 = 6 → ¬ bad → ∃ t bs, exec (.boot p) s = .next t ∧ t.dev = s.dev ∧
      t.host.out = s.host.out ++ [.write (p.extractLsb' 448 64) (natBytes 4 (p.extractLsb' 64 32).toNat ++ 1 :: bs)]) ∧
    (s.dev.boot = .verifying → s.dev.packets = [p] →
      (∀ i, i < 0x100000 → m.isPoison (base + 64 * i) = false ∧ m.isUe (base + 64 * i) = false) →
      (okImage → okKeys → okSigned → okVersion → ∃ t bs, exec (.boot p) s = .next t ∧ t.dev.boot = .running ∧
        t.dev.rollback.toNat = min version 0xFFFFFFFF ∧ t.dev.fwDigest = digest ∧ t.dev.fwVersion.toNat = version ∧
          t.mem = s.mem ∧
        t.host.out = s.host.out ++ [.write (p.extractLsb' 448 64) (natBytes 4 (p.extractLsb' 64 32).toNat ++ 0 :: bs)]) ∧
      (¬ okImage → failsAt 1) ∧ (okImage → ¬ okKeys → failsAt 2) ∧ (okImage → okKeys → ¬ okSigned → failsAt 3) ∧
      (okImage → okKeys → okSigned → ¬ okVersion → failsAt 4))

/-- R376, R377: a 128-byte write to an ingress port delivers one token; the first token of an IDLE port binds it to the
configuration and channel that the write names, and a write that sets MARK or names no ingress of a configuration is dropped and
counted; a write that finds the port full waits at the link; a buffered token leaves for its channel when the channel's in-link
exists and has room, and an end-of-stream returns the port to IDLE, to be bound by the token behind it.
Where the manual leaves it open this follows the model (log 93). -/
def Clause.IngressPorts : Prop :=
  ∀ (s : State) (p : BitVec 8) (off : Nat) (bs : List Byte),
    let q := s.port p
    let side : BitVec 32 := BitVec.ofNat 32 (bytesNat ((bs.drop 64).take 4))
    let h : Word64 := BitVec.ofNat 64 (bytesNat ((bs.drop 72).take 8))
    let c : Nat := bytesNat ((bs.drop 80).take 2)
    let w : Instr := .ingressWrite p off bs
    let t0 := ingressToken bs
    (s.dev.boot ≠ .running ∨ bs.length ≠ 128 ∨ off % 128 ≠ 0 ∨ 0x800 ≤ off → exec w s = .next s) ∧
    (s.dev.boot = .running → bs.length = 128 → off % 128 = 0 → off < 0x800 →
      (64 ≤ q.buf.length ∨ q.link ≠ [] →
        ∃ t, exec w s = .next t ∧ t.port p = { q with link := q.link ++ [bs] } ∧ t.mem = s.mem) ∧
      (q.buf.length < 64 → q.link = [] →
        (side.getLsbD 5 = true → ∃ t, exec w s = .next t ∧ t.port p = { q with drops := satInc32 q.drops }) ∧
        (side.getLsbD 5 = false → q.bound ≠ none → ∃ t, exec w s = .next t ∧ t.port p = { q with buf := q.buf ++ [(t0, h, c)] } ∧
          t.mem = s.mem) ∧
        (side.getLsbD 5 = false → q.bound = none → q.buf = [] →
          s.cfg h = none ∨ (∃ g, s.cfg h = some g ∧ g.cached = true ∧ (g.chanRecs[c]?).map Chan.skind ≠ some 2) →
          ∃ t, exec w s = .next t ∧ t.port p = { q with drops := satInc32 q.drops }) ∧
        (∀ g, side.getLsbD 5 = false → q.bound = none → q.buf = [] → s.cfg h = some g →
          g.cached = false ∨ (g.chanRecs[c]?).map Chan.skind = some 2 →
          ∃ t, exec w s = .next t ∧ t.port p = { q with bound := some (h, c), buf := [(t0, h, c)] } ∧
            ∃ g', t.cfg h = some g' ∧ (g.st = .held → (s.ctx g.core g.ctx).asid = g.asid → g'.st = .queued)))) ∧
    (∀ (g : Cfg) (ch : Chan) (i : Nat) (hd : Word64) (t1 : Token) (n1 : Word64 × Nat) (rest : List (Token × Word64 × Nat)),
      q.bound = some (hd, i) → q.buf = (t1, n1) :: rest → q.link = [] → s.cfg hd = some g → g.chans[i]? = some ch → ch.skind = 2 →
      let linked : Prop := if ch.dkind = 0 then ∃ pl, g.places[ch.dent]? = some pl ∧ pl.st = .placed ∧ pl.first = false
        else g.st = .running
      (linked → ch.out.length < 8 → ∃ t q', exec (.ingressDelivery p) s = .next t ∧ t.chan hd i = some q' ∧
        q'.out = ch.out ++ [⟨t1, [], none⟩] ∧ t.mem = s.mem ∧
        (t1.eos = false ∨ rest = [] → t.port p = { q with buf := rest, bound := if t1.eos then none else q.bound }) ∧
        ∀ t2 h2 c2 g2, t1.eos = true → rest = [(t2, h2, c2)] → s.cfg h2 = some g2 → g2.cached = false →
          t.port p = { q with buf := rest, bound := some (h2, c2) }) ∧
      (¬ linked ∨ 8 ≤ ch.out.length → exec (.ingressDelivery p) s = .next s)) ∧
    ∀ v : Word64, (v.getLsbD 63 = false → exec (.ingStatClear p v) s = .next s) ∧
      (v.getLsbD 63 = true → ∃ t, exec (.ingStatClear p v) s = .next t ∧ t.port p = { q with drops := 0 })

/-- R381, R244, R385: the host reads and writes the device's memory through the window; in the boot state it reaches the boot area
and RECSTAT alone; an access that is not served is refused at the link with nothing changed; 64 bytes at the mailbox are a packet.
Where the manual leaves it open this follows the model (log 99, 100). -/
def Clause.HostWindow : Prop :=
  ∀ (s : State) (a n : Nat) (bs : List Byte),
    let refused (i : Instr) : Prop := exec i s = .next { s with host := { s.host with out := s.host.out ++ [.linkError] } }
    let clean (b : Nat) : Prop := s.mem.isPoison b = false ∧ s.mem.isUe b = false
    let writes (i : Instr) : Prop := ∃ t, exec i s = .next t ∧ Holds t a bs ∧ SameBut s t a bs.length ∧ t.host = s.host
    let reads (i : Instr) : Prop := ∃ t, exec i s = .next t ∧ t.mem = s.mem ∧
      t.host.out = s.host.out ++ [.answer (s.mem.bytes a n)]
    (s.dev.boot = .running → s.noRings → a + bs.length ≤ 0x3000000000 → writes (.hostMemoryWrite a bs) ∧
      writes (.peerAccess true a n bs)) ∧
    (s.dev.boot = .running → a + n ≤ 0x3000000000 → (∀ b, a ≤ b → b < a + n → clean b) →
      reads (.hostMemoryRead a n) ∧ reads (.peerAccess false a n bs)) ∧
    (s.dev.boot ≠ .running → s.noRings → 0x7C000000 ≤ a → a + bs.length ≤ 0x80000000 → writes (.hostMemoryWrite a bs)) ∧
    (s.dev.boot ≠ .running → a + bs.length ≤ 0x4060000000 → a < 0x7C000000 ∨ 0x80000000 < a + bs.length →
      refused (.hostMemoryWrite a bs)) ∧
    (s.dev.boot ≠ .running → a + n ≤ 0x4060000000 → a < 0x7C000000 ∨ 0x80000000 < a + n → refused (.hostMemoryRead a n)) ∧
    (s.dev.boot ≠ .running → refused (.peerAccess true a n bs) ∧ refused (.peerAccess false a n bs)) ∧
    (0x4060000000 < a + bs.length → refused (.peerAccess true a n bs)) ∧
    (0x3000000000 ≤ a → a < 0x4000000000 → 0 < bs.length → a + bs.length ≤ 0x4060000000 → refused (.hostMemoryWrite a bs)) ∧
    (a = 0xF800000000 → bs.length = 64 →
      exec (.hostMemoryWrite a bs) s = .next (s.soon (packetStep (BitVec.ofNat 512 (bytesNat bs))))) ∧
    (s.dev.boot ≠ .running → 0xFC00001F80 ≤ a → a + bs.length ≤ 0xFC00001F88 → exec (.hostMemoryWrite a bs) s = .next s) ∧
    (∀ p : BitVec 8, s.dev.boot = .running → a = 0xF000000000 + 4096 * p.toNat → bs.length = 128 →
      exec (.hostMemoryWrite a bs) s = .next (s.soon (.ingressWrite p 0 bs)))

/-- R385, R391, R12, R291, R309, R310: reset leaves the boot state; memory keeps its contents and every region its STATE;
throttling changes nothing but the throttle; the scrubber counts the errors of a line, corrects a correctable one and reports an
uncorrectable one.
Where the manual leaves it open this follows the model (log 86, 94, 101). -/
def Clause.ResetAndScrub : Prop :=
  (∀ s : State, ∃ t, exec .deviceReset s = .next t ∧ t.dev.boot = .waiting ∧ t.mem = s.mem ∧ t.dev.rollback = s.dev.rollback ∧
    t.accs = [] ∧ t.kiln.cfgs = [] ∧ t.clk.agenda = [] ∧ t.egress.armed = none ∧ t.dev.lock = false ∧
    ∀ c, t.core c = { Core.reset with regions := (s.core c).regions.map fun g => { Region.blank with st := g.st } }) ∧
  (∀ s : State, exec .thermalThrottle s = .next { s with dev := { s.dev with throttled := true } } ∧
    exec .throttleEnd s = .next { s with dev := { s.dev with throttled := false } }) ∧
  ∀ (s : State) (c : Fin 96) (line : Nat), line < 0x1000000 →
    let u := 0x1000000 * 2 * c.val + 2 * line
    let full (n : BitVec 32) : BitVec 32 := if n = 0xFFFFFFFF then n else n + 1
    (s.mem.ue = [] → s.mem.ce = [] → exec (.scrubLine c true line) s = .next s) ∧
    (s.mem.ue = [] → s.mem.ce = [u] → ∃ t, exec (.scrubLine c true line) s = .next t ∧ t.mem = { s.mem with ce := [] } ∧
      (t.core c).eccCe = full (s.core c).eccCe ∧ (t.core c).eccUe = (s.core c).eccUe) ∧
    (s.mem.ue = [u] → s.mem.ce = [] → ∃ t, exec (.scrubLine c true line) s = .next t ∧ t.mem = s.mem ∧
      (t.core c).eccUe = full (s.core c).eccUe ∧ ∃ m, Act.event (.collectorRecord m) ∈ t.clk.agenda ∧ m.cause = 0x40 ∧
        m.addr = BitVec.ofNat 54 (64 * u))

/-- R63, R64, R65, R66, R68, R73, R11: an instruction that passes the checks of its own word decodes from its encoding, in
memory too; a step of the device itself has no word. -/
def Clause.EncodeThenDecode : Prop :=
  ∀ (i : Instr) (w : Word64), i.wf = true → encode i = some w → decode w = .instr i ∧ decodeBytes (bytesOfWord w) = .instr i

/-- R64, R73: a word of an opcode that the map names is the word of exactly one instruction: decoding gives that instruction
when it passes the checks of its own word, and a reserved value otherwise. -/
def Clause.DecodeThenEncode : Prop :=
  ∀ w : Word64,
    let column : Nat := (w.extractLsb' 60 4).toNat
    let row : Nat := (w.extractLsb' 56 4).toNat
    let rows : List Nat := [16, 13, 11, 6, 7, 9, 11, 11, 10, 0, 5, 15, 16, 16, 0, 0]
    row < rows.getD column 0 → (column ≠ 0 ∨ row ≠ 0) → ∃ i, encode i = some w ∧ (∀ j, encode j = some w → j.wf = true → j = i) ∧
      if i.wf then decode w = .instr i else ∃ r, localReason i = some r ∧ decode w = .reserved r

/-- R64, R73, R80, R63: a word of a reserved opcode, and a word of opcode 0x00 other than the all-zero word, is reserved with
REASON 0x01; the all-zero word is NOP. -/
def Clause.ReservedOpcodes : Prop :=
  decode 0 = .nop ∧ ∀ w : Word64,
    let column : Nat := (w.extractLsb' 60 4).toNat
    let row : Nat := (w.extractLsb' 56 4).toNat
    let rows : List Nat := [16, 13, 11, 6, 7, 9, 11, 11, 10, 0, 5, 15, 16, 16, 0, 0]
    rows.getD column 0 ≤ row ∨ (column = 0 ∧ row = 0 ∧ w ≠ 0) → decode w = .reserved 0x01

/-- The words that the spec works out bit by bit decode to the instructions they stand for: FADD (R157's chapter), FMA, CONST,
ARGMX, ISUB, STEER, DOT, SEL, MTASK, LD, LDK, RHEAD, EGPUT, REP and KSTM. -/
def Clause.WordsWrittenOut : Prop :=
  let one : PortCtl := ⟨1, 1⟩
  let none_ : PortCtl := ⟨0, 0⟩
  let peek : PortCtl := ⟨1, 0⟩
  let no : Target := ⟨false, 0, 0⟩
  decode 0x2010_8B00_0249_0000 = .instr (.fadd ⟨0x10, ⟨true, 11, 0⟩, no, one, one, none_, 0⟩) ∧
  decode 0x2320_8621_D248_2400 = .instr (.fma ⟨0x20, ⟨true, 6, 0⟩, ⟨true, 7, 1⟩, one, peek, one, 0⟩) ∧
  decode 0x1923_8280_0000_4040 = .instr (.const ⟨0x23, ⟨true, 2, 2⟩, no, 0x4040⟩) ∧
  decode 0x5320_8900_0240_0000 = .instr (.argmx ⟨0x20, ⟨true, 9, 0⟩, no, one, none_, none_, 0⟩) ∧
  decode 0x0270_8E6F_A240_0018 = .instr (.isub ⟨0x70, ⟨true, 14, 1⟩, ⟨true, 62, 2⟩, one, none_, none_, 24⟩) ∧
  decode 0x6000_80E4_0249_0000 = .instr (.steer ⟨0, ⟨true, 0, 3⟩, ⟨true, 16, 0⟩, one, one, 0⟩) ∧
  decode 0x5590_9E00_0658_0000 = .instr (.dot ⟨0x90, ⟨true, 30, 0⟩, no, ⟨3, 1⟩, ⟨3, 0⟩, none_, 0⟩) ∧
  decode 0x1770_8A2D_C249_2000 = .instr (.sel ⟨0x70, ⟨true, 10, 0⟩, ⟨true, 55, 0⟩, one, one, peek, 0⟩) ∧
  decode 0xA000_C600_0240_0100 = .instr (.mtask ⟨0, ⟨true, 70, 0⟩, no, one, none_, 1, 0⟩) ∧
  decode 0x8021_8640_0240_0000 = .instr (.ld ⟨0x21, ⟨true, 6, 1⟩, no, one, none_, 0, 0⟩) ∧
  decode 0xB4B0_C800_0240_2040 = .instr (.ldk ⟨0xB0, ⟨true, 72, 0⟩, no, one, none_, 2, 0x040⟩) ∧
  decode 0x7000_8000_0249_2402 = .instr (.rhead ⟨0, ⟨true, 0, 0⟩, no, one, one, one, 2⟩) ∧
  decode 0xBB00_82ED_8240_0000 = .instr (.egput ⟨0, ⟨true, 2, 3⟩, ⟨true, 54, 0⟩, one, none_, 0, 0⟩) ∧
  decode 0xD300_0000_0000_0046 = .instr (.rep ⟨0, no, no, none_, none_, none_, 0x46⟩) ∧
  decode 0xCC00_8800_0240_0040 = .instr (.kstm ⟨0, ⟨true, 8, 0⟩, no, one, none_, none_, 0x40⟩)

/-- The model's invariant (log 4): whatever a step does, memory stays in its canonical form. -/
def Clause.InvariantKept : Prop := ∀ s : State, Inv s → ∀ t, step s = .next t → Inv t

/-- The invariant holds of the machine after reset. -/
def Clause.InvariantAtReset : Prop := Inv State.reset

/-- No instruction and no step of the device stops the machine; a step stops only where a slot on the agenda holds a reserved
word, which loading keeps out of every slot that fires (R77). -/
def Clause.NothingStops : Prop :=
  (∀ (i : Instr) (s : State), Goes (exec i s)) ∧
  ∀ s : State, Goes (step s) ∨ ∃ x r, step s = .fault (.undecodable x) ∧
    ((s.clk.agenda.head? = some (.fire x) ∧ decode (s.slot x).word = .reserved r) ∨
      (s.clk.agenda.head? = some (.kfire x) ∧ ∃ b, s.kblk x = some b ∧ decode b.slots[x.slot].word = .reserved r))

/-- R185, R187, R198, R236, R264, R267, R291, R293, R297, R302, R307, R310, R316, R360, R385, R390: what reset leaves in the
registers for which the spec gives a value. -/
def Clause.ResetValues : Prop :=
  let s := State.reset
  s.dev.boot = .waiting ∧ s.dev.failstep = 0 ∧ s.dev.attempts = 0 ∧ s.dev.lock = false ∧ s.dev.logn = 8 ∧ s.dev.logh = 0 ∧
  s.egress.armed = none ∧ s.col.window = 2048 ∧ s.col.logcap = 6 ∧ s.col.ready = false ∧ s.col.seq = 0 ∧
  (∀ i : Fin 256, (s.dev.dmaw[i]).ctl.getLsbD 63 = false) ∧ s.accs = [] ∧ s.kiln.cfgs = [] ∧ s.clk.agenda = [] ∧
    s.clk.pending = [] ∧
  ∀ (c : Fin 96) (k : Fin 4) (r : Fin 8),
    (s.core c).ctxpart = 0xAA ∧ (s.core c).poolS = 96 ∧ (s.core c).poolA = 0 ∧ (s.core c).poolE = 0 ∧ (s.core c).snapwin = 1024 ∧
    (s.core c).ttbase = 0 ∧ (∀ n, (s.core c).guardRow.toList.getD n 0 = 0) ∧ (s.core c).guardPt = 0 ∧ (s.core c).hfab = false ∧
    (s.core c).hctx = 0 ∧ (s.core c).drate = 16 ∧ (s.core c).srate = 16 ∧ (s.core c).eccUe = 0 ∧ (s.core c).eccCe = 0 ∧
    (s.core c).ctxswResult = 0 ∧ (s.ctx c k).st = .stopped ∧ (s.ctx c k).priv = false ∧ (s.ctx c k).qmap = false ∧
    (s.ctx c k).asid = 0 ∧ (s.ctx c k).evq = [] ∧ (s.ctx c k).ovf = false ∧ (s.ctx c k).repActive = false ∧
      (s.region c r).st = .free

/-- A step runs the decoded instruction (the model's agenda, log 1): the word of a slot that holds a well-formed instruction, in
a MAPPED region on an element that is not blocked or in the block of a context in RUN, runs as that instruction with the slot in
focus, when the tokens that it reads have good parity (log 63); a step of the device runs as itself; a slot of a region that is
no longer MAPPED does nothing; with nothing left to do the next cycle begins. -/
def Clause.StepRunsDecoded : Prop :=
  ∀ (s : State) (a : Act) (rest : List Act),
    let left : State := { s with clk := { s.clk with agenda := rest } }
    let focused (x : Site) : State := { s with clk := { s.clk with agenda := rest, focus := x } }
    (s.clk.agenda = [] → step s = .next s.tick ∧ s.tick.clk.now = s.clk.now + 1 ∧ s.tick.mem = s.mem) ∧
    (s.clk.agenda = a :: rest →
      (∀ i, a = .event i → step s = exec i left) ∧
      (∀ x, a = .fire x → (s.region x.core x.unit).st ≠ .mapped → step s = .next left) ∧
      (∀ x i w, a = .fire x → (s.region x.core x.unit).st = .mapped → (s.region x.core x.unit).hasK (x.slot.val / 8) = true →
        (s.elem x.core (s.elemAt x)).blocked = false → (s.slot x).word = w → encode i = some w → i.wf = true →
        (s.badPorts x = [] → step s = exec i (focused x)) ∧
        ((∃ p ∈ s.badPorts x, s.carriesIn x p = false) → step s = .next (left.regionFault x.core x.unit x.slot 0x11 0 true))) ∧
      (∀ x i w b, a = .kfire x → s.kblk x = some b → (s.ctx x.core (ctxOf x)).st = .run → b.slots[x.slot].word = w →
        encode i = some w → i.wf = true → step s = exec i (focused x)))

/-- What a cycle does (the model's agenda, log 1, 113): an event due by the next cycle has its turn in it, an access that its bank
turns away in the cycle after, and a later one waits on; and
every slot of a MAPPED region that holds an instruction, on an element that is not blocked, has its turn in each cycle while
the device is not throttled. -/
def Clause.EventsHappen : Prop :=
  ∀ s : State, s.clk.agenda = [] →
    (∀ n i, (n, i) ∈ s.clk.pending → n ≤ s.clk.now + 1 → Act.event i ∈ s.tick.clk.agenda ∨
      (performs i ≠ none ∧ (s.clk.now + 2, i) ∈ s.tick.clk.pending)) ∧
    (∀ n i, (n, i) ∈ s.clk.pending → n ≤ s.clk.now + 1 → performs i = none → Act.event i ∈ s.tick.clk.agenda) ∧
    (∀ n i, (n, i) ∈ s.clk.pending → s.clk.now + 1 < n → (n, i) ∈ s.tick.clk.pending) ∧
    (s.dev.throttled = false → ∀ c r i, (s.region c r).st = .mapped → (s.region c r).pend = [] →
      (s.region c r).hasK (i.val / 8) = true → (s.elem c (s.elemAt (siteOf c r i))).blocked = false →
      (s.slot (siteOf c r i)).word ≠ 0 → Act.fire (siteOf c r i) ∈ s.tick.clk.agenda)

/-! ## The obligations -/

def Obligations.IntegerArithmetic : Prop :=
  Clause.IntegerArithmetic

def Obligations.BitsAndCompares : Prop :=
  Clause.BitOperations ∧ Clause.CompareAndSelect ∧ Clause.BitFields

def Obligations.MovesAndSources : Prop :=
  Clause.MovesAndSources

def Obligations.FloatInstructions : Prop :=
  Clause.FloatArithmetic ∧ Clause.FloatSelection ∧ Clause.FunctionUnit

def Obligations.FiringRule : Prop :=
  Clause.Firing ∧ Clause.EndFiring ∧ Clause.StreamLength

def Obligations.VoidPoisonAndFaults : Prop :=
  Clause.VoidAndPoison ∧ Clause.FormatFault ∧ Clause.FaultOfAFiring

def Obligations.FabricFrame : Prop :=
  Clause.FabricFrame

def Obligations.Conversions : Prop :=
  Clause.Narrowing ∧ Clause.Widening ∧ Clause.BlockFirings

def Obligations.Reductions : Prop :=
  Clause.IntegerReductions ∧ Clause.ReductionTree ∧ Clause.ArgMax ∧ Clause.RunningSum ∧ Clause.DotProduct

def Obligations.LaneMovement : Prop :=
  Clause.LaneMovement ∧ Clause.WindowAdvance

def Obligations.RandomDraw : Prop :=
  Clause.RandomDraw

def Obligations.Sampling : Prop :=
  Clause.StateMerge ∧ Clause.WeightedDraw ∧ Clause.DraftAcceptance

def Obligations.Routing : Prop :=
  Clause.Steer ∧ Clause.CarryLoop ∧ Clause.InvariantCopies ∧ Clause.Merges

def Obligations.Drop : Prop :=
  Clause.Drop

def Obligations.StreamControl : Prop :=
  Clause.Cinch ∧ Clause.Count ∧ Clause.LoopCounters ∧ Clause.EndInsertion ∧ Clause.Gate

def Obligations.RotationPasses : Prop :=
  Clause.RotationPass ∧ Clause.SlotFault ∧ Clause.Admission ∧ Clause.AdmissionRequest

def Obligations.SlotCommands : Prop :=
  Clause.Commands ∧ Clause.CommandQueue ∧ Clause.SlotCommandEffects ∧ Clause.SlotStatus

def Obligations.BanksAndEmbers : Prop :=
  Clause.RotationCommands ∧ Clause.BankImage ∧ Clause.Unbank ∧ Clause.EmberSteps

def Obligations.HeadRetirement : Prop :=
  Clause.Retirement ∧ Clause.Lookahead

def Obligations.Snapshots : Prop :=
  Clause.Mark ∧ Clause.SnapshotSteps

def Obligations.MemoryAndAddresses : Prop :=
  Clause.MemoryBytes ∧ Clause.Addresses

def Obligations.MemoryFirings : Prop :=
  Clause.Loads ∧
  Clause.Stores ∧
  Clause.LaneAccesses ∧
  Clause.AtomicAndDone ∧
  Clause.Rings ∧
  Clause.VoidAddress ∧
  Clause.RefusedAddress

def Obligations.AccessesPerformed : Prop :=
  Clause.LoadPerformed ∧ Clause.LdsWaits ∧ Clause.StorePerformed ∧ Clause.AtomicPerformed ∧ Clause.RingPushed ∧
  Clause.BankOrder

def Obligations.ResultsInOrder : Prop :=
  Clause.ResultsInOrder

def Obligations.Translation : Prop :=
  Clause.PageWalk ∧ Clause.Translation ∧ Clause.WalkEnds

def Obligations.KvPages : Prop :=
  Clause.PageFirings ∧ Clause.PageTable ∧ Clause.PageLoads ∧ Clause.PageValues ∧ Clause.AppendFirings ∧ Clause.AppendRefused ∧
  Clause.AppendDone

def Obligations.Egress : Prop :=
  Clause.EgressFirings ∧ Clause.EgressPut ∧ Clause.EgressVerdict ∧ Clause.EgressPort

def Obligations.EgressReset : Prop :=
  Clause.EgressReset

def Obligations.TaskQueue : Prop :=
  Clause.IslandCommands ∧ Clause.IslandGuard ∧ Clause.Enqueue ∧ Clause.Scheduler

def Obligations.TaskRetirement : Prop :=
  Clause.TaskRetires ∧ Clause.DrainsAndSyncs

def Obligations.Transfers : Prop :=
  Clause.TransferStarts ∧ Clause.TransferMoves

def Obligations.Reins : Prop :=
  Clause.ReinCommands ∧ Clause.ReinUpdates ∧ Clause.ReinWindows

def Obligations.ScalarInstructions : Prop :=
  Clause.ScalarArithmetic ∧ Clause.ScalarChoice

def Obligations.ScalarMemoryAndRegisters : Prop :=
  Clause.ScalarMemory ∧ Clause.ScalarRegisters ∧ Clause.ContextAccesses

def Obligations.RegisterRanges : Prop :=
  Clause.RangeFirings ∧ Clause.Repetitions

def Obligations.ControlFlow : Prop :=
  Clause.Branches ∧ Clause.BlockCommits ∧ Clause.BlockStarts ∧ Clause.FetchRefused

def Obligations.CsrInstructions : Prop :=
  Clause.CsrAccess ∧ Clause.CsrValues

def Obligations.TrapsAndWaits : Prop :=
  Clause.TrapAndReturn ∧ Clause.Waits ∧ Clause.EventQueue ∧ Clause.ContextStops

def Obligations.Rewrites : Prop :=
  Clause.Rewrites ∧ Clause.RewriteApplied

def Obligations.LaunchAndArm : Prop :=
  Clause.Launches ∧ Clause.Arms

def Obligations.RegisterAllotments : Prop :=
  Clause.Allotments

def Obligations.CsrWrites : Prop :=
  Clause.CsrWrites ∧ Clause.GuardMap ∧ Clause.Invalidations ∧ Clause.DeviceCsrs

def Obligations.ContextStart : Prop :=
  Clause.ContextStart

def Obligations.ContextSwitch : Prop :=
  Clause.ContextSwitch ∧ Clause.ContextControl

def Obligations.Collector : Prop :=
  Clause.CollectorWindows ∧ Clause.Resume

def Obligations.FabricSteps : Prop :=
  Clause.Arrivals ∧ Clause.Credits ∧ Clause.DropReports ∧ Clause.LongChannels

def Obligations.RegionLife : Prop :=
  Clause.RegionLoading ∧ Clause.RegionCommits

def Obligations.RegionRecovery : Prop :=
  Clause.RegionRecovery ∧ Clause.EvictAndRestore

def Obligations.KilnQueue : Prop :=
  Clause.LaunchQueue ∧ Clause.KilnPlacing

def Obligations.Packets : Prop :=
  Clause.PacketReplies

def Obligations.Boot : Prop :=
  Clause.Boot

def Obligations.HostLink : Prop :=
  Clause.IngressPorts ∧ Clause.HostWindow

def Obligations.ResetAndScrub : Prop :=
  Clause.ResetAndScrub

def Obligations.EncodeThenDecode : Prop :=
  Clause.EncodeThenDecode

def Obligations.DecodeThenEncode : Prop :=
  Clause.DecodeThenEncode ∧ Clause.ReservedOpcodes

def Obligations.WordsWrittenOut : Prop :=
  Clause.WordsWrittenOut

def Obligations.InvariantKept : Prop :=
  Clause.InvariantKept

def Obligations.AtReset : Prop :=
  Clause.InvariantAtReset ∧ Clause.ResetValues

def Obligations.StepRunsDecoded : Prop :=
  Clause.StepRunsDecoded

def Obligations.EventsHappen : Prop :=
  Clause.EventsHappen ∧ Clause.NothingStops
end

