-- ==== Sys2Proof/Laws/Memory.lean ====
section
/-! SUPPORT. Memory: every operation on it keeps the canonical form (R244, log 4), and a read after a write gives the value
written at the bytes written and the old value elsewhere. -/

namespace Sys2Proof.Machine

/-! ## Rising lists -/

theorem risesFrom_mono {lo lo' : Nat} {l : List Nat} (h : lo' ≤ lo) (hl : risesFrom lo l = true) :
    risesFrom lo' l = true := by
  cases l with
  | nil => rfl
  | cons k rest =>
    simp only [risesFrom, Bool.and_eq_true, decide_eq_true_eq] at hl ⊢
    exact ⟨by omega, hl.2⟩

theorem risesFrom_ge {lo : Nat} {l : List Nat} (hl : risesFrom lo l = true) {k : Nat} (hk : k ∈ l) : lo ≤ k := by
  induction l generalizing lo with
  | nil => cases hk
  | cons a rest ih =>
    simp only [risesFrom, Bool.and_eq_true, decide_eq_true_eq] at hl
    rcases List.mem_cons.1 hk with rfl | hk
    · exact hl.1
    · have := ih hl.2 hk; omega

/-- Adding a number keeps a list rising. -/
theorem natAdd_rises {lo a : Nat} {l : List Nat} (ha : lo ≤ a) (hl : risesFrom lo l = true) :
    risesFrom lo (natAdd a l) = true := by
  induction l generalizing lo with
  | nil => simp [natAdd, risesFrom, ha]
  | cons k rest ih =>
    simp only [risesFrom, Bool.and_eq_true, decide_eq_true_eq] at hl
    unfold natAdd
    split
    · simp only [risesFrom, Bool.and_eq_true, decide_eq_true_eq]
      exact ⟨hl.1, ih (by omega) hl.2⟩
    · split <;> simp only [risesFrom, Bool.and_eq_true, decide_eq_true_eq]
      · exact hl
      · refine ⟨ha, ?_, hl.2⟩
        rename_i h1 h2
        simp only [beq_iff_eq] at h2
        omega

/-- Taking a number out keeps a list rising. -/
theorem natDel_rises {lo a : Nat} {l : List Nat} (hl : risesFrom lo l = true) : risesFrom lo (natDel a l) = true := by
  induction l generalizing lo with
  | nil => rfl
  | cons k rest ih =>
    simp only [risesFrom, Bool.and_eq_true, decide_eq_true_eq] at hl
    unfold natDel
    split
    · exact risesFrom_mono (by omega) hl.2
    · simp only [risesFrom, Bool.and_eq_true, decide_eq_true_eq]
      exact ⟨hl.1, ih hl.2⟩

/-- A part of a rising list rises. -/
theorem filter_rises {lo : Nat} {l : List Nat} (p : Nat → Bool) (hl : risesFrom lo l = true) :
    risesFrom lo (l.filter p) = true := by
  induction l generalizing lo with
  | nil => rfl
  | cons k rest ih =>
    simp only [risesFrom, Bool.and_eq_true, decide_eq_true_eq] at hl
    rw [List.filter_cons]
    split
    · simp only [risesFrom, Bool.and_eq_true, decide_eq_true_eq]
      exact ⟨hl.1, ih hl.2⟩
    · exact ih (risesFrom_mono (by omega) hl.2)

theorem foldl_natDel_rises {lo : Nat} (us : List Nat) {l : List Nat} (hl : risesFrom lo l = true) :
    risesFrom lo (us.foldl (fun l u => natDel u l) l) = true := by
  induction us generalizing l with
  | nil => exact hl
  | cons u rest ih => exact ih (natDel_rises hl)

/-! ## Cells -/

/-- Cells of a run lie in it and rise. -/
theorem cellRun_rises (a : Nat) (bs : List Byte) : risesFrom a ((cellRun a bs).map Prod.fst) = true := by
  induction bs generalizing a with
  | nil => rfl
  | cons v rest ih =>
    unfold cellRun
    split
    · exact risesFrom_mono (by omega) (ih (a + 1))
    · simp only [List.map_cons, risesFrom, Bool.and_eq_true, decide_eq_true_eq]
      exact ⟨Nat.le_refl a, ih (a + 1)⟩

theorem cellRun_lt {a : Nat} {bs : List Byte} {c : Host.Cell} (h : c ∈ cellRun a bs) : c.1 < a + bs.length := by
  induction bs generalizing a with
  | nil => cases h
  | cons v rest ih =>
    unfold cellRun at h
    have step : c ∈ cellRun (a + 1) rest → c.1 < a + (v :: rest).length := fun h => by
      have := ih h
      simp only [List.length_cons]
      omega
    split at h
    · exact step h
    · rcases List.mem_cons.1 h with rfl | h
      · simp
      · exact step h

theorem cellRun_listed {a : Nat} {bs : List Byte} {c : Host.Cell} (h : c ∈ cellRun a bs) :
    (c.2 != Memory.unlisted) = true := by
  induction bs generalizing a with
  | nil => cases h
  | cons v rest ih =>
    unfold cellRun at h
    split at h
    · exact ih h
    · rcases List.mem_cons.1 h with rfl | h
      · rename_i hv
        simpa [bne] using hv
      · exact ih h

/-- Two rising lists, the first below a bound and the second from it on, rise together. -/
theorem append_rises {lo hi : Nat} {l m : List Nat} (hl : risesFrom lo l = true) (hb : ∀ k ∈ l, k < hi)
    (hm : risesFrom hi m = true) (hlo : lo ≤ hi) : risesFrom lo (l ++ m) = true := by
  induction l generalizing lo with
  | nil => exact risesFrom_mono hlo hm
  | cons k rest ih =>
    simp only [List.cons_append, risesFrom, Bool.and_eq_true, decide_eq_true_eq] at hl ⊢
    have := hb k (by simp)
    exact ⟨hl.1, ih hl.2 (fun j hj => hb j (by simp [hj])) (by omega)⟩

theorem rises_from_bound {lo hi : Nat} {l : List Nat} (hl : risesFrom lo l = true) (hb : ∀ k ∈ l, hi ≤ k) :
    risesFrom hi l = true := by
  cases l with
  | nil => rfl
  | cons k rest =>
    simp only [risesFrom, Bool.and_eq_true, decide_eq_true_eq] at hl ⊢
    exact ⟨hb k (by simp), hl.2⟩

/-! ## Every operation keeps the canonical form -/

/-- The canonical form, part by part. -/
theorem Memory.wf_iff (m : Memory) : m.wf = true ↔
    risesFrom 0 (m.cells.map Prod.fst) = true ∧ (∀ c ∈ m.cells, (c.2 != Memory.unlisted) = true) ∧
      risesFrom 0 m.full = true ∧ risesFrom 0 m.poison = true ∧ risesFrom 0 m.ue = true ∧ risesFrom 0 m.ce = true := by
  simp only [Memory.wf, Bool.and_eq_true, List.all_eq_true, and_assoc]

theorem Memory.reset_wf : Memory.reset.wf = true := rfl

theorem Memory.putAll_wf {m : Memory} (h : m.wf = true) (a : Nat) (bs : List Byte) : (m.putAll a bs).wf = true := by
  rw [Memory.wf_iff] at h ⊢
  obtain ⟨hr, hv, rest⟩ := h
  have keys (p : Nat → Bool) : (m.cells.filter fun c => p c.1).map Prod.fst = (m.cells.map Prod.fst).filter p := by
    rw [List.filter_map]; rfl
  refine ⟨?_, ?_, rest⟩
  · simp only [Memory.putAll, List.map_append, keys (fun k => decide (k < a)), keys (fun k => decide (a + bs.length ≤ k))]
    refine append_rises (hi := a + bs.length) (append_rises (hi := a) (filter_rises _ hr) ?_ (cellRun_rises a bs) (by omega)) ?_
      (rises_from_bound (filter_rises _ hr) ?_) (by omega)
    · intro k hk; simpa using (List.mem_filter.1 hk).2
    · intro k hk
      rcases List.mem_append.1 hk with hk | hk
      · have : k < a := by simpa using (List.mem_filter.1 hk).2
        omega
      · obtain ⟨c, hc, rfl⟩ := List.mem_map.1 hk
        exact cellRun_lt hc
    · intro k hk; simpa using (List.mem_filter.1 hk).2
  · intro c hc
    simp only [Memory.putAll, List.mem_append] at hc
    rcases hc with (hc | hc) | hc
    · exact hv c (List.mem_filter.1 hc).1
    · exact cellRun_listed hc
    · exact hv c (List.mem_filter.1 hc).1

theorem Memory.setFull_wf {m : Memory} (h : m.wf = true) (a : Nat) (v : Bool) : (m.setFull a v).wf = true := by
  rw [Memory.wf_iff] at h ⊢
  obtain ⟨h1, h2, h3, h4⟩ := h
  refine ⟨h1, h2, ?_, h4⟩
  cases v
  · exact natDel_rises h3
  · exact natAdd_rises (Nat.zero_le _) h3

theorem Memory.setPoison_wf {m : Memory} (h : m.wf = true) (a : Nat) (v : Bool) : (m.setPoison a v).wf = true := by
  rw [Memory.wf_iff] at h ⊢
  obtain ⟨h1, h2, h3, h4, h5⟩ := h
  refine ⟨h1, h2, h3, ?_, h5⟩
  cases v
  · exact natDel_rises h4
  · exact natAdd_rises (Nat.zero_le _) h4

theorem Memory.clean_wf {m : Memory} (h : m.wf = true) (a : Nat) : (m.clean a).wf = true := by
  rw [Memory.wf_iff] at h ⊢
  obtain ⟨h1, h2, h3, h4, h5, h6⟩ := h
  exact ⟨h1, h2, h3, natDel_rises h4, natDel_rises h5, natDel_rises h6⟩

theorem Memory.touch_wf {m : Memory} (h : m.wf = true) (a : Nat) : (m.touch a).wf = true := by
  rw [Memory.wf_iff] at h ⊢
  obtain ⟨h1, h2, h3, h4, h5, h6⟩ := h
  exact ⟨h1, h2, h3, h4, h5, natDel_rises h6⟩

/-- A fold of operations that keep the form keeps it. -/
theorem Memory.foldl_wf {α : Type} (f : Memory → α → Memory) (hf : ∀ m a, m.wf = true → (f m a).wf = true) (l : List α)
    {m : Memory} (h : m.wf = true) : (l.foldl f m).wf = true := by
  induction l generalizing m with
  | nil => exact h
  | cons a rest ih => exact ih (hf m a h)

theorem Memory.store_wf {m : Memory} (h : m.wf = true) (a : Nat) (bs : List Byte) : (m.store a bs).wf = true := by
  refine Memory.foldl_wf _ (fun m i h => ?_) _ (Memory.putAll_wf h a bs)
  dsimp only
  split
  · exact Memory.clean_wf h _
  · exact Memory.touch_wf h _

/-! ## Reads after writes -/

theorem cellAt_append_of_notin {a : Nat} {l m : List Host.Cell} (h : ∀ c ∈ l, c.1 ≠ a) : cellAt a (l ++ m) = cellAt a m := by
  induction l with
  | nil => rfl
  | cons c rest ih =>
    obtain ⟨k, v⟩ := c
    have hk : (k == a) = false := by simpa using h (k, v) (by simp)
    simp only [List.cons_append, cellAt, hk]
    exact ih fun d hd => h d (by simp [hd])

theorem cellAt_append_left {a : Nat} {l m : List Host.Cell} (h : ∀ c ∈ m, c.1 ≠ a) : cellAt a (l ++ m) = cellAt a l := by
  induction l with
  | nil =>
    have := cellAt_append_of_notin (m := []) h
    simpa using this
  | cons c rest ih =>
    obtain ⟨k, v⟩ := c
    simp only [List.cons_append, cellAt]
    split
    · rfl
    · exact ih

theorem cellAt_filter {a : Nat} {l : List Host.Cell} (p : Nat → Bool) (h : p a = true) :
    cellAt a (l.filter fun c => p c.1) = cellAt a l := by
  induction l with
  | nil => rfl
  | cons c rest ih =>
    obtain ⟨k, v⟩ := c
    rw [List.filter_cons]
    by_cases hk : k = a
    · subst hk; simp [h, cellAt]
    · have hk' : (k == a) = false := by simpa using hk
      split <;> simp [cellAt, hk', ih]

theorem cellRun_ge {a : Nat} {bs : List Byte} {c : Host.Cell} (h : c ∈ cellRun a bs) : a ≤ c.1 :=
  risesFrom_ge (cellRun_rises a bs) (List.mem_map.2 ⟨c, h, rfl⟩)

theorem cellAt_run {a i : Nat} {bs : List Byte} (h : i < bs.length) : cellAt (a + i) (cellRun a bs) = bs[i] := by
  induction bs generalizing a i with
  | nil => simp at h
  | cons v rest ih =>
    cases i with
    | zero =>
      unfold cellRun
      split
      · rename_i hv
        have hn := cellAt_append_of_notin (a := a) (l := cellRun (a + 1) rest) (m := [])
          (fun c hc => by have := cellRun_ge hc; omega)
        rw [List.append_nil] at hn
        have hv' : v = Memory.unlisted := by simpa using hv
        simpa [hv', cellAt] using hn
      · simp [cellAt]
    | succ i =>
      have step : cellAt (a + (i + 1)) (cellRun (a + 1) rest) = rest[i]'(by simpa using h) := by
        rw [show a + (i + 1) = a + 1 + i from by omega]
        exact ih _
      unfold cellRun
      split
      · simpa using step
      · have : (a == a + (i + 1)) = false := by simp
        simp only [cellAt, this]
        simpa using step

/-- A byte written reads as it was written. -/
theorem Memory.byte_putAll (m : Memory) (a i : Nat) (bs : List Byte) (h : i < bs.length) :
    (m.putAll a bs).byte (a + i) = bs[i] := by
  simp only [Memory.byte, Memory.putAll, List.append_assoc]
  rw [cellAt_append_of_notin, cellAt_append_left, cellAt_run h]
  · intro c hc
    have : a + bs.length ≤ c.1 := by simpa using (List.mem_filter.1 hc).2
    omega
  · intro c hc
    have : c.1 < a := by simpa using (List.mem_filter.1 hc).2
    omega

/-- A byte not written reads as before. -/
theorem Memory.byte_putAll_of_outside (m : Memory) (a k : Nat) (bs : List Byte) (h : k < a ∨ a + bs.length ≤ k) :
    (m.putAll a bs).byte k = m.byte k := by
  simp only [Memory.byte, Memory.putAll, List.append_assoc]
  rcases h with h | h
  · rw [cellAt_append_left]
    · exact cellAt_filter (fun j => decide (j < a)) (by simpa using h)
    · intro c hc
      rcases List.mem_append.1 hc with hc | hc
      · have := cellRun_ge hc; omega
      · have : a + bs.length ≤ c.1 := by simpa using (List.mem_filter.1 hc).2
        omega
  · rw [cellAt_append_of_notin, cellAt_append_of_notin]
    · exact cellAt_filter (fun j => decide (a + bs.length ≤ j)) (by simpa using h)
    · intro c hc; have := cellRun_lt hc; omega
    · intro c hc
      have : c.1 < a := by simpa using (List.mem_filter.1 hc).2
      omega

theorem Memory.byte_foldl {α : Type} (f : Memory → α → Memory) (hf : ∀ m a, (f m a).cells = m.cells) (l : List α)
    (m : Memory) : (l.foldl f m).cells = m.cells := by
  induction l generalizing m with
  | nil => rfl
  | cons a rest ih => rw [List.foldl_cons, ih, hf]

/-- Clearing and touching units changes no byte: a store reads as its `putAll`. -/
theorem Memory.store_cells (m : Memory) (a : Nat) (bs : List Byte) : (m.store a bs).cells = (m.putAll a bs).cells := by
  refine Memory.byte_foldl _ (fun m i => ?_) _ _
  dsimp only
  split <;> rfl

/-- A byte stored reads as it was stored. -/
theorem Memory.byte_store (m : Memory) (a i : Nat) (bs : List Byte) (h : i < bs.length) :
    (m.store a bs).byte (a + i) = bs[i] := by
  rw [Memory.byte, Memory.store_cells]
  exact Memory.byte_putAll m a i bs h

/-- A byte not stored to reads as before. -/
theorem Memory.byte_store_of_outside (m : Memory) (a k : Nat) (bs : List Byte) (h : k < a ∨ a + bs.length ≤ k) :
    (m.store a bs).byte k = m.byte k := by
  rw [Memory.byte, Memory.store_cells]
  exact Memory.byte_putAll_of_outside m a k bs h

@[simp] theorem Memory.setFull_byte (m : Memory) (a k : Nat) (v : Bool) : (m.setFull a v).byte k = m.byte k := rfl
@[simp] theorem Memory.setPoison_byte (m : Memory) (a k : Nat) (v : Bool) : (m.setPoison a v).byte k = m.byte k := rfl
@[simp] theorem Memory.clean_byte (m : Memory) (a k : Nat) : (m.clean a).byte k = m.byte k := rfl
@[simp] theorem Memory.touch_byte (m : Memory) (a k : Nat) : (m.touch a).byte k = m.byte k := rfl

end Sys2Proof.Machine
end

