-- ==== Sys2Proof/Laws/FireMem.lean ====
section
/-! SUPPORT. What a firing and the operations over memory and registers do to memory: each leaves it as it is, or keeps its canonical form. -/

namespace Sys2Proof.Machine

set_option linter.unusedSimpArgs false

/-! ## Machine/Ops.lean -/

/-- What the outcome of a meaning says of memory: a next state has the memory `m`. -/
def MemIs (m : Memory) : Done → Prop
  | .next t => t.mem = m
  | _ => True

/-- What the outcome of a meaning says of memory: a next state's memory has the canonical form. -/
def MemWf : Done → Prop
  | .next t => t.mem.wf = true
  | _ => True

@[simp] theorem memIs_next (m : Memory) (t : State) : MemIs m (.next t) ↔ t.mem = m := Iff.rfl

@[simp] theorem memWf_next (t : State) : MemWf (.next t) ↔ t.mem.wf = true := Iff.rfl

/-- A fold of operations that leave memory alone leaves it alone. -/
@[simp] theorem foldl_mem {α : Type} (f : State → α → State) (l : List α) (s : State)
    (h : ∀ s a, (f s a).mem = s.mem) : (l.foldl f s).mem = s.mem := by
  induction l generalizing s with
  | nil => rfl
  | cons a l ih => rw [List.foldl_cons, ih, h]

/-- A fold of operations on a state and something beside it that leave memory alone leaves it alone. -/
@[simp] theorem foldl_fst_mem {α β : Type} (f : State × β → α → State × β) (l : List α) (q : State × β)
    (h : ∀ q a, (f q a).1.mem = q.1.mem) : (l.foldl f q).1.mem = q.1.mem := by
  induction l generalizing q with
  | nil => rfl
  | cons a l ih => rw [List.foldl_cons, ih, h]

/-- Memory through a choice. -/
theorem ite_mem {c : Prop} [Decidable c] {a b : State} {m : Memory} (ha : a.mem = m) (hb : b.mem = m) :
    (if c then a else b).mem = m := by split <;> assumption

/-- The canonical form through a choice. -/
theorem ite_wf {c : Prop} [Decidable c] {a b : State} (ha : a.mem.wf = true) (hb : b.mem.wf = true) :
    (if c then a else b).mem.wf = true := by split <;> assumption

theorem memWf_of_memIs {m : Memory} {d : Done} (h : m.wf = true) (hd : MemIs m d) : MemWf d := by
  cases d with
  | next t => exact (congrArg Memory.wf hd).trans h
  | fault _ => trivial
  | refused _ => trivial

/-- Memory through a choice whose branches use the condition. -/
theorem dite_mem {c : Prop} [Decidable c] {a : c → State} {b : ¬c → State} {m : Memory} (ha : ∀ h, (a h).mem = m)
    (hb : ∀ h, (b h).mem = m) : (dite c a b).mem = m := by split <;> simp_all

/-- The canonical form through a choice whose branches use the condition. -/
theorem dite_wf {c : Prop} [Decidable c] {a : c → State} {b : ¬c → State} (ha : ∀ h, (a h).mem.wf = true)
    (hb : ∀ h, (b h).mem.wf = true) : (dite c a b).mem.wf = true := by split <;> simp_all

theorem doneState_wf {d : Done} {s : State} (hs : s.mem.wf = true) :
    MemWf d → (match d with | .next t => t | _ => s : State).mem.wf = true := by
  cases d with
  | next t => exact fun h => h
  | fault _ => exact fun _ => hs
  | refused _ => exact fun _ => hs

theorem doneState_mem {d : Done} {s : State} {m : Memory} (hs : s.mem = m) :
    MemIs m d → (match d with | .next t => t | _ => s : State).mem = m := by
  cases d with
  | next t => exact fun h => h
  | fault _ => exact fun _ => hs
  | refused _ => exact fun _ => hs

@[simp] theorem State.onCore_mem (s : State) (c : Fin 96) (f : Core → Core) : (State.onCore s c f).mem = s.mem := by
  unfold State.onCore
  first | rfl | (repeat' (
    first | (simp (maxDischargeDepth := 40); done) | split | with_reducible refine foldl_mem _ _ _ ?_ | intro _ _
          | simp (maxDischargeDepth := 40) | dsimp only))

@[simp] theorem State.onRegion_mem (s : State) (c : Fin 96) (r : Fin 8) (f : Region → Region) :
    (State.onRegion s c r f).mem = s.mem := by
  unfold State.onRegion
  first | rfl | (repeat' (
    first | (simp (maxDischargeDepth := 40); done) | split | with_reducible refine foldl_mem _ _ _ ?_ | intro _ _
          | simp (maxDischargeDepth := 40) | dsimp only))

@[simp] theorem State.onCtx_mem (s : State) (c : Fin 96) (x : Fin 4) (f : Context → Context) :
    (State.onCtx s c x f).mem = s.mem := by
  unfold State.onCtx
  first | rfl | (repeat' (
    first | (simp (maxDischargeDepth := 40); done) | split | with_reducible refine foldl_mem _ _ _ ?_ | intro _ _
          | simp (maxDischargeDepth := 40) | dsimp only))

@[simp] theorem State.onElem_mem (s : State) (c : Fin 96) (e : Fin 32) (f : Element → Element) :
    (State.onElem s c e f).mem = s.mem := by
  unfold State.onElem
  first | rfl | (repeat' (
    first | (simp (maxDischargeDepth := 40); done) | split | with_reducible refine foldl_mem _ _ _ ?_ | intro _ _
          | simp (maxDischargeDepth := 40) | dsimp only))

@[simp] theorem State.onSlot_mem (s : State) (x : Site) (f : Slot → Slot) : (State.onSlot s x f).mem = s.mem := by
  unfold State.onSlot
  first | rfl | (repeat' (
    first | (simp (maxDischargeDepth := 40); done) | split | with_reducible refine foldl_mem _ _ _ ?_ | intro _ _
          | simp (maxDischargeDepth := 40) | dsimp only))

@[simp] theorem State.onHead_mem (s : State) (x : Site) (f : Head → Head) : (State.onHead s x f).mem = s.mem := by
  unfold State.onHead
  first | rfl | (repeat' (
    first | (simp (maxDischargeDepth := 40); done) | split | with_reducible refine foldl_mem _ _ _ ?_ | intro _ _
          | simp (maxDischargeDepth := 40) | dsimp only))

@[simp] theorem State.onCfg_mem (s : State) (h : Word64) (f : Cfg → Cfg) : (State.onCfg s h f).mem = s.mem := by
  unfold State.onCfg
  first | rfl | (repeat' (
    first | (simp (maxDischargeDepth := 40); done) | split | with_reducible refine foldl_mem _ _ _ ?_ | intro _ _
          | simp (maxDischargeDepth := 40) | dsimp only))

@[simp] theorem State.onAcc_mem (s : State) (id : Nat) (f : Access → Access) : (State.onAcc s id f).mem = s.mem := by
  unfold State.onAcc
  first | rfl | (repeat' (
    first | (simp (maxDischargeDepth := 40); done) | split | with_reducible refine foldl_mem _ _ _ ?_ | intro _ _
          | simp (maxDischargeDepth := 40) | dsimp only))

@[simp] theorem State.dropAcc_mem (s : State) (id : Nat) : (State.dropAcc s id).mem = s.mem := by
  unfold State.dropAcc
  first | rfl | (repeat' (
    first | (simp (maxDischargeDepth := 40); done) | split | with_reducible refine foldl_mem _ _ _ ?_ | intro _ _
          | simp (maxDischargeDepth := 40) | dsimp only))

@[simp] theorem State.later_mem (s : State) (d : Nat) (i : Instr) : (State.later s d i).mem = s.mem := by
  unfold State.later
  first | rfl | (repeat' (
    first | (simp (maxDischargeDepth := 40); done) | split | with_reducible refine foldl_mem _ _ _ ?_ | intro _ _
          | simp (maxDischargeDepth := 40) | dsimp only))

@[simp] theorem State.soon_mem (s : State) (i : Instr) : (State.soon s i).mem = s.mem := by
  unfold State.soon
  first | rfl | (repeat' (
    first | (simp (maxDischargeDepth := 40); done) | split | with_reducible refine foldl_mem _ _ _ ?_ | intro _ _
          | simp (maxDischargeDepth := 40) | dsimp only))

@[simp] theorem State.tickBy_mem (s : State) (n : Nat) : (State.tickBy s n).mem = s.mem := by
  unfold State.tickBy
  first | rfl | (repeat' (
    first | (simp (maxDischargeDepth := 40); done) | split | with_reducible refine foldl_mem _ _ _ ?_ | intro _ _
          | simp (maxDischargeDepth := 40) | dsimp only))

@[simp] theorem State.tickFresh_mem (s : State) : (State.tickFresh s).mem = s.mem := by
  unfold State.tickFresh
  first | rfl | (repeat' (
    first | (simp (maxDischargeDepth := 40); done) | split | with_reducible refine foldl_mem _ _ _ ?_ | intro _ _
          | simp (maxDischargeDepth := 40) | dsimp only))

@[simp] theorem State.laterFree_mem (s : State) (least : Nat) (i : Instr) :
    (State.laterFree s least i).mem = s.mem := by
  unfold State.laterFree
  first | rfl | (repeat' (
    first | (simp (maxDischargeDepth := 40); done) | split | with_reducible refine foldl_mem _ _ _ ?_ | intro _ _
          | simp (maxDischargeDepth := 40) | dsimp only))

@[simp] theorem State.tickId_mem (s : State) : (State.tickId s).mem = s.mem := by
  unfold State.tickId
  first | rfl | (repeat' (
    first | (simp (maxDischargeDepth := 40); done) | split | with_reducible refine foldl_mem _ _ _ ?_ | intro _ _
          | simp (maxDischargeDepth := 40) | dsimp only))

@[simp] theorem State.pushEvent_mem (s : State) (c : Fin 96) (x : Fin 4) (r : Record) (located : Bool) :
    (State.pushEvent s c x r located).mem = s.mem := by
  unfold State.pushEvent
  first | rfl | (repeat' (
    first | (simp (maxDischargeDepth := 40); done) | split | with_reducible refine foldl_mem _ _ _ ?_ | intro _ _
          | simp (maxDischargeDepth := 40) | dsimp only))

@[simp] theorem State.collect_mem (s : State) (r : CRec) : (State.collect s r).mem = s.mem := by
  unfold State.collect
  first | rfl | (repeat' (
    first | (simp (maxDischargeDepth := 40); done) | split | with_reducible refine foldl_mem _ _ _ ?_ | intro _ _
          | simp (maxDischargeDepth := 40) | dsimp only))

@[simp] theorem State.postTo_mem (s : State) (c : Fin 96) (x : Fin 4) (asid : BitVec 12) (r : Record)
    (located : Bool) :
    (State.postTo s c x asid r located).mem = s.mem := by
  unfold State.postTo
  first | rfl | (repeat' (
    first | (simp (maxDischargeDepth := 40); done) | split | with_reducible refine foldl_mem _ _ _ ?_ | intro _ _
          | simp (maxDischargeDepth := 40) | dsimp only))

@[simp] theorem State.post_mem (s : State) (cfg : Cfg) (r : Record) (located : Bool) :
    (State.post s cfg r located).mem = s.mem := by
  unfold State.post
  first | rfl | (repeat' (
    first | (simp (maxDischargeDepth := 40); done) | split | with_reducible refine foldl_mem _ _ _ ?_ | intro _ _
          | simp (maxDischargeDepth := 40) | dsimp only))

@[simp] theorem State.regionFault_mem (s : State) (c : Fin 96) (r : Fin 8) (slot : Fin 128) (cause : BitVec 8)
    (addr : Word64) (collect : Bool) :
    (State.regionFault s c r slot cause addr collect).mem = s.mem := by
  unfold State.regionFault
  first | rfl | (repeat' (
    first | (simp (maxDischargeDepth := 40); done) | split | with_reducible refine foldl_mem _ _ _ ?_ | intro _ _
          | simp (maxDischargeDepth := 40) | dsimp only))

@[simp] theorem State.firingFault_mem (s : State) (x : Site) (c : Cause) : (State.firingFault s x c).mem = s.mem := by
  unfold State.firingFault
  first | rfl | (repeat' (
    first | (simp (maxDischargeDepth := 40); done) | split | with_reducible refine foldl_mem _ _ _ ?_ | intro _ _
          | simp (maxDischargeDepth := 40) | dsimp only))

@[simp] theorem State.postGuard_mem (s : State) (c : Fin 96) (r : Fin 8) (g : GuardRep) :
    (State.postGuard s c r g).mem = s.mem := by
  unfold State.postGuard
  first | rfl | (repeat' (
    first | (simp (maxDischargeDepth := 40); done) | split | with_reducible refine foldl_mem _ _ _ ?_ | intro _ _
          | simp (maxDischargeDepth := 40) | dsimp only))

@[simp] theorem State.postGuards_mem (s : State) (c : Fin 96) (r : Fin 8) : (State.postGuards s c r).mem = s.mem := by
  unfold State.postGuards
  first | rfl | (repeat' (
    first | (simp (maxDischargeDepth := 40); done) | split | with_reducible refine foldl_mem _ _ _ ?_ | intro _ _
          | simp (maxDischargeDepth := 40) | dsimp only))

@[simp] theorem State.postFaults_mem (s : State) (g : Region) (c : Fin 96) (r : Fin 8) (f : RFault)
    (agent : BitVec 3) :
    (State.postFaults s g c r f agent).mem = s.mem := by
  unfold State.postFaults
  first | rfl | (repeat' (
    first | (simp (maxDischargeDepth := 40); done) | split | with_reducible refine foldl_mem _ _ _ ?_ | intro _ _
          | simp (maxDischargeDepth := 40) | dsimp only))

@[simp] theorem State.settleFaults_mem (s : State) (c : Fin 96) (r : Fin 8) :
    (State.settleFaults s c r).mem = s.mem := by
  unfold State.settleFaults
  first | rfl | (repeat' (
    first | (simp (maxDischargeDepth := 40); done) | split | with_reducible refine foldl_mem _ _ _ ?_ | intro _ _
          | simp (maxDischargeDepth := 40) | dsimp only))

@[simp] theorem State.trap_mem (s : State) (c : Fin 96) (x : Fin 4) (slot : Fin 128) (cause : BitVec 8)
    (val : Word64) :
    (State.trap s c x slot cause val).mem = s.mem := by
  unfold State.trap
  first | rfl | (repeat' (
    first | (simp (maxDischargeDepth := 40); done) | split | with_reducible refine foldl_mem _ _ _ ?_ | intro _ _
          | simp (maxDischargeDepth := 40) | dsimp only))

@[simp] theorem State.startFetch_mem (s : State) (c : Fin 96) (x : Fin 4) : (State.startFetch s c x).mem = s.mem := by
  unfold State.startFetch
  first | rfl | (repeat' (
    first | (simp (maxDischargeDepth := 40); done) | split | with_reducible refine foldl_mem _ _ _ ?_ | intro _ _
          | simp (maxDischargeDepth := 40) | dsimp only))

@[simp] theorem State.resumeTrapped_mem (s : State) (c : Fin 96) (x : Fin 4) (addr : Option (BitVec 54)) :
    (State.resumeTrapped s c x addr).mem = s.mem := by
  unfold State.resumeTrapped
  first | rfl | (repeat' (
    first | (simp (maxDischargeDepth := 40); done) | split | with_reducible refine foldl_mem _ _ _ ?_ | intro _ _
          | simp (maxDischargeDepth := 40) | dsimp only))

@[simp] theorem State.send_mem (s : State) (x : Site) (second : Bool) (t : Target) (lat : Nat) (stamp : Stamp)
    (tok : Token) :
    (State.send s x second t lat stamp tok).mem = s.mem := by
  unfold State.send
  first | rfl | (repeat' (
    first | (simp (maxDischargeDepth := 40); done) | split | with_reducible refine foldl_mem _ _ _ ?_ | intro _ _
          | simp (maxDischargeDepth := 40) | dsimp only))

@[simp] theorem State.sendBoth_mem (s : State) (x : Site) (t0 t1 : Target) (lat : Nat) (stamp : Stamp) (e : Emit) :
    (State.sendBoth s x t0 t1 lat stamp e).mem = s.mem := by
  unfold State.sendBoth
  first | rfl | (repeat' (
    first | (simp (maxDischargeDepth := 40); done) | split | with_reducible refine foldl_mem _ _ _ ?_ | intro _ _
          | simp (maxDischargeDepth := 40) | dsimp only))

@[simp] theorem State.returnCredits_mem (s : State) (x : Site) (f : Feeder) (n : Nat) :
    (State.returnCredits s x f n).mem = s.mem := by
  unfold State.returnCredits
  first | rfl | (repeat' (
    first | (simp (maxDischargeDepth := 40); done) | split | with_reducible refine foldl_mem _ _ _ ?_ | intro _ _
          | simp (maxDischargeDepth := 40) | dsimp only))

@[simp] theorem State.payBack_mem (s : State) (x : Site) (q : Port) (n : Nat) :
    (State.payBack s x q n).mem = s.mem := by
  unfold State.payBack
  first | rfl | (repeat' (
    first | (simp (maxDischargeDepth := 40); done) | split | with_reducible refine foldl_mem _ _ _ ?_ | intro _ _
          | simp (maxDischargeDepth := 40) | dsimp only))

@[simp] theorem State.refill_mem (s : State) (x : Site) : (State.refill s x).mem = s.mem := by
  unfold State.refill
  first | rfl | (repeat' (
    first | (simp (maxDischargeDepth := 40); done) | split | with_reducible refine foldl_mem _ _ _ ?_ | intro _ _
          | simp (maxDischargeDepth := 40) | dsimp only))

@[simp] theorem State.pop_mem (s : State) (x : Site) (p : PortName) (n : Nat) : (State.pop s x p n).mem = s.mem := by
  unfold State.pop
  first | rfl | (repeat' (
    first | (simp (maxDischargeDepth := 40); done) | split | with_reducible refine foldl_mem _ _ _ ?_ | intro _ _
          | simp (maxDischargeDepth := 40) | dsimp only))

/-! ## Machine/Space.lean -/

/-- An operation of memory that keeps the canonical form keeps it in the state. -/
theorem State.onMem_wf (s : State) (f : Memory → Memory) (hf : ∀ m, m.wf = true → (f m).wf = true)
    (h : s.mem.wf = true) : (s.onMem f).mem.wf = true := hf _ h

/-- A fold of operations that keep the canonical form keeps it. -/
@[simp] theorem foldl_wf {α : Type} (f : State → α → State) (l : List α) (s : State) (h : s.mem.wf = true)
    (hf : ∀ s a, s.mem.wf = true → (f s a).mem.wf = true) : (l.foldl f s).mem.wf = true := by
  induction l generalizing s with
  | nil => exact h
  | cons a l ih => exact ih _ (hf s a h)

/-- The same for a state and something beside it. -/
theorem foldl_fst_wf {α β : Type} (f : State × β → α → State × β) (l : List α) (q : State × β) (h : q.1.mem.wf = true)
    (hf : ∀ q a, q.1.mem.wf = true → (f q a).1.mem.wf = true) : (l.foldl f q).1.mem.wf = true := by
  induction l generalizing q with
  | nil => exact h
  | cons a l ih => exact ih _ (hf q a h)

@[simp] theorem State.emberWrite_wf (s : State) (c : Fin 96) (off : Nat) (bs : List Byte) (hmem
    : s.mem.wf = true) : (State.emberWrite s c off bs).mem.wf = true := by
  exact Memory.store_wf hmem _ _

/-! ## Machine/Snapshot.lean -/

@[simp] theorem State.snapRecord_wf (s : State) (c : Fin 96) (r : Fin 8) (bs : List Byte) (hmem : s.mem.wf = true) :
    (State.snapRecord s c r bs).mem.wf = true := by
  unfold State.snapRecord
  first | rfl | (repeat' (
    first | (simp (maxDischargeDepth := 40) [*]; done) | split | with_reducible refine foldl_wf _ _ _ ?_ ?_
          | with_reducible apply State.emberWrite_wf | intro _ _ _ | simp (maxDischargeDepth := 40) [*] | dsimp only))

@[simp] theorem State.snapToken_wf (s : State) (x : Site) (kind : Nat) (p : PortName) (pos : Nat) (t : Token)
    (hmem : s.mem.wf = true) :
    (State.snapToken s x kind p pos t).mem.wf = true := by
  unfold State.snapToken
  first | rfl | (repeat' (
    first | (simp (maxDischargeDepth := 40) [*]; done) | split | with_reducible refine foldl_wf _ _ _ ?_ ?_
          | with_reducible apply State.snapRecord_wf | intro _ _ _ | simp (maxDischargeDepth := 40) [*] | dsimp only))

@[simp] theorem State.snapEntries_wf (s : State) (x : Site) (kind : Nat) (p : PortName) (pos : Nat) (es : List Entry)
    (hmem : s.mem.wf = true) : (s.snapEntries x kind p pos es).mem.wf = true := by
  induction es generalizing s pos with
  | nil => exact hmem
  | cons e rest ih => exact ih _ _ (State.snapToken_wf _ _ _ _ _ _ hmem)

@[simp] theorem State.snapRun_wf (s : State) (x : Site) (hmem : s.mem.wf = true) :
    (State.snapRun s x).mem.wf = true := by
  unfold State.snapRun
  first | rfl | (repeat' (
    first | (simp (maxDischargeDepth := 40) [*]; done) | split | with_reducible refine foldl_wf _ _ _ ?_ ?_
          | with_reducible apply State.snapRecord_wf | intro _ _ _ | simp (maxDischargeDepth := 40) [*] | dsimp only))

@[simp] theorem State.snapState_wf (s : State) (x : Site) (hmem : s.mem.wf = true) :
    (State.snapState s x).mem.wf = true := by
  unfold State.snapState
  first | rfl | (repeat' (
    first | (simp (maxDischargeDepth := 40) [*]; done) | split | with_reducible refine foldl_wf _ _ _ ?_ ?_
          | with_reducible apply State.snapEntries_wf | with_reducible apply State.snapRecord_wf
          | with_reducible apply State.snapRun_wf | intro _ _ _ | simp (maxDischargeDepth := 40) [*] | dsimp only))

@[simp] theorem State.markTarget_mem (s : State) (x : Site) (t : Target) (pos : Nat) :
    (State.markTarget s x t pos).mem = s.mem := by
  unfold State.markTarget
  first | rfl | (repeat' (
    first | (simp (maxDischargeDepth := 40); done) | split | with_reducible refine foldl_mem _ _ _ ?_ | intro _ _
          | simp (maxDischargeDepth := 40) | dsimp only))

@[simp] theorem State.sendMarkers_mem (s : State) (x : Site) : (State.sendMarkers s x).mem = s.mem := by
  unfold State.sendMarkers
  first | rfl | (repeat' (
    first | (simp (maxDischargeDepth := 40); done) | split | with_reducible refine foldl_mem _ _ _ ?_ | intro _ _
          | simp (maxDischargeDepth := 40) | dsimp only))

@[simp] theorem State.startCopies_mem (s : State) (x : Site) : (State.startCopies s x).mem = s.mem := by
  unfold State.startCopies
  split
  · split
    · rfl
    · rw [State.onRegion_mem, State.onHead_mem]
  · rfl

@[simp] theorem State.snapCheckClose_mem (s : State) (c : Fin 96) (r : Fin 8) :
    (State.snapCheckClose s c r).mem = s.mem := by
  unfold State.snapCheckClose
  first | rfl | (repeat' (
    first | (simp (maxDischargeDepth := 40); done) | split | with_reducible refine foldl_mem _ _ _ ?_ | intro _ _
          | simp (maxDischargeDepth := 40) | dsimp only))

@[simp] theorem State.snapProgress_wf (s : State) (x : Site) (hmem : s.mem.wf = true) :
    (State.snapProgress s x).mem.wf = true := by
  unfold State.snapProgress
  first | rfl | (repeat' (
    first | (simp (maxDischargeDepth := 40) [*]; done) | split | with_reducible refine foldl_wf _ _ _ ?_ ?_
          | with_reducible apply State.snapState_wf | intro _ _ _ | simp (maxDischargeDepth := 40) [*] | dsimp only))

@[simp] theorem State.snapPopped_wf (s : State) (x : Site) (p : PortName) (es : List Entry) (hmem : s.mem.wf = true) :
    (State.snapPopped s x p es).mem.wf = true := by
  unfold State.snapPopped
  first | rfl | (repeat' (
    first | (simp (maxDischargeDepth := 40) [*]; done) | split | with_reducible refine foldl_wf _ _ _ ?_ ?_
          | with_reducible apply State.snapToken_wf | intro _ _ _ | simp (maxDischargeDepth := 40) [*] | dsimp only))

@[simp] theorem State.take_wf (s : State) (x : Site) (p : PortName) (n : Nat) (hmem : s.mem.wf = true) :
    (State.take s x p n).mem.wf = true := by
  unfold State.take
  first | rfl | (repeat' (
    first | (simp (maxDischargeDepth := 40) [*]; done) | split | with_reducible refine foldl_wf _ _ _ ?_ ?_
          | with_reducible apply State.snapPopped_wf | intro _ _ _ | simp (maxDischargeDepth := 40) [*] | dsimp only))

@[simp] theorem State.markerArrives_wf (s : State) (x : Site) (p : PortName) (pos gen : Nat) (hmem : s.mem.wf = true) :
    (State.markerArrives s x p pos gen).mem.wf = true := by
  unfold State.markerArrives
  first | rfl | (repeat' (
    first | (simp (maxDischargeDepth := 40) [*]; done) | split | with_reducible refine foldl_wf _ _ _ ?_ ?_
          | with_reducible apply State.snapProgress_wf | intro _ _ _ | simp (maxDischargeDepth := 40) [*]
          | dsimp only))

@[simp] theorem State.linksMarked_wf (s : State) (x : Site) (gen : Nat) (hmem : s.mem.wf = true) :
    (State.linksMarked s x gen).mem.wf = true := by
  refine foldl_wf _ _ _ hmem fun s p h => ?_
  dsimp only
  split
  · split
    · exact h
    · exact State.markerArrives_wf _ _ _ _ _ h
  · exact h

@[simp] theorem State.joinExpires_wf (s : State) (x : Site) (gen : Nat) (hmem : s.mem.wf = true) :
    (State.joinExpires s x gen).mem.wf = true := by
  unfold State.joinExpires
  first | rfl | (repeat' (
    first | (simp (maxDischargeDepth := 40) [*]; done) | split | with_reducible refine foldl_wf _ _ _ ?_ ?_
          | with_reducible apply State.snapEntries_wf | with_reducible apply State.snapState_wf
          | with_reducible apply State.snapProgress_wf | with_reducible apply State.take_wf | intro _ _ _
          | simp (maxDischargeDepth := 40) [*] | dsimp only))

@[simp] theorem State.closeSnapshot_wf (s : State) (c : Fin 96) (r : Fin 8) (hmem : s.mem.wf = true) :
    (State.closeSnapshot s c r).mem.wf = true := by
  unfold State.closeSnapshot
  first | rfl | (repeat' (
    first | (simp (maxDischargeDepth := 40) [*]; done) | split | with_reducible refine foldl_wf _ _ _ ?_ ?_
          | with_reducible apply State.emberWrite_wf | intro _ _ _ | simp (maxDischargeDepth := 40) [*] | dsimp only))

/-! ## Machine/Fire.lean -/

@[simp] theorem State.shoot_wf (s : State) (x : Site) (io : Io) (lat : Nat) (sh : Shot) (hmem : s.mem.wf = true) :
    (State.shoot s x io lat sh).mem.wf = true := by
  unfold State.shoot
  first | rfl | (repeat' (
    first | (simp (maxDischargeDepth := 40) [*]; done) | split | with_reducible refine foldl_wf _ _ _ ?_ ?_
          | with_reducible apply State.snapProgress_wf | with_reducible apply State.take_wf | intro _ _ _
          | simp (maxDischargeDepth := 40) [*] | dsimp only))

@[simp] theorem State.attempt_wf (s : State) (x : Site) (io : Io) (lat n0 n1 : Nat) (sh : Shot)
    (hmem : s.mem.wf = true) :
    (State.attempt s x io lat n0 n1 sh).mem.wf = true := by
  unfold State.attempt
  first | rfl | (repeat' (
    first | (simp (maxDischargeDepth := 40) [*]; done) | split | with_reducible refine foldl_wf _ _ _ ?_ ?_
          | with_reducible apply State.shoot_wf | intro _ _ _ | simp (maxDischargeDepth := 40) [*] | dsimp only))

@[simp] theorem State.attemptId_wf (s : State) (x : Site) (io : Io) (n0 n1 : Nat) (sh : Shot)
    (hmem : s.mem.wf = true) :
    (State.attemptId s x io n0 n1 sh).mem.wf = true := by
  unfold State.attemptId
  first | rfl | (repeat' (
    first | (simp (maxDischargeDepth := 40) [*]; done) | split | with_reducible refine foldl_wf _ _ _ ?_ ?_
          | with_reducible apply State.shoot_wf | intro _ _ _ | simp (maxDischargeDepth := 40) [*] | dsimp only))

@[simp] theorem State.plain_wf (s : State) (x : Site) (io : Io) (lat : Nat) (tag : BitVec 4) (sh : Shot)
    (hmem : s.mem.wf = true) :
    (State.plain s x io lat tag sh).mem.wf = true := by
  unfold State.plain
  first | rfl | (repeat' (
    first | (simp (maxDischargeDepth := 40) [*]; done) | split | with_reducible refine foldl_wf _ _ _ ?_ ?_
          | with_reducible apply State.attempt_wf | intro _ _ _ | simp (maxDischargeDepth := 40) [*] | dsimp only))

@[simp] theorem State.laneOp_wf (s : State) (io : Io) (lat : Nat) (tag : BitVec 4) (passPoison : Bool)
    (op : List Token → List Token → List Token → Result) (hmem : s.mem.wf = true) :
    (State.laneOp s io lat tag passPoison op).mem.wf = true := by
  unfold State.laneOp
  first | rfl | (repeat' (
    first | (simp (maxDischargeDepth := 40) [*]; done) | split | with_reducible refine foldl_wf _ _ _ ?_ ?_
          | with_reducible apply State.take_wf | with_reducible apply State.plain_wf | intro _ _ _
          | simp (maxDischargeDepth := 40) [*] | dsimp only))

@[simp] theorem State.wideOp_wf (s : State) (io : Io) (lat : Nat) (tag : BitVec 4)
    (op : List Token → List Token → List Token → Result) (hmem : s.mem.wf = true) :
    (State.wideOp s io lat tag op).mem.wf = true := by
  unfold State.wideOp
  first | rfl | (repeat' (
    first | (simp (maxDischargeDepth := 40) [*]; done) | split | with_reducible refine foldl_wf _ _ _ ?_ ?_
          | with_reducible apply State.take_wf | with_reducible apply State.plain_wf | intro _ _ _
          | simp (maxDischargeDepth := 40) [*] | dsimp only))

end Sys2Proof.Machine
end

