-- ==== Sys2Proof/Laws/LaneMem.lean ====
section
/-! SUPPORT. What the lane operations do to memory: each leaves it as it is, or keeps its canonical form. -/

namespace Sys2Proof.Machine

set_option linter.unusedSimpArgs false

/-! ## Machine/Int.lean -/

@[simp] theorem execIadd_wf (f : FA) (s : State) (hmem : s.mem.wf = true) : MemWf (execIadd f s) := by
  unfold execIadd
  first | rfl | (repeat' (
    first | (simp (maxDischargeDepth := 40) [*]; done) | split | with_reducible refine foldl_wf _ _ _ ?_ ?_
          | with_reducible apply State.laneOp_wf | intro _ _ _ | simp (maxDischargeDepth := 40) [*] | dsimp only))

@[simp] theorem execIsub_wf (f : FA) (s : State) (hmem : s.mem.wf = true) : MemWf (execIsub f s) := by
  unfold execIsub
  first | rfl | (repeat' (
    first | (simp (maxDischargeDepth := 40) [*]; done) | split | with_reducible refine foldl_wf _ _ _ ?_ ?_
          | with_reducible apply State.laneOp_wf | intro _ _ _ | simp (maxDischargeDepth := 40) [*] | dsimp only))

@[simp] theorem execImul_wf (f : FA) (s : State) (hmem : s.mem.wf = true) : MemWf (execImul f s) := by
  unfold execImul
  first | rfl | (repeat' (
    first | (simp (maxDischargeDepth := 40) [*]; done) | split | with_reducible refine foldl_wf _ _ _ ?_ ?_
          | with_reducible apply State.laneOp_wf | intro _ _ _ | simp (maxDischargeDepth := 40) [*] | dsimp only))

@[simp] theorem execImulh_wf (f : FA) (s : State) (hmem : s.mem.wf = true) : MemWf (execImulh f s) := by
  unfold execImulh
  first | rfl | (repeat' (
    first | (simp (maxDischargeDepth := 40) [*]; done) | split | with_reducible refine foldl_wf _ _ _ ?_ ?_
          | with_reducible apply State.laneOp_wf | intro _ _ _ | simp (maxDischargeDepth := 40) [*] | dsimp only))

@[simp] theorem execImad_wf (f : FA) (s : State) (hmem : s.mem.wf = true) : MemWf (execImad f s) := by
  unfold execImad
  first | rfl | (repeat' (
    first | (simp (maxDischargeDepth := 40) [*]; done) | split | with_reducible refine foldl_wf _ _ _ ?_ ?_
          | with_reducible apply State.laneOp_wf | intro _ _ _ | simp (maxDischargeDepth := 40) [*] | dsimp only))

@[simp] theorem execIneg_wf (f : FA) (s : State) (hmem : s.mem.wf = true) : MemWf (execIneg f s) := by
  unfold execIneg
  first | rfl | (repeat' (
    first | (simp (maxDischargeDepth := 40) [*]; done) | split | with_reducible refine foldl_wf _ _ _ ?_ ?_
          | with_reducible apply State.laneOp_wf | intro _ _ _ | simp (maxDischargeDepth := 40) [*] | dsimp only))

@[simp] theorem execIabs_wf (f : FA) (s : State) (hmem : s.mem.wf = true) : MemWf (execIabs f s) := by
  unfold execIabs
  first | rfl | (repeat' (
    first | (simp (maxDischargeDepth := 40) [*]; done) | split | with_reducible refine foldl_wf _ _ _ ?_ ?_
          | with_reducible apply State.laneOp_wf | intro _ _ _ | simp (maxDischargeDepth := 40) [*] | dsimp only))

@[simp] theorem execImin_wf (f : FA) (s : State) (hmem : s.mem.wf = true) : MemWf (execImin f s) := by
  unfold execImin
  first | rfl | (repeat' (
    first | (simp (maxDischargeDepth := 40) [*]; done) | split | with_reducible refine foldl_wf _ _ _ ?_ ?_
          | with_reducible apply State.laneOp_wf | intro _ _ _ | simp (maxDischargeDepth := 40) [*] | dsimp only))

@[simp] theorem execImax_wf (f : FA) (s : State) (hmem : s.mem.wf = true) : MemWf (execImax f s) := by
  unfold execImax
  first | rfl | (repeat' (
    first | (simp (maxDischargeDepth := 40) [*]; done) | split | with_reducible refine foldl_wf _ _ _ ?_ ?_
          | with_reducible apply State.laneOp_wf | intro _ _ _ | simp (maxDischargeDepth := 40) [*] | dsimp only))

@[simp] theorem execAnd_wf (f : FA) (s : State) (hmem : s.mem.wf = true) : MemWf (execAnd f s) := by
  unfold execAnd
  first | rfl | (repeat' (
    first | (simp (maxDischargeDepth := 40) [*]; done) | split | with_reducible refine foldl_wf _ _ _ ?_ ?_
          | with_reducible apply State.laneOp_wf | intro _ _ _ | simp (maxDischargeDepth := 40) [*] | dsimp only))

@[simp] theorem execOr_wf (f : FA) (s : State) (hmem : s.mem.wf = true) : MemWf (execOr f s) := by
  unfold execOr
  first | rfl | (repeat' (
    first | (simp (maxDischargeDepth := 40) [*]; done) | split | with_reducible refine foldl_wf _ _ _ ?_ ?_
          | with_reducible apply State.laneOp_wf | intro _ _ _ | simp (maxDischargeDepth := 40) [*] | dsimp only))

@[simp] theorem execXor_wf (f : FA) (s : State) (hmem : s.mem.wf = true) : MemWf (execXor f s) := by
  unfold execXor
  first | rfl | (repeat' (
    first | (simp (maxDischargeDepth := 40) [*]; done) | split | with_reducible refine foldl_wf _ _ _ ?_ ?_
          | with_reducible apply State.laneOp_wf | intro _ _ _ | simp (maxDischargeDepth := 40) [*] | dsimp only))

@[simp] theorem execNot_wf (f : FA) (s : State) (hmem : s.mem.wf = true) : MemWf (execNot f s) := by
  unfold execNot
  first | rfl | (repeat' (
    first | (simp (maxDischargeDepth := 40) [*]; done) | split | with_reducible refine foldl_wf _ _ _ ?_ ?_
          | with_reducible apply State.laneOp_wf | intro _ _ _ | simp (maxDischargeDepth := 40) [*] | dsimp only))

@[simp] theorem execShl_wf (f : FA) (s : State) (hmem : s.mem.wf = true) : MemWf (execShl f s) := by
  unfold execShl
  first | rfl | (repeat' (
    first | (simp (maxDischargeDepth := 40) [*]; done) | split | with_reducible refine foldl_wf _ _ _ ?_ ?_
          | with_reducible apply State.laneOp_wf | intro _ _ _ | simp (maxDischargeDepth := 40) [*] | dsimp only))

@[simp] theorem execShr_wf (f : FA) (s : State) (hmem : s.mem.wf = true) : MemWf (execShr f s) := by
  unfold execShr
  first | rfl | (repeat' (
    first | (simp (maxDischargeDepth := 40) [*]; done) | split | with_reducible refine foldl_wf _ _ _ ?_ ?_
          | with_reducible apply State.laneOp_wf | intro _ _ _ | simp (maxDischargeDepth := 40) [*] | dsimp only))

@[simp] theorem execSar_wf (f : FA) (s : State) (hmem : s.mem.wf = true) : MemWf (execSar f s) := by
  unfold execSar
  first | rfl | (repeat' (
    first | (simp (maxDischargeDepth := 40) [*]; done) | split | with_reducible refine foldl_wf _ _ _ ?_ ?_
          | with_reducible apply State.laneOp_wf | intro _ _ _ | simp (maxDischargeDepth := 40) [*] | dsimp only))

@[simp] theorem execRotl_wf (f : FA) (s : State) (hmem : s.mem.wf = true) : MemWf (execRotl f s) := by
  unfold execRotl
  first | rfl | (repeat' (
    first | (simp (maxDischargeDepth := 40) [*]; done) | split | with_reducible refine foldl_wf _ _ _ ?_ ?_
          | with_reducible apply State.laneOp_wf | intro _ _ _ | simp (maxDischargeDepth := 40) [*] | dsimp only))

@[simp] theorem execClz_wf (f : FA) (s : State) (hmem : s.mem.wf = true) : MemWf (execClz f s) := by
  unfold execClz
  first | rfl | (repeat' (
    first | (simp (maxDischargeDepth := 40) [*]; done) | split | with_reducible refine foldl_wf _ _ _ ?_ ?_
          | with_reducible apply State.laneOp_wf | intro _ _ _ | simp (maxDischargeDepth := 40) [*] | dsimp only))

@[simp] theorem execPopc_wf (f : FA) (s : State) (hmem : s.mem.wf = true) : MemWf (execPopc f s) := by
  unfold execPopc
  first | rfl | (repeat' (
    first | (simp (maxDischargeDepth := 40) [*]; done) | split | with_reducible refine foldl_wf _ _ _ ?_ ?_
          | with_reducible apply State.laneOp_wf | intro _ _ _ | simp (maxDischargeDepth := 40) [*] | dsimp only))

@[simp] theorem execIcmp_wf (f : FA) (s : State) (hmem : s.mem.wf = true) : MemWf (execIcmp f s) := by
  unfold execIcmp
  first | rfl | (repeat' (
    first | (simp (maxDischargeDepth := 40) [*]; done) | split | with_reducible refine foldl_wf _ _ _ ?_ ?_
          | with_reducible apply State.laneOp_wf | intro _ _ _ | simp (maxDischargeDepth := 40) [*] | dsimp only))

@[simp] theorem execSel_wf (f : FA) (s : State) (hmem : s.mem.wf = true) : MemWf (execSel f s) := by
  unfold execSel
  first | rfl | (repeat' (
    first | (simp (maxDischargeDepth := 40) [*]; done) | split | with_reducible refine foldl_wf _ _ _ ?_ ?_
          | with_reducible apply State.laneOp_wf | intro _ _ _ | simp (maxDischargeDepth := 40) [*] | dsimp only))

@[simp] theorem execBfx_wf (f : FI) (s : State) (hmem : s.mem.wf = true) : MemWf (execBfx f s) := by
  unfold execBfx
  first | rfl | (repeat' (
    first | (simp (maxDischargeDepth := 40) [*]; done) | split | with_reducible refine foldl_wf _ _ _ ?_ ?_
          | with_reducible apply State.laneOp_wf | intro _ _ _ | simp (maxDischargeDepth := 40) [*] | dsimp only))

@[simp] theorem execBfi_wf (f : FA) (s : State) (hmem : s.mem.wf = true) : MemWf (execBfi f s) := by
  unfold execBfi
  first | rfl | (repeat' (
    first | (simp (maxDischargeDepth := 40) [*]; done) | split | with_reducible refine foldl_wf _ _ _ ?_ ?_
          | with_reducible apply State.laneOp_wf | intro _ _ _ | simp (maxDischargeDepth := 40) [*] | dsimp only))

@[simp] theorem execMov_wf (f : FA) (s : State) (hmem : s.mem.wf = true) : MemWf (execMov f s) := by
  unfold execMov
  first | rfl | (repeat' (
    first | (simp (maxDischargeDepth := 40) [*]; done) | split | with_reducible refine foldl_wf _ _ _ ?_ ?_
          | with_reducible apply State.laneOp_wf | intro _ _ _ | simp (maxDischargeDepth := 40) [*] | dsimp only))

@[simp] theorem execConst_wf (f : FK) (s : State) (hmem : s.mem.wf = true) : MemWf (execConst f s) := by
  unfold execConst
  first | rfl | (repeat' (
    first | (simp (maxDischargeDepth := 40) [*]; done) | split | with_reducible refine foldl_wf _ _ _ ?_ ?_
          | with_reducible apply State.laneOp_wf | intro _ _ _ | simp (maxDischargeDepth := 40) [*] | dsimp only))

@[simp] theorem execLane_wf (f : FA) (s : State) (hmem : s.mem.wf = true) : MemWf (execLane f s) := by
  unfold execLane
  first | rfl | (repeat' (
    first | (simp (maxDischargeDepth := 40) [*]; done) | split | with_reducible refine foldl_wf _ _ _ ?_ ?_
          | with_reducible apply State.laneOp_wf | intro _ _ _ | simp (maxDischargeDepth := 40) [*] | dsimp only))

@[simp] theorem execCoord_wf (f : FA) (s : State) (hmem : s.mem.wf = true) : MemWf (execCoord f s) := by
  unfold execCoord
  first | rfl | (repeat' (
    first | (simp (maxDischargeDepth := 40) [*]; done) | split | with_reducible refine foldl_wf _ _ _ ?_ ?_
          | with_reducible apply State.laneOp_wf | intro _ _ _ | simp (maxDischargeDepth := 40) [*] | dsimp only))

@[simp] theorem execPhase_wf (f : FA) (s : State) (hmem : s.mem.wf = true) : MemWf (execPhase f s) := by
  unfold execPhase
  first | rfl | (repeat' (
    first | (simp (maxDischargeDepth := 40) [*]; done) | split | with_reducible refine foldl_wf _ _ _ ?_ ?_
          | with_reducible apply State.plain_wf | intro _ _ _ | simp (maxDischargeDepth := 40) [*] | dsimp only))

/-! ## Machine/Float.lean -/

@[simp] theorem execFadd_wf (f : FA) (s : State) (hmem : s.mem.wf = true) : MemWf (execFadd f s) := by
  unfold execFadd
  first | rfl | (repeat' (
    first | (simp (maxDischargeDepth := 40) [*]; done) | split | with_reducible refine foldl_wf _ _ _ ?_ ?_
          | with_reducible apply State.laneOp_wf | intro _ _ _ | simp (maxDischargeDepth := 40) [*] | dsimp only))

@[simp] theorem execFsub_wf (f : FA) (s : State) (hmem : s.mem.wf = true) : MemWf (execFsub f s) := by
  unfold execFsub
  first | rfl | (repeat' (
    first | (simp (maxDischargeDepth := 40) [*]; done) | split | with_reducible refine foldl_wf _ _ _ ?_ ?_
          | with_reducible apply State.laneOp_wf | intro _ _ _ | simp (maxDischargeDepth := 40) [*] | dsimp only))

@[simp] theorem execFmul_wf (f : FA) (s : State) (hmem : s.mem.wf = true) : MemWf (execFmul f s) := by
  unfold execFmul
  first | rfl | (repeat' (
    first | (simp (maxDischargeDepth := 40) [*]; done) | split | with_reducible refine foldl_wf _ _ _ ?_ ?_
          | with_reducible apply State.laneOp_wf | intro _ _ _ | simp (maxDischargeDepth := 40) [*] | dsimp only))

@[simp] theorem execFma_wf (f : FA) (s : State) (hmem : s.mem.wf = true) : MemWf (execFma f s) := by
  unfold execFma
  first | rfl | (repeat' (
    first | (simp (maxDischargeDepth := 40) [*]; done) | split | with_reducible refine foldl_wf _ _ _ ?_ ?_
          | with_reducible apply State.laneOp_wf | intro _ _ _ | simp (maxDischargeDepth := 40) [*] | dsimp only))

@[simp] theorem execFmin_wf (f : FA) (s : State) (hmem : s.mem.wf = true) : MemWf (execFmin f s) := by
  unfold execFmin
  first | rfl | (repeat' (
    first | (simp (maxDischargeDepth := 40) [*]; done) | split | with_reducible refine foldl_wf _ _ _ ?_ ?_
          | with_reducible apply State.laneOp_wf | intro _ _ _ | simp (maxDischargeDepth := 40) [*] | dsimp only))

@[simp] theorem execFmax_wf (f : FA) (s : State) (hmem : s.mem.wf = true) : MemWf (execFmax f s) := by
  unfold execFmax
  first | rfl | (repeat' (
    first | (simp (maxDischargeDepth := 40) [*]; done) | split | with_reducible refine foldl_wf _ _ _ ?_ ?_
          | with_reducible apply State.laneOp_wf | intro _ _ _ | simp (maxDischargeDepth := 40) [*] | dsimp only))

@[simp] theorem execFabs_wf (f : FA) (s : State) (hmem : s.mem.wf = true) : MemWf (execFabs f s) := by
  unfold execFabs
  first | rfl | (repeat' (
    first | (simp (maxDischargeDepth := 40) [*]; done) | split | with_reducible refine foldl_wf _ _ _ ?_ ?_
          | with_reducible apply State.laneOp_wf | intro _ _ _ | simp (maxDischargeDepth := 40) [*] | dsimp only))

@[simp] theorem execFneg_wf (f : FA) (s : State) (hmem : s.mem.wf = true) : MemWf (execFneg f s) := by
  unfold execFneg
  first | rfl | (repeat' (
    first | (simp (maxDischargeDepth := 40) [*]; done) | split | with_reducible refine foldl_wf _ _ _ ?_ ?_
          | with_reducible apply State.laneOp_wf | intro _ _ _ | simp (maxDischargeDepth := 40) [*] | dsimp only))

@[simp] theorem execFcmp_wf (f : FA) (s : State) (hmem : s.mem.wf = true) : MemWf (execFcmp f s) := by
  unfold execFcmp
  first | rfl | (repeat' (
    first | (simp (maxDischargeDepth := 40) [*]; done) | split | with_reducible refine foldl_wf _ _ _ ?_ ?_
          | with_reducible apply State.laneOp_wf | intro _ _ _ | simp (maxDischargeDepth := 40) [*] | dsimp only))

@[simp] theorem execFclass_wf (f : FA) (s : State) (hmem : s.mem.wf = true) : MemWf (execFclass f s) := by
  unfold execFclass
  first | rfl | (repeat' (
    first | (simp (maxDischargeDepth := 40) [*]; done) | split | with_reducible refine foldl_wf _ _ _ ?_ ?_
          | with_reducible apply State.laneOp_wf | intro _ _ _ | simp (maxDischargeDepth := 40) [*] | dsimp only))

@[simp] theorem execFscl_wf (f : FA) (s : State) (hmem : s.mem.wf = true) : MemWf (execFscl f s) := by
  unfold execFscl
  first | rfl | (repeat' (
    first | (simp (maxDischargeDepth := 40) [*]; done) | split | with_reducible refine foldl_wf _ _ _ ?_ ?_
          | with_reducible apply State.laneOp_wf | intro _ _ _ | simp (maxDischargeDepth := 40) [*] | dsimp only))

/-! ## Machine/FuncUnit.lean -/

@[simp] theorem execRcp_wf (f : FA) (s : State) (hmem : s.mem.wf = true) : MemWf (execRcp f s) := by
  unfold execRcp
  first | rfl | (repeat' (
    first | (simp (maxDischargeDepth := 40) [*]; done) | split | with_reducible refine foldl_wf _ _ _ ?_ ?_
          | with_reducible apply State.laneOp_wf | intro _ _ _ | simp (maxDischargeDepth := 40) [*] | dsimp only))

@[simp] theorem execRsq_wf (f : FA) (s : State) (hmem : s.mem.wf = true) : MemWf (execRsq f s) := by
  unfold execRsq
  first | rfl | (repeat' (
    first | (simp (maxDischargeDepth := 40) [*]; done) | split | with_reducible refine foldl_wf _ _ _ ?_ ?_
          | with_reducible apply State.laneOp_wf | intro _ _ _ | simp (maxDischargeDepth := 40) [*] | dsimp only))

@[simp] theorem execExp2_wf (f : FA) (s : State) (hmem : s.mem.wf = true) : MemWf (execExp2 f s) := by
  unfold execExp2
  first | rfl | (repeat' (
    first | (simp (maxDischargeDepth := 40) [*]; done) | split | with_reducible refine foldl_wf _ _ _ ?_ ?_
          | with_reducible apply State.laneOp_wf | intro _ _ _ | simp (maxDischargeDepth := 40) [*] | dsimp only))

@[simp] theorem execLog2_wf (f : FA) (s : State) (hmem : s.mem.wf = true) : MemWf (execLog2 f s) := by
  unfold execLog2
  first | rfl | (repeat' (
    first | (simp (maxDischargeDepth := 40) [*]; done) | split | with_reducible refine foldl_wf _ _ _ ?_ ?_
          | with_reducible apply State.laneOp_wf | intro _ _ _ | simp (maxDischargeDepth := 40) [*] | dsimp only))

@[simp] theorem execTcos_wf (f : FA) (s : State) (hmem : s.mem.wf = true) : MemWf (execTcos f s) := by
  unfold execTcos
  first | rfl | (repeat' (
    first | (simp (maxDischargeDepth := 40) [*]; done) | split | with_reducible refine foldl_wf _ _ _ ?_ ?_
          | with_reducible apply State.laneOp_wf | intro _ _ _ | simp (maxDischargeDepth := 40) [*] | dsimp only))

@[simp] theorem execTsin_wf (f : FA) (s : State) (hmem : s.mem.wf = true) : MemWf (execTsin f s) := by
  unfold execTsin
  first | rfl | (repeat' (
    first | (simp (maxDischargeDepth := 40) [*]; done) | split | with_reducible refine foldl_wf _ _ _ ?_ ?_
          | with_reducible apply State.laneOp_wf | intro _ _ _ | simp (maxDischargeDepth := 40) [*] | dsimp only))

/-! ## Machine/Reduce.lean -/

@[simp] theorem execRsum_wf (f : FA) (s : State) (hmem : s.mem.wf = true) : MemWf (execRsum f s) := by
  unfold execRsum
  first | rfl | (repeat' (
    first | (simp (maxDischargeDepth := 40) [*]; done) | split | with_reducible refine foldl_wf _ _ _ ?_ ?_
          | with_reducible apply State.wideOp_wf | intro _ _ _ | simp (maxDischargeDepth := 40) [*] | dsimp only))

@[simp] theorem execRmax_wf (f : FA) (s : State) (hmem : s.mem.wf = true) : MemWf (execRmax f s) := by
  unfold execRmax
  first | rfl | (repeat' (
    first | (simp (maxDischargeDepth := 40) [*]; done) | split | with_reducible refine foldl_wf _ _ _ ?_ ?_
          | with_reducible apply State.wideOp_wf | intro _ _ _ | simp (maxDischargeDepth := 40) [*] | dsimp only))

@[simp] theorem execRmin_wf (f : FA) (s : State) (hmem : s.mem.wf = true) : MemWf (execRmin f s) := by
  unfold execRmin
  first | rfl | (repeat' (
    first | (simp (maxDischargeDepth := 40) [*]; done) | split | with_reducible refine foldl_wf _ _ _ ?_ ?_
          | with_reducible apply State.wideOp_wf | intro _ _ _ | simp (maxDischargeDepth := 40) [*] | dsimp only))

@[simp] theorem execArgmx_wf (f : FA) (s : State) (hmem : s.mem.wf = true) : MemWf (execArgmx f s) := by
  unfold execArgmx
  first | rfl | (repeat' (
    first | (simp (maxDischargeDepth := 40) [*]; done) | split | with_reducible refine foldl_wf _ _ _ ?_ ?_
          | with_reducible apply State.wideOp_wf | intro _ _ _ | simp (maxDischargeDepth := 40) [*] | dsimp only))

@[simp] theorem execScan_wf (f : FA) (s : State) (hmem : s.mem.wf = true) : MemWf (execScan f s) := by
  unfold execScan
  first | rfl | (repeat' (
    first | (simp (maxDischargeDepth := 40) [*]; done) | split | with_reducible refine foldl_wf _ _ _ ?_ ?_
          | with_reducible apply State.take_wf | with_reducible apply State.plain_wf | intro _ _ _
          | simp (maxDischargeDepth := 40) [*] | dsimp only))

@[simp] theorem execDot_wf (f : FA) (s : State) (hmem : s.mem.wf = true) : MemWf (execDot f s) := by
  unfold execDot
  first | rfl | (repeat' (
    first | (simp (maxDischargeDepth := 40) [*]; done) | split | with_reducible refine foldl_wf _ _ _ ?_ ?_
          | with_reducible apply State.wideOp_wf | intro _ _ _ | simp (maxDischargeDepth := 40) [*] | dsimp only))

@[simp] theorem execPerm_wf (f : FA) (s : State) (hmem : s.mem.wf = true) : MemWf (execPerm f s) := by
  unfold execPerm
  first | rfl | (repeat' (
    first | (simp (maxDischargeDepth := 40) [*]; done) | split | with_reducible refine foldl_wf _ _ _ ?_ ?_
          | with_reducible apply State.laneOp_wf | intro _ _ _ | simp (maxDischargeDepth := 40) [*] | dsimp only))

@[simp] theorem execBcast_wf (f : FI) (s : State) (hmem : s.mem.wf = true) : MemWf (execBcast f s) := by
  unfold execBcast
  first | rfl | (repeat' (
    first | (simp (maxDischargeDepth := 40) [*]; done) | split | with_reducible refine foldl_wf _ _ _ ?_ ?_
          | with_reducible apply State.laneOp_wf | intro _ _ _ | simp (maxDischargeDepth := 40) [*] | dsimp only))

@[simp] theorem advClosing_wf (s : State) (x : Site) (f : FA) (hmem : s.mem.wf = true) :
    (advClosing s x f).mem.wf = true := by
  unfold advClosing
  first | rfl | (repeat' (
    first | (simp (maxDischargeDepth := 40) [*]; done) | split | with_reducible refine foldl_wf _ _ _ ?_ ?_
          | with_reducible apply State.attempt_wf | intro _ _ _ | simp (maxDischargeDepth := 40) [*] | dsimp only))

@[simp] theorem execAdv_wf (f : FA) (s : State) (hmem : s.mem.wf = true) : MemWf (execAdv f s) := by
  unfold execAdv
  first | rfl | (repeat' (
    first | (simp (maxDischargeDepth := 40) [*]; done) | split | with_reducible refine foldl_wf _ _ _ ?_ ?_
          | with_reducible apply State.attempt_wf | with_reducible apply advClosing_wf | intro _ _ _
          | simp (maxDischargeDepth := 40) [*] | dsimp only))

/-! ## Machine/Convert.lean -/

@[simp] theorem State.partOp_wf (s : State) (f : FA) (lat n : Nat) (reads : List Token → List Token)
    (op : Nat → List Token → Result) (hmem : s.mem.wf = true) :
    (State.partOp s f lat n reads op).mem.wf = true := by
  unfold State.partOp
  first | rfl | (repeat' (
    first | (simp (maxDischargeDepth := 40) [*]; done) | split | with_reducible refine foldl_wf _ _ _ ?_ ?_
          | with_reducible apply State.plain_wf | intro _ _ _ | simp (maxDischargeDepth := 40) [*] | dsimp only))

@[simp] theorem State.groupOp_wf (s : State) (f : FA) (lat : Nat) (op : List Token → Result) (hmem : s.mem.wf = true) :
    (State.groupOp s f lat op).mem.wf = true := by
  unfold State.groupOp
  first | rfl | (repeat' (
    first | (simp (maxDischargeDepth := 40) [*]; done) | split | with_reducible refine foldl_wf _ _ _ ?_ ?_
          | with_reducible apply State.plain_wf | intro _ _ _ | simp (maxDischargeDepth := 40) [*] | dsimp only))

@[simp] theorem execCvt_wf (f : FA) (s : State) (hmem : s.mem.wf = true) : MemWf (execCvt f s) := by
  unfold execCvt
  first | rfl | (repeat' (
    first | (simp (maxDischargeDepth := 40) [*]; done) | split | with_reducible refine foldl_wf _ _ _ ?_ ?_
          | with_reducible apply State.partOp_wf | with_reducible apply State.groupOp_wf | intro _ _ _
          | simp (maxDischargeDepth := 40) [*] | dsimp only))

@[simp] theorem execPack_wf (f : FA) (s : State) (hmem : s.mem.wf = true) : MemWf (execPack f s) := by
  unfold execPack
  first | rfl | (repeat' (
    first | (simp (maxDischargeDepth := 40) [*]; done) | split | with_reducible refine foldl_wf _ _ _ ?_ ?_
          | with_reducible apply State.groupOp_wf | intro _ _ _ | simp (maxDischargeDepth := 40) [*] | dsimp only))

@[simp] theorem execUnpk_wf (f : FA) (s : State) (hmem : s.mem.wf = true) : MemWf (execUnpk f s) := by
  unfold execUnpk
  first | rfl | (repeat' (
    first | (simp (maxDischargeDepth := 40) [*]; done) | split | with_reducible refine foldl_wf _ _ _ ?_ ?_
          | with_reducible apply State.take_wf | with_reducible apply State.partOp_wf | intro _ _ _
          | simp (maxDischargeDepth := 40) [*] | dsimp only))

@[simp] theorem execDqt_wf (f : FA) (s : State) (hmem : s.mem.wf = true) : MemWf (execDqt f s) := by
  unfold execDqt
  first | rfl | (repeat' (
    first | (simp (maxDischargeDepth := 40) [*]; done) | split | with_reducible refine foldl_wf _ _ _ ?_ ?_
          | with_reducible apply State.partOp_wf | intro _ _ _ | simp (maxDischargeDepth := 40) [*] | dsimp only))

@[simp] theorem execRndi_wf (f : FA) (s : State) (hmem : s.mem.wf = true) : MemWf (execRndi f s) := by
  unfold execRndi
  first | rfl | (repeat' (
    first | (simp (maxDischargeDepth := 40) [*]; done) | split | with_reducible refine foldl_wf _ _ _ ?_ ?_
          | with_reducible apply State.laneOp_wf | intro _ _ _ | simp (maxDischargeDepth := 40) [*] | dsimp only))

@[simp] theorem State.blockOp_wf (s : State) (f : FA) (n nb : Nat) (tag : BitVec 4) (good : List Token → List Token)
    (hmem : s.mem.wf = true) :
    (State.blockOp s f n nb tag good).mem.wf = true := by
  unfold State.blockOp
  first | rfl | (repeat' (
    first | (simp (maxDischargeDepth := 40) [*]; done) | split | with_reducible refine foldl_wf _ _ _ ?_ ?_
          | with_reducible apply State.attempt_wf | intro _ _ _ | simp (maxDischargeDepth := 40) [*] | dsimp only))

@[simp] theorem execQnt_wf (f : FA) (s : State) (hmem : s.mem.wf = true) : MemWf (execQnt f s) := by
  unfold execQnt
  first | rfl | (repeat' (
    first | (simp (maxDischargeDepth := 40) [*]; done) | split | with_reducible refine foldl_wf _ _ _ ?_ ?_
          | with_reducible apply State.blockOp_wf | intro _ _ _ | simp (maxDischargeDepth := 40) [*] | dsimp only))

@[simp] theorem execSclc_wf (f : FA) (s : State) (hmem : s.mem.wf = true) : MemWf (execSclc f s) := by
  unfold execSclc
  first | rfl | (repeat' (
    first | (simp (maxDischargeDepth := 40) [*]; done) | split | with_reducible refine foldl_wf _ _ _ ?_ ?_
          | with_reducible apply State.blockOp_wf | intro _ _ _ | simp (maxDischargeDepth := 40) [*] | dsimp only))

end Sys2Proof.Machine
end

