-- ==== Sys2Proof/Laws/FlowMem.lean ====
section
/-! SUPPORT. What accesses, the routers and the heads do to memory: each leaves it as it is, or keeps its canonical form. -/

namespace Sys2Proof.Machine

set_option linter.unusedSimpArgs false

/-! ## Machine/Access.lean -/

@[simp] theorem State.onPlace_mem (s : State) (h : Word64) (entry : Nat) (f : Place → Place) :
    (State.onPlace s h entry f).mem = s.mem := by
  unfold State.onPlace
  first | rfl | (repeat' (
    first | (simp (maxDischargeDepth := 40); done) | split | with_reducible refine foldl_mem _ _ _ ?_ | intro _ _
          | simp (maxDischargeDepth := 40) | dsimp only))

@[simp] theorem State.onOwned_mem (s : State) (x : Site) (h : Word64) (entry : Nat) (f : Slot → Slot) :
    (State.onOwned s x h entry f).mem = s.mem := by
  unfold State.onOwned
  first | rfl | (repeat' (
    first | (simp (maxDischargeDepth := 40); done) | split | with_reducible refine foldl_mem _ _ _ ?_ | intro _ _
          | simp (maxDischargeDepth := 40) | dsimp only))

@[simp] theorem State.onOwnedRegion_mem (s : State) (x : Site) (h : Word64) (entry : Nat) (f : Region → Region) :
    (State.onOwnedRegion s x h entry f).mem = s.mem := by
  unfold State.onOwnedRegion
  first | rfl | (repeat' (
    first | (simp (maxDischargeDepth := 40); done) | split | with_reducible refine foldl_mem _ _ _ ?_ | intro _ _
          | simp (maxDischargeDepth := 40) | dsimp only))

@[simp] theorem State.ownerFault_mem (s : State) (x : Site) (h : Word64) (entry : Nat) (cause : BitVec 8)
    (addr : Word64) (collect : Bool) :
    (State.ownerFault s x h entry cause addr collect).mem = s.mem := by
  unfold State.ownerFault
  first | rfl | (repeat' (
    first | (simp (maxDischargeDepth := 40); done) | split | with_reducible refine foldl_mem _ _ _ ?_ | intro _ _
          | simp (maxDischargeDepth := 40) | dsimp only))

@[simp] theorem State.settleKept_mem (s : State) (h : Word64) (entry : Nat) :
    (State.settleKept s h entry).mem = s.mem := by
  unfold State.settleKept
  first | rfl | (repeat' (
    first | (simp (maxDischargeDepth := 40); done) | split | with_reducible refine foldl_mem _ _ _ ?_ | intro _ _
          | simp (maxDischargeDepth := 40) | dsimp only))

@[simp] theorem State.takeTag_mem (s : State) (x : Site) (id : Nat) : (State.takeTag s x id).mem = s.mem := by
  unfold State.takeTag
  first | rfl | (repeat' (
    first | (simp (maxDischargeDepth := 40); done) | split | with_reducible refine foldl_mem _ _ _ ?_ | intro _ _
          | simp (maxDischargeDepth := 40) | dsimp only))

@[simp] theorem State.give_mem (s : State) (x : Site) (h : Word64) (entry : Nat) (id : Nat) (res : List Emit) :
    (State.give s x h entry id res).mem = s.mem := by
  unfold State.give
  first | rfl | (repeat' (
    first | (simp (maxDischargeDepth := 40); done) | split | with_reducible refine foldl_mem _ _ _ ?_ | intro _ _
          | simp (maxDischargeDepth := 40) | dsimp only))

@[simp] theorem State.freeTag_mem (s : State) (x : Site) (h : Word64) (entry : Nat) (id : Nat) :
    (State.freeTag s x h entry id).mem = s.mem := by
  unfold State.freeTag
  dsimp only
  rw [foldl_mem]
  · simp
  · intro s i
    split
    · split <;> simp
    · rfl

@[simp] theorem State.meetUnit_mem (s : State) (r : CRec) (pa : Nat) : (State.meetUnit s r pa).mem = s.mem := by
  unfold State.meetUnit
  first | rfl | (repeat' (
    first | (simp (maxDischargeDepth := 40); done) | split | with_reducible refine foldl_mem _ _ _ ?_ | intro _ _
          | simp (maxDischargeDepth := 40) | dsimp only))

@[simp] theorem State.meetErrors_mem (s : State) (a : Access) (pa : Nat) : (State.meetErrors s a pa).mem = s.mem := by
  unfold State.meetErrors
  first | rfl | (repeat' (
    first | (simp (maxDischargeDepth := 40); done) | split | with_reducible refine foldl_mem _ _ _ ?_ | intro _ _
          | simp (maxDischargeDepth := 40) | dsimp only))

@[simp] theorem State.pageOf_mem (s : State) (rec_ : CRec) (c : Fin 96) (asid : BitVec 12) (rd wr : Bool) (va : Nat) :
    (State.pageOf s rec_ c asid rd wr va).1.mem = s.mem := by
  unfold State.pageOf
  first | rfl | (repeat' (
    first | (simp (maxDischargeDepth := 40); done) | split | with_reducible refine foldl_mem _ _ _ ?_ | intro _ _
          | simp (maxDischargeDepth := 40) | dsimp only))

@[simp] theorem State.translate_mem (s : State) (rec_ : CRec) (c : Fin 96) (asid : BitVec 12)
    (rd wr amo column : Bool) (va : Word64) (n : Nat) :
    (State.translate s rec_ c asid rd wr amo column va n).1.mem = s.mem := by
  unfold State.translate
  first | rfl | (repeat' (
    first | (simp (maxDischargeDepth := 40); done) | split | with_reducible refine foldl_mem _ _ _ ?_ | intro _ _
          | simp (maxDischargeDepth := 40) | dsimp only))

@[simp] theorem State.issue_mem (s : State) (a : Access) : (State.issue s a).mem = s.mem := by
  unfold State.issue
  first | rfl | (repeat' (
    first | (simp (maxDischargeDepth := 40); done) | split | with_reducible refine foldl_mem _ _ _ ?_ | intro _ _
          | simp (maxDischargeDepth := 40) | dsimp only))

@[simp] theorem State.fillLines_wf (s : State) (lines : List Nat) (hmem : s.mem.wf = true) :
    (State.fillLines s lines).mem.wf = true := by
  unfold State.fillLines
  dsimp only
  rw [foldl_mem _ _ _ (fun s a => by simp)]
  exact State.onMem_wf _ _ (fun m h => Memory.foldl_wf _ (fun m l h => Memory.setFull_wf h _ _) _ h) hmem

@[simp] theorem State.emit_mem (s : State) (m : OutMsg) : (State.emit s m).mem = s.mem := by
  unfold State.emit
  first | rfl | (repeat' (
    first | (simp (maxDischargeDepth := 40); done) | split | with_reducible refine foldl_mem _ _ _ ?_ | intro _ _
          | simp (maxDischargeDepth := 40) | dsimp only))

@[simp] theorem State.askPeer_mem (s : State) (pa n : Nat) : (State.askPeer s pa n).mem = s.mem := by
  unfold State.askPeer
  first | rfl | (repeat' (
    first | (simp (maxDischargeDepth := 40); done) | split | with_reducible refine foldl_mem _ _ _ ?_ | intro _ _
          | simp (maxDischargeDepth := 40) | dsimp only))

@[simp] theorem State.readPhys_mem (s : State) (pa n : Nat) : (State.readPhys s pa n).1.mem = s.mem := by
  unfold State.readPhys
  first | rfl | (repeat' (
    first | (simp (maxDischargeDepth := 40); done) | split | with_reducible refine foldl_mem _ _ _ ?_ | intro _ _
          | simp (maxDischargeDepth := 40) | dsimp only))

@[simp] theorem State.writePhys_wf (s : State) (pa : Nat) (bs : List Byte) (hmem : s.mem.wf = true) :
    (State.writePhys s pa bs).mem.wf = true := by
  unfold State.writePhys
  split
  · simpa using hmem
  · exact State.onMem_wf _ _ (fun m h => Memory.store_wf h _ _) hmem

@[simp] theorem State.awaitAck_mem (s : State) (agent : Agent) (pa : Nat) :
    (State.awaitAck s agent pa).mem = s.mem := by
  unfold State.awaitAck
  first | rfl | (repeat' (
    first | (simp (maxDischargeDepth := 40); done) | split | with_reducible refine foldl_mem _ _ _ ?_ | intro _ _
          | simp (maxDischargeDepth := 40) | dsimp only))

@[simp] theorem State.poisonUnits_wf (s : State) (pa n : Nat) (hmem : s.mem.wf = true) :
    (State.poisonUnits s pa n).mem.wf = true := by
  unfold State.poisonUnits
  split
  · simpa using hmem
  · exact hmem
  · exact State.onMem_wf _ _ (fun m h => Memory.foldl_wf _ (fun m l h => Memory.setPoison_wf h _ _) _ h) hmem

@[simp] theorem State.deliverResult_wf (s : State) (x : Site) (hmem : s.mem.wf = true) :
    (State.deliverResult s x).mem.wf = true := by
  unfold State.deliverResult
  first | rfl | (repeat' (
    first | (simp (maxDischargeDepth := 40) [*]; done) | split | with_reducible refine foldl_wf _ _ _ ?_ ?_
          | with_reducible apply State.snapProgress_wf | intro _ _ _ | simp (maxDischargeDepth := 40) [*]
          | dsimp only))

/-! ## Machine/Router.lean -/

@[simp] theorem State.loadCounters_mem (s : State) (x : Site) (first levels preset : Nat) :
    (State.loadCounters s x first levels preset).mem = s.mem := by
  unfold State.loadCounters
  first | rfl | (repeat' (
    first | (simp (maxDischargeDepth := 40); done) | split | with_reducible refine foldl_mem _ _ _ ?_ | intro _ _
          | simp (maxDischargeDepth := 40) | dsimp only))

@[simp] theorem State.stepCtr_mem (s : State) (x : Site) (first levels : Nat) :
    (State.stepCtr s x first levels).mem = s.mem := by
  unfold State.stepCtr
  first | rfl | (repeat' (
    first | (simp (maxDischargeDepth := 40); done) | split | with_reducible refine foldl_mem _ _ _ ?_ | intro _ _
          | simp (maxDischargeDepth := 40) | dsimp only))

@[simp] theorem State.loopReturn_mem (s : State) (x : Site) (leave : Bool) :
    (State.loopReturn s x leave).mem = s.mem := by
  unfold State.loopReturn
  first | rfl | (repeat' (
    first | (simp (maxDischargeDepth := 40); done) | split | with_reducible refine foldl_mem _ _ _ ?_ | intro _ _
          | simp (maxDischargeDepth := 40) | dsimp only))

@[simp] theorem steerBroken_wf (s : State) (x : Site) (f : FO) (a d : Option Token) (hmem : s.mem.wf = true) :
    (steerBroken s x f a d).mem.wf = true := by
  unfold steerBroken
  first | rfl | (repeat' (
    first | (simp (maxDischargeDepth := 40) [*]; done) | split | with_reducible refine foldl_wf _ _ _ ?_ ?_
          | with_reducible apply State.shoot_wf | with_reducible apply State.attempt_wf | intro _ _ _
          | simp (maxDischargeDepth := 40) [*] | dsimp only))

@[simp] theorem execSteer_wf (f : FO) (s : State) (hmem : s.mem.wf = true) : MemWf (execSteer f s) := by
  unfold execSteer
  dsimp only
  (repeat' split) <;> refine (memWf_next _).2 ?_ <;> first
    | with_reducible exact hmem
    | with_reducible exact steerBroken_wf _ _ _ _ _ hmem
    | with_reducible exact State.attempt_wf _ _ _ _ _ _ _ hmem
    | with_reducible exact State.shoot_wf _ _ _ _ _ hmem
    | (rw [State.loopReturn_mem]; with_reducible exact State.shoot_wf _ _ _ _ _ hmem)

@[simp] theorem State.closing_wf (s : State) (x : Site) (io : Io) (fb fc : Front) (bDone cDone : Bool)
    (last : Bool → Bool → Run) (hmem : s.mem.wf = true) :
    (State.closing s x io fb fc bDone cDone last).mem.wf = true := by
  unfold State.closing
  first | rfl | (repeat' (
    first | (simp (maxDischargeDepth := 40) [*]; done) | split | with_reducible refine foldl_wf _ _ _ ?_ ?_
          | with_reducible apply State.attempt_wf | intro _ _ _ | simp (maxDischargeDepth := 40) [*] | dsimp only))

@[simp] theorem State.freshEnd_wf (s : State) (x : Site) (io : Io) (cDone : Bool) (hmem : s.mem.wf = true) :
    (State.freshEnd s x io cDone).mem.wf = true := by
  unfold State.freshEnd
  first | rfl | (repeat' (
    first | (simp (maxDischargeDepth := 40) [*]; done) | split | with_reducible refine foldl_wf _ _ _ ?_ ?_
          | with_reducible apply State.attempt_wf | intro _ _ _ | simp (maxDischargeDepth := 40) [*] | dsimp only))

@[simp] theorem carryBroken_wf (s : State) (x : Site) (f : FA) (fb fc : Front) (hmem : s.mem.wf = true) :
    (carryBroken s x f fb fc).mem.wf = true := by
  unfold carryBroken
  first | rfl | (repeat' (
    first | (simp (maxDischargeDepth := 40) [*]; done) | split | with_reducible refine foldl_wf _ _ _ ?_ ?_
          | with_reducible apply State.attempt_wf | intro _ _ _ | simp (maxDischargeDepth := 40) [*] | dsimp only))

@[simp] theorem carryLoop_wf (s : State) (x : Site) (f : FA) (hmem : s.mem.wf = true) :
    (carryLoop s x f).mem.wf = true := by
  unfold carryLoop
  first | rfl | (repeat' (
    first | (simp (maxDischargeDepth := 40) [*]; done) | split | with_reducible refine foldl_wf _ _ _ ?_ ?_
          | with_reducible apply State.attempt_wf | with_reducible apply carryBroken_wf | intro _ _ _
          | simp (maxDischargeDepth := 40) [*] | dsimp only))

@[simp] theorem execCarry_wf (f : FA) (s : State) (hmem : s.mem.wf = true) : MemWf (execCarry f s) := by
  unfold execCarry
  first | rfl | (repeat' (
    first | (simp (maxDischargeDepth := 40) [*]; done) | split | with_reducible refine foldl_wf _ _ _ ?_ ?_
          | with_reducible apply State.attempt_wf | with_reducible apply State.closing_wf
          | with_reducible apply State.freshEnd_wf | with_reducible apply carryLoop_wf | intro _ _ _
          | simp (maxDischargeDepth := 40) [*] | dsimp only))

@[simp] theorem invLoop_wf (s : State) (x : Site) (f : FO) (hmem : s.mem.wf = true) :
    (invLoop s x f).mem.wf = true := by
  unfold invLoop
  first | rfl | (repeat' (
    first | (simp (maxDischargeDepth := 40) [*]; done) | split | with_reducible refine foldl_wf _ _ _ ?_ ?_
          | with_reducible apply State.attempt_wf | intro _ _ _ | simp (maxDischargeDepth := 40) [*] | dsimp only))

@[simp] theorem execInv_wf (f : FO) (s : State) (hmem : s.mem.wf = true) : MemWf (execInv f s) := by
  unfold execInv
  first | rfl | (repeat' (
    first | (simp (maxDischargeDepth := 40) [*]; done) | split | with_reducible refine foldl_wf _ _ _ ?_ ?_
          | with_reducible apply State.attempt_wf | with_reducible apply State.closing_wf
          | with_reducible apply State.freshEnd_wf | with_reducible apply invLoop_wf | intro _ _ _
          | simp (maxDischargeDepth := 40) [*] | dsimp only))

@[simp] theorem mergeEnd_wf (s : State) (x : Site) (f : FA) (aD bD : Bool) (hmem : s.mem.wf = true) :
    (mergeEnd s x f aD bD).mem.wf = true := by
  unfold mergeEnd
  first | rfl | (repeat' (
    first | (simp (maxDischargeDepth := 40) [*]; done) | split | with_reducible refine foldl_wf _ _ _ ?_ ?_
          | with_reducible apply State.attempt_wf | intro _ _ _ | simp (maxDischargeDepth := 40) [*] | dsimp only))

@[simp] theorem mergeTake_wf (s : State) (x : Site) (f : FA) (d : Token) (arm : Bool) (hmem : s.mem.wf = true) :
    (mergeTake s x f d arm).mem.wf = true := by
  unfold mergeTake
  first | rfl | (repeat' (
    first | (simp (maxDischargeDepth := 40) [*]; done) | split | with_reducible refine foldl_wf _ _ _ ?_ ?_
          | with_reducible apply State.attempt_wf | intro _ _ _ | simp (maxDischargeDepth := 40) [*] | dsimp only))

@[simp] theorem mergeBad_wf (s : State) (x : Site) (f : FA) (hmem : s.mem.wf = true) :
    (mergeBad s x f).mem.wf = true := by
  unfold mergeBad
  first | rfl | (repeat' (
    first | (simp (maxDischargeDepth := 40) [*]; done) | split | with_reducible refine foldl_wf _ _ _ ?_ ?_
          | with_reducible apply State.attempt_wf | intro _ _ _ | simp (maxDischargeDepth := 40) [*] | dsimp only))

@[simp] theorem execMerge_wf (f : FA) (s : State) (hmem : s.mem.wf = true) : MemWf (execMerge f s) := by
  unfold execMerge
  first | rfl | (repeat' (
    first | (simp (maxDischargeDepth := 40) [*]; done) | split | with_reducible refine foldl_wf _ _ _ ?_ ?_
          | with_reducible apply State.attempt_wf | with_reducible apply mergeEnd_wf
          | with_reducible apply mergeTake_wf | with_reducible apply mergeBad_wf | intro _ _ _
          | simp (maxDischargeDepth := 40) [*] | dsimp only))

@[simp] theorem amrgTake_wf (s : State) (x : Site) (f : FA) (p : PortName) (t : Token) (hmem : s.mem.wf = true) :
    (amrgTake s x f p t).mem.wf = true := by
  unfold amrgTake
  first | rfl | (repeat' (
    first | (simp (maxDischargeDepth := 40) [*]; done) | split | with_reducible refine foldl_wf _ _ _ ?_ ?_
          | with_reducible apply State.attempt_wf | intro _ _ _ | simp (maxDischargeDepth := 40) [*] | dsimp only))

@[simp] theorem execAmrg_wf (f : FA) (s : State) (hmem : s.mem.wf = true) : MemWf (execAmrg f s) := by
  unfold execAmrg
  first | rfl | (repeat' (
    first | (simp (maxDischargeDepth := 40) [*]; done) | split | with_reducible refine foldl_wf _ _ _ ?_ ?_
          | with_reducible apply State.attempt_wf | with_reducible apply amrgTake_wf | intro _ _ _
          | simp (maxDischargeDepth := 40) [*] | dsimp only))

@[simp] theorem execCinch_wf (f : FA) (s : State) (hmem : s.mem.wf = true) : MemWf (execCinch f s) := by
  unfold execCinch
  first | rfl | (repeat' (
    first | (simp (maxDischargeDepth := 40) [*]; done) | split | with_reducible refine foldl_wf _ _ _ ?_ ?_
          | with_reducible apply State.attemptId_wf | with_reducible apply State.plain_wf | intro _ _ _
          | simp (maxDischargeDepth := 40) [*] | dsimp only))

@[simp] theorem execDrop_wf (f : FA) (s : State) (hmem : s.mem.wf = true) : MemWf (execDrop f s) := by
  unfold execDrop
  first | rfl | (repeat' (
    first | (simp (maxDischargeDepth := 40) [*]; done) | split | with_reducible refine foldl_wf _ _ _ ?_ ?_
          | with_reducible apply State.attempt_wf | intro _ _ _ | simp (maxDischargeDepth := 40) [*] | dsimp only))

@[simp] theorem State.sinkReport_mem (s : State) (x : Site) : (State.sinkReport s x).mem = s.mem := by
  unfold State.sinkReport
  first | rfl | (repeat' (
    first | (simp (maxDischargeDepth := 40); done) | split | with_reducible refine foldl_mem _ _ _ ?_ | intro _ _
          | simp (maxDischargeDepth := 40) | dsimp only))

@[simp] theorem execCount_wf (f : FO) (s : State) (hmem : s.mem.wf = true) : MemWf (execCount f s) := by
  unfold execCount
  dsimp only
  (repeat' split) <;> refine (memWf_next _).2 ?_ <;> first
    | with_reducible exact hmem
    | with_reducible exact State.attempt_wf _ _ _ _ _ _ _ hmem
    | with_reducible exact State.shoot_wf _ _ _ _ _ hmem
    | (rw [State.sinkReport_mem]; with_reducible exact State.shoot_wf _ _ _ _ _ hmem)

@[simp] theorem lctrStep_wf (s : State) (x : Site) (f : FO) (base : Lane) (hmem : s.mem.wf = true) :
    (lctrStep s x f base).mem.wf = true := by
  unfold lctrStep
  first | rfl | (repeat' (
    first | (simp (maxDischargeDepth := 40) [*]; done) | split | with_reducible refine foldl_wf _ _ _ ?_ ?_
          | with_reducible apply State.shoot_wf | intro _ _ _ | simp (maxDischargeDepth := 40) [*] | dsimp only))

@[simp] theorem lctrFirst_wf (s : State) (x : Site) (f : FO) (base : Lane) (hmem : s.mem.wf = true) :
    (lctrFirst s x f base).mem.wf = true := by
  unfold lctrFirst
  first | rfl | (repeat' (
    first | (simp (maxDischargeDepth := 40) [*]; done) | split | with_reducible refine foldl_wf _ _ _ ?_ ?_
          | with_reducible apply lctrStep_wf | intro _ _ _ | simp (maxDischargeDepth := 40) [*] | dsimp only))

@[simp] theorem execLctr_wf (f : FO) (s : State) (hmem : s.mem.wf = true) : MemWf (execLctr f s) := by
  unfold execLctr
  first | rfl | (repeat' (
    first | (simp (maxDischargeDepth := 40) [*]; done) | split | with_reducible refine foldl_wf _ _ _ ?_ ?_
          | with_reducible apply State.attempt_wf | with_reducible apply lctrStep_wf
          | with_reducible apply lctrFirst_wf | intro _ _ _ | simp (maxDischargeDepth := 40) [*] | dsimp only))

@[simp] theorem eosForward_wf (s : State) (x : Site) (f : FO) (t : Token) (dec : Option Lane)
    (hmem : s.mem.wf = true) :
    (eosForward s x f t dec).mem.wf = true := by
  unfold eosForward
  first | rfl | (repeat' (
    first | (simp (maxDischargeDepth := 40) [*]; done) | split | with_reducible refine foldl_wf _ _ _ ?_ ?_
          | with_reducible apply State.attempt_wf | intro _ _ _ | simp (maxDischargeDepth := 40) [*] | dsimp only))

@[simp] theorem execEos_wf (f : FO) (s : State) (hmem : s.mem.wf = true) : MemWf (execEos f s) := by
  unfold execEos
  first | rfl | (repeat' (
    first | (simp (maxDischargeDepth := 40) [*]; done) | split | with_reducible refine foldl_wf _ _ _ ?_ ?_
          | with_reducible apply State.attempt_wf | with_reducible apply eosForward_wf | intro _ _ _
          | simp (maxDischargeDepth := 40) [*] | dsimp only))

@[simp] theorem gateFire_wf (s : State) (x : Site) (f : FO) (cr : BitVec 16) (hmem : s.mem.wf = true) :
    (gateFire s x f cr).mem.wf = true := by
  unfold gateFire
  first | rfl | (repeat' (
    first | (simp (maxDischargeDepth := 40) [*]; done) | split | with_reducible refine foldl_wf _ _ _ ?_ ?_
          | with_reducible apply State.shoot_wf | with_reducible apply State.attempt_wf | intro _ _ _
          | simp (maxDischargeDepth := 40) [*] | dsimp only))

@[simp] theorem execGate_wf (f : FO) (s : State) (hmem : s.mem.wf = true) : MemWf (execGate f s) := by
  unfold execGate
  first | rfl | (repeat' (
    first | (simp (maxDischargeDepth := 40) [*]; done) | split | with_reducible refine foldl_wf _ _ _ ?_ ?_
          | with_reducible apply State.attempt_wf | with_reducible apply gateFire_wf | intro _ _ _
          | simp (maxDischargeDepth := 40) [*] | dsimp only))

/-! ## Machine/Head.lean -/

@[simp] theorem State.headCollect_mem (s : State) (x : Site) (hslot : Fin 128) (cause : BitVec 8) (aux : BitVec 32) :
    (State.headCollect s x hslot cause aux).mem = s.mem := by
  unfold State.headCollect
  first | rfl | (repeat' (
    first | (simp (maxDischargeDepth := 40); done) | split | with_reducible refine foldl_mem _ _ _ ?_ | intro _ _
          | simp (maxDischargeDepth := 40) | dsimp only))

@[simp] theorem State.headPost_mem (s : State) (x : Site) (code : BitVec 8) (slot : BitVec 8) (key : BitVec 32)
    (bef aft : SState) (fc : BitVec 8) (aux : BitVec 32) :
    (State.headPost s x code slot key bef aft fc aux).mem = s.mem := by
  unfold State.headPost
  first | rfl | (repeat' (
    first | (simp (maxDischargeDepth := 40); done) | split | with_reducible refine foldl_mem _ _ _ ?_ | intro _ _
          | simp (maxDischargeDepth := 40) | dsimp only))

@[simp] theorem State.postSlotFault_mem (s : State) (x : Site) (sl : Nat) (e : SEntry) (fc : Cause) (hslot : Fin 128) :
    (State.postSlotFault s x sl e fc hslot).mem = s.mem := by
  unfold State.postSlotFault
  first | rfl | (repeat' (
    first | (simp (maxDischargeDepth := 40); done) | split | with_reducible refine foldl_mem _ _ _ ?_ | intro _ _
          | simp (maxDischargeDepth := 40) | dsimp only))

@[simp] theorem State.slotFault_mem (s : State) (x : Site) (sl : Nat) (fc : Cause) (culprit : Option (Fin 128)) :
    (State.slotFault s x sl fc culprit).mem = s.mem := by
  unfold State.slotFault
  first | rfl | (repeat' (
    first | (simp (maxDischargeDepth := 40); done) | split | with_reducible refine foldl_mem _ _ _ ?_ | intro _ _
          | simp (maxDischargeDepth := 40) | dsimp only))

@[simp] theorem State.checkReturn_mem (s : State) (x : Site) (sl : Nat) (ret : Option Token)
    (culprit : Option (Fin 128)) :
    (State.checkReturn s x sl ret culprit).mem = s.mem := by
  unfold State.checkReturn
  first | rfl | (repeat' (
    first | (simp (maxDischargeDepth := 40); done) | split | with_reducible refine foldl_mem _ _ _ ?_ | intro _ _
          | simp (maxDischargeDepth := 40) | dsimp only))

@[simp] theorem State.emberMeet_mem (s : State) (x : Site) (off n : Nat) : (State.emberMeet s x off n).mem = s.mem := by
  unfold State.emberMeet
  first | rfl | (repeat' (
    first | (simp (maxDischargeDepth := 40); done) | split | with_reducible refine foldl_mem _ _ _ ?_ | intro _ _
          | simp (maxDischargeDepth := 40) | dsimp only))

@[simp] theorem State.resolve_mem (s : State) (x : Site) (id : Nat) (res : List Emit) :
    (State.resolve s x id res).mem = s.mem := by
  unfold State.resolve
  first | rfl | (repeat' (
    first | (simp (maxDischargeDepth := 40); done) | split | with_reducible refine foldl_mem _ _ _ ?_ | intro _ _
          | simp (maxDischargeDepth := 40) | dsimp only))

@[simp] theorem State.answer_mem (s : State) (cmd : Cmd) (t : Token) : (State.answer s cmd t).mem = s.mem := by
  unfold State.answer
  first | rfl | (repeat' (
    first | (simp (maxDischargeDepth := 40); done) | split | with_reducible refine foldl_mem _ _ _ ?_ | intro _ _
          | simp (maxDischargeDepth := 40) | dsimp only))

@[simp] theorem State.answerAfterWrites_mem (s : State) (x : Site) (cmd : Cmd) (t : Token) :
    (State.answerAfterWrites s x cmd t).mem = s.mem := by
  unfold State.answerAfterWrites
  first | rfl | (repeat' (
    first | (simp (maxDischargeDepth := 40); done) | split | with_reducible refine foldl_mem _ _ _ ?_ | intro _ _
          | simp (maxDischargeDepth := 40) | dsimp only))

@[simp] theorem State.countLate_mem (s : State) (x : Site) (late : Bool) : (State.countLate s x late).mem = s.mem := by
  unfold State.countLate
  first | rfl | (repeat' (
    first | (simp (maxDischargeDepth := 40); done) | split | with_reducible refine foldl_mem _ _ _ ?_ | intro _ _
          | simp (maxDischargeDepth := 40) | dsimp only))

@[simp] theorem State.applySlotCmd_wf (s : State) (x : Site) (sl : Nat) (ret : Option Token) (q : QCmd)
    (hmem : s.mem.wf = true) :
    (State.applySlotCmd s x sl ret q).1.mem.wf = true := by
  unfold State.applySlotCmd
  first | rfl | (repeat' (
    first | (simp (maxDischargeDepth := 40) [*]; done) | split | with_reducible refine foldl_wf _ _ _ ?_ ?_
          | with_reducible apply State.emberWrite_wf | intro _ _ _ | simp (maxDischargeDepth := 40) [*] | dsimp only))

@[simp] theorem State.applyDue_wf (s : State) (x : Site) (sl : Nat) (ret : Option Token) (qs : List QCmd)
    (hmem : s.mem.wf = true) : (s.applyDue x sl ret qs).1.mem.wf = true := by
  induction qs generalizing s with
  | nil => exact hmem
  | cons q rest ih => exact ih _ (State.applySlotCmd_wf _ _ _ _ _ hmem)

@[simp] theorem State.noEffect_mem (s : State) (x : Site) (st : Status) (cmd : Cmd) :
    (State.noEffect s x st cmd).mem = s.mem := by
  unfold State.noEffect
  first | rfl | (repeat' (
    first | (simp (maxDischargeDepth := 40); done) | split | with_reducible refine foldl_mem _ _ _ ?_ | intro _ _
          | simp (maxDischargeDepth := 40) | dsimp only))

@[simp] theorem State.takeQueued_mem (s : State) (x : Site) (p : QCmd → Bool) :
    (State.takeQueued s x p).mem = s.mem := by
  unfold State.takeQueued
  first | rfl | (repeat' (
    first | (simp (maxDischargeDepth := 40); done) | split | with_reducible refine foldl_mem _ _ _ ?_ | intro _ _
          | simp (maxDischargeDepth := 40) | dsimp only))

@[simp] theorem State.sendDrain_mem (s : State) (x : Site) (t : Token) : (State.sendDrain s x t).mem = s.mem := by
  unfold State.sendDrain
  first | rfl | (repeat' (
    first | (simp (maxDischargeDepth := 40); done) | split | with_reducible refine foldl_mem _ _ _ ?_ | intro _ _
          | simp (maxDischargeDepth := 40) | dsimp only))

@[simp] theorem State.reject_mem (s : State) (x : Site) (sa : Lane) (key : Lane) :
    (State.reject s x sa key).mem = s.mem := by
  unfold State.reject
  first | rfl | (repeat' (
    first | (simp (maxDischargeDepth := 40); done) | split | with_reducible refine foldl_mem _ _ _ ?_ | intro _ _
          | simp (maxDischargeDepth := 40) | dsimp only))

@[simp] theorem State.startEmberRead_mem (s : State) (x : Site) : (State.startEmberRead s x).mem = s.mem := by
  unfold State.startEmberRead
  first | rfl | (repeat' (
    first | (simp (maxDischargeDepth := 40); done) | split | with_reducible refine foldl_mem _ _ _ ?_ | intro _ _
          | simp (maxDischargeDepth := 40) | dsimp only))

@[simp] theorem State.tryAdmit_mem (s : State) (x : Site) (sl : Nat) (r : BitVec 32) :
    (State.tryAdmit s x sl r).1.mem = s.mem := by
  unfold State.tryAdmit
  first | rfl | (repeat' (
    first | (simp (maxDischargeDepth := 40); done) | split | with_reducible refine foldl_mem _ _ _ ?_ | intro _ _
          | simp (maxDischargeDepth := 40) | dsimp only))

@[simp] theorem State.copySlot_wf (s : State) (x : Site) (sl : Nat) (ret : Option Token) (hmem : s.mem.wf = true) :
    (State.copySlot s x sl ret).mem.wf = true := by
  unfold State.copySlot
  first | rfl | (repeat' (
    first | (simp (maxDischargeDepth := 40) [*]; done) | split | with_reducible refine foldl_wf _ _ _ ?_ ?_
          | with_reducible apply State.emberWrite_wf | intro _ _ _ | simp (maxDischargeDepth := 40) [*] | dsimp only))

@[simp] theorem State.headPass_wf (s : State) (x : Site) (f : FA) (h : Head) (hmem : s.mem.wf = true) :
    (State.headPass s x f h).mem.wf = true := by
  unfold State.headPass
  first | rfl | (repeat' (
    first | (simp (maxDischargeDepth := 40) [*]; done) | split | with_reducible refine foldl_wf _ _ _ ?_ ?_
          | with_reducible apply State.shoot_wf | with_reducible apply State.applyDue_wf
          | with_reducible apply State.copySlot_wf | intro _ _ _ | simp (maxDischargeDepth := 40) [*] | dsimp only))

@[simp] theorem State.applyRotation_mem (s : State) (x : Site) (q : QCmd) :
    (State.applyRotation s x q).mem = s.mem := by
  unfold State.applyRotation
  first | rfl | (repeat' (
    first | (simp (maxDischargeDepth := 40); done) | split | with_reducible refine foldl_mem _ _ _ ?_ | intro _ _
          | simp (maxDischargeDepth := 40) | dsimp only))

@[simp] theorem State.dequeue_mem (s : State) (x : Site) (q : QCmd) : (State.dequeue s x q).mem = s.mem := by
  unfold State.dequeue
  first | rfl | (repeat' (
    first | (simp (maxDischargeDepth := 40); done) | split | with_reducible refine foldl_mem _ _ _ ?_ | intro _ _
          | simp (maxDischargeDepth := 40) | dsimp only))

@[simp] theorem State.takeBack_wf (s : State) (x : Site) (f : FA) (h : Head) (drains : Bool) (hmem : s.mem.wf = true) :
    (State.takeBack s x f h drains).mem.wf = true := by
  unfold State.takeBack
  first | rfl | (repeat' (
    first | (simp (maxDischargeDepth := 40) [*]; done) | split | with_reducible refine foldl_wf _ _ _ ?_ ?_
          | with_reducible apply State.shoot_wf | intro _ _ _ | simp (maxDischargeDepth := 40) [*] | dsimp only))

@[simp] theorem State.dropSlotCmds_mem (s : State) (x : Site) (h : Head) : (State.dropSlotCmds s x h).mem = s.mem := by
  unfold State.dropSlotCmds
  first | rfl | (repeat' (
    first | (simp (maxDischargeDepth := 40); done) | split | with_reducible refine foldl_mem _ _ _ ?_ | intro _ _
          | simp (maxDischargeDepth := 40) | dsimp only))

@[simp] theorem State.finishBank_wf (s : State) (x : Site) (h : Head) (cmd : Cmd) (late : Bool)
    (hmem : s.mem.wf = true) :
    (State.finishBank s x h cmd late).mem.wf = true := by
  unfold State.finishBank
  first | rfl | (repeat' (
    first | (simp (maxDischargeDepth := 40) [*]; done) | split | with_reducible refine foldl_wf _ _ _ ?_ ?_
          | with_reducible apply State.emberWrite_wf | intro _ _ _ | simp (maxDischargeDepth := 40) [*] | dsimp only))

@[simp] theorem State.finishRerot_mem (s : State) (x : Site) (h : Head) (cmd : Cmd) (late : Bool) :
    (State.finishRerot s x h cmd late).mem = s.mem := by
  unfold State.finishRerot
  first | rfl | (repeat' (
    first | (simp (maxDischargeDepth := 40); done) | split | with_reducible refine foldl_mem _ _ _ ?_ | intro _ _
          | simp (maxDischargeDepth := 40) | dsimp only))

@[simp] theorem State.headBusy_wf (s : State) (x : Site) (f : FA) (h : Head) (hmem : s.mem.wf = true) :
    (State.headBusy s x f h).mem.wf = true := by
  unfold State.headBusy
  first | rfl | (repeat' (
    first | (simp (maxDischargeDepth := 40) [*]; done) | split | with_reducible refine foldl_wf _ _ _ ?_ ?_
          | with_reducible apply State.takeBack_wf | with_reducible apply State.finishBank_wf | intro _ _ _
          | simp (maxDischargeDepth := 40) [*] | dsimp only))

@[simp] theorem State.startUnbank_mem (s : State) (x : Site) (cmd : Cmd) : (State.startUnbank s x cmd).mem = s.mem := by
  unfold State.startUnbank
  first | rfl | (repeat' (
    first | (simp (maxDischargeDepth := 40); done) | split | with_reducible refine foldl_mem _ _ _ ?_ | intro _ _
          | simp (maxDischargeDepth := 40) | dsimp only))

@[simp] theorem State.finishUnbank_mem (s : State) (x : Site) (h : Head) (cmd : Cmd) :
    (State.finishUnbank s x h cmd).mem = s.mem := by
  unfold State.finishUnbank
  first | rfl | (repeat' (
    first | (simp (maxDischargeDepth := 40); done) | split | with_reducible refine foldl_mem _ _ _ ?_ | intro _ _
          | simp (maxDischargeDepth := 40) | dsimp only))

theorem State.idleCommand_mem (s : State) (x : Site) (h : Head) (t_ : State) (ht_
    : State.idleCommand s x h = some t_) : t_.mem = s.mem := by
  unfold State.idleCommand at ht_
  obtain ⟨q, -, rfl⟩ := Option.map_eq_some_iff.1 ht_
  dsimp only
  split <;> simp

@[simp] theorem State.startRetire_mem (s : State) (x : Site) : (State.startRetire s x).mem = s.mem := by
  unfold State.startRetire
  first | rfl | (repeat' (
    first | (simp (maxDischargeDepth := 40); done) | split | with_reducible refine foldl_mem _ _ _ ?_ | intro _ _
          | simp (maxDischargeDepth := 40) | dsimp only))

@[simp] theorem State.retireCarry_wf (s : State) (x : Site) (f : FA) (h : Head) (hmem : s.mem.wf = true) :
    (State.retireCarry s x f h).mem.wf = true := by
  unfold State.retireCarry
  first | rfl | (repeat' (
    first | (simp (maxDischargeDepth := 40) [*]; done) | split | with_reducible refine foldl_wf _ _ _ ?_ ?_
          | with_reducible apply State.shoot_wf | with_reducible apply State.copySlot_wf | intro _ _ _
          | simp (maxDischargeDepth := 40) [*] | dsimp only))

@[simp] theorem State.retireRequests_wf (s : State) (x : Site) (f : FA) (hmem : s.mem.wf = true) :
    (State.retireRequests s x f).mem.wf = true := by
  unfold State.retireRequests
  first | rfl | (repeat' (
    first | (simp (maxDischargeDepth := 40) [*]; done) | split | with_reducible refine foldl_wf _ _ _ ?_ ?_
          | with_reducible apply State.shoot_wf | intro _ _ _ | simp (maxDischargeDepth := 40) [*] | dsimp only))

@[simp] theorem State.headRetiring_wf (s : State) (x : Site) (f : FA) (h : Head) (hmem : s.mem.wf = true) :
    (State.headRetiring s x f h).mem.wf = true := by
  unfold State.headRetiring
  first | rfl | (repeat' (
    first | (simp (maxDischargeDepth := 40) [*]; done) | split | with_reducible refine foldl_wf _ _ _ ?_ ?_
          | with_reducible apply State.shoot_wf | with_reducible apply State.retireCarry_wf
          | with_reducible apply State.retireRequests_wf | intro _ _ _ | simp (maxDischargeDepth := 40) [*]
          | dsimp only))

@[simp] theorem State.headRun_wf (s : State) (x : Site) (f : FA) (h : Head) (hmem : s.mem.wf = true) :
    (State.headRun s x f h).mem.wf = true := by
  unfold State.headRun
  first | rfl | (repeat' (
    first | (simp (maxDischargeDepth := 40) [*]; done) | split | with_reducible refine foldl_wf _ _ _ ?_ ?_
          | with_reducible apply State.headPass_wf | intro _ _ _ | simp (maxDischargeDepth := 40) [*] | dsimp only))

@[simp] theorem State.headStep_wf (s : State) (x : Site) (f : FA) (hmem : s.mem.wf = true) :
    (State.headStep s x f).mem.wf = true := by
  have idle (h : Head) : ((s.idleCommand x h).getD s).mem = s.mem := by
    cases hc : s.idleCommand x h with
    | none => rfl
    | some t => exact State.idleCommand_mem s x h t hc
  unfold State.headStep
  repeat' (
    first | (simp (maxDischargeDepth := 40) [*]; done) | split | with_reducible apply State.headRetiring_wf
          | with_reducible apply State.headRun_wf | dsimp only)
  all_goals (rename_i hc; rw [State.idleCommand_mem _ _ _ _ hc]; exact hmem)

@[simp] theorem State.laReturn_wf (s : State) (x : Site) (f : FA) (hmem : s.mem.wf = true) :
    (State.laReturn s x f).mem.wf = true := by
  unfold State.laReturn
  first | rfl | (repeat' (
    first | (simp (maxDischargeDepth := 40) [*]; done) | split | with_reducible refine foldl_wf _ _ _ ?_ ?_
          | with_reducible apply State.shoot_wf | intro _ _ _ | simp (maxDischargeDepth := 40) [*] | dsimp only))

@[simp] theorem State.laIssue_wf (s : State) (x : Site) (f : FA) (h : Head) (hmem : s.mem.wf = true) :
    (State.laIssue s x f h).mem.wf = true := by
  unfold State.laIssue
  first | rfl | (repeat' (
    first | (simp (maxDischargeDepth := 40) [*]; done) | split | with_reducible refine foldl_wf _ _ _ ?_ ?_
          | with_reducible apply State.shoot_wf | with_reducible apply State.attempt_wf | intro _ _ _
          | simp (maxDischargeDepth := 40) [*] | dsimp only))

@[simp] theorem State.laStep_wf (s : State) (x : Site) (f : FA) (hmem : s.mem.wf = true) :
    (State.laStep s x f).mem.wf = true := by
  unfold State.laStep
  first | rfl | (repeat' (
    first | (simp (maxDischargeDepth := 40) [*]; done) | split | with_reducible refine foldl_wf _ _ _ ?_ ?_
          | with_reducible apply State.laReturn_wf | with_reducible apply State.laIssue_wf | intro _ _ _
          | simp (maxDischargeDepth := 40) [*] | dsimp only))

@[simp] theorem execRhead_wf (f : FA) (s : State) (hmem : s.mem.wf = true) : MemWf (execRhead f s) := by
  unfold execRhead
  first | rfl | (repeat' (
    first | (simp (maxDischargeDepth := 40) [*]; done) | split | with_reducible refine foldl_wf _ _ _ ?_ ?_
          | with_reducible apply State.headStep_wf | intro _ _ _ | simp (maxDischargeDepth := 40) [*] | dsimp only))

@[simp] theorem execRheadLa_wf (f : FA) (s : State) (hmem : s.mem.wf = true) : MemWf (execRheadLa f s) := by
  unfold execRheadLa
  first | rfl | (repeat' (
    first | (simp (maxDischargeDepth := 40) [*]; done) | split | with_reducible refine foldl_wf _ _ _ ?_ ?_
          | with_reducible apply State.laStep_wf | intro _ _ _ | simp (maxDischargeDepth := 40) [*] | dsimp only))

@[simp] theorem execSadm_wf (f : FA) (s : State) (hmem : s.mem.wf = true) : MemWf (execSadm f s) := by
  unfold execSadm
  first | rfl | (repeat' (
    first | (simp (maxDischargeDepth := 40) [*]; done) | split | with_reducible refine foldl_wf _ _ _ ?_ ?_
          | with_reducible apply State.plain_wf | intro _ _ _ | simp (maxDischargeDepth := 40) [*] | dsimp only))

@[simp] theorem State.command_wf (s : State) (k : CmdKind) (f : FA) (hmem : s.mem.wf = true) :
    (State.command s k f).mem.wf = true := by
  unfold State.command
  first | rfl | (repeat' (
    first | (simp (maxDischargeDepth := 40) [*]; done) | split | with_reducible refine foldl_wf _ _ _ ?_ ?_
          | with_reducible apply State.shoot_wf | with_reducible apply State.attempt_wf
          | with_reducible apply State.attemptId_wf | intro _ _ _ | simp (maxDischargeDepth := 40) [*] | dsimp only))

@[simp] theorem execSevc_wf (f : FA) (s : State) (hmem : s.mem.wf = true) : MemWf (execSevc f s) := by
  unfold execSevc
  first | rfl | (repeat' (
    first | (simp (maxDischargeDepth := 40) [*]; done) | split | with_reducible refine foldl_wf _ _ _ ?_ ?_
          | with_reducible apply State.command_wf | intro _ _ _ | simp (maxDischargeDepth := 40) [*] | dsimp only))

@[simp] theorem execShld_wf (f : FA) (s : State) (hmem : s.mem.wf = true) : MemWf (execShld f s) := by
  unfold execShld
  first | rfl | (repeat' (
    first | (simp (maxDischargeDepth := 40) [*]; done) | split | with_reducible refine foldl_wf _ _ _ ?_ ?_
          | with_reducible apply State.command_wf | intro _ _ _ | simp (maxDischargeDepth := 40) [*] | dsimp only))

@[simp] theorem execShldU_wf (f : FA) (s : State) (hmem : s.mem.wf = true) : MemWf (execShldU f s) := by
  unfold execShldU
  first | rfl | (repeat' (
    first | (simp (maxDischargeDepth := 40) [*]; done) | split | with_reducible refine foldl_wf _ _ _ ?_ ?_
          | with_reducible apply State.command_wf | intro _ _ _ | simp (maxDischargeDepth := 40) [*] | dsimp only))

@[simp] theorem execSrel_wf (f : FA) (s : State) (hmem : s.mem.wf = true) : MemWf (execSrel f s) := by
  unfold execSrel
  first | rfl | (repeat' (
    first | (simp (maxDischargeDepth := 40) [*]; done) | split | with_reducible refine foldl_wf _ _ _ ?_ ?_
          | with_reducible apply State.command_wf | intro _ _ _ | simp (maxDischargeDepth := 40) [*] | dsimp only))

@[simp] theorem execSclr_wf (f : FA) (s : State) (hmem : s.mem.wf = true) : MemWf (execSclr f s) := by
  unfold execSclr
  first | rfl | (repeat' (
    first | (simp (maxDischargeDepth := 40) [*]; done) | split | with_reducible refine foldl_wf _ _ _ ?_ ?_
          | with_reducible apply State.command_wf | intro _ _ _ | simp (maxDischargeDepth := 40) [*] | dsimp only))

@[simp] theorem execBank_wf (f : FA) (s : State) (hmem : s.mem.wf = true) : MemWf (execBank f s) := by
  unfold execBank
  first | rfl | (repeat' (
    first | (simp (maxDischargeDepth := 40) [*]; done) | split | with_reducible refine foldl_wf _ _ _ ?_ ?_
          | with_reducible apply State.command_wf | intro _ _ _ | simp (maxDischargeDepth := 40) [*] | dsimp only))

@[simp] theorem execUnbank_wf (f : FA) (s : State) (hmem : s.mem.wf = true) : MemWf (execUnbank f s) := by
  unfold execUnbank
  first | rfl | (repeat' (
    first | (simp (maxDischargeDepth := 40) [*]; done) | split | with_reducible refine foldl_wf _ _ _ ?_ ?_
          | with_reducible apply State.command_wf | intro _ _ _ | simp (maxDischargeDepth := 40) [*] | dsimp only))

@[simp] theorem execRerot_wf (f : FA) (s : State) (hmem : s.mem.wf = true) : MemWf (execRerot f s) := by
  unfold execRerot
  first | rfl | (repeat' (
    first | (simp (maxDischargeDepth := 40) [*]; done) | split | with_reducible refine foldl_wf _ _ _ ?_ ?_
          | with_reducible apply State.command_wf | intro _ _ _ | simp (maxDischargeDepth := 40) [*] | dsimp only))

@[simp] theorem execSstat_wf (f : FA) (s : State) (hmem : s.mem.wf = true) : MemWf (execSstat f s) := by
  unfold execSstat
  first | rfl | (repeat' (
    first | (simp (maxDischargeDepth := 40) [*]; done) | split | with_reducible refine foldl_wf _ _ _ ?_ ?_
          | with_reducible apply State.shoot_wf | with_reducible apply State.attempt_wf | intro _ _ _
          | simp (maxDischargeDepth := 40) [*] | dsimp only))

@[simp] theorem State.openSnapshot_wf (s : State) (x : Site) (t : Token) (hmem : s.mem.wf = true) :
    (State.openSnapshot s x t).mem.wf = true := by
  unfold State.openSnapshot
  dsimp only
  rw [State.snapCheckClose_mem]
  refine foldl_wf _ _ _ (foldl_wf _ _ _ ?_ fun s i h => State.linksMarked_wf _ _ _ h) fun s i h => State.snapProgress_wf _ _ h
  simp [hmem]

@[simp] theorem execMark_wf (f : FA) (s : State) (hmem : s.mem.wf = true) : MemWf (execMark f s) := by
  unfold execMark
  first | rfl | (repeat' (
    first | (simp (maxDischargeDepth := 40) [*]; done) | split | with_reducible refine foldl_wf _ _ _ ?_ ?_
          | with_reducible apply State.shoot_wf | with_reducible apply State.attempt_wf
          | with_reducible apply State.openSnapshot_wf | intro _ _ _ | simp (maxDischargeDepth := 40) [*]
          | dsimp only))

@[simp] theorem execSlotPass_wf (core : Fin 96) (region : Fin 8) (s : State) (hmem : s.mem.wf = true) :
    MemWf (execSlotPass core region s) := by
  unfold execSlotPass
  first | rfl | (repeat' (
    first | (simp (maxDischargeDepth := 40) [*]; done) | split | with_reducible refine foldl_wf _ _ _ ?_ ?_
          | with_reducible apply State.headRun_wf | with_reducible apply State.laStep_wf | intro _ _ _
          | simp (maxDischargeDepth := 40) [*] | dsimp only))

@[simp] theorem execHeadRetire_wf (core : Fin 96) (region : Fin 8) (s : State) (hmem : s.mem.wf = true) :
    MemWf (execHeadRetire core region s) := by
  unfold execHeadRetire
  first | rfl | (repeat' (
    first | (simp (maxDischargeDepth := 40) [*]; done) | split | with_reducible refine foldl_wf _ _ _ ?_ ?_
          | with_reducible apply State.headRetiring_wf | intro _ _ _ | simp (maxDischargeDepth := 40) [*]
          | dsimp only))

@[simp] theorem execCommandEnqueue_mem (core : Fin 96) (region : Fin 8) (cmd : Cmd) (gen : Nat) (s : State) :
    MemIs s.mem (execCommandEnqueue core region cmd gen s) := by
  unfold execCommandEnqueue
  first | rfl | (repeat' (
    first | (simp (maxDischargeDepth := 40); done) | split | with_reducible refine foldl_mem _ _ _ ?_ | intro _ _
          | simp (maxDischargeDepth := 40) | dsimp only))

@[simp] theorem execEmberReadDone_mem (core : Fin 96) (region : Fin 8) (gen : Nat) (s : State) :
    MemIs s.mem (execEmberReadDone core region gen s) := by
  unfold execEmberReadDone
  first | rfl | (repeat' (
    first | (simp (maxDischargeDepth := 40); done) | split | with_reducible refine foldl_mem _ _ _ ?_ | intro _ _
          | simp (maxDischargeDepth := 40) | dsimp only))

@[simp] theorem execEmberWriteDone_mem (core : Fin 96) (region : Fin 8) (gen : Nat) (s : State) :
    MemIs s.mem (execEmberWriteDone core region gen s) := by
  unfold execEmberWriteDone
  first | rfl | (repeat' (
    first | (simp (maxDischargeDepth := 40); done) | split | with_reducible refine foldl_mem _ _ _ ?_ | intro _ _
          | simp (maxDischargeDepth := 40) | dsimp only))

@[simp] theorem execMarkerArrival_wf (dst : Site) (port : PortName) (pos : Nat) (gen : Nat) (s : State)
    (hmem : s.mem.wf = true) :
    MemWf (execMarkerArrival dst port pos gen s) := by
  unfold execMarkerArrival
  first | rfl | (repeat' (
    first | (simp (maxDischargeDepth := 40) [*]; done) | split | with_reducible refine foldl_wf _ _ _ ?_ ?_
          | with_reducible apply State.markerArrives_wf | intro _ _ _ | simp (maxDischargeDepth := 40) [*]
          | dsimp only))

@[simp] theorem execSnapWindowExpiry_wf (site : Site) (gen : Nat) (s : State) (hmem : s.mem.wf = true) :
    MemWf (execSnapWindowExpiry site gen s) := by
  unfold execSnapWindowExpiry
  first | rfl | (repeat' (
    first | (simp (maxDischargeDepth := 40) [*]; done) | split | with_reducible refine foldl_wf _ _ _ ?_ ?_
          | with_reducible apply State.joinExpires_wf | intro _ _ _ | simp (maxDischargeDepth := 40) [*] | dsimp only))

@[simp] theorem execSnapshotClose_wf (core : Fin 96) (region : Fin 8) (s : State) (hmem : s.mem.wf = true) :
    MemWf (execSnapshotClose core region s) := by
  unfold execSnapshotClose
  first | rfl | (repeat' (
    first | (simp (maxDischargeDepth := 40) [*]; done) | split | with_reducible refine foldl_wf _ _ _ ?_ ?_
          | with_reducible apply State.closeSnapshot_wf | intro _ _ _ | simp (maxDischargeDepth := 40) [*]
          | dsimp only))

end Sys2Proof.Machine
end

