-- ==== Sys2Proof/Laws/AccessMem.lean ====
section
/-! SUPPORT. What the memory operators, their accesses and the sampler do to memory: each leaves it as it is, or keeps its canonical form. -/

namespace Sys2Proof.Machine

set_option linter.unusedSimpArgs false

/-! ## Machine/Memory.lean -/

@[simp] theorem State.fireNow_wf (s : State) (x : Site) (io : Io) (sh : Shot) (res : List Emit)
    (hmem : s.mem.wf = true) :
    (State.fireNow s x io sh res).mem.wf = true := by
  unfold State.fireNow
  first | rfl | (repeat' (
    first | (simp (maxDischargeDepth := 40) [*]; done) | split | with_reducible refine foldl_wf _ _ _ ?_ ?_
          | with_reducible apply State.attemptId_wf | intro _ _ _ | simp (maxDischargeDepth := 40) [*] | dsimp only))

@[simp] theorem State.fireAccess_wf (s before : State) (x : Site) (io : Io) (sh : Shot) (l : Loc) (kind : AKind)
    (pieces : List Piece) (data : List Byte) (poison wr : Bool) (post : State → State) (hmem : s.mem.wf = true)
    (hb : before.mem.wf = true) (hp : ∀ t, (post t).mem = t.mem) :
    (s.fireAccess before x io sh l kind pieces data poison wr post).mem.wf = true := by
  unfold State.fireAccess
  split
  · exact hmem
  · split
    · rw [hp, State.regionFault_mem]
      exact State.shoot_wf _ _ _ _ _ hb
    · dsimp only
      rw [hp, State.tickId_mem, State.issue_mem, State.takeTag_mem]
      exact State.shoot_wf _ _ _ _ _ hb

@[simp] theorem State.endWhenDone_wf (s : State) (x : Site) (io : Io) (hmem : s.mem.wf = true) :
    (State.endWhenDone s x io).mem.wf = true := by
  unfold State.endWhenDone
  first | rfl | (repeat' (
    first | (simp (maxDischargeDepth := 40) [*]; done) | split | with_reducible refine foldl_wf _ _ _ ?_ ?_
          | with_reducible apply State.attempt_wf | intro _ _ _ | simp (maxDischargeDepth := 40) [*] | dsimp only))

@[simp] theorem State.mismatchNow_wf (s : State) (x : Site) (io : Io) (tag : BitVec 4) (hmem : s.mem.wf = true) :
    (State.mismatchNow s x io tag).mem.wf = true := by
  unfold State.mismatchNow
  first | rfl | (repeat' (
    first | (simp (maxDischargeDepth := 40) [*]; done) | split | with_reducible refine foldl_wf _ _ _ ?_ ?_
          | with_reducible apply State.fireNow_wf | intro _ _ _ | simp (maxDischargeDepth := 40) [*] | dsimp only))

@[simp] theorem State.memOp_wf (s : State) (io : Io) (tag : BitVec 4) (fire : Site → State)
    (hfire : ∀ x, (fire x).mem.wf = true) (hmem : s.mem.wf = true) : (s.memOp io tag fire).mem.wf = true := by
  unfold State.memOp
  dsimp only
  split
  · exact hmem
  · exact State.endWhenDone_wf _ _ _ hmem
  · exact State.mismatchNow_wf _ _ _ _ hmem
  · exact hfire _

@[simp] theorem State.windowStep_mem (s : State) (x : Site) (off : BitVec 12) (o : Lane) :
    (State.windowStep s x off o).1.mem = s.mem := by
  unfold State.windowStep
  first | rfl | (repeat' (
    first | (simp (maxDischargeDepth := 40); done) | split | with_reducible refine foldl_mem _ _ _ ?_ | intro _ _
          | simp (maxDischargeDepth := 40) | dsimp only))

@[simp] theorem State.fireAccess_id_wf (s : State) (x : Site) (io : Io) (sh : Shot) (l : Loc) (kind : AKind)
    (pieces : List Piece) (data : List Byte) (poison wr : Bool) (hmem : s.mem.wf = true) :
    (s.fireAccess s x io sh l kind pieces data poison wr id).mem.wf = true :=
  State.fireAccess_wf _ _ _ _ _ _ _ _ _ _ _ _ hmem hmem fun _ => rfl

theorem State.variant_mem (s : State) (x : Site) (f : FM) (o : Lane) :
    (s.variant x f o).before.mem = s.mem ∧ ∀ t, ((s.variant x f o).step t).mem = t.mem := by
  have hw : (s.windowStep x f.off o).1.mem = s.mem := by
    unfold State.windowStep
    dsimp only
    repeat' split
    all_goals simp
  unfold State.variant
  split <;> simp [hw]

theorem State.loadVar_mem (s : State) (x : Site) (f : FM) (lds : Bool) (o : Lane) :
    (s.loadVar x f lds o).before.mem = s.mem ∧ ∀ t, ((s.loadVar x f lds o).step t).mem = t.mem := by
  unfold State.loadVar
  split
  · exact ⟨rfl, fun _ => rfl⟩
  · exact State.variant_mem _ _ _ _

@[simp] theorem loadFire_wf (s : State) (f : FM) (lds : Bool) (x : Site) (hmem : s.mem.wf = true) :
    (loadFire s f lds x).mem.wf = true := by
  unfold loadFire
  dsimp only
  split
  · exact State.fireNow_wf _ _ _ _ _ hmem
  · split
    · exact State.fireNow_wf _ _ _ _ _ hmem
    · exact State.fireAccess_wf _ _ _ _ _ _ _ _ _ _ _ _ hmem (by rw [(State.loadVar_mem _ _ _ _ _).1]; exact hmem)
        (State.loadVar_mem _ _ _ _ _).2
  · exact hmem

@[simp] theorem execLd_wf (f : FM) (s : State) (hmem : s.mem.wf = true) : MemWf (execLd f s) := by
  unfold execLd
  first | rfl | (repeat' (
    first | (simp (maxDischargeDepth := 40) [*]; done) | split | with_reducible refine foldl_wf _ _ _ ?_ ?_
          | with_reducible apply State.memOp_wf | with_reducible apply loadFire_wf | intro _ _ _
          | simp (maxDischargeDepth := 40) [*] | dsimp only))

@[simp] theorem execLds_wf (f : FM) (s : State) (hmem : s.mem.wf = true) : MemWf (execLds f s) := by
  unfold execLds
  first | rfl | (repeat' (
    first | (simp (maxDischargeDepth := 40) [*]; done) | split | with_reducible refine foldl_wf _ _ _ ?_ ?_
          | with_reducible apply State.memOp_wf | with_reducible apply loadFire_wf | intro _ _ _
          | simp (maxDischargeDepth := 40) [*] | dsimp only))

@[simp] theorem storeFire_wf (s : State) (f : FM) (full : Bool) (x : Site) (hmem : s.mem.wf = true) :
    (storeFire s f full x).mem.wf = true := by
  have hb (x : Site) (o : Lane) :
      (s.variant x f o).before.mem.wf = true := by rw [(State.variant_mem _ _ _ _).1]; exact hmem
  have hs (x : Site) (o : Lane) := (State.variant_mem s x f o).2
  unfold storeFire
  dsimp only
  repeat' split
  all_goals first
    | with_reducible exact hmem
    | with_reducible exact State.fireNow_wf _ _ _ _ _ hmem
    | with_reducible exact State.fireAccess_wf _ _ _ _ _ _ _ _ _ _ _ _ hmem (hb _ _) (hs _ _)
    | (rw [hs]; with_reducible exact State.fireNow_wf _ _ _ _ _ (hb _ _))

@[simp] theorem execSt_wf (f : FM) (s : State) (hmem : s.mem.wf = true) : MemWf (execSt f s) := by
  unfold execSt
  first | rfl | (repeat' (
    first | (simp (maxDischargeDepth := 40) [*]; done) | split | with_reducible refine foldl_wf _ _ _ ?_ ?_
          | with_reducible apply State.memOp_wf | with_reducible apply storeFire_wf | intro _ _ _
          | simp (maxDischargeDepth := 40) [*] | dsimp only))

@[simp] theorem execStf_wf (f : FM) (s : State) (hmem : s.mem.wf = true) : MemWf (execStf f s) := by
  unfold execStf
  first | rfl | (repeat' (
    first | (simp (maxDischargeDepth := 40) [*]; done) | split | with_reducible refine foldl_wf _ _ _ ?_ ?_
          | with_reducible apply State.memOp_wf | with_reducible apply storeFire_wf | intro _ _ _
          | simp (maxDischargeDepth := 40) [*] | dsimp only))

@[simp] theorem lanesFire_wf (s : State) (f : FM) (x : Site) (idx : Vector Lane 16) (sh : Shot) (kind : AKind)
    (data : List Byte) (poison wr : Bool) (hmem : s.mem.wf = true) :
    (lanesFire s f x idx sh kind data poison wr).mem.wf = true := by
  unfold lanesFire
  first | rfl | (repeat' (
    first | (simp (maxDischargeDepth := 40) [*]; done) | split | with_reducible refine foldl_wf _ _ _ ?_ ?_
          | with_reducible apply State.fireAccess_wf | intro _ _ _ | simp (maxDischargeDepth := 40) [*] | dsimp only))

@[simp] theorem ldxFire_wf (s : State) (f : FM) (x : Site) (hmem : s.mem.wf = true) :
    (ldxFire s f x).mem.wf = true := by
  unfold ldxFire
  first | rfl | (repeat' (
    first | (simp (maxDischargeDepth := 40) [*]; done) | split | with_reducible refine foldl_wf _ _ _ ?_ ?_
          | with_reducible apply State.fireNow_wf | with_reducible apply lanesFire_wf | intro _ _ _
          | simp (maxDischargeDepth := 40) [*] | dsimp only))

@[simp] theorem execLdx_wf (f : FM) (s : State) (hmem : s.mem.wf = true) : MemWf (execLdx f s) := by
  unfold execLdx
  first | rfl | (repeat' (
    first | (simp (maxDischargeDepth := 40) [*]; done) | split | with_reducible refine foldl_wf _ _ _ ?_ ?_
          | with_reducible apply State.memOp_wf | with_reducible apply ldxFire_wf | intro _ _ _
          | simp (maxDischargeDepth := 40) [*] | dsimp only))

@[simp] theorem stxFire_wf (s : State) (f : FM) (x : Site) (hmem : s.mem.wf = true) :
    (stxFire s f x).mem.wf = true := by
  unfold stxFire
  first | rfl | (repeat' (
    first | (simp (maxDischargeDepth := 40) [*]; done) | split | with_reducible refine foldl_wf _ _ _ ?_ ?_
          | with_reducible apply State.fireNow_wf | with_reducible apply lanesFire_wf | intro _ _ _
          | simp (maxDischargeDepth := 40) [*] | dsimp only))

@[simp] theorem execStx_wf (f : FM) (s : State) (hmem : s.mem.wf = true) : MemWf (execStx f s) := by
  unfold execStx
  first | rfl | (repeat' (
    first | (simp (maxDischargeDepth := 40) [*]; done) | split | with_reducible refine foldl_wf _ _ _ ?_ ?_
          | with_reducible apply State.memOp_wf | with_reducible apply stxFire_wf | intro _ _ _
          | simp (maxDischargeDepth := 40) [*] | dsimp only))

@[simp] theorem amoFire_wf (s : State) (f : FM) (x : Site) (hmem : s.mem.wf = true) :
    (amoFire s f x).mem.wf = true := by
  unfold amoFire
  first | rfl | (repeat' (
    first | (simp (maxDischargeDepth := 40) [*]; done) | split | with_reducible refine foldl_wf _ _ _ ?_ ?_
          | with_reducible apply State.fireAccess_wf | with_reducible apply State.fireNow_wf | intro _ _ _
          | simp (maxDischargeDepth := 40) [*] | dsimp only))

@[simp] theorem execAmo_wf (f : FM) (s : State) (hmem : s.mem.wf = true) : MemWf (execAmo f s) := by
  unfold execAmo
  first | rfl | (repeat' (
    first | (simp (maxDischargeDepth := 40) [*]; done) | split | with_reducible refine foldl_wf _ _ _ ?_ ?_
          | with_reducible apply State.memOp_wf | with_reducible apply amoFire_wf | intro _ _ _
          | simp (maxDischargeDepth := 40) [*] | dsimp only))

@[simp] theorem doneFire_wf (s : State) (f : FM) (x : Site) (hmem : s.mem.wf = true) :
    (doneFire s f x).mem.wf = true := by
  unfold doneFire
  first | rfl | (repeat' (
    first | (simp (maxDischargeDepth := 40) [*]; done) | split | with_reducible refine foldl_wf _ _ _ ?_ ?_
          | with_reducible apply State.shoot_wf | with_reducible apply State.fireNow_wf | intro _ _ _
          | simp (maxDischargeDepth := 40) [*] | dsimp only))

@[simp] theorem execDone_wf (f : FM) (s : State) (hmem : s.mem.wf = true) : MemWf (execDone f s) := by
  unfold execDone
  first | rfl | (repeat' (
    first | (simp (maxDischargeDepth := 40) [*]; done) | split | with_reducible refine foldl_wf _ _ _ ?_ ?_
          | with_reducible apply State.memOp_wf | with_reducible apply doneFire_wf | intro _ _ _
          | simp (maxDischargeDepth := 40) [*] | dsimp only))

@[simp] theorem State.fireSpoilt_wf (s : State) (x : Site) (io : Io) (sh : Shot) (tile desc n : Nat)
    (hmem : s.mem.wf = true) :
    (State.fireSpoilt s x io sh tile desc n).mem.wf = true := by
  unfold State.fireSpoilt
  first | rfl | (repeat' (
    first | (simp (maxDischargeDepth := 40) [*]; done) | split | with_reducible refine foldl_wf _ _ _ ?_ ?_
          | with_reducible apply State.fireNow_wf | intro _ _ _ | simp (maxDischargeDepth := 40) [*] | dsimp only))

@[simp] theorem rpushFire_wf (s : State) (f : FM) (x : Site) (hmem : s.mem.wf = true) :
    (rpushFire s f x).mem.wf = true := by
  unfold rpushFire
  dsimp only
  repeat' split
  all_goals first
    | with_reducible exact hmem
    | with_reducible exact State.fireNow_wf _ _ _ _ _ hmem
    | with_reducible exact State.fireSpoilt_wf _ _ _ _ _ _ _ hmem
    | with_reducible exact State.fireAccess_id_wf _ _ _ _ _ _ _ _ _ _ hmem

@[simp] theorem execRpush_wf (f : FM) (s : State) (hmem : s.mem.wf = true) : MemWf (execRpush f s) := by
  unfold execRpush
  first | rfl | (repeat' (
    first | (simp (maxDischargeDepth := 40) [*]; done) | split | with_reducible refine foldl_wf _ _ _ ?_ ?_
          | with_reducible apply State.memOp_wf | with_reducible apply rpushFire_wf | intro _ _ _
          | simp (maxDischargeDepth := 40) [*] | dsimp only))

@[simp] theorem rpopFire_wf (s : State) (f : FM) (x : Site) (hmem : s.mem.wf = true) :
    (rpopFire s f x).mem.wf = true := by
  unfold rpopFire
  dsimp only
  repeat' split
  all_goals first
    | with_reducible exact hmem
    | with_reducible exact State.fireNow_wf _ _ _ _ _ hmem
    | with_reducible exact State.fireSpoilt_wf _ _ _ _ _ _ _ hmem
    | with_reducible exact State.fireAccess_id_wf _ _ _ _ _ _ _ _ _ _ hmem

@[simp] theorem execRpop_wf (f : FM) (s : State) (hmem : s.mem.wf = true) : MemWf (execRpop f s) := by
  unfold execRpop
  first | rfl | (repeat' (
    first | (simp (maxDischargeDepth := 40) [*]; done) | split | with_reducible refine foldl_wf _ _ _ ?_ ?_
          | with_reducible apply State.memOp_wf | with_reducible apply rpopFire_wf | intro _ _ _
          | simp (maxDischargeDepth := 40) [*] | dsimp only))

/-! ## Machine/KvPages.lean -/

@[simp] theorem State.kvPut_wf (s : State) (p : Nat) (e : BitVec 256) (hmem : s.mem.wf = true) :
    (State.kvPut s p e).mem.wf = true := by
  exact State.onMem_wf _ _ (fun m h => Memory.store_wf h _ _) hmem

@[simp] theorem State.meetAll_mem (s : State) (a : Access) (at_ : List Nat) : (State.meetAll s a at_).mem = s.mem := by
  unfold State.meetAll
  first | rfl | (repeat' (
    first | (simp (maxDischargeDepth := 40); done) | split | with_reducible refine foldl_mem _ _ _ ?_ | intro _ _
          | simp (maxDischargeDepth := 40) | dsimp only))

@[simp] theorem State.pglk_mem (s : State) (asid : BitVec 12) (np : Bool) (t : Token) :
    (State.pglk s asid np t).1.mem = s.mem := by
  unfold State.pglk
  first | rfl | (repeat' (
    first | (simp (maxDischargeDepth := 40); done) | split | with_reducible refine foldl_mem _ _ _ ?_ | intro _ _
          | simp (maxDischargeDepth := 40) | dsimp only))

@[simp] theorem State.pgfork_wf (s : State) (asid : BitVec 12) (t : Token) (hmem : s.mem.wf = true) :
    (State.pgfork s asid t).1.mem.wf = true := by
  unfold State.pgfork
  first | rfl | (repeat' (
    first | (simp (maxDischargeDepth := 40) [*]; done) | split | with_reducible refine foldl_wf _ _ _ ?_ ?_
          | with_reducible apply State.kvPut_wf | intro _ _ _ | simp (maxDischargeDepth := 40) [*] | dsimp only))

@[simp] theorem State.pgfree_wf (s : State) (asid : BitVec 12) (t : Token) (hmem : s.mem.wf = true) :
    (State.pgfree s asid t).1.mem.wf = true := by
  unfold State.pgfree
  first | rfl | (repeat' (
    first | (simp (maxDischargeDepth := 40) [*]; done) | split | with_reducible refine foldl_wf _ _ _ ?_ ?_
          | with_reducible apply State.kvPut_wf | intro _ _ _ | simp (maxDischargeDepth := 40) [*] | dsimp only))

@[simp] theorem State.pgbase_wf (s : State) (asid : BitVec 12) (add : Bool) (t : Token) (hmem : s.mem.wf = true) :
    (State.pgbase s asid add t).1.mem.wf = true := by
  unfold State.pgbase
  first | rfl | (repeat' (
    first | (simp (maxDischargeDepth := 40) [*]; done) | split | with_reducible refine foldl_wf _ _ _ ?_ ?_
          | with_reducible apply State.kvPut_wf | intro _ _ _ | simp (maxDischargeDepth := 40) [*] | dsimp only))

@[simp] theorem State.tableAct_wf (s : State) (word : Word64) (asid : BitVec 12) (t : Token) (hmem : s.mem.wf = true) :
    (State.tableAct s word asid t).1.mem.wf = true := by
  unfold State.tableAct
  first | rfl | (repeat' (
    first | (simp (maxDischargeDepth := 40) [*]; done) | split | with_reducible refine foldl_wf _ _ _ ?_ ?_
          | with_reducible apply State.pgfork_wf | with_reducible apply State.pgfree_wf
          | with_reducible apply State.pgbase_wf | intro _ _ _ | simp (maxDischargeDepth := 40) [*] | dsimp only))

@[simp] theorem tableFire_wf (s : State) (f : FM) (wr : Bool) (x : Site) (hmem : s.mem.wf = true) :
    (tableFire s f wr x).mem.wf = true := by
  unfold tableFire
  first | rfl | (repeat' (
    first | (simp (maxDischargeDepth := 40) [*]; done) | split | with_reducible refine foldl_wf _ _ _ ?_ ?_
          | with_reducible apply State.fireAccess_wf | with_reducible apply State.fireNow_wf | intro _ _ _
          | simp (maxDischargeDepth := 40) [*] | dsimp only))

@[simp] theorem execPglk_wf (f : FM) (s : State) (hmem : s.mem.wf = true) : MemWf (execPglk f s) := by
  unfold execPglk
  first | rfl | (repeat' (
    first | (simp (maxDischargeDepth := 40) [*]; done) | split | with_reducible refine foldl_wf _ _ _ ?_ ?_
          | with_reducible apply State.memOp_wf | with_reducible apply tableFire_wf | intro _ _ _
          | simp (maxDischargeDepth := 40) [*] | dsimp only))

@[simp] theorem execPgfork_wf (f : FM) (s : State) (hmem : s.mem.wf = true) : MemWf (execPgfork f s) := by
  unfold execPgfork
  first | rfl | (repeat' (
    first | (simp (maxDischargeDepth := 40) [*]; done) | split | with_reducible refine foldl_wf _ _ _ ?_ ?_
          | with_reducible apply State.memOp_wf | with_reducible apply tableFire_wf | intro _ _ _
          | simp (maxDischargeDepth := 40) [*] | dsimp only))

@[simp] theorem execPgfree_wf (f : FM) (s : State) (hmem : s.mem.wf = true) : MemWf (execPgfree f s) := by
  unfold execPgfree
  first | rfl | (repeat' (
    first | (simp (maxDischargeDepth := 40) [*]; done) | split | with_reducible refine foldl_wf _ _ _ ?_ ?_
          | with_reducible apply State.memOp_wf | with_reducible apply tableFire_wf | intro _ _ _
          | simp (maxDischargeDepth := 40) [*] | dsimp only))

@[simp] theorem execPgbase_wf (f : FM) (s : State) (hmem : s.mem.wf = true) : MemWf (execPgbase f s) := by
  unfold execPgbase
  first | rfl | (repeat' (
    first | (simp (maxDischargeDepth := 40) [*]; done) | split | with_reducible refine foldl_wf _ _ _ ?_ ?_
          | with_reducible apply State.memOp_wf | with_reducible apply tableFire_wf | intro _ _ _
          | simp (maxDischargeDepth := 40) [*] | dsimp only))

@[simp] theorem pageFire_wf (s : State) (f : FM) (ldv : Bool) (x : Site) (hmem : s.mem.wf = true) :
    (pageFire s f ldv x).mem.wf = true := by
  unfold pageFire
  first | rfl | (repeat' (
    first | (simp (maxDischargeDepth := 40) [*]; done) | split | with_reducible refine foldl_wf _ _ _ ?_ ?_
          | with_reducible apply State.fireAccess_wf | with_reducible apply State.fireNow_wf | intro _ _ _
          | simp (maxDischargeDepth := 40) [*] | dsimp only))

@[simp] theorem execLdk_wf (f : FM) (s : State) (hmem : s.mem.wf = true) : MemWf (execLdk f s) := by
  unfold execLdk
  first | rfl | (repeat' (
    first | (simp (maxDischargeDepth := 40) [*]; done) | split | with_reducible refine foldl_wf _ _ _ ?_ ?_
          | with_reducible apply State.memOp_wf | with_reducible apply pageFire_wf | intro _ _ _
          | simp (maxDischargeDepth := 40) [*] | dsimp only))

@[simp] theorem execLdv_wf (f : FM) (s : State) (hmem : s.mem.wf = true) : MemWf (execLdv f s) := by
  unfold execLdv
  first | rfl | (repeat' (
    first | (simp (maxDischargeDepth := 40) [*]; done) | split | with_reducible refine foldl_wf _ _ _ ?_ ?_
          | with_reducible apply State.memOp_wf | with_reducible apply pageFire_wf | intro _ _ _
          | simp (maxDischargeDepth := 40) [*] | dsimp only))

@[simp] theorem kappFire_wf (s : State) (f : FM) (x : Site) (hmem : s.mem.wf = true) :
    (kappFire s f x).mem.wf = true := by
  unfold kappFire
  first | rfl | (repeat' (
    first | (simp (maxDischargeDepth := 40) [*]; done) | split | with_reducible refine foldl_wf _ _ _ ?_ ?_
          | with_reducible apply State.attempt_wf | with_reducible apply State.fireAccess_wf
          | with_reducible apply State.fireNow_wf | intro _ _ _ | simp (maxDischargeDepth := 40) [*] | dsimp only))

@[simp] theorem execKapp_wf (f : FM) (s : State) (hmem : s.mem.wf = true) : MemWf (execKapp f s) := by
  unfold execKapp
  first | rfl | (repeat' (
    first | (simp (maxDischargeDepth := 40) [*]; done) | split | with_reducible refine foldl_wf _ _ _ ?_ ?_
          | with_reducible apply State.memOp_wf | with_reducible apply kappFire_wf | intro _ _ _
          | simp (maxDischargeDepth := 40) [*] | dsimp only))

@[simp] theorem State.mapUnits_mem (s : State) (a : Access) (rd : Bool) (vs : List Word64) :
    (s.mapUnits a rd vs).1.mem = s.mem := by
  induction vs generalizing s with
  | nil => rfl
  | cons va rest ih =>
    unfold State.mapUnits
    dsimp only
    repeat' split
    all_goals simp [ih]

@[simp] theorem State.pagePut_wf (s : State) (p : OpenPage) (off : Nat) (v : Byte) (hmem : s.mem.wf = true) :
    (State.pagePut s p off v).mem.wf = true := by
  unfold State.pagePut
  first | rfl | (repeat' (
    first | (simp (maxDischargeDepth := 40) [*]; done) | split | with_reducible refine foldl_wf _ _ _ ?_ ?_
          | with_reducible apply State.writePhys_wf | intro _ _ _ | simp (maxDischargeDepth := 40) [*] | dsimp only))

@[simp] theorem State.putCode_wf (s : State) (p : OpenPage) (half t d c : Nat) (hmem : s.mem.wf = true) :
    (State.putCode s p half t d c).mem.wf = true := by
  unfold State.putCode
  first | rfl | (repeat' (
    first | (simp (maxDischargeDepth := 40) [*]; done) | split | with_reducible refine foldl_wf _ _ _ ?_ ?_
          | with_reducible apply State.pagePut_wf | intro _ _ _ | simp (maxDischargeDepth := 40) [*] | dsimp only))

@[simp] theorem State.putScale_wf (s : State) (p : OpenPage) (half b j : Nat) (w : BitVec 16)
    (hmem : s.mem.wf = true) :
    (State.putScale s p half b j w).mem.wf = true := by
  unfold State.putScale
  first | rfl | (repeat' (
    first | (simp (maxDischargeDepth := 40) [*]; done) | split | with_reducible refine foldl_wf _ _ _ ?_ ?_
          | with_reducible apply State.pagePut_wf | intro _ _ _ | simp (maxDischargeDepth := 40) [*] | dsimp only))

@[simp] theorem State.rescale_wf (s : State) (p : OpenPage) (half b j t : Nat) (e' : Int) (hmem : s.mem.wf = true) :
    (State.rescale s p half b j t e').mem.wf = true := by
  unfold State.rescale
  first | rfl | (repeat' (
    first | (simp (maxDischargeDepth := 40) [*]; done) | split | with_reducible refine foldl_wf _ _ _ ?_ ?_
          | with_reducible apply State.putCode_wf | with_reducible apply State.putScale_wf | intro _ _ _
          | simp (maxDischargeDepth := 40) [*] | dsimp only))

@[simp] theorem State.appendGroup_wf (s : State) (p : OpenPage) (half t j : Nat) (open_ : Bool) (vs : List Num)
    (hmem : s.mem.wf = true) :
    (State.appendGroup s p half t j open_ vs).1.mem.wf = true := by
  unfold State.appendGroup
  first | rfl | (repeat' (
    first | (simp (maxDischargeDepth := 40) [*]; done) | split | with_reducible refine foldl_wf _ _ _ ?_ ?_
          | with_reducible apply State.putCode_wf | with_reducible apply State.putScale_wf
          | with_reducible apply State.rescale_wf | intro _ _ _ | simp (maxDischargeDepth := 40) [*] | dsimp only))

@[simp] theorem State.appendHalf_wf (s : State) (p : OpenPage) (half t : Nat) (open_ : Bool) (data : List Token)
    (hmem : s.mem.wf = true) : (State.appendHalf s p half t open_ data).1.mem.wf = true := by
  unfold State.appendHalf
  refine foldl_fst_wf _ _ _ hmem fun q a h => ?_
  exact State.appendGroup_wf _ _ _ _ _ _ _ h

@[simp] theorem State.zeroPad_wf (s : State) (p : OpenPage) (half : Nat) (hmem : s.mem.wf = true) :
    (State.zeroPad s p half).mem.wf = true := by
  unfold State.zeroPad
  first | rfl | (repeat' (
    first | (simp (maxDischargeDepth := 40) [*]; done) | split | with_reducible refine foldl_wf _ _ _ ?_ ?_
          | with_reducible apply State.pagePut_wf | intro _ _ _ | simp (maxDischargeDepth := 40) [*] | dsimp only))

@[simp] theorem State.appendTo_wf (s : State) (p : OpenPage) (entry : Nat) (data : List Token)
    (hmem : s.mem.wf = true) :
    (State.appendTo s p entry data).1.mem.wf = true := by
  unfold State.appendTo
  first | rfl | (repeat' (
    first | (simp (maxDischargeDepth := 40) [*]; done) | split | with_reducible refine foldl_wf _ _ _ ?_ ?_
          | with_reducible apply State.take_wf | with_reducible apply State.kvPut_wf
          | with_reducible apply State.appendHalf_wf | with_reducible apply State.zeroPad_wf | intro _ _ _
          | simp (maxDischargeDepth := 40) [*] | dsimp only))

@[simp] theorem State.pageAcks_mem (s : State) (a : Access) (p : OpenPage) : (State.pageAcks s a p).mem = s.mem := by
  unfold State.pageAcks
  first | rfl | (repeat' (
    first | (simp (maxDischargeDepth := 40); done) | split | with_reducible refine foldl_mem _ _ _ ?_ | intro _ _
          | simp (maxDischargeDepth := 40) | dsimp only))

@[simp] theorem State.append_wf (s : State) (a : Access) (g : PageGeo) (req : Token) (base : Word64)
    (data : List Token) (hmem : s.mem.wf = true) :
    (State.append s a g req base data).1.mem.wf = true := by
  unfold State.append
  first | rfl | (repeat' (
    first | (simp (maxDischargeDepth := 40) [*]; done) | split | with_reducible refine foldl_wf _ _ _ ?_ ?_
          | with_reducible apply State.appendTo_wf | intro _ _ _ | simp (maxDischargeDepth := 40) [*] | dsimp only))

/-! ## Machine/Sample.lean -/

@[simp] theorem execSmrg_wf (f : FA) (s : State) (hmem : s.mem.wf = true) : MemWf (execSmrg f s) := by
  unfold execSmrg
  first | rfl | (repeat' (
    first | (simp (maxDischargeDepth := 40) [*]; done) | split | with_reducible refine foldl_wf _ _ _ ?_ ?_
          | with_reducible apply State.attempt_wf | intro _ _ _ | simp (maxDischargeDepth := 40) [*] | dsimp only))

@[simp] theorem execRsvr_wf (f : FA) (s : State) (hmem : s.mem.wf = true) : MemWf (execRsvr f s) := by
  unfold execRsvr
  first | rfl | (repeat' (
    first | (simp (maxDischargeDepth := 40) [*]; done) | split | with_reducible refine foldl_wf _ _ _ ?_ ?_
          | with_reducible apply State.attempt_wf | with_reducible apply State.plain_wf | intro _ _ _
          | simp (maxDischargeDepth := 40) [*] | dsimp only))

@[simp] theorem execRdraw_wf (f : FA) (s : State) (hmem : s.mem.wf = true) : MemWf (execRdraw f s) := by
  unfold execRdraw
  first | rfl | (repeat' (
    first | (simp (maxDischargeDepth := 40) [*]; done) | split | with_reducible refine foldl_wf _ _ _ ?_ ?_
          | with_reducible apply State.laneOp_wf | intro _ _ _ | simp (maxDischargeDepth := 40) [*] | dsimp only))

@[simp] theorem execAccpt_wf (f : FA) (s : State) (hmem : s.mem.wf = true) : MemWf (execAccpt f s) := by
  unfold execAccpt
  first | rfl | (repeat' (
    first | (simp (maxDischargeDepth := 40) [*]; done) | split | with_reducible refine foldl_wf _ _ _ ?_ ?_
          | with_reducible apply State.laneOp_wf | intro _ _ _ | simp (maxDischargeDepth := 40) [*] | dsimp only))

end Sys2Proof.Machine
end

