-- ==== Sys2Proof/Laws/EdgeMem.lean ====
section
/-! SUPPORT. What egress, the reins and the fabric do to memory: each leaves it as it is, or keeps its canonical form. -/

namespace Sys2Proof.Machine

set_option linter.unusedSimpArgs false

/-! ## Machine/Egress.lean -/

@[simp] theorem State.onEgress_mem (s : State) (f : Egress → Egress) : (State.onEgress s f).mem = s.mem := by
  unfold State.onEgress
  first | rfl | (repeat' (
    first | (simp (maxDischargeDepth := 40); done) | split | with_reducible refine foldl_mem _ _ _ ?_ | intro _ _
          | simp (maxDischargeDepth := 40) | dsimp only))

@[simp] theorem State.holdToken_mem (s : State) (h : Word64) (req : Token) : (State.holdToken s h req).mem = s.mem := by
  unfold State.holdToken
  first | rfl | (repeat' (
    first | (simp (maxDischargeDepth := 40); done) | split | with_reducible refine foldl_mem _ _ _ ?_ | intro _ _
          | simp (maxDischargeDepth := 40) | dsimp only))

@[simp] theorem State.putRefused_mem (s : State) : (State.putRefused s).mem = s.mem := by
  unfold State.putRefused
  first | rfl | (repeat' (
    first | (simp (maxDischargeDepth := 40); done) | split | with_reducible refine foldl_mem _ _ _ ?_ | intro _ _
          | simp (maxDischargeDepth := 40) | dsimp only))

@[simp] theorem State.egput_mem (s : State) (word : Word64) (asid : BitVec 12) (h : Word64) (req : Token) :
    (State.egput s word asid h req).1.mem = s.mem := by
  unfold State.egput
  first | rfl | (repeat' (
    first | (simp (maxDischargeDepth := 40); done) | split | with_reducible refine foldl_mem _ _ _ ?_ | intro _ _
          | simp (maxDischargeDepth := 40) | dsimp only))

@[simp] theorem State.verdictFault_mem (s : State) (x : Site) (h : Word64) (entry : Nat) (i : Nat) (n : Lane)
    (hput : BitVec 32) (st : BitVec 8) :
    (State.verdictFault s x h entry i n hput st).mem = s.mem := by
  unfold State.verdictFault
  first | rfl | (repeat' (
    first | (simp (maxDischargeDepth := 40); done) | split | with_reducible refine foldl_mem _ _ _ ?_ | intro _ _
          | simp (maxDischargeDepth := 40) | dsimp only))

@[simp] theorem State.egver_mem (s : State) (x : Site) (h : Word64) (entry : Nat) (req : Token) :
    (State.egver s x h entry req).1.mem = s.mem := by
  unfold State.egver
  first | rfl | (repeat' (
    first | (simp (maxDischargeDepth := 40); done) | split | with_reducible refine foldl_mem _ _ _ ?_ | intro _ _
          | simp (maxDischargeDepth := 40) | dsimp only))

@[simp] theorem State.egrst_mem (s : State) (asid : BitVec 12) (h : Word64) (req : Token) :
    (State.egrst s asid h req).1.mem = s.mem := by
  unfold State.egrst
  first | rfl | (repeat' (
    first | (simp (maxDischargeDepth := 40); done) | split | with_reducible refine foldl_mem _ _ _ ?_ | intro _ _
          | simp (maxDischargeDepth := 40) | dsimp only))

@[simp] theorem State.egressAct_mem (s : State) (x : Site) (h : Word64) (entry : Nat) (asid : BitVec 12)
    (word : Word64) (req : Token) :
    (State.egressAct s x h entry asid word req).1.mem = s.mem := by
  unfold State.egressAct
  first | rfl | (repeat' (
    first | (simp (maxDischargeDepth := 40); done) | split | with_reducible refine foldl_mem _ _ _ ?_ | intro _ _
          | simp (maxDischargeDepth := 40) | dsimp only))

@[simp] theorem egressFire_wf (s : State) (f : FM) (x : Site) (hmem : s.mem.wf = true) :
    (egressFire s f x).mem.wf = true := by
  unfold egressFire
  first | rfl | (repeat' (
    first | (simp (maxDischargeDepth := 40) [*]; done) | split | with_reducible refine foldl_wf _ _ _ ?_ ?_
          | with_reducible apply State.fireAccess_wf | with_reducible apply State.fireNow_wf | intro _ _ _
          | simp (maxDischargeDepth := 40) [*] | dsimp only))

@[simp] theorem execEgput_wf (f : FM) (s : State) (hmem : s.mem.wf = true) : MemWf (execEgput f s) := by
  unfold execEgput
  first | rfl | (repeat' (
    first | (simp (maxDischargeDepth := 40) [*]; done) | split | with_reducible refine foldl_wf _ _ _ ?_ ?_
          | with_reducible apply State.memOp_wf | with_reducible apply egressFire_wf | intro _ _ _
          | simp (maxDischargeDepth := 40) [*] | dsimp only))

@[simp] theorem execEgver_wf (f : FM) (s : State) (hmem : s.mem.wf = true) : MemWf (execEgver f s) := by
  unfold execEgver
  first | rfl | (repeat' (
    first | (simp (maxDischargeDepth := 40) [*]; done) | split | with_reducible refine foldl_wf _ _ _ ?_ ?_
          | with_reducible apply State.memOp_wf | with_reducible apply egressFire_wf | intro _ _ _
          | simp (maxDischargeDepth := 40) [*] | dsimp only))

@[simp] theorem execEgrst_wf (f : FM) (s : State) (hmem : s.mem.wf = true) : MemWf (execEgrst f s) := by
  unfold execEgrst
  first | rfl | (repeat' (
    first | (simp (maxDischargeDepth := 40) [*]; done) | split | with_reducible refine foldl_wf _ _ _ ?_ ?_
          | with_reducible apply State.memOp_wf | with_reducible apply egressFire_wf | intro _ _ _
          | simp (maxDischargeDepth := 40) [*] | dsimp only))

@[simp] theorem execEgressRecordOut_mem (s : State) : MemIs s.mem (execEgressRecordOut s) := by
  unfold execEgressRecordOut
  first | rfl | (repeat' (
    first | (simp (maxDischargeDepth := 40); done) | split | with_reducible refine foldl_mem _ _ _ ?_ | intro _ _
          | simp (maxDischargeDepth := 40) | dsimp only))

@[simp] theorem execEgoHeadWrite_mem (v : Word64) (s : State) : MemIs s.mem (execEgoHeadWrite v s) := by
  unfold execEgoHeadWrite
  first | rfl | (repeat' (
    first | (simp (maxDischargeDepth := 40); done) | split | with_reducible refine foldl_mem _ _ _ ?_ | intro _ _
          | simp (maxDischargeDepth := 40) | dsimp only))

/-! ## Machine/Reins.lean -/

@[simp] theorem State.onRein_mem (s : State) (h : Word64) (i : Nat) (f : Rein → Rein) :
    (State.onRein s h i f).mem = s.mem := by
  unfold State.onRein
  first | rfl | (repeat' (
    first | (simp (maxDischargeDepth := 40); done) | split | with_reducible refine foldl_mem _ _ _ ?_ | intro _ _
          | simp (maxDischargeDepth := 40) | dsimp only))

@[simp] theorem State.newWindow_mem (s : State) (g : Cfg) (src : BitVec 13) :
    (State.newWindow s g src).mem = s.mem := by
  unfold State.newWindow
  first | rfl | (repeat' (
    first | (simp (maxDischargeDepth := 40); done) | split | with_reducible refine foldl_mem _ _ _ ?_ | intro _ _
          | simp (maxDischargeDepth := 40) | dsimp only))

@[simp] theorem execReinWindowStart_mem (handle : Word64) (rein : Nat) (s : State) :
    MemIs s.mem (execReinWindowStart handle rein s) := by
  unfold execReinWindowStart
  first | rfl | (repeat' (
    first | (simp (maxDischargeDepth := 40); done) | split | with_reducible refine foldl_mem _ _ _ ?_ | intro _ _
          | simp (maxDischargeDepth := 40) | dsimp only))

@[simp] theorem execReinUpdate_mem (handle : Word64) (rein : Nat) (s : State) :
    MemIs s.mem (execReinUpdate handle rein s) := by
  unfold execReinUpdate
  first | rfl | (repeat' (
    first | (simp (maxDischargeDepth := 40); done) | split | with_reducible refine foldl_mem _ _ _ ?_ | intro _ _
          | simp (maxDischargeDepth := 40) | dsimp only))

@[simp] theorem execRein_wf (f : FO) (s : State) (hmem : s.mem.wf = true) : MemWf (execRein f s) := by
  unfold execRein
  first | rfl | (repeat' (
    first | (simp (maxDischargeDepth := 40) [*]; done) | split | with_reducible refine foldl_wf _ _ _ ?_ ?_
          | with_reducible apply State.shoot_wf | with_reducible apply State.endWhenDone_wf | intro _ _ _
          | simp (maxDischargeDepth := 40) [*] | dsimp only))

/-! ## Machine/Fabric.lean -/

@[simp] theorem State.drop_mem (s : State) (c : Fin 96) (r : Fin 8) (rep : GuardRep) :
    (State.drop s c r rep).mem = s.mem := by
  unfold State.drop
  first | rfl | (repeat' (
    first | (simp (maxDischargeDepth := 40); done) | split | with_reducible refine foldl_mem _ _ _ ?_ | intro _ _
          | simp (maxDischargeDepth := 40) | dsimp only))

@[simp] theorem execGuardReportPost_mem (core : Fin 96) (region : Fin 8) (link : BitVec 7) (s : State) :
    MemIs s.mem (execGuardReportPost core region link s) := by
  unfold execGuardReportPost
  first | rfl | (repeat' (
    first | (simp (maxDischargeDepth := 40); done) | split | with_reducible refine foldl_mem _ _ _ ?_ | intro _ _
          | simp (maxDischargeDepth := 40) | dsimp only))

@[simp] theorem State.dropOut_mem (s : State) (x : Site) (link fires : Nat) :
    (State.dropOut s x link fires).mem = s.mem := by
  unfold State.dropOut
  first | rfl | (repeat' (
    first | (simp (maxDischargeDepth := 40); done) | split | with_reducible refine foldl_mem _ _ _ ?_ | intro _ _
          | simp (maxDischargeDepth := 40) | dsimp only))

@[simp] theorem State.dropIn_mem (s : State) (c : Fin 96) (r : Fin 8) (link : Nat) :
    (State.dropIn s c r link).mem = s.mem := by
  unfold State.dropIn
  first | rfl | (repeat' (
    first | (simp (maxDischargeDepth := 40); done) | split | with_reducible refine foldl_mem _ _ _ ?_ | intro _ _
          | simp (maxDischargeDepth := 40) | dsimp only))

@[simp] theorem State.parityFails_mem (s : State) (x : Site) (carried : Bool) :
    (State.parityFails s x carried).1.mem = s.mem := by
  unfold State.parityFails
  first | rfl | (repeat' (
    first | (simp (maxDischargeDepth := 40); done) | split | with_reducible refine foldl_mem _ _ _ ?_ | intro _ _
          | simp (maxDischargeDepth := 40) | dsimp only))

@[simp] theorem State.enterPort_mem (s : State) (x : Site) (p : PortName) (t : Token) (o : Origin) :
    (State.enterPort s x p t o).mem = s.mem := by
  unfold State.enterPort
  first | rfl | (repeat' (
    first | (simp (maxDischargeDepth := 40); done) | split | with_reducible refine foldl_mem _ _ _ ?_ | intro _ _
          | simp (maxDischargeDepth := 40) | dsimp only))

@[simp] theorem State.arrive_mem (s : State) (y : Site) (p : PortName) (t : Token) (o : Origin) :
    (State.arrive s y p t o).mem = s.mem := by
  unfold State.arrive
  first | rfl | (repeat' (
    first | (simp (maxDischargeDepth := 40); done) | split | with_reducible refine foldl_mem _ _ _ ?_ | intro _ _
          | simp (maxDischargeDepth := 40) | dsimp only))

@[simp] theorem State.enterChannel_mem (s : State) (x : Site) (second : OutPort) (ch link : Nat) (t : Token) :
    (State.enterChannel s x second ch link t).mem = s.mem := by
  unfold State.enterChannel
  first | rfl | (repeat' (
    first | (simp (maxDischargeDepth := 40); done) | split | with_reducible refine foldl_mem _ _ _ ?_ | intro _ _
          | simp (maxDischargeDepth := 40) | dsimp only))

@[simp] theorem State.setExit_mem (s : State) (c : Fin 96) (r : Fin 8) (v : BitVec 2) :
    (State.setExit s c r v).mem = s.mem := by
  unfold State.setExit
  first | rfl | (repeat' (
    first | (simp (maxDischargeDepth := 40); done) | split | with_reducible refine foldl_mem _ _ _ ?_ | intro _ _
          | simp (maxDischargeDepth := 40) | dsimp only))

@[simp] theorem execTokenArrival_mem (src : Site) (tgt : Target) (tok : Token) (gen : Nat) (stamp : Stamp)
    (s : State) :
    MemIs s.mem (execTokenArrival src tgt tok gen stamp s) := by
  unfold execTokenArrival
  first | rfl | (repeat' (
    first | (simp (maxDischargeDepth := 40); done) | split | with_reducible refine foldl_mem _ _ _ ?_ | intro _ _
          | simp (maxDischargeDepth := 40) | dsimp only))

@[simp] theorem State.credit_mem (s : State) (x : Site) (o : OutPort) : (State.credit s x o).mem = s.mem := by
  unfold State.credit
  first | rfl | (repeat' (
    first | (simp (maxDischargeDepth := 40); done) | split | with_reducible refine foldl_mem _ _ _ ?_ | intro _ _
          | simp (maxDischargeDepth := 40) | dsimp only))

@[simp] theorem execCreditReturn_mem (src : Site) (which : OutPort) (gen : Nat) (s : State) :
    MemIs s.mem (execCreditReturn src which gen s) := by
  unfold execCreditReturn
  first | rfl | (repeat' (
    first | (simp (maxDischargeDepth := 40); done) | split | with_reducible refine foldl_mem _ _ _ ?_ | intro _ _
          | simp (maxDischargeDepth := 40) | dsimp only))

@[simp] theorem State.onChan_mem (s : State) (h : Word64) (i : Nat) (f : Chan → Chan) :
    (State.onChan s h i f).mem = s.mem := by
  unfold State.onChan
  first | rfl | (repeat' (
    first | (simp (maxDischargeDepth := 40); done) | split | with_reducible refine foldl_mem _ _ _ ?_ | intro _ _
          | simp (maxDischargeDepth := 40) | dsimp only))

@[simp] theorem State.payCreditor_mem (s : State) (h : Word64) (q : Creditor) :
    (State.payCreditor s h q).mem = s.mem := by
  unfold State.payCreditor
  first | rfl | (repeat' (
    first | (simp (maxDischargeDepth := 40); done) | split | with_reducible refine foldl_mem _ _ _ ?_ | intro _ _
          | simp (maxDischargeDepth := 40) | dsimp only))

@[simp] theorem State.bufferPut_wf (s : State) (h : Word64) (c : Chan) (t : Token) (hmem : s.mem.wf = true) :
    (State.bufferPut s h c t).mem.wf = true := by
  unfold State.bufferPut
  split
  · exact State.onMem_wf _ _ (fun m h => Memory.store_wf h _ _) hmem
  · exact hmem

@[simp] theorem State.chanFill_wf (s : State) (h : Word64) (i : Nat) (hmem : s.mem.wf = true) :
    (State.chanFill s h i).mem.wf = true := by
  unfold State.chanFill
  first | rfl | (repeat' (
    first | (simp (maxDischargeDepth := 40) [*]; done) | split | with_reducible refine foldl_wf _ _ _ ?_ ?_
          | with_reducible apply State.bufferPut_wf | intro _ _ _ | simp (maxDischargeDepth := 40) [*] | dsimp only))

@[simp] theorem State.chanDrain_mem (s : State) (h : Word64) (i : Nat) : (State.chanDrain s h i).mem = s.mem := by
  unfold State.chanDrain
  first | rfl | (repeat' (
    first | (simp (maxDischargeDepth := 40); done) | split | with_reducible refine foldl_mem _ _ _ ?_ | intro _ _
          | simp (maxDischargeDepth := 40) | dsimp only))

@[simp] theorem execLongChannelDelivery_wf (handle : Word64) (chan : Nat) (s : State) (hmem : s.mem.wf = true) :
    MemWf (execLongChannelDelivery handle chan s) := by
  unfold execLongChannelDelivery
  first | rfl | (repeat' (
    first | (simp (maxDischargeDepth := 40) [*]; done) | split | with_reducible refine foldl_wf _ _ _ ?_ ?_
          | with_reducible apply State.chanFill_wf | intro _ _ _ | simp (maxDischargeDepth := 40) [*] | dsimp only))

@[simp] theorem State.chanStart_mem (s : State) (h : Word64) (i : Nat) : (State.chanStart s h i).mem = s.mem := by
  unfold State.chanStart
  first | rfl | (repeat' (
    first | (simp (maxDischargeDepth := 40); done) | split | with_reducible refine foldl_mem _ _ _ ?_ | intro _ _
          | simp (maxDischargeDepth := 40) | dsimp only))

end Sys2Proof.Machine
end

