-- ==== Sys2Proof/Laws/IslandMem.lean ====
section
/-! SUPPORT. What control blocks and the islands do to memory: each leaves it as it is, or keeps its canonical form. -/

namespace Sys2Proof.Machine

set_option linter.unusedSimpArgs false

/-! ## Machine/Control.lean -/

@[simp] theorem State.setSreg_mem (s : State) (c : Fin 96) (k : Fin 4) (r : Nat) (v : Word64) :
    (State.setSreg s c k r v).mem = s.mem := by
  unfold State.setSreg
  first | rfl | (repeat' (
    first | (simp (maxDischargeDepth := 40); done) | split | with_reducible refine foldl_mem _ _ _ ?_ | intro _ _
          | simp (maxDischargeDepth := 40) | dsimp only))

@[simp] theorem State.ktrapVal_mem (s : State) (x : Site) (cause : BitVec 8) (v : Word64) :
    (State.ktrapVal s x cause v).mem = s.mem := by
  unfold State.ktrapVal
  first | rfl | (repeat' (
    first | (simp (maxDischargeDepth := 40); done) | split | with_reducible refine foldl_mem _ _ _ ?_ | intro _ _
          | simp (maxDischargeDepth := 40) | dsimp only))

@[simp] theorem State.ktrap_mem (s : State) (x : Site) (cause : BitVec 8) : (State.ktrap s x cause).mem = s.mem := by
  unfold State.ktrap
  first | rfl | (repeat' (
    first | (simp (maxDischargeDepth := 40); done) | split | with_reducible refine foldl_mem _ _ _ ?_ | intro _ _
          | simp (maxDischargeDepth := 40) | dsimp only))

@[simp] theorem State.kcancel_mem (s : State) (c : Fin 96) (k : Fin 4) : (State.kcancel s c k).mem = s.mem := by
  unfold State.kcancel
  first | rfl | (repeat' (
    first | (simp (maxDischargeDepth := 40); done) | split | with_reducible refine foldl_mem _ _ _ ?_ | intro _ _
          | simp (maxDischargeDepth := 40) | dsimp only))

@[simp] theorem State.kstop_mem (s : State) (c : Fin 96) (k : Fin 4) : (State.kstop s c k).mem = s.mem := by
  unfold State.kstop
  first | rfl | (repeat' (
    first | (simp (maxDischargeDepth := 40); done) | split | with_reducible refine foldl_mem _ _ _ ?_ | intro _ _
          | simp (maxDischargeDepth := 40) | dsimp only))

@[simp] theorem State.onDrain_mem (s : State) (c : Fin 96) (k : Fin 4) (g : Nat) (f : State → State)
    (hf : ∀ t, (f t).mem = t.mem) : (State.onDrain s c k g f).mem = s.mem := by
  unfold State.onDrain
  dsimp only
  split
  · rfl
  · split
    · rw [State.onCtx_mem]
    · rw [State.onCtx_mem, hf, State.onCtx_mem]

@[simp] theorem State.kdropped_mem (s : State) (c : Fin 96) (k : Fin 4) (g id : Nat) :
    (State.kdropped s c k g id).mem = s.mem :=
  State.onDrain_mem _ _ _ _ _ fun _ => State.onCtx_mem _ _ _ _

@[simp] theorem State.onBlk_mem (s : State) (x : Site) (f : KBlock → KBlock) : (State.onBlk s x f).mem = s.mem := by
  unfold State.onBlk
  first | rfl | (repeat' (
    first | (simp (maxDischargeDepth := 40); done) | split | with_reducible refine foldl_mem _ _ _ ?_ | intro _ _
          | simp (maxDischargeDepth := 40) | dsimp only))

@[simp] theorem State.kplace_mem (s : State) (x : Site) (lat : Nat) (res : Option KTok) :
    (State.kplace s x lat res).mem = s.mem := by
  unfold State.kplace
  first | rfl | (repeat' (
    first | (simp (maxDischargeDepth := 40); done) | split | with_reducible refine foldl_mem _ _ _ ?_ | intro _ _
          | simp (maxDischargeDepth := 40) | dsimp only))

@[simp] theorem State.kparity_mem (s : State) (x : Site) : (s.kparity x).mem = s.mem := by
  simp [State.kparity]

@[simp] theorem State.kfire_mem (s : State) (io : Io) (lat : Nat) (delivers : Bool) (act : State → KIn → State)
    (hact : ∀ t r, (act t r).mem = t.mem) : (s.kfire io lat delivers act).mem = s.mem := by
  unfold State.kfire
  dsimp only
  repeat' split
  all_goals simp [hact]

theorem State.kfire_wf (s : State) (io : Io) (lat : Nat) (delivers : Bool) (act : State → KIn → State)
    (hact : ∀ t r, t.mem.wf = true → (act t r).mem.wf = true) (hmem : s.mem.wf = true) :
    (s.kfire io lat delivers act).mem.wf = true := by
  unfold State.kfire
  dsimp only
  split
  · exact hmem
  · split
    · exact hmem
    · split
      · rw [State.kparity_mem]; exact hmem
      · split
        · split
          · rw [State.kplace_mem, State.onBlk_mem]; exact hmem
          · rw [State.onBlk_mem]; exact hmem
        · exact hact _ _ (by rw [State.onBlk_mem]; exact hmem)

@[simp] theorem State.kop_mem (s : State) (io : Io) (lat : Nat) (f : KIn → Word64) :
    (State.kop s io lat f).mem = s.mem :=
  State.kfire_mem _ _ _ _ _ fun _ _ => State.kplace_mem _ _ _ _

@[simp] theorem State.kgive_mem (s : State) (x : Site) (id : Nat) (t : KTok) : (State.kgive s x id t).mem = s.mem := by
  unfold State.kgive
  first | rfl | (repeat' (
    first | (simp (maxDischargeDepth := 40); done) | split | with_reducible refine foldl_mem _ _ _ ?_ | intro _ _
          | simp (maxDischargeDepth := 40) | dsimp only))

@[simp] theorem State.queueSend_mem (s : State) (c : Fin 96) (k : Fin 4) (q : Word64 × Nat) (v : KTok) :
    (State.queueSend s c k q v).mem = s.mem := by
  unfold State.queueSend
  first | rfl | (repeat' (
    first | (simp (maxDischargeDepth := 40); done) | split | with_reducible refine foldl_mem _ _ _ ?_ | intro _ _
          | simp (maxDischargeDepth := 40) | dsimp only))

theorem State.queueTake_mem (s t : State) (q : Word64 × Nat) (v : KTok) (h : s.queueTake q = some (t, v)) :
    t.mem = s.mem := by
  unfold State.queueTake at h
  repeat' split at h
  all_goals simp_all
  rw [← h.1]
  simp

/-- A read of a register that gives a value leaves memory alone. -/
theorem State.kread_mem (s t : State) (x : Site) (r : Int) (v : KTok) (h : s.kread x r = .val t v)
    : t.mem = s.mem := by
  unfold State.kread at h
  dsimp only at h
  repeat' split at h
  all_goals simp only [KRead.val.injEq, reduceCtorEq] at h
  all_goals obtain ⟨rfl, -⟩ := h
  · rfl
  · rename_i hq
    simpa using State.queueTake_mem _ _ _ _ hq
  · rfl

@[simp] theorem State.kfill_mem (s : State) (c : Fin 96) (k : Fin 4) : (State.kfill s c k).mem = s.mem := by
  unfold State.kfill
  split
  · rfl
  · refine foldl_mem _ _ _ fun s r => ?_
    split
    · rename_i h
      obtain ⟨q, -, h⟩ := Option.bind_eq_some_iff.mp h
      rw [State.onCtx_mem, State.queueTake_mem _ _ _ _ h]
    · rfl

@[simp] theorem State.kwrite_mem (s : State) (x : Site) (rep reg : Nat) (v : KTok) :
    (State.kwrite s x rep reg v).mem = s.mem := by
  unfold State.kwrite
  first | rfl | (repeat' (
    first | (simp (maxDischargeDepth := 40); done) | split | with_reducible refine foldl_mem _ _ _ ?_ | intro _ _
          | simp (maxDischargeDepth := 40) | dsimp only))

@[simp] theorem State.kaccess_mem (s : State) (x : Site) (kind : AKind) (va : Word64) (data : List Byte) (wr : Bool)
    (pieces : List Piece) :
    (State.kaccess s x kind va data wr pieces).mem = s.mem := by
  unfold State.kaccess
  first | rfl | (repeat' (
    first | (simp (maxDischargeDepth := 40); done) | split | with_reducible refine foldl_mem _ _ _ ?_ | intro _ _
          | simp (maxDischargeDepth := 40) | dsimp only))

@[simp] theorem State.onRep_mem (s : State) (x : Site) (id : Nat) (f : KRep → KRep) :
    (State.onRep s x id f).mem = s.mem := by
  unfold State.onRep
  first | rfl | (repeat' (
    first | (simp (maxDischargeDepth := 40); done) | split | with_reducible refine foldl_mem _ _ _ ?_ | intro _ _
          | simp (maxDischargeDepth := 40) | dsimp only))

@[simp] theorem State.showRep_mem (s : State) (x : Site) (r : KRep) : (State.showRep s x r).mem = s.mem := by
  unfold State.showRep
  first | rfl | (repeat' (
    first | (simp (maxDischargeDepth := 40); done) | split | with_reducible refine foldl_mem _ _ _ ?_ | intro _ _
          | simp (maxDischargeDepth := 40) | dsimp only))

@[simp] theorem State.endRep_mem (s : State) (x : Site) (r : KRep) : (State.endRep s x r).mem = s.mem := by
  unfold State.endRep
  first | rfl | (repeat' (
    first | (simp (maxDischargeDepth := 40); done) | split | with_reducible refine foldl_mem _ _ _ ?_ | intro _ _
          | simp (maxDischargeDepth := 40) | dsimp only))

@[simp] theorem State.advanceRep_mem (s : State) (x : Site) (r : KRep) : (State.advanceRep s x r).mem = s.mem := by
  unfold State.advanceRep
  first | rfl | (repeat' (
    first | (simp (maxDischargeDepth := 40); done) | split | with_reducible refine foldl_mem _ _ _ ?_ | intro _ _
          | simp (maxDischargeDepth := 40) | dsimp only))

@[simp] theorem State.repStep_mem (s : State) (x : Site) (r : KRep) (w : Word64) :
    (State.repStep s x r w).mem = s.mem := by
  unfold State.repStep
  dsimp only
  repeat' split
  all_goals first
    | rfl
    | (simp; done)
    | (rename_i h _; simpa using State.kread_mem _ _ _ _ _ h)
    | (rename_i h; simpa using State.kread_mem _ _ _ _ _ h)
    | (rename_i h; simpa using State.queueTake_mem _ _ _ _ h)

@[simp] theorem State.repAll_mem (s : State) (c : Fin 96) (k : Fin 4) : (State.repAll s c k).mem = s.mem := by
  unfold State.repAll
  first | rfl | (repeat' (
    first | (simp (maxDischargeDepth := 40); done) | split | with_reducible refine foldl_mem _ _ _ ?_ | intro _ _
          | simp (maxDischargeDepth := 40) | dsimp only))

@[simp] theorem execRepRepetition_mem (core : Fin 96) (ctx : Fin 4) (s : State) : MemIs s.mem
    (execRepRepetition core ctx s) := by
  unfold execRepRepetition
  have h : ((s.ctx core ctx).drains.foldl (fun s d => s.onDrain core ctx d.1 fun s => s.repAll core ctx) s).mem =
      s.mem := foldl_mem _ _ _ fun s d => State.onDrain_mem _ _ _ _ _ fun t => State.repAll_mem _ _ _
  dsimp only
  split <;> refine (memIs_next _ _).2 ?_
  · exact h
  · rw [State.repAll_mem, h]

@[simp] theorem State.range_mem (s : State) (f : FC) : (State.range s f).mem = s.mem := by
  unfold State.range
  refine State.kfire_mem _ _ _ _ _ fun t r => ?_
  dsimp only
  refine ite_mem (State.ktrap_mem _ _ _) ?_
  rw [State.showRep_mem]
  refine ite_mem ?_ ?_
  · rw [State.tickId_mem, State.onBlk_mem]
  · rw [State.kplace_mem, State.onBlk_mem]

@[simp] theorem State.kwaits_mem (s : State) (x : Site) (what : KWaitFor) : (State.kwaits s x what).mem = s.mem := by
  unfold State.kwaits
  first | rfl | (repeat' (
    first | (simp (maxDischargeDepth := 40); done) | split | with_reducible refine foldl_mem _ _ _ ?_ | intro _ _
          | simp (maxDischargeDepth := 40) | dsimp only))

@[simp] theorem State.kawake_mem (s : State) (x : Site) (id : Nat) (v : KTok) :
    (State.kawake s x id v).mem = s.mem := by
  unfold State.kawake
  first | rfl | (repeat' (
    first | (simp (maxDischargeDepth := 40); done) | split | with_reducible refine foldl_mem _ _ _ ?_ | intro _ _
          | simp (maxDischargeDepth := 40) | dsimp only))

@[simp] theorem State.kpoll_mem (s : State) (c : Fin 96) (k : Fin 4) (w : KWait) :
    (State.kpoll s c k w).mem = s.mem := by
  unfold State.kpoll
  dsimp only
  repeat' split
  all_goals first | rfl | (simp; done) | skip
  rename_i h
  simpa using State.kread_mem _ _ _ _ _ h

@[simp] theorem State.ktend_mem (s : State) (c : Fin 96) (k : Fin 4) : (State.ktend s c k).mem = s.mem := by
  unfold State.ktend
  dsimp only
  split
  · rfl
  · rw [State.onCtx_mem, ← State.kfill_mem s c k]
    exact foldl_mem _ _ _ fun s w => ite_mem (State.kpoll_mem _ _ _ _) rfl

@[simp] theorem execWfeTimeout_mem (core : Fin 96) (ctx : Fin 4) (slot : Fin 128) (gen : Nat) (s : State) :
    MemIs s.mem (execWfeTimeout core ctx slot gen s) := by
  unfold execWfeTimeout
  first | rfl | (repeat' (
    first | (simp (maxDischargeDepth := 40); done) | split | with_reducible refine foldl_mem _ _ _ ?_ | intro _ _
          | simp (maxDischargeDepth := 40) | dsimp only))

@[simp] theorem State.translateAll_mem (s : State) (rec_ : CRec) (c : Fin 96) (asid : BitVec 12) (vs : List Word64) :
    (s.translateAll rec_ c asid vs).1.mem = s.mem := by
  induction vs generalizing s with
  | nil => rfl
  | cons va rest ih =>
    unfold State.translateAll
    dsimp only
    repeat' split
    all_goals simp [ih]

@[simp] theorem State.fetchRefused_mem (s : State) (c : Fin 96) (k : Fin 4) (va : Word64) (cause : BitVec 8) :
    (State.fetchRefused s c k va cause).mem = s.mem := by
  unfold State.fetchRefused
  first | rfl | (repeat' (
    first | (simp (maxDischargeDepth := 40); done) | split | with_reducible refine foldl_mem _ _ _ ?_ | intro _ _
          | simp (maxDischargeDepth := 40) | dsimp only))

@[simp] theorem State.badBlock_mem (s : State) (c : Fin 96) (k : Fin 4) (f : BadWord) (nbad : Nat) :
    (State.badBlock s c k f nbad).mem = s.mem := by
  unfold State.badBlock
  first | rfl | (repeat' (
    first | (simp (maxDischargeDepth := 40); done) | split | with_reducible refine foldl_mem _ _ _ ?_ | intro _ _
          | simp (maxDischargeDepth := 40) | dsimp only))

@[simp] theorem State.startBlock_mem (s : State) (c : Fin 96) (k : Fin 4) (hdr : BitVec 128) (words : List Word64) :
    (State.startBlock s c k hdr words).mem = s.mem := by
  unfold State.startBlock
  first | rfl | (repeat' (
    first | (simp (maxDischargeDepth := 40); done) | split | with_reducible refine foldl_mem _ _ _ ?_ | intro _ _
          | simp (maxDischargeDepth := 40) | dsimp only))

@[simp] theorem State.fetchWords_mem (s : State) (a : Access) (pas : List Nat) (count : Nat) :
    (State.fetchWords s a pas count).1.mem = s.mem := by
  unfold State.fetchWords
  first | rfl | (repeat' (
    first | (simp (maxDischargeDepth := 40); done) | split | with_reducible refine foldl_mem _ _ _ ?_ | intro _ _
          | simp (maxDischargeDepth := 40) | dsimp only))

@[simp] theorem execBlockFetch_mem (core : Fin 96) (ctx : Fin 4) (gen : Nat) (s : State) :
    MemIs s.mem (execBlockFetch core ctx gen s) := by
  unfold execBlockFetch
  dsimp only
  repeat' split
  all_goals simp

@[simp] theorem State.kapply_mem (s : State) (c : Fin 96) (k : Fin 4) (w : KWrite) :
    (State.kapply s c k w).mem = s.mem := by
  unfold State.kapply
  first | rfl | (repeat' (
    first | (simp (maxDischargeDepth := 40); done) | split | with_reducible refine foldl_mem _ _ _ ?_ | intro _ _
          | simp (maxDischargeDepth := 40) | dsimp only))

@[simp] theorem State.kcommit_mem (s : State) (c : Fin 96) (k : Fin 4) (b : KBlock) :
    (State.kcommit s c k b).mem = s.mem := by
  unfold State.kcommit
  first | rfl | (repeat' (
    first | (simp (maxDischargeDepth := 40); done) | split | with_reducible refine foldl_mem _ _ _ ?_ | intro _ _
          | simp (maxDischargeDepth := 40) | dsimp only))

@[simp] theorem execControlBlockCommit_mem (core : Fin 96) (ctx : Fin 4) (s : State) : MemIs s.mem
    (execControlBlockCommit core ctx s) := by
  unfold execControlBlockCommit
  dsimp only
  split
  · rfl
  · split
    · rfl
    · exact State.kcommit_mem _ _ _ _

@[simp] theorem execContextStop_mem (core : Fin 96) (ctx : Fin 4) (s : State) :
    MemIs s.mem (execContextStop core ctx s) := by
  unfold execContextStop
  first | rfl | (repeat' (
    first | (simp (maxDischargeDepth := 40); done) | split | with_reducible refine foldl_mem _ _ _ ?_ | intro _ _
          | simp (maxDischargeDepth := 40) | dsimp only))

/-! ## Machine/Matrix.lean -/

@[simp] theorem State.islandNow_wf (s : State) (x : Site) (io : Io) (sh : Shot) (res : List Emit)
    (hmem : s.mem.wf = true) :
    (State.islandNow s x io sh res).mem.wf = true := by
  unfold State.islandNow
  first | rfl | (repeat' (
    first | (simp (maxDischargeDepth := 40) [*]; done) | split | with_reducible refine foldl_wf _ _ _ ?_ ?_
          | with_reducible apply State.attemptId_wf | intro _ _ _ | simp (maxDischargeDepth := 40) [*] | dsimp only))

@[simp] theorem State.islandDrop_mem (s : State) (x : Site) (link : Nat) (mine tenant : BitVec 2) :
    (State.islandDrop s x link mine tenant).mem = s.mem := by
  unfold State.islandDrop
  first | rfl | (repeat' (
    first | (simp (maxDischargeDepth := 40); done) | split | with_reducible refine foldl_mem _ _ _ ?_ | intro _ _
          | simp (maxDischargeDepth := 40) | dsimp only))

theorem State.islandOp_wf (s : State) (f : FT) (tokens : Site → List Token) (free : Bool) (link : Nat)
    (tenant : BitVec 2) (result : Token → List Emit) (lanes : List Token → Vector Lane 16)
    (send : State → IslandReq → State) (hsend : ∀ t r, (send t r).mem = t.mem) (hmem : s.mem.wf = true) :
    (s.islandOp f tokens free link tenant result lanes send).mem.wf = true := by
  unfold State.islandOp
  dsimp only
  split
  · exact hmem
  · exact State.endWhenDone_wf _ _ _ hmem
  · exact ite_wf hmem (State.islandNow_wf _ _ _ _ _ hmem)
  · refine ite_wf hmem ?_
    split
    · exact State.islandNow_wf _ _ _ _ _ hmem
    · split
      · rw [State.islandDrop_mem]
        exact State.islandNow_wf _ _ _ _ _ hmem
      · rw [hsend, State.tickId_mem]
        exact State.shoot_wf _ _ _ _ _ hmem

@[simp] theorem State.answerReq_mem (s : State) (r : IslandReq) (res : List Emit) :
    (State.answerReq s r res).mem = s.mem := by
  unfold State.answerReq
  first | rfl | (repeat' (
    first | (simp (maxDischargeDepth := 40); done) | split | with_reducible refine foldl_mem _ _ _ ?_ | intro _ _
          | simp (maxDischargeDepth := 40) | dsimp only))

@[simp] theorem State.onMatrix_mem (s : State) (c : Fin 96) (f : Matrix → Matrix) :
    (State.onMatrix s c f).mem = s.mem := by
  unfold State.onMatrix
  first | rfl | (repeat' (
    first | (simp (maxDischargeDepth := 40); done) | split | with_reducible refine foldl_mem _ _ _ ?_ | intro _ _
          | simp (maxDischargeDepth := 40) | dsimp only))

@[simp] theorem State.matrixTake_mem (s : State) (c : Fin 96) (r : IslandReq) :
    (State.matrixTake s c r).mem = s.mem := by
  unfold State.matrixTake
  first | rfl | (repeat' (
    first | (simp (maxDischargeDepth := 40); done) | split | with_reducible refine foldl_mem _ _ _ ?_ | intro _ _
          | simp (maxDischargeDepth := 40) | dsimp only))

@[simp] theorem State.matrixOp_wf (s : State) (f : FT) (result : Token → List Emit) (lanes
    : List Token → Vector Lane 16) (hmem : s.mem.wf = true) : (State.matrixOp s f result lanes).mem.wf = true := by
  unfold State.matrixOp
  exact State.islandOp_wf _ _ _ _ _ _ _ _ _ (fun t r => by simp) hmem

@[simp] theorem execMtask_wf (f : FT) (s : State) (hmem : s.mem.wf = true) : MemWf (execMtask f s) := by
  unfold execMtask
  first | rfl | (repeat' (
    first | (simp (maxDischargeDepth := 40) [*]; done) | split | with_reducible refine foldl_wf _ _ _ ?_ ?_
          | with_reducible apply State.matrixOp_wf | intro _ _ _ | simp (maxDischargeDepth := 40) [*] | dsimp only))

@[simp] theorem execMsync_wf (f : FT) (s : State) (hmem : s.mem.wf = true) : MemWf (execMsync f s) := by
  unfold execMsync
  first | rfl | (repeat' (
    first | (simp (maxDischargeDepth := 40) [*]; done) | split | with_reducible refine foldl_wf _ _ _ ?_ ?_
          | with_reducible apply State.matrixOp_wf | intro _ _ _ | simp (maxDischargeDepth := 40) [*] | dsimp only))

@[simp] theorem execMdrain_wf (f : FT) (s : State) (hmem : s.mem.wf = true) : MemWf (execMdrain f s) := by
  unfold execMdrain
  first | rfl | (repeat' (
    first | (simp (maxDischargeDepth := 40) [*]; done) | split | with_reducible refine foldl_wf _ _ _ ?_ ?_
          | with_reducible apply State.matrixOp_wf | intro _ _ _ | simp (maxDischargeDepth := 40) [*] | dsimp only))

@[simp] theorem State.readDescs_mem (s : State) (c : Fin 96) (r : IslandReq) : (State.readDescs s c r).mem = s.mem := by
  unfold State.readDescs
  first | rfl | (repeat' (
    first | (simp (maxDischargeDepth := 40); done) | split | with_reducible refine foldl_mem _ _ _ ?_ | intro _ _
          | simp (maxDischargeDepth := 40) | dsimp only))

@[simp] theorem State.judged_mem (s : State) (c : Fin 96) (r : IslandReq) : (State.judged s c r).1.mem = s.mem := by
  unfold State.judged
  first | rfl | (repeat' (
    first | (simp (maxDischargeDepth := 40); done) | split | with_reducible refine foldl_mem _ _ _ ?_ | intro _ _
          | simp (maxDischargeDepth := 40) | dsimp only))

@[simp] theorem State.enqueue_mem (s : State) (c : Fin 96) (r : IslandReq) : (State.enqueue s c r).mem = s.mem := by
  unfold State.enqueue
  first | rfl | (repeat' (
    first | (simp (maxDischargeDepth := 40); done) | split | with_reducible refine foldl_mem _ _ _ ?_ | intro _ _
          | simp (maxDischargeDepth := 40) | dsimp only))

@[simp] theorem execTaskEnqueue_mem (core : Fin 96) (s : State) : MemIs s.mem (execTaskEnqueue core s) := by
  unfold execTaskEnqueue
  first | rfl | (repeat' (
    first | (simp (maxDischargeDepth := 40); done) | split | with_reducible refine foldl_mem _ _ _ ?_ | intro _ _
          | simp (maxDischargeDepth := 40) | dsimp only))

@[simp] theorem State.retireStale_mem (s : State) (c : Fin 96) (e : MEntry) :
    (State.retireStale s c e).mem = s.mem := by
  unfold State.retireStale
  first | rfl | (repeat' (
    first | (simp (maxDischargeDepth := 40); done) | split | with_reducible refine foldl_mem _ _ _ ?_ | intro _ _
          | simp (maxDischargeDepth := 40) | dsimp only))

@[simp] theorem execTaskIssue_mem (core : Fin 96) (s : State) : MemIs s.mem (execTaskIssue core s) := by
  unfold execTaskIssue
  first | rfl | (repeat' (
    first | (simp (maxDischargeDepth := 40); done) | split | with_reducible refine foldl_mem _ _ _ ?_ | intro _ _
          | simp (maxDischargeDepth := 40) | dsimp only))

@[simp] theorem State.readOperand_mem (s : State) (c : Fin 96) (rec_ : CRec) (tile base size res n : Nat) :
    (State.readOperand s c rec_ tile base size res n).1.mem = s.mem := by
  unfold State.readOperand
  first | rfl | (repeat' (
    first | (simp (maxDischargeDepth := 40); done) | split | with_reducible refine foldl_mem _ _ _ ?_ | intro _ _
          | simp (maxDischargeDepth := 40) | dsimp only))

@[simp] theorem State.tileVals_mem (s : State) (c : Fin 96) (tile : Nat) : (State.tileVals s c tile).1.mem = s.mem := by
  unfold State.tileVals
  first | rfl | (repeat' (
    first | (simp (maxDischargeDepth := 40); done) | split | with_reducible refine foldl_mem _ _ _ ?_ | intro _ _
          | simp (maxDischargeDepth := 40) | dsimp only))

@[simp] theorem State.drainTile_wf (s : State) (c : Fin 96) (e : MEntry) (t : TaskRec) (bytes : List Byte)
    (hmem : s.mem.wf = true) : (State.drainTile s c e t bytes).mem.wf = true := by
  have keep (g : Nat → Memory → Memory) (hg : ∀ i m, m.wf = true → (g i m).wf = true) (is : List Nat) :
      (is.foldl (fun s i => s.onMem (g i)) s).mem.wf = true :=
    foldl_wf _ _ _ hmem fun t i ht => State.onMem_wf _ _ (hg i) ht
  unfold State.drainTile
  dsimp only
  refine ite_wf ?_ ?_
  · rw [State.ownerFault_mem]
    exact State.fillLines_wf _ _ (keep _ (fun _ _ h => Memory.store_wf h _ _) _)
  · exact State.fillLines_wf _ _ (keep _ (fun _ _ h => Memory.store_wf h _ _) _)

@[simp] theorem State.popRing_wf (s : State) (c : Fin 96) (tile off n : Nat) (hmem : s.mem.wf = true) :
    (State.popRing s c tile off n).mem.wf = true := by
  exact State.onMem_wf _ _ (fun m h => Memory.store_wf h _ _) hmem

@[simp] theorem State.otherKind_wf (s : State) (c : Fin 96) (e : MEntry) (t : TaskRec) (read old : Bool)
    (hmem : s.mem.wf = true) :
    (State.otherKind s c e t read old).1.mem.wf = true := by
  unfold State.otherKind
  generalize List.replicate 6144 _ = canon
  dsimp only
  repeat' split
  · exact hmem
  · exact hmem
  · exact State.drainTile_wf _ _ _ _ _ hmem
  · rw [State.tickBy_mem]
    exact State.drainTile_wf _ _ _ _ _ hmem

@[simp] theorem State.runTask_wf (s : State) (c : Fin 96) (e : MEntry) (hmem : s.mem.wf = true) :
    (State.runTask s c e).1.mem.wf = true := by
  unfold State.runTask
  generalize List.replicate 6144 (0 : Lane) = zeros
  generalize List.replicate 6144 _ = canon
  dsimp only
  have hr : ((s.readOperand c (s.islandRec c e.req) (8 * e.req.port.val) e.baseA e.sizeA e.resA e.needs.1).1.readOperand
      c (s.islandRec c e.req) (8 * e.req.port.val) e.baseB e.sizeB e.resB e.needs.2).1.mem.wf = true := by
    rw [State.readOperand_mem, State.readOperand_mem]; exact hmem
  revert hr
  generalize ((s.readOperand c (s.islandRec c e.req) (8 * e.req.port.val) e.baseA e.sizeA e.resA e.needs.1).1.readOperand
      c (s.islandRec c e.req) (8 * e.req.port.val) e.baseB e.sizeB e.resB e.needs.2) = rb
  intro hr
  split
  · exact State.otherKind_wf _ _ _ _ _ _ hr
  · have hz (b : Bool) (t : Nat) : (if b then (rb.1, zeros) else rb.1.tileVals c t).1.mem.wf = true := by
      split
      · exact hr
      · rw [State.tileVals_mem]; exact hr
    refine ite_wf (State.drainTile_wf _ _ _ _ _ ?_) ?_ <;> rw [State.onMatrix_mem] <;> exact hz _ _

@[simp] theorem State.leave_mem (s : State) (c : Fin 96) (e : MEntry) : (State.leave s c e).mem = s.mem := by
  unfold State.leave
  first | rfl | (repeat' (
    first | (simp (maxDischargeDepth := 40); done) | split | with_reducible refine foldl_mem _ _ _ ?_ | intro _ _
          | simp (maxDischargeDepth := 40) | dsimp only))

@[simp] theorem State.retireTask_wf (s : State) (c : Fin 96) (k : Fin 4) (e : MEntry) (hmem : s.mem.wf = true) :
    (State.retireTask s c k e).mem.wf = true := by
  unfold State.retireTask
  first | rfl | (repeat' (
    first | (simp (maxDischargeDepth := 40) [*]; done) | split | with_reducible refine foldl_wf _ _ _ ?_ ?_
          | with_reducible apply State.popRing_wf | with_reducible apply State.runTask_wf | intro _ _ _
          | simp (maxDischargeDepth := 40) [*] | dsimp only))

@[simp] theorem State.retireDrain_mem (s : State) (c : Fin 96) (k : Fin 4) (e : MEntry) :
    (State.retireDrain s c k e).mem = s.mem := by
  unfold State.retireDrain
  first | rfl | (repeat' (
    first | (simp (maxDischargeDepth := 40); done) | split | with_reducible refine foldl_mem _ _ _ ?_ | intro _ _
          | simp (maxDischargeDepth := 40) | dsimp only))

@[simp] theorem execTaskRetire_wf (core : Fin 96) (engine : Fin 4) (s : State) (hmem : s.mem.wf = true) :
    MemWf (execTaskRetire core engine s) := by
  unfold execTaskRetire
  first | rfl | (repeat' (
    first | (simp (maxDischargeDepth := 40) [*]; done) | split | with_reducible refine foldl_wf _ _ _ ?_ ?_
          | with_reducible apply State.retireTask_wf | intro _ _ _ | simp (maxDischargeDepth := 40) [*] | dsimp only))

@[simp] theorem execMsyncComplete_mem (core : Fin 96) (s : State) : MemIs s.mem (execMsyncComplete core s) := by
  unfold execMsyncComplete
  first | rfl | (repeat' (
    first | (simp (maxDischargeDepth := 40); done) | split | with_reducible refine foldl_mem _ _ _ ?_ | intro _ _
          | simp (maxDischargeDepth := 40) | dsimp only))

/-! ## Machine/Streamer.lean -/

@[simp] theorem State.onStreamer_mem (s : State) (c : Fin 96) (f : Streamer → Streamer) :
    (State.onStreamer s c f).mem = s.mem := by
  unfold State.onStreamer
  first | rfl | (repeat' (
    first | (simp (maxDischargeDepth := 40); done) | split | with_reducible refine foldl_mem _ _ _ ?_ | intro _ _
          | simp (maxDischargeDepth := 40) | dsimp only))

@[simp] theorem State.streamerOp_wf (s : State) (f : FT) (result : Token → List Emit) (hmem : s.mem.wf = true) :
    (State.streamerOp s f result).mem.wf = true := by
  unfold State.streamerOp
  exact State.islandOp_wf _ _ _ _ _ _ _ _ _ (fun t r => by simp) hmem

@[simp] theorem execXreq_wf (f : FT) (s : State) (hmem : s.mem.wf = true) : MemWf (execXreq f s) := by
  unfold execXreq
  first | rfl | (repeat' (
    first | (simp (maxDischargeDepth := 40) [*]; done) | split | with_reducible refine foldl_wf _ _ _ ?_ ?_
          | with_reducible apply State.streamerOp_wf | intro _ _ _ | simp (maxDischargeDepth := 40) [*] | dsimp only))

@[simp] theorem execXmc_wf (f : FT) (s : State) (hmem : s.mem.wf = true) : MemWf (execXmc f s) := by
  unfold execXmc
  first | rfl | (repeat' (
    first | (simp (maxDischargeDepth := 40) [*]; done) | split | with_reducible refine foldl_wf _ _ _ ?_ ?_
          | with_reducible apply State.attempt_wf | with_reducible apply State.streamerOp_wf | intro _ _ _
          | simp (maxDischargeDepth := 40) [*] | dsimp only))

@[simp] theorem State.endRequest_mem (s : State) (c : Fin 96) (r : IslandReq) (st written : Nat) :
    (State.endRequest s c r st written).mem = s.mem := by
  unfold State.endRequest
  first | rfl | (repeat' (
    first | (simp (maxDischargeDepth := 40); done) | split | with_reducible refine foldl_mem _ _ _ ?_ | intro _ _
          | simp (maxDischargeDepth := 40) | dsimp only))

@[simp] theorem execTransferAccept_mem (core : Fin 96) (s : State) : MemIs s.mem (execTransferAccept core s) := by
  unfold execTransferAccept
  first | rfl | (repeat' (
    first | (simp (maxDischargeDepth := 40); done) | split | with_reducible refine foldl_mem _ _ _ ?_ | intro _ _
          | simp (maxDischargeDepth := 40) | dsimp only))

@[simp] theorem State.onXfer_mem (s : State) (c : Fin 96) (id : Nat) (f : Transfer → Transfer) :
    (State.onXfer s c id f).mem = s.mem := by
  unfold State.onXfer
  first | rfl | (repeat' (
    first | (simp (maxDischargeDepth := 40); done) | split | with_reducible refine foldl_mem _ _ _ ?_ | intro _ _
          | simp (maxDischargeDepth := 40) | dsimp only))

@[simp] theorem State.lineRefused_mem (s : State) (c : Fin 96) (id : Nat) (n : Nat) (cause : BitVec 8)
    (addr : Word64) (collect : Bool) :
    (State.lineRefused s c id n cause addr collect).mem = s.mem := by
  unfold State.lineRefused
  first | rfl | (repeat' (
    first | (simp (maxDischargeDepth := 40); done) | split | with_reducible refine foldl_mem _ _ _ ?_ | intro _ _
          | simp (maxDischargeDepth := 40) | dsimp only))

@[simp] theorem execTransferLine_mem (core : Fin 96) (id line : Nat) (s : State) :
    MemIs s.mem (execTransferLine core id line s) := by
  unfold execTransferLine
  first | rfl | (repeat' (
    first | (simp (maxDischargeDepth := 40); done) | split | with_reducible refine foldl_mem _ _ _ ?_ | intro _ _
          | simp (maxDischargeDepth := 40) | dsimp only))

@[simp] theorem State.landed_mem (s : State) (c : Fin 96) (id : Nat) (fuel : Nat) :
    (s.landed c id fuel).mem = s.mem := by
  induction fuel generalizing s with
  | zero => rfl
  | succ fuel ih =>
    unfold State.landed
    split
    · split
      · rfl
      · dsimp only
        rw [ih]
        simp
    · rfl

@[simp] theorem State.copyUnit_wf (s : State) (a : Access) (c : Fin 96) (id n : Nat) (hmem : s.mem.wf = true) :
    (State.copyUnit s a c id n).mem.wf = true := by
  unfold State.copyUnit
  first | rfl | (repeat' (
    first | (simp (maxDischargeDepth := 40) [*]; done) | split | with_reducible refine foldl_wf _ _ _ ?_ ?_
          | with_reducible apply State.fillLines_wf | with_reducible apply State.writePhys_wf
          | with_reducible apply State.poisonUnits_wf | intro _ _ _ | simp (maxDischargeDepth := 40) [*] | dsimp only))

@[simp] theorem State.lineCancelled_mem (s : State) (c : Fin 96) (id n : Nat) :
    (State.lineCancelled s c id n).mem = s.mem := by
  unfold State.lineCancelled
  first | rfl | (repeat' (
    first | (simp (maxDischargeDepth := 40); done) | split | with_reducible refine foldl_mem _ _ _ ?_ | intro _ _
          | simp (maxDischargeDepth := 40) | dsimp only))

@[simp] theorem execTransferComplete_mem (core : Fin 96) (id : Nat) (s : State) :
    MemIs s.mem (execTransferComplete core id s) := by
  unfold execTransferComplete
  first | rfl | (repeat' (
    first | (simp (maxDischargeDepth := 40); done) | split | with_reducible refine foldl_mem _ _ _ ?_ | intro _ _
          | simp (maxDischargeDepth := 40) | dsimp only))

@[simp] theorem execXmcPermit_wf (core : Fin 96) (id : Nat) (s : State) (hmem : s.mem.wf = true) :
    MemWf (execXmcPermit core id s) := by
  unfold execXmcPermit
  first | rfl | (repeat' (
    first | (simp (maxDischargeDepth := 40) [*]; done) | split | with_reducible refine foldl_wf _ _ _ ?_ ?_
          | with_reducible apply State.take_wf | intro _ _ _ | simp (maxDischargeDepth := 40) [*] | dsimp only))

end Sys2Proof.Machine
end

