-- ==== Sys2Proof/Laws/RegionMem.lean ====
section
/-! SUPPORT. What regions, the collector and the accesses in progress do to memory: each leaves it as it is, or keeps its canonical form. -/

namespace Sys2Proof.Machine

set_option linter.unusedSimpArgs false

/-! ## Machine/Regions.lean -/

@[simp] theorem State.loadData_wf (s : State) (g : Cfg) (c : Fin 96) (tile entry k : Nat) (hmem
    : s.mem.wf = true) : (State.loadData s g c tile entry k).mem.wf = true := by
  unfold State.loadData
  dsimp only
  refine State.onMem_wf _ _ (fun m h => Memory.foldl_wf _ (fun m d h => Memory.store_wf h _ _) _ h) ?_
  refine State.onMem_wf _ _ (fun m h => Memory.foldl_wf _ (fun m l h => Memory.setFull_wf
      (Memory.store_wf h _ _) _ _) _ h) ?_
  refine State.onMem_wf _ _ (fun m h => ?_) hmem
  obtain ⟨h1, h2, h3, h4⟩ := (Memory.wf_iff _).1 h
  exact (Memory.wf_iff _).2 ⟨h1, h2, filter_rises _ h3, h4⟩

@[simp] theorem State.startEvictions_mem (s : State) (c : Fin 96) (es : List (Fin 32)) :
    (State.startEvictions s c es).mem = s.mem := by
  unfold State.startEvictions
  first | rfl | (repeat' (
    first | (simp (maxDischargeDepth := 40); done) | split | with_reducible refine foldl_mem _ _ _ ?_ | intro _ _
          | simp (maxDischargeDepth := 40) | dsimp only))

@[simp] theorem execRegionLoad_wf (core : Fin 96) (region : Fin 8) (gen : Nat) (s : State) (hmem : s.mem.wf = true) :
    MemWf (execRegionLoad core region gen s) := by
  unfold execRegionLoad
  first | rfl | (repeat' (
    first | (simp (maxDischargeDepth := 40) [*]; done) | split | with_reducible refine foldl_wf _ _ _ ?_ ?_
          | with_reducible apply State.loadData_wf | intro _ _ _ | simp (maxDischargeDepth := 40) [*] | dsimp only))

@[simp] theorem State.reportFailure_mem (s : State) (g : Cfg) (c : Fin 96) (r : Fin 8) (baddr : BitVec 54)
    (f : BadWord) (nbad : Nat) (src : BitVec 2) (launch : Bool) :
    (State.reportFailure s g c r baddr f nbad src launch).mem = s.mem := by
  unfold State.reportFailure
  first | rfl | (repeat' (
    first | (simp (maxDischargeDepth := 40); done) | split | with_reducible refine foldl_mem _ _ _ ?_ | intro _ _
          | simp (maxDischargeDepth := 40) | dsimp only))

@[simp] theorem State.withdraw_mem (s : State) (c : Fin 96) (r : Fin 8) : (State.withdraw s c r).mem = s.mem := by
  unfold State.withdraw
  first | rfl | (repeat' (
    first | (simp (maxDischargeDepth := 40); done) | split | with_reducible refine foldl_mem _ _ _ ?_ | intro _ _
          | simp (maxDischargeDepth := 40) | dsimp only))

@[simp] theorem State.freeRegion_mem (s : State) (c : Fin 96) (r : Fin 8) : (State.freeRegion s c r).mem = s.mem := by
  unfold State.freeRegion
  first | rfl | (repeat' (
    first | (simp (maxDischargeDepth := 40); done) | split | with_reducible refine foldl_mem _ _ _ ?_ | intro _ _
          | simp (maxDischargeDepth := 40) | dsimp only))

@[simp] theorem State.dropRegion_mem (s : State) (c : Fin 96) (r : Fin 8) : (State.dropRegion s c r).mem = s.mem := by
  unfold State.dropRegion
  refine Eq.trans (State.onPlace_mem _ _ _ _) ?_
  rw [State.freeRegion_mem, State.withdraw_mem, State.postGuards_mem]

@[simp] theorem State.dropTagged_mem (s : State) (h : Word64) : (State.dropTagged s h).mem = s.mem := by
  unfold State.dropTagged
  first | rfl | (repeat' (
    first | (simp (maxDischargeDepth := 40); done) | split | with_reducible refine foldl_mem _ _ _ ?_ | intro _ _
          | simp (maxDischargeDepth := 40) | dsimp only))

@[simp] theorem State.unbind_mem (s : State) (h : Word64) : (State.unbind s h).mem = s.mem := by
  unfold State.unbind
  first | rfl | (repeat' (
    first | (simp (maxDischargeDepth := 40); done) | split | with_reducible refine foldl_mem _ _ _ ?_ | intro _ _
          | simp (maxDischargeDepth := 40) | dsimp only))

@[simp] theorem State.teardown_mem (s : State) (h : Word64) : (State.teardown s h).mem = s.mem := by
  unfold State.teardown
  refine Eq.trans (State.onCfg_mem _ _ _) ?_
  refine Eq.trans (State.unbind_mem _ _) ?_
  refine Eq.trans (State.dropTagged_mem _ _) ?_
  exact foldl_mem _ _ _ fun s p => ite_mem (State.dropRegion_mem _ _ _) rfl

@[simp] theorem State.failLaunch_mem (s : State) (h : Word64) (c : Fin 96) (r : Fin 8) :
    (State.failLaunch s h c r).mem = s.mem := by
  unfold State.failLaunch
  refine Eq.trans (State.onCfg_mem _ _ _) ?_
  exact foldl_mem _ _ _ fun s p => ite_mem (State.dropRegion_mem _ _ _) rfl

@[simp] theorem execLoadComplete_mem (core : Fin 96) (region : Fin 8) (gen : Nat) (s : State) :
    MemIs s.mem (execLoadComplete core region gen s) := by
  unfold execLoadComplete
  first | rfl | (repeat' (
    first | (simp (maxDischargeDepth := 40); done) | split | with_reducible refine foldl_mem _ _ _ ?_ | intro _ _
          | simp (maxDischargeDepth := 40) | dsimp only))

@[simp] theorem State.startLoad_mem (s : State) (c : Fin 96) (r : Fin 8) (baddr : BitVec 54) (loads : Nat) :
    (State.startLoad s c r baddr loads).mem = s.mem := by
  unfold State.startLoad
  first | rfl | (repeat' (
    first | (simp (maxDischargeDepth := 40); done) | split | with_reducible refine foldl_mem _ _ _ ?_ | intro _ _
          | simp (maxDischargeDepth := 40) | dsimp only))

@[simp] theorem State.startCompletion_mem (s : State) (g : Cfg) (c : Fin 96) (r : Fin 8) :
    (State.startCompletion s g c r).mem = s.mem := by
  unfold State.startCompletion
  first | rfl | (repeat' (
    first | (simp (maxDischargeDepth := 40); done) | split | with_reducible refine foldl_mem _ _ _ ?_ | intro _ _
          | simp (maxDischargeDepth := 40) | dsimp only))

@[simp] theorem execRegionCommit_mem (core : Fin 96) (region : Fin 8) (s : State) :
    MemIs s.mem (execRegionCommit core region s) := by
  unfold execRegionCommit
  first | rfl | (repeat' (
    first | (simp (maxDischargeDepth := 40); done) | split | with_reducible refine foldl_mem _ _ _ ?_ | intro _ _
          | simp (maxDischargeDepth := 40) | dsimp only))

@[simp] theorem State.checkEnded_mem (s : State) (h : Word64) : (State.checkEnded s h).mem = s.mem := by
  unfold State.checkEnded
  first | rfl | (repeat' (
    first | (simp (maxDischargeDepth := 40); done) | split | with_reducible refine foldl_mem _ _ _ ?_ | intro _ _
          | simp (maxDischargeDepth := 40) | dsimp only))

@[simp] theorem execCompletionRelease_wf (core : Fin 96) (region : Fin 8) (s : State) (hmem : s.mem.wf = true) :
    MemWf (execCompletionRelease core region s) := by
  unfold execCompletionRelease
  first | rfl | (repeat' (
    first | (simp (maxDischargeDepth := 40) [*]; done) | split | with_reducible refine foldl_wf _ _ _ ?_ ?_
          | with_reducible apply State.writePhys_wf | intro _ _ _ | simp (maxDischargeDepth := 40) [*] | dsimp only))

@[simp] theorem State.completionRefused_mem (s : State) (a : Access) (c : Fin 96) (r : Fin 8) (cause : BitVec 8)
    (collect : Bool) :
    (State.completionRefused s a c r cause collect).mem = s.mem := by
  unfold State.completionRefused
  first | rfl | (repeat' (
    first | (simp (maxDischargeDepth := 40); done) | split | with_reducible refine foldl_mem _ _ _ ?_ | intro _ _
          | simp (maxDischargeDepth := 40) | dsimp only))

@[simp] theorem State.preempt_mem (s : State) (c : Fin 96) (r : Fin 8) : (State.preempt s c r).mem = s.mem := by
  unfold State.preempt
  first | rfl | (repeat' (
    first | (simp (maxDischargeDepth := 40); done) | split | with_reducible refine foldl_mem _ _ _ ?_ | intro _ _
          | simp (maxDischargeDepth := 40) | dsimp only))

@[simp] theorem State.flushOne_wf (s : State) (i : Instr) (hmem : s.mem.wf = true) :
    (State.flushOne s i).mem.wf = true := by
  unfold State.flushOne
  refine doneState_wf hmem ?_
  split
  · exact memWf_of_memIs hmem (execTokenArrival_mem _ _ _ _ _ _)
  · exact memWf_of_memIs hmem (execCreditReturn_mem _ _ _ _)
  · exact execMarkerArrival_wf _ _ _ _ _ hmem
  · exact memWf_of_memIs hmem (execCommandEnqueue_mem _ _ _ _ _)
  · exact memWf_of_memIs hmem (execEmberReadDone_mem _ _ _ _)
  · exact memWf_of_memIs hmem (execEmberWriteDone_mem _ _ _ _)
  · exact hmem

@[simp] theorem State.requeue_mem (s : State) (h : Word64) : (State.requeue s h).mem = s.mem := by
  unfold State.requeue
  first | rfl | (repeat' (
    first | (simp (maxDischargeDepth := 40); done) | split | with_reducible refine foldl_mem _ _ _ ?_ | intro _ _
          | simp (maxDischargeDepth := 40) | dsimp only))

@[simp] theorem execPreemptComplete_wf (core : Fin 96) (region : Fin 8) (gen : Nat) (s : State)
    (hmem : s.mem.wf = true) :
    MemWf (execPreemptComplete core region gen s) := by
  unfold execPreemptComplete
  first | rfl | (repeat' (
    first | (simp (maxDischargeDepth := 40) [*]; done) | split | with_reducible refine foldl_wf _ _ _ ?_ ?_
          | with_reducible apply State.flushOne_wf | intro _ _ _ | simp (maxDischargeDepth := 40) [*] | dsimp only))

@[simp] theorem execElementEviction_wf (core : Fin 96) (elem : Fin 32) (s : State) (hmem : s.mem.wf = true) :
    MemWf (execElementEviction core elem s) := by
  unfold execElementEviction
  first | rfl | (repeat' (
    first | (simp (maxDischargeDepth := 40) [*]; done) | split | with_reducible refine foldl_wf _ _ _ ?_ ?_
          | with_reducible apply State.emberWrite_wf | intro _ _ _ | simp (maxDischargeDepth := 40) [*] | dsimp only))

@[simp] theorem execElementRestore_mem (core : Fin 96) (elem : Fin 32) (s : State) :
    MemIs s.mem (execElementRestore core elem s) := by
  unfold execElementRestore
  first | rfl | (repeat' (
    first | (simp (maxDischargeDepth := 40); done) | split | with_reducible refine foldl_mem _ _ _ ?_ | intro _ _
          | simp (maxDischargeDepth := 40) | dsimp only))

@[simp] theorem State.moveOwner_mem (s : State) (h : Word64) (entry : Nat) (c : Fin 96) (r : Fin 8) :
    (State.moveOwner s h entry c r).mem = s.mem := by
  unfold State.moveOwner
  first | rfl | (repeat' (
    first | (simp (maxDischargeDepth := 40); done) | split | with_reducible refine foldl_mem _ _ _ ?_ | intro _ _
          | simp (maxDischargeDepth := 40) | dsimp only))

@[simp] theorem State.endAccess_mem (s : State) (x : Site) (h : Word64) (e id : Nat) (res : List Emit) :
    (State.endAccess s x h e id res).mem = s.mem := by
  unfold State.endAccess
  rw [State.dropAcc_mem, State.freeTag_mem, State.give_mem]

@[simp] theorem State.cancelOp_mem (s : State) (x : Site) (h : Word64) (e : Nat) (a : Access) (cause : BitVec 8) :
    (State.cancelOp s x h e a cause).mem = s.mem := by
  unfold State.cancelOp
  refine ite_mem (State.endAccess_mem _ _ _ _ _ _) ?_
  rw [State.endAccess_mem, State.ownerFault_mem]

@[simp] theorem State.reissue_mem (s : State) (h : Word64) (entry : Nat) : (State.reissue s h entry).mem = s.mem := by
  unfold State.reissue
  refine foldl_mem _ _ _ fun s a => ?_
  refine ite_mem rfl ?_
  split
  · exact State.onAcc_mem _ _ _
  · dsimp only
    refine ite_mem ?_ ?_
    · rw [State.cancelOp_mem, State.onAcc_mem]
    · rw [State.collect_mem, State.onAcc_mem]
  · simp

@[simp] theorem State.resume_mem (s : State) (h : Word64) (entry : Nat) (c : Fin 96) (r : Fin 8) (ex0 ey0 : Nat) :
    (State.resume s h entry c r ex0 ey0).mem = s.mem := by
  unfold State.resume
  first | rfl | (repeat' (
    first | (simp (maxDischargeDepth := 40); done) | split | with_reducible refine foldl_mem _ _ _ ?_ | intro _ _
          | simp (maxDischargeDepth := 40) | dsimp only))

@[simp] theorem execRegctlRelease_mem (core : Fin 96) (w : Writer) (region : Fin 8) (s : State) :
    MemIs s.mem (execRegctlRelease core w region s) := by
  unfold execRegctlRelease
  first | rfl | (repeat' (
    first | (simp (maxDischargeDepth := 40); done) | split | with_reducible refine foldl_mem _ _ _ ?_ | intro _ _
          | simp (maxDischargeDepth := 40) | dsimp only))

@[simp] theorem execRegctlRemap_mem (core : Fin 96) (w : Writer) (region : Fin 8) (s : State) :
    MemIs s.mem (execRegctlRemap core w region s) := by
  unfold execRegctlRemap
  first | rfl | (repeat' (
    first | (simp (maxDischargeDepth := 40); done) | split | with_reducible refine foldl_mem _ _ _ ?_ | intro _ _
          | simp (maxDischargeDepth := 40) | dsimp only))

@[simp] theorem execRegctlPreempt_mem (core : Fin 96) (w : Writer) (region : Fin 8) (s : State) :
    MemIs s.mem (execRegctlPreempt core w region s) := by
  unfold execRegctlPreempt
  first | rfl | (repeat' (
    first | (simp (maxDischargeDepth := 40); done) | split | with_reducible refine foldl_mem _ _ _ ?_ | intro _ _
          | simp (maxDischargeDepth := 40) | dsimp only))

@[simp] theorem State.refeed_mem (s : State) (b : BlockCtx) (x : Site) (p : PortName) :
    (State.refeed s b x p).mem = s.mem := by
  unfold State.refeed
  first | rfl | (repeat' (
    first | (simp (maxDischargeDepth := 40); done) | split | with_reducible refine foldl_mem _ _ _ ?_ | intro _ _
          | simp (maxDischargeDepth := 40) | dsimp only))

@[simp] theorem State.retarget_mem (s : State) (x : Site) (second : Bool) (old : Target) :
    (State.retarget s x second old).mem = s.mem := by
  unfold State.retarget
  first | rfl | (repeat' (
    first | (simp (maxDischargeDepth := 40); done) | split | with_reducible refine foldl_mem _ _ _ ?_ | intro _ _
          | simp (maxDischargeDepth := 40) | dsimp only))

@[simp] theorem State.rewrite_mem (s : State) (g : Cfg) (c : Fin 96) (r : Fin 8) (first : Nat) (ws : List Word64)
    : (State.rewrite s g c r first ws).1.mem = s.mem := by
  unfold State.rewrite
  dsimp only
  have h1 (b : BlockCtx) (dr : List (Fin 128)) (l : List (Fin 128)) (t : State) : (l.foldl (fun s i => ports.foldl
      (fun s p => s.refeed b (siteOf c r i) p)
      (s.onSlot (siteOf c r i) fun u => { u with driven := dr.contains i })) t).mem = t.mem := by
    refine foldl_mem _ _ _ fun s i => ?_
    rw [foldl_mem _ _ _ (fun s p => State.refeed_mem _ _ _ _), State.onSlot_mem]
  have h0 (f : Fin 128 → Slot → Slot) (l : List (Fin 128)) (t : State) : (l.foldl (fun s i => s.onSlot
      (siteOf c r i) (f i)) t).mem = t.mem :=
    foldl_mem _ _ _ fun s i => State.onSlot_mem _ _ _
  have h2 (g : Fin 128 → Option (Nat × Nat × Nat)) (f1 f2 : Fin 128 → Target) (l : List (Fin 128)) (t : State) :
      (l.foldl (fun s i =>
        match g i with
        | some (pre, lo, levels) => ((s.retarget (siteOf c r i) false (f1 i)).retarget (siteOf c r i) true
            (f2 i)).loadCounters (siteOf c r i) lo levels pre
        | none => (s.retarget (siteOf c r i) false (f1 i)).retarget (siteOf c r i) true (f2 i)) t).mem = t.mem := by
    refine foldl_mem _ _ _ fun s i => ?_
    split <;> simp
  generalize List.filter _ (BlockCtx.failures _) = bads
  generalize List.filter _ _ = changed
  cases bads with
  | nil => exact (h2 _ _ _ _ _).trans ((h1 _ _ _ _).trans (h0 _ _ _))
  | cons f rest =>
    dsimp only
    rw [State.reportFailure_mem, State.onRegion_mem, State.postGuards_mem,
      foldl_mem _ _ _ fun s f => State.onElem_mem _ _ _ _]
    exact (h2 _ _ _ _ _).trans ((h1 _ _ _ _).trans (h0 _ _ _))

@[simp] theorem State.prcwApply_mem (s : State) (c : Fin 96) (k : Fin 4) (d : Word64) (ws : List Word64) :
    (State.prcwApply s c k d ws).1.mem = s.mem := by
  unfold State.prcwApply
  first | rfl | (repeat' (
    first | (simp (maxDischargeDepth := 40); done) | split | with_reducible refine foldl_mem _ _ _ ?_ | intro _ _
          | simp (maxDischargeDepth := 40) | dsimp only))

@[simp] theorem State.prcwExit_mem (s : State) (c : Fin 96) (k : Fin 4) (r : Fin 8) (v : BitVec 2) :
    (State.prcwExit s c k r v).1.mem = s.mem := by
  unfold State.prcwExit
  first | rfl | (repeat' (
    first | (simp (maxDischargeDepth := 40); done) | split | with_reducible refine foldl_mem _ _ _ ?_ | intro _ _
          | simp (maxDischargeDepth := 40) | dsimp only))

/-! ## Machine/Collector.lean -/

@[simp] theorem State.onCol_mem (s : State) (f : Collector → Collector) : (State.onCol s f).mem = s.mem := by
  unfold State.onCol
  first | rfl | (repeat' (
    first | (simp (maxDischargeDepth := 40); done) | split | with_reducible refine foldl_mem _ _ _ ?_ | intro _ _
          | simp (maxDischargeDepth := 40) | dsimp only))

@[simp] theorem execCollectorRecord_mem (r : CRec) (s : State) : MemIs s.mem (execCollectorRecord r s) := by
  unfold execCollectorRecord
  first | rfl | (repeat' (
    first | (simp (maxDischargeDepth := 40); done) | split | with_reducible refine foldl_mem _ _ _ ?_ | intro _ _
          | simp (maxDischargeDepth := 40) | dsimp only))

@[simp] theorem State.writeList_wf (s : State) (es : List FEntry) (hmem : s.mem.wf = true) :
    (State.writeList s es).mem.wf = true := by
  unfold State.writeList
  dsimp only
  have h1 : (if inDram (s.col.base.toNat * 4096) then s.onMem fun m => m.store (s.col.base.toNat * 4096)
      (es.flatMap fun e => natBytes 32 e.bits.toNat) else s).mem.wf = true :=
    ite_wf (State.onMem_wf _ _ (fun m h => Memory.store_wf h _ _) hmem) hmem
  refine dite_wf (fun _ => ?_) (fun _ => ?_)
  · rw [State.pushEvent_mem, State.onCol_mem]; exact h1
  · rw [State.onCol_mem]; exact h1

@[simp] theorem State.turnAway_mem (s : State) (e : FEntry) : (State.turnAway s e).mem = s.mem := by
  unfold State.turnAway
  first | rfl | (repeat' (
    first | (simp (maxDischargeDepth := 40); done) | split | with_reducible refine foldl_mem _ _ _ ?_ | intro _ _
          | simp (maxDischargeDepth := 40) | dsimp only))

@[simp] theorem execCollectorWindowClose_wf (s : State) (hmem : s.mem.wf = true) :
    MemWf (execCollectorWindowClose s) := by
  unfold execCollectorWindowClose
  first | rfl | (repeat' (
    first | (simp (maxDischargeDepth := 40) [*]; done) | split | with_reducible refine foldl_wf _ _ _ ?_ ?_
          | with_reducible apply State.writeList_wf | intro _ _ _ | simp (maxDischargeDepth := 40) [*] | dsimp only))

@[simp] theorem execParkedReoffer_mem (r : CRec) (s : State) : MemIs s.mem (execParkedReoffer r s) := by
  unfold execParkedReoffer
  first | rfl | (repeat' (
    first | (simp (maxDischargeDepth := 40); done) | split | with_reducible refine foldl_mem _ _ _ ?_ | intro _ _
          | simp (maxDischargeDepth := 40) | dsimp only))

@[simp] theorem State.retry_mem (s : State) (a : Access) : (State.retry s a).mem = s.mem := by
  unfold State.retry
  first | rfl | (repeat' (
    first | (simp (maxDischargeDepth := 40); done) | split | with_reducible refine foldl_mem _ _ _ ?_ | intro _ _
          | simp (maxDischargeDepth := 40) | dsimp only))

@[simp] theorem State.cancel_mem (s : State) (a : Access) (cause : BitVec 8) :
    (State.cancel s a cause).mem = s.mem := by
  unfold State.cancel
  first | rfl | (repeat' (
    first | (simp (maxDischargeDepth := 40); done) | split | with_reducible refine foldl_mem _ _ _ ?_ | intro _ _
          | simp (maxDischargeDepth := 40) | dsimp only))

@[simp] theorem State.resumeAccess_mem (s : State) (action : Nat) (r : CRec) :
    (State.resumeAccess s action r).mem = s.mem := by
  unfold State.resumeAccess
  first | rfl | (repeat' (
    first | (simp (maxDischargeDepth := 40); done) | split | with_reducible refine foldl_mem _ _ _ ?_ | intro _ _
          | simp (maxDischargeDepth := 40) | dsimp only))

@[simp] theorem execFwResume_wf (w : Writer) (v : Word64) (s : State) (hmem : s.mem.wf = true) :
    MemWf (execFwResume w v s) := by
  unfold execFwResume
  first | rfl | (repeat' (
    first | (simp (maxDischargeDepth := 40) [*]; done) | split | with_reducible refine foldl_wf _ _ _ ?_ ?_
          | with_reducible apply State.writeList_wf | intro _ _ _ | simp (maxDischargeDepth := 40) [*] | dsimp only))

/-! ## Machine/Perform.lean -/

@[simp] theorem State.park_mem (s : State) (a : Access) (cause : BitVec 8) (addr : BitVec 54) :
    (State.park s a cause addr).mem = s.mem := by
  unfold State.park
  first | rfl | (repeat' (
    first | (simp (maxDischargeDepth := 40); done) | split | with_reducible refine foldl_mem _ _ _ ?_ | intro _ _
          | simp (maxDischargeDepth := 40) | dsimp only))

@[simp] theorem State.refused_mem (s : State) (a : Access) (cause : BitVec 8) (va : Word64) :
    (State.refused s a cause va).mem = s.mem := by
  unfold State.refused
  first | rfl | (repeat' (
    first | (simp (maxDischargeDepth := 40); done) | split | with_reducible refine foldl_mem _ _ _ ?_ | intro _ _
          | simp (maxDischargeDepth := 40) | dsimp only))

@[simp] theorem State.translatePieces_mem (s : State) (a : Access) (i : Nat) (ps : List Piece) :
    (s.translatePieces a i ps).1.mem = s.mem := by
  induction ps generalizing s i with
  | nil => rfl
  | cons p rest ih =>
    have h : (match p.pa with
        | some pa => (s, (.ok pa : Except (BitVec 8) Nat))
        | none => s.translate (s.accRec a 0x40 0 false 0) (s.tableCore a) a.asid (s.pieceDoes a i).1
            (s.pieceDoes a i).2.1 a.kind.atomic (s.pieceDoes a i).2.2 p.va p.len).1.mem = s.mem := by
      split
      · rfl
      · exact State.translate_mem _ _ _ _ _ _ _ _ _ _
    unfold State.translatePieces
    dsimp only
    split
    · exact h
    · exact (ih _ _).trans h

@[simp] theorem State.mapImage_mem (s : State) (a : Access) (va : Word64) (n : Nat) :
    (s.mapImage a va n).1.mem = s.mem := by
  induction n generalizing s va with
  | zero => rfl
  | succ n ih =>
    unfold State.mapImage
    dsimp only
    split
    · exact State.translate_mem _ _ _ _ _ _ _ _ _ _
    · exact (ih _ _).trans (State.translate_mem _ _ _ _ _ _ _ _ _ _)

@[simp] theorem State.translated_mem (s : State) (a : Access) : (State.translated s a).1.mem = s.mem := by
  unfold State.translated
  first | rfl | (repeat' (
    first | (simp (maxDischargeDepth := 40); done) | split | with_reducible refine foldl_mem _ _ _ ?_ | intro _ _
          | simp (maxDischargeDepth := 40) | dsimp only))

@[simp] theorem State.refusedAll_mem (s : State) (a : Access) (page : Option (BitVec 12 × Nat)) (cause : BitVec 8)
    (va : Word64) :
    (State.refusedAll s a page cause va).mem = s.mem := by
  unfold State.refusedAll
  first | rfl | (repeat' (
    first | (simp (maxDischargeDepth := 40); done) | split | with_reducible refine foldl_mem _ _ _ ?_ | intro _ _
          | simp (maxDischargeDepth := 40) | dsimp only))

@[simp] theorem execWalkComplete_mem (id : Nat) (s : State) : MemIs s.mem (execWalkComplete id s) := by
  unfold execWalkComplete
  first | rfl | (repeat' (
    first | (simp (maxDischargeDepth := 40); done) | split | with_reducible refine foldl_mem _ _ _ ?_ | intro _ _
          | simp (maxDischargeDepth := 40) | dsimp only))

@[simp] theorem State.sendResult_mem (s : State) (a : Access) (outs : List Emit) :
    (State.sendResult s a outs).mem = s.mem := by
  unfold State.sendResult
  first | rfl | (repeat' (
    first | (simp (maxDischargeDepth := 40); done) | split | with_reducible refine foldl_mem _ _ _ ?_ | intro _ _
          | simp (maxDischargeDepth := 40) | dsimp only))

@[simp] theorem State.kstored_mem (s : State) (x : Site) (id : Nat) : (State.kstored s x id).mem = s.mem := by
  unfold State.kstored
  first | rfl | (repeat' (
    first | (simp (maxDischargeDepth := 40); done) | split | with_reducible refine foldl_mem _ _ _ ?_ | intro _ _
          | simp (maxDischargeDepth := 40) | dsimp only))

@[simp] theorem State.kloaded_mem (s : State) (x : Site) (id : Nat) (v : KTok) :
    (State.kloaded s x id v).mem = s.mem := by
  unfold State.kloaded
  first | rfl | (repeat' (
    first | (simp (maxDischargeDepth := 40); done) | split | with_reducible refine foldl_mem _ _ _ ?_ | intro _ _
          | simp (maxDischargeDepth := 40) | dsimp only))

@[simp] theorem State.inBlock_mem (s : State) (c : Fin 96) (k : Fin 4) (g : Nat) (f : State → State)
    (hf : ∀ t, (f t).mem = t.mem) : (State.inBlock s c k g f).mem = s.mem := by
  unfold State.inBlock
  exact ite_mem (hf _) (State.onDrain_mem _ _ _ _ _ hf)

@[simp] theorem State.prcwDone_mem (s : State) (a : Access) (c : Fin 96) (k : Fin 4) (i : Fin 128) (g : Nat) :
    (State.prcwDone s a c k i g).mem = s.mem := by
  unfold State.prcwDone
  first | rfl | (repeat' (
    first | (simp (maxDischargeDepth := 40); done) | split | with_reducible refine foldl_mem _ _ _ ?_ | intro _ _
          | simp (maxDischargeDepth := 40) | dsimp only))

@[simp] theorem execLateResultArrival_mem (id : Nat) (s : State) : MemIs s.mem (execLateResultArrival id s) := by
  unfold execLateResultArrival
  dsimp only
  repeat' split
  all_goals first
    | rfl
    | (refine (memIs_next _ _).2 ?_
       first
       | (simp; done)
       | rw [State.inBlock_mem _ _ _ _ _ (fun t => State.kloaded_mem _ _ _ _), State.tickBy_mem, State.dropAcc_mem])

@[simp] theorem State.spoilRings_wf (s : State) (pa n : Nat) (hmem : s.mem.wf = true) :
    (State.spoilRings s pa n).mem.wf = true := by
  unfold State.spoilRings
  first | rfl | (repeat' (
    first | (simp (maxDischargeDepth := 40) [*]; done) | split | with_reducible refine foldl_wf _ _ _ ?_ ?_
          | with_reducible apply State.writePhys_wf | intro _ _ _ | simp (maxDischargeDepth := 40) [*] | dsimp only))

@[simp] theorem State.putPiece_wf (s : State) (a : Access) (pa : Nat) (bs : List Byte) (fill : Bool)
    (hmem : s.mem.wf = true) :
    (State.putPiece s a pa bs fill).mem.wf = true := by
  unfold State.putPiece
  first | rfl | (repeat' (
    first | (simp (maxDischargeDepth := 40) [*]; done) | split | with_reducible refine foldl_wf _ _ _ ?_ ?_
          | with_reducible apply State.fillLines_wf | with_reducible apply State.writePhys_wf
          | with_reducible apply State.poisonUnits_wf | with_reducible apply State.spoilRings_wf | intro _ _ _
          | simp (maxDischargeDepth := 40) [*] | dsimp only))

@[simp] theorem State.postPiece_mem (s : State) (a : Access) (p : Piece) (bs : List Byte) :
    (State.postPiece s a p bs).mem = s.mem := by
  unfold State.postPiece
  first | rfl | (repeat' (
    first | (simp (maxDischargeDepth := 40); done) | split | with_reducible refine foldl_mem _ _ _ ?_ | intro _ _
          | simp (maxDischargeDepth := 40) | dsimp only))

@[simp] theorem State.doPiece_wf (s : State) (a : Access) (hmem : s.mem.wf = true) :
    (State.doPiece s a).1.mem.wf = true := by
  unfold State.doPiece
  split
  · exact hmem
  · dsimp only
    split
    · rw [State.readPhys_mem, State.meetErrors_mem]; exact hmem
    · split
      · rw [State.postPiece_mem]; exact hmem
      · exact State.putPiece_wf _ _ _ _ _ hmem

@[simp] theorem State.doPieces_wf (s : State) (a : Access) (n : Nat) (hmem : s.mem.wf = true) :
    (s.doPieces a n).1.mem.wf = true := by
  induction n generalizing s a with
  | zero => exact hmem
  | succ n ih => exact ih _ _ (State.doPiece_wf _ _ hmem)

@[simp] theorem State.ringMove_wf (s : State) (c : Fin 96) (tile desc word n : Nat) (hmem : s.mem.wf = true) :
    (State.ringMove s c tile desc word n).mem.wf = true := by
  unfold State.ringMove
  first | rfl | (repeat' (
    first | (simp (maxDischargeDepth := 40) [*]; done) | split | with_reducible refine foldl_wf _ _ _ ?_ ?_
          | with_reducible apply State.writePhys_wf | intro _ _ _ | simp (maxDischargeDepth := 40) [*] | dsimp only))

@[simp] theorem State.finish_wf (s : State) (a : Access) (hmem : s.mem.wf = true) :
    (State.finish s a).mem.wf = true := by
  unfold State.finish
  dsimp only
  repeat' split
  all_goals first
    | with_reducible exact hmem
    | (rw [State.tickFresh_mem, State.sendResult_mem]; with_reducible exact State.ringMove_wf _ _ _ _ _ _ hmem)
    | (rw [State.endAccess_mem]; with_reducible exact State.ringMove_wf _ _ _ _ _ _ hmem)
    | (rw [State.sendResult_mem]; with_reducible exact hmem)
    | (rw [State.ownerFault_mem, State.sendResult_mem]; with_reducible exact hmem)
    | (rw [State.endAccess_mem]; with_reducible exact hmem)
    | (rw [State.inBlock_mem _ _ _ _ _ (fun t => State.kstored_mem _ _ _), State.dropAcc_mem]; exact hmem)
    | (rw [State.dropAcc_mem]; exact hmem)

@[simp] theorem State.goOn_wf (s : State) (a : Access) (hmem : s.mem.wf = true) : (State.goOn s a).mem.wf = true := by
  unfold State.goOn
  first | rfl | (repeat' (
    first | (simp (maxDischargeDepth := 40) [*]; done) | split | with_reducible refine foldl_wf _ _ _ ?_ ?_
          | with_reducible apply State.finish_wf | intro _ _ _ | simp (maxDischargeDepth := 40) [*] | dsimp only))

@[simp] theorem State.doLane_wf (s : State) (a : Access) (i : Nat) (hmem : s.mem.wf = true) :
    (State.doLane s a i).1.mem.wf = true := by
  unfold State.doLane
  dsimp only
  split
  · rw [State.readPhys_mem]; exact hmem
  · exact State.putPiece_wf _ _ _ _ _ hmem

@[simp] theorem State.goLines_wf (s : State) (a : Access) (hmem : s.mem.wf = true) :
    (State.goLines s a).mem.wf = true := by
  unfold State.goLines
  dsimp only
  have h0 (us : List Nat) : (if a.kind.reads then us.foldl (fun s u => s.meetErrors a (64 * u)) s else s).mem.wf =
      true := by
    refine ite_wf ?_ hmem
    rw [foldl_mem _ _ _ fun s u => State.meetErrors_mem _ _ _]; exact hmem
  have h1 (t : State) (l : List Nat) (h : t.mem.wf = true) : (l.foldl (fun q i => q.1.doLane q.2 i) (t, a)).1.mem.wf =
      true := foldl_fst_wf _ _ _ h fun q i hq => State.doLane_wf _ _ _ hq
  refine ite_wf ?_ (State.goOn_wf _ _ (h1 _ _ (h0 _)))
  rw [State.laterFree_mem, State.onAcc_mem]
  exact h1 _ _ (h0 _)

@[simp] theorem State.goFull_wf (s : State) (a : Access) (clear : Bool) (hmem : s.mem.wf = true) :
    (State.goFull s a clear).mem.wf = true := by
  unfold State.goFull
  dsimp only
  refine ite_wf ?_ (State.goOn_wf _ _ (ite_wf ?_ (State.doPieces_wf _ _ _ hmem)))
  · rw [State.onAcc_mem]; exact hmem
  · exact State.onMem_wf _ _ (fun m h => Memory.foldl_wf _ (fun m p h => Memory.setFull_wf h _ _) _ h)
      (State.doPieces_wf _ _ _ hmem)

@[simp] theorem State.goAmo_wf (s : State) (a : Access) (m : BitVec 8) (opnd : Token) (hmem : s.mem.wf = true) :
    (State.goAmo s a m opnd).mem.wf = true := by
  unfold State.goAmo
  first | rfl | (repeat' (
    first | (simp (maxDischargeDepth := 40) [*]; done) | split | with_reducible refine foldl_wf _ _ _ ?_ ?_
          | with_reducible apply State.writePhys_wf | with_reducible apply State.spoilRings_wf | intro _ _ _
          | simp (maxDischargeDepth := 40) [*] | dsimp only))

@[simp] theorem State.offerEntry_mem (s : State) : (State.offerEntry s).mem = s.mem := by
  unfold State.offerEntry
  first | rfl | (repeat' (
    first | (simp (maxDischargeDepth := 40); done) | split | with_reducible refine foldl_mem _ _ _ ?_ | intro _ _
          | simp (maxDischargeDepth := 40) | dsimp only))

@[simp] theorem State.goEgress_mem (s : State) (a : Access) (w : Word64) (req : Token) :
    (State.goEgress s a w req).mem = s.mem := by
  unfold State.goEgress
  first | rfl | (repeat' (
    first | (simp (maxDischargeDepth := 40); done) | split | with_reducible refine foldl_mem _ _ _ ?_ | intro _ _
          | simp (maxDischargeDepth := 40) | dsimp only))

@[simp] theorem State.wakeEgress_mem (s : State) : (State.wakeEgress s).mem = s.mem := by
  unfold State.wakeEgress
  first | rfl | (repeat' (
    first | (simp (maxDischargeDepth := 40); done) | split | with_reducible refine foldl_mem _ _ _ ?_ | intro _ _
          | simp (maxDischargeDepth := 40) | dsimp only))

@[simp] theorem execEgputEntryFree_mem (s : State) : MemIs s.mem (execEgputEntryFree s) := by
  unfold execEgputEntryFree
  first | rfl | (repeat' (
    first | (simp (maxDischargeDepth := 40); done) | split | with_reducible refine foldl_mem _ _ _ ?_ | intro _ _
          | simp (maxDischargeDepth := 40) | dsimp only))

@[simp] theorem State.carryOut_wf (s : State) (a : Access) (hmem : s.mem.wf = true) :
    (State.carryOut s a).mem.wf = true := by
  unfold State.carryOut
  dsimp only
  repeat' split
  all_goals first
    | with_reducible exact hmem
    | with_reducible exact State.goFull_wf _ _ _ hmem
    | with_reducible exact State.goAmo_wf _ _ _ _ hmem
    | with_reducible exact State.goLines_wf _ _ hmem
    | with_reducible exact State.goOn_wf _ _ (State.doPieces_wf _ _ _ hmem)
    | (rw [State.sendResult_mem]; with_reducible exact State.tableAct_wf _ _ _ _ (by rw [State.meetAll_mem]; exact hmem))
    | (rw [State.park_mem]; with_reducible exact State.tableAct_wf _ _ _ _ (by rw [State.meetAll_mem]; exact hmem))
    | (rw [State.goEgress_mem]; with_reducible exact hmem)
    | (rw [State.dropAcc_mem]; with_reducible exact hmem)
    | (rw [State.dropAcc_mem]; with_reducible exact State.copyUnit_wf _ _ _ _ _ hmem)
    | (rw [State.sendResult_mem]; with_reducible exact hmem)
    | (rw [State.sendResult_mem]; with_reducible exact State.append_wf _ _ _ _ _ _ hmem)
    | (rw [State.refused_mem]; with_reducible exact State.append_wf _ _ _ _ _ _ hmem)

@[simp] theorem execAccessPerform_wf (id : Nat) (s : State) (hmem : s.mem.wf = true) :
    MemWf (execAccessPerform id s) := by
  unfold execAccessPerform
  first | rfl | (repeat' (
    first | (simp (maxDischargeDepth := 40) [*]; done) | split | with_reducible refine foldl_wf _ _ _ ?_ ?_
          | with_reducible apply State.carryOut_wf | with_reducible apply State.putPiece_wf | intro _ _ _
          | simp (maxDischargeDepth := 40) [*] | dsimp only))

@[simp] theorem execLdsWake_wf (id : Nat) (s : State) (hmem : s.mem.wf = true) : MemWf (execLdsWake id s) := by
  unfold execLdsWake
  first | rfl | (repeat' (
    first | (simp (maxDischargeDepth := 40) [*]; done) | split | with_reducible refine foldl_wf _ _ _ ?_ ?_
          | with_reducible apply State.goFull_wf | intro _ _ _ | simp (maxDischargeDepth := 40) [*] | dsimp only))

@[simp] theorem execMemoryResultDelivery_wf (site : Site) (s : State) (hmem : s.mem.wf = true) :
    MemWf (execMemoryResultDelivery site s) := by
  unfold execMemoryResultDelivery
  first | rfl | (repeat' (
    first | (simp (maxDischargeDepth := 40) [*]; done) | split | with_reducible refine foldl_wf _ _ _ ?_ ?_
          | with_reducible apply State.deliverResult_wf | intro _ _ _ | simp (maxDischargeDepth := 40) [*]
          | dsimp only))

@[simp] theorem execScrubLine_wf (core : Fin 96) (dram : Bool) (line : Nat) (s : State) (hmem : s.mem.wf = true)
    : MemWf (execScrubLine core dram line s) := by
  unfold execScrubLine
  refine (memWf_next _).2 ?_
  have h1 (r : CRec) (l : List Nat) : (l.foldl (fun s u => s.meetUnit r (64 * u)) s).mem.wf = true := by
    rw [foldl_mem _ _ _ fun s u => State.meetUnit_mem _ _ _]; exact hmem
  have h2 (l : List Nat) (t : State) (ht : t.mem.wf = true) :
      (t.onMem fun m => { m with ce := l.foldl (fun l u => natDel u l) m.ce }).mem.wf = true := by
    refine State.onMem_wf _ _ (fun m h => ?_) ht
    obtain ⟨h1, h2, h3, h4, h5, h6⟩ := (Memory.wf_iff _).1 h
    exact (Memory.wf_iff _).2 ⟨h1, h2, h3, h4, h5, foldl_natDel_rises _ h6⟩
  exact h2 _ _ (h1 _ _)

end Sys2Proof.Machine
end

