-- ==== Sys2Proof/Laws/ScalarMem.lean ====
section
/-! SUPPORT. What the control core and its special registers do to memory: each leaves it as it is, or keeps its canonical form. -/

namespace Sys2Proof.Machine

set_option linter.unusedSimpArgs false

/-! ## Machine/Csr.lean -/

@[simp] theorem State.writeCtxpart_mem (s : State) (c : Fin 96) (v : Word64) :
    (State.writeCtxpart s c v).mem = s.mem := by
  unfold State.writeCtxpart
  first | rfl | (repeat' (
    first | (simp (maxDischargeDepth := 40); done) | split | with_reducible refine foldl_mem _ _ _ ?_ | intro _ _
          | simp (maxDischargeDepth := 40) | dsimp only))

@[simp] theorem execCtxpartWrite_mem (core : Fin 96) (w : Writer) (v : Word64) (s : State) :
    MemIs s.mem (execCtxpartWrite core w v s) := by
  unfold execCtxpartWrite
  first | rfl | (repeat' (
    first | (simp (maxDischargeDepth := 40); done) | split | with_reducible refine foldl_mem _ _ _ ?_ | intro _ _
          | simp (maxDischargeDepth := 40) | dsimp only))

@[simp] theorem State.writeGuard_mem (s : State) (c : Fin 96) (num : BitVec 12) (v : Word64) :
    (State.writeGuard s c num v).mem = s.mem := by
  unfold State.writeGuard
  first | rfl | (repeat' (
    first | (simp (maxDischargeDepth := 40); done) | split | with_reducible refine foldl_mem _ _ _ ?_ | intro _ _
          | simp (maxDischargeDepth := 40) | dsimp only))

@[simp] theorem execGuardMapWrite_mem (core : Fin 96) (w : Writer) (num : BitVec 12) (v : Word64) (s : State) :
    MemIs s.mem (execGuardMapWrite core w num v s) := by
  unfold execGuardMapWrite
  first | rfl | (repeat' (
    first | (simp (maxDischargeDepth := 40); done) | split | with_reducible refine foldl_mem _ _ _ ?_ | intro _ _
          | simp (maxDischargeDepth := 40) | dsimp only))

@[simp] theorem State.dropTlb_mem (s : State) (p : TlbEntry → Bool) : (State.dropTlb s p).mem = s.mem := by
  unfold State.dropTlb
  first | rfl | (repeat' (
    first | (simp (maxDischargeDepth := 40); done) | split | with_reducible refine foldl_mem _ _ _ ?_ | intro _ _
          | simp (maxDischargeDepth := 40) | dsimp only))

@[simp] theorem execTlbinvAll_mem (w : Writer) (s : State) : MemIs s.mem (execTlbinvAll w s) := by
  unfold execTlbinvAll
  first | rfl | (repeat' (
    first | (simp (maxDischargeDepth := 40); done) | split | with_reducible refine foldl_mem _ _ _ ?_ | intro _ _
          | simp (maxDischargeDepth := 40) | dsimp only))

@[simp] theorem execTlbinvAsid_mem (w : Writer) (asid : BitVec 12) (s : State) :
    MemIs s.mem (execTlbinvAsid w asid s) := by
  unfold execTlbinvAsid
  first | rfl | (repeat' (
    first | (simp (maxDischargeDepth := 40); done) | split | with_reducible refine foldl_mem _ _ _ ?_ | intro _ _
          | simp (maxDischargeDepth := 40) | dsimp only))

@[simp] theorem execTlbinvPage_mem (w : Writer) (asid : BitVec 12) (vpn : BitVec 38) (s : State) :
    MemIs s.mem (execTlbinvPage w asid vpn s) := by
  unfold execTlbinvPage
  first | rfl | (repeat' (
    first | (simp (maxDischargeDepth := 40); done) | split | with_reducible refine foldl_mem _ _ _ ?_ | intro _ _
          | simp (maxDischargeDepth := 40) | dsimp only))

@[simp] theorem Done.state_wf {d : Done} {s : State} (hs : s.mem.wf = true) (hd : MemWf d) :
    (d.state s).mem.wf = true := by
  cases d with
  | next t => exact hd
  | fault _ => exact hs
  | refused _ => exact hs

@[simp] theorem Done.state_mem {d : Done} {s : State} (hd : MemIs s.mem d) : (d.state s).mem = s.mem := by
  cases d with
  | next t => exact hd
  | fault _ => rfl
  | refused _ => rfl

@[simp] theorem State.writeTlbinv_mem (s : State) (w : Writer) (v : Word64) :
    (State.writeTlbinv s w v).mem = s.mem := by
  unfold State.writeTlbinv
  first | rfl | (repeat' (
    first | (simp (maxDischargeDepth := 40); done) | split | with_reducible refine foldl_mem _ _ _ ?_ | intro _ _
          | simp (maxDischargeDepth := 40) | dsimp only))

@[simp] theorem State.writeRegctl_mem (s : State) (c : Fin 96) (w : Writer) (v : Word64) :
    (State.writeRegctl s c w v).mem = s.mem := by
  unfold State.writeRegctl
  first | rfl | (repeat' (
    first | (simp (maxDischargeDepth := 40); done) | split | with_reducible refine foldl_mem _ _ _ ?_ | intro _ _
          | simp (maxDischargeDepth := 40) | dsimp only))

@[simp] theorem State.swResult_mem (s : State) (c : Fin 96) (r : BitVec 2) : (State.swResult s c r).mem = s.mem := by
  unfold State.swResult
  first | rfl | (repeat' (
    first | (simp (maxDischargeDepth := 40); done) | split | with_reducible refine foldl_mem _ _ _ ?_ | intro _ _
          | simp (maxDischargeDepth := 40) | dsimp only))

@[simp] theorem execCtxswSave_wf (core : Fin 96) (w : Writer) (ctx : Fin 4) (addr : BitVec 48) (s : State) (hmem
    : s.mem.wf = true) : MemWf (execCtxswSave core w ctx addr s) := by
  unfold execCtxswSave
  dsimp only
  split
  · exact hmem
  · split
    · refine (memWf_next _).2 ?_
      rw [State.swResult_mem]; exact hmem
    · refine (memWf_next _).2 ?_
      rw [State.swResult_mem, State.onCtx_mem]
      exact State.onMem_wf _ _ (fun m h => Memory.store_wf h _ _) hmem

@[simp] theorem State.loadArea_mem (s : State) (c : Fin 96) (k : Fin 4) (ws : List Word64) :
    (State.loadArea s c k ws).mem = s.mem := by
  unfold State.loadArea
  first | rfl | (repeat' (
    first | (simp (maxDischargeDepth := 40); done) | split | with_reducible refine foldl_mem _ _ _ ?_ | intro _ _
          | simp (maxDischargeDepth := 40) | dsimp only))

@[simp] theorem execCtxswRestore_mem (core : Fin 96) (w : Writer) (ctx : Fin 4) (addr : BitVec 48) (s : State) :
    MemIs s.mem (execCtxswRestore core w ctx addr s) := by
  unfold execCtxswRestore
  first | rfl | (repeat' (
    first | (simp (maxDischargeDepth := 40); done) | split | with_reducible refine foldl_mem _ _ _ ?_ | intro _ _
          | simp (maxDischargeDepth := 40) | dsimp only))

@[simp] theorem execCtxswClear_mem (core : Fin 96) (w : Writer) (ctx : Fin 4) (s : State) :
    MemIs s.mem (execCtxswClear core w ctx s) := by
  unfold execCtxswClear
  first | rfl | (repeat' (
    first | (simp (maxDischargeDepth := 40); done) | split | with_reducible refine foldl_mem _ _ _ ?_ | intro _ _
          | simp (maxDischargeDepth := 40) | dsimp only))

@[simp] theorem execCtxswStop_mem (core : Fin 96) (w : Writer) (ctx : Fin 4) (s : State) :
    MemIs s.mem (execCtxswStop core w ctx s) := by
  unfold execCtxswStop
  first | rfl | (repeat' (
    first | (simp (maxDischargeDepth := 40); done) | split | with_reducible refine foldl_mem _ _ _ ?_ | intro _ _
          | simp (maxDischargeDepth := 40) | dsimp only))

@[simp] theorem State.writeCtxsw_wf (s : State) (c : Fin 96) (w : Writer) (v : Word64) (hmem : s.mem.wf = true) :
    (State.writeCtxsw s c w v).mem.wf = true := by
  unfold State.writeCtxsw
  first | rfl | (repeat' (
    first | (simp (maxDischargeDepth := 40) [*]; done) | split | with_reducible refine foldl_wf _ _ _ ?_ ?_
          | with_reducible apply execCtxswSave_wf | intro _ _ _ | simp (maxDischargeDepth := 40) [*] | dsimp only))

@[simp] theorem execCtxgo_mem (core : Fin 96) (w : Writer) (v : Word64) (s : State) :
    MemIs s.mem (execCtxgo core w v s) := by
  unfold execCtxgo
  first | rfl | (repeat' (
    first | (simp (maxDischargeDepth := 40); done) | split | with_reducible refine foldl_mem _ _ _ ?_ | intro _ _
          | simp (maxDischargeDepth := 40) | dsimp only))

@[simp] theorem execDbgCtlWrite_mem (core : Fin 96) (w : Writer) (v : Word64) (s : State) :
    MemIs s.mem (execDbgCtlWrite core w v s) := by
  unfold execDbgCtlWrite
  first | rfl | (repeat' (
    first | (simp (maxDischargeDepth := 40); done) | split | with_reducible refine foldl_mem _ _ _ ?_ | intro _ _
          | simp (maxDischargeDepth := 40) | dsimp only))

@[simp] theorem execFwCtlWrite_mem (w : Writer) (v : Word64) (s : State) : MemIs s.mem (execFwCtlWrite w v s) := by
  unfold execFwCtlWrite
  first | rfl | (repeat' (
    first | (simp (maxDischargeDepth := 40); done) | split | with_reducible refine foldl_mem _ _ _ ?_ | intro _ _
          | simp (maxDischargeDepth := 40) | dsimp only))

@[simp] theorem execKvtCsrWrite_mem (w : Writer) (num : BitVec 12) (v : Word64) (s : State) :
    MemIs s.mem (execKvtCsrWrite w num v s) := by
  unfold execKvtCsrWrite
  first | rfl | (repeat' (
    first | (simp (maxDischargeDepth := 40); done) | split | with_reducible refine foldl_mem _ _ _ ?_ | intro _ _
          | simp (maxDischargeDepth := 40) | dsimp only))

@[simp] theorem execDmawinLockSet_mem (w : Writer) (v : Word64) (s : State) :
    MemIs s.mem (execDmawinLockSet w v s) := by
  unfold execDmawinLockSet
  first | rfl | (repeat' (
    first | (simp (maxDischargeDepth := 40); done) | split | with_reducible refine foldl_mem _ _ _ ?_ | intro _ _
          | simp (maxDischargeDepth := 40) | dsimp only))

@[simp] theorem State.writeWindow_mem (s : State) (n : Nat) (v : Word64) : (State.writeWindow s n v).mem = s.mem := by
  unfold State.writeWindow
  first | rfl | (repeat' (
    first | (simp (maxDischargeDepth := 40); done) | split | with_reducible refine foldl_mem _ _ _ ?_ | intro _ _
          | simp (maxDischargeDepth := 40) | dsimp only))

@[simp] theorem State.writeEgoBase_mem (s : State) (v : Word64) : (State.writeEgoBase s v).mem = s.mem := by
  unfold State.writeEgoBase
  first | rfl | (repeat' (
    first | (simp (maxDischargeDepth := 40); done) | split | with_reducible refine foldl_mem _ _ _ ?_ | intro _ _
          | simp (maxDischargeDepth := 40) | dsimp only))

@[simp] theorem State.writeContext_mem (s : State) (c : Fin 96) (w : Writer) (n : Nat) (v : Word64) :
    (State.writeContext s c w n v).mem = s.mem := by
  unfold State.writeContext
  first | rfl | (repeat' (
    first | (simp (maxDischargeDepth := 40); done) | split | with_reducible refine foldl_mem _ _ _ ?_ | intro _ _
          | simp (maxDischargeDepth := 40) | dsimp only))

@[simp] theorem State.writeCsr_wf (s : State) (c : Fin 96) (w : Writer) (num : BitVec 12) (v : Word64)
    (hmem : s.mem.wf = true) :
    (State.writeCsr s c w num v).mem.wf = true := by
  unfold State.writeCsr
  first | rfl | (repeat' (
    first | (simp (maxDischargeDepth := 40) [*]; done) | split | with_reducible refine foldl_wf _ _ _ ?_ ?_
          | with_reducible apply execFwResume_wf | with_reducible apply State.writeCtxsw_wf | intro _ _ _
          | simp (maxDischargeDepth := 40) [*] | dsimp only))

@[simp] theorem execCsrWrite_wf (core : Fin 96) (w : Writer) (num : BitVec 12) (v : Word64) (s : State)
    (hmem : s.mem.wf = true) :
    MemWf (execCsrWrite core w num v s) := by
  unfold execCsrWrite
  first | rfl | (repeat' (
    first | (simp (maxDischargeDepth := 40) [*]; done) | split | with_reducible refine foldl_wf _ _ _ ?_ ?_
          | with_reducible apply State.writeCsr_wf | intro _ _ _ | simp (maxDischargeDepth := 40) [*] | dsimp only))

/-! ## Machine/Scalar.lean -/

@[simp] theorem State.kalu_mem (s : State) (f : FC) (lat : Nat) (op : Word64 → Word64 → Word64) :
    MemIs s.mem (State.kalu s f lat op) := by
  unfold State.kalu
  first | rfl | (repeat' (
    first | (simp (maxDischargeDepth := 40); done) | split | with_reducible refine foldl_mem _ _ _ ?_ | intro _ _
          | simp (maxDischargeDepth := 40) | dsimp only))

@[simp] theorem execKadd_mem (f : FC) (s : State) : MemIs s.mem (execKadd f s) := by
  unfold execKadd
  first | rfl | (repeat' (
    first | (simp (maxDischargeDepth := 40); done) | split | with_reducible refine foldl_mem _ _ _ ?_ | intro _ _
          | simp (maxDischargeDepth := 40) | dsimp only))

@[simp] theorem execKsub_mem (f : FC) (s : State) : MemIs s.mem (execKsub f s) := by
  unfold execKsub
  first | rfl | (repeat' (
    first | (simp (maxDischargeDepth := 40); done) | split | with_reducible refine foldl_mem _ _ _ ?_ | intro _ _
          | simp (maxDischargeDepth := 40) | dsimp only))

@[simp] theorem execKand_mem (f : FC) (s : State) : MemIs s.mem (execKand f s) := by
  unfold execKand
  first | rfl | (repeat' (
    first | (simp (maxDischargeDepth := 40); done) | split | with_reducible refine foldl_mem _ _ _ ?_ | intro _ _
          | simp (maxDischargeDepth := 40) | dsimp only))

@[simp] theorem execKor_mem (f : FC) (s : State) : MemIs s.mem (execKor f s) := by
  unfold execKor
  first | rfl | (repeat' (
    first | (simp (maxDischargeDepth := 40); done) | split | with_reducible refine foldl_mem _ _ _ ?_ | intro _ _
          | simp (maxDischargeDepth := 40) | dsimp only))

@[simp] theorem execKxor_mem (f : FC) (s : State) : MemIs s.mem (execKxor f s) := by
  unfold execKxor
  first | rfl | (repeat' (
    first | (simp (maxDischargeDepth := 40); done) | split | with_reducible refine foldl_mem _ _ _ ?_ | intro _ _
          | simp (maxDischargeDepth := 40) | dsimp only))

@[simp] theorem execKmul_mem (f : FC) (s : State) : MemIs s.mem (execKmul f s) := by
  unfold execKmul
  first | rfl | (repeat' (
    first | (simp (maxDischargeDepth := 40); done) | split | with_reducible refine foldl_mem _ _ _ ?_ | intro _ _
          | simp (maxDischargeDepth := 40) | dsimp only))

@[simp] theorem execKshl_mem (f : FC) (s : State) : MemIs s.mem (execKshl f s) := by
  unfold execKshl
  first | rfl | (repeat' (
    first | (simp (maxDischargeDepth := 40); done) | split | with_reducible refine foldl_mem _ _ _ ?_ | intro _ _
          | simp (maxDischargeDepth := 40) | dsimp only))

@[simp] theorem execKshr_mem (f : FC) (s : State) : MemIs s.mem (execKshr f s) := State.kalu_mem s f 1 _

@[simp] theorem execKcmp_mem (f : FC) (s : State) : MemIs s.mem (execKcmp f s) := by
  unfold execKcmp
  first | rfl | (repeat' (
    first | (simp (maxDischargeDepth := 40); done) | split | with_reducible refine foldl_mem _ _ _ ?_ | intro _ _
          | simp (maxDischargeDepth := 40) | dsimp only))

@[simp] theorem execKsel_mem (f : FC) (s : State) : MemIs s.mem (execKsel f s) := by
  unfold execKsel
  first | rfl | (repeat' (
    first | (simp (maxDischargeDepth := 40); done) | split | with_reducible refine foldl_mem _ _ _ ?_ | intro _ _
          | simp (maxDischargeDepth := 40) | dsimp only))

@[simp] theorem execKmovi_mem (f : FK) (s : State) : MemIs s.mem (execKmovi f s) := by
  unfold execKmovi
  first | rfl | (repeat' (
    first | (simp (maxDischargeDepth := 40); done) | split | with_reducible refine foldl_mem _ _ _ ?_ | intro _ _
          | simp (maxDischargeDepth := 40) | dsimp only))

@[simp] theorem State.kpend_mem (s : State) (x : Site) : (State.kpend s x).mem = s.mem := by
  unfold State.kpend
  first | rfl | (repeat' (
    first | (simp (maxDischargeDepth := 40); done) | split | with_reducible refine foldl_mem _ _ _ ?_ | intro _ _
          | simp (maxDischargeDepth := 40) | dsimp only))

@[simp] theorem State.kmem_mem (s : State) (x : Site) (va : Word64) (kind : AKind) (data : List Byte) (wr : Bool) :
    (State.kmem s x va kind data wr).mem = s.mem := by
  unfold State.kmem
  first | rfl | (repeat' (
    first | (simp (maxDischargeDepth := 40); done) | split | with_reducible refine foldl_mem _ _ _ ?_ | intro _ _
          | simp (maxDischargeDepth := 40) | dsimp only))

@[simp] theorem execKld_wf (f : FC) (s : State) (hmem : s.mem.wf = true) : MemWf (execKld f s) := by
  unfold execKld
  first | rfl | (repeat' (
    first | (simp (maxDischargeDepth := 40) [*]; done) | split | with_reducible refine foldl_wf _ _ _ ?_ ?_
          | with_reducible apply State.kfire_wf | intro _ _ _ | simp (maxDischargeDepth := 40) [*] | dsimp only))

@[simp] theorem execKst_wf (f : FC) (s : State) (hmem : s.mem.wf = true) : MemWf (execKst f s) := by
  unfold execKst
  first | rfl | (repeat' (
    first | (simp (maxDischargeDepth := 40) [*]; done) | split | with_reducible refine foldl_wf _ _ _ ?_ ?_
          | with_reducible apply State.kfire_wf | intro _ _ _ | simp (maxDischargeDepth := 40) [*] | dsimp only))

@[simp] theorem execKrd_mem (f : FC) (s : State) : MemIs s.mem (execKrd f s) := by
  unfold execKrd
  refine (memIs_next _ _).2 (State.kfire_mem _ _ _ _ _ fun t r => ?_)
  dsimp only
  repeat' split
  all_goals first
    | (simp; done)
    | (rename_i h; simpa using State.kread_mem _ _ _ _ _ h)

@[simp] theorem execKwr_wf (f : FC) (s : State) (hmem : s.mem.wf = true) : MemWf (execKwr f s) := by
  unfold execKwr
  first | rfl | (repeat' (
    first | (simp (maxDischargeDepth := 40) [*]; done) | split | with_reducible refine foldl_wf _ _ _ ?_ ?_
          | with_reducible apply State.kfire_wf | intro _ _ _ | simp (maxDischargeDepth := 40) [*] | dsimp only))

@[simp] theorem execKstm_mem (f : FC) (s : State) : MemIs s.mem (execKstm f s) := by
  unfold execKstm
  first | rfl | (repeat' (
    first | (simp (maxDischargeDepth := 40); done) | split | with_reducible refine foldl_mem _ _ _ ?_ | intro _ _
          | simp (maxDischargeDepth := 40) | dsimp only))

@[simp] theorem execKldm_mem (f : FC) (s : State) : MemIs s.mem (execKldm f s) := by
  unfold execKldm
  first | rfl | (repeat' (
    first | (simp (maxDischargeDepth := 40); done) | split | with_reducible refine foldl_mem _ _ _ ?_ | intro _ _
          | simp (maxDischargeDepth := 40) | dsimp only))

@[simp] theorem execQsend_mem (f : FC) (s : State) : MemIs s.mem (execQsend f s) := by
  unfold execQsend
  first | rfl | (repeat' (
    first | (simp (maxDischargeDepth := 40); done) | split | with_reducible refine foldl_mem _ _ _ ?_ | intro _ _
          | simp (maxDischargeDepth := 40) | dsimp only))

@[simp] theorem execQrecv_mem (f : FC) (s : State) : MemIs s.mem (execQrecv f s) := by
  unfold execQrecv
  first | rfl | (repeat' (
    first | (simp (maxDischargeDepth := 40); done) | split | with_reducible refine foldl_mem _ _ _ ?_ | intro _ _
          | simp (maxDischargeDepth := 40) | dsimp only))

@[simp] theorem execRep_mem (f : FC) (s : State) : MemIs s.mem (execRep f s) := by
  unfold execRep
  first | rfl | (repeat' (
    first | (simp (maxDischargeDepth := 40); done) | split | with_reducible refine foldl_mem _ _ _ ?_ | intro _ _
          | simp (maxDischargeDepth := 40) | dsimp only))

/-! ## Machine/System.lean -/

@[simp] theorem State.kbranch_mem (s : State) (x : Site) (target : Word64) (f : KBlock → KBlock) :
    (State.kbranch s x target f).mem = s.mem := by
  unfold State.kbranch
  first | rfl | (repeat' (
    first | (simp (maxDischargeDepth := 40); done) | split | with_reducible refine foldl_mem _ _ _ ?_ | intro _ _
          | simp (maxDischargeDepth := 40) | dsimp only))

@[simp] theorem execBra_wf (f : FC) (s : State) (hmem : s.mem.wf = true) : MemWf (execBra f s) := by
  unfold execBra
  first | rfl | (repeat' (
    first | (simp (maxDischargeDepth := 40) [*]; done) | split | with_reducible refine foldl_wf _ _ _ ?_ ?_
          | with_reducible apply State.kfire_wf | intro _ _ _ | simp (maxDischargeDepth := 40) [*] | dsimp only))

@[simp] theorem execBcall_wf (f : FC) (s : State) (hmem : s.mem.wf = true) : MemWf (execBcall f s) := by
  unfold execBcall
  first | rfl | (repeat' (
    first | (simp (maxDischargeDepth := 40) [*]; done) | split | with_reducible refine foldl_wf _ _ _ ?_ ?_
          | with_reducible apply State.kfire_wf | intro _ _ _ | simp (maxDischargeDepth := 40) [*] | dsimp only))

@[simp] theorem execBret_wf (f : FC) (s : State) (hmem : s.mem.wf = true) : MemWf (execBret f s) := by
  unfold execBret
  first | rfl | (repeat' (
    first | (simp (maxDischargeDepth := 40) [*]; done) | split | with_reducible refine foldl_wf _ _ _ ?_ ?_
          | with_reducible apply State.kfire_wf | intro _ _ _ | simp (maxDischargeDepth := 40) [*] | dsimp only))

@[simp] theorem execCsrrd_wf (f : FC) (s : State) (hmem : s.mem.wf = true) : MemWf (execCsrrd f s) := by
  unfold execCsrrd
  first | rfl | (repeat' (
    first | (simp (maxDischargeDepth := 40) [*]; done) | split | with_reducible refine foldl_wf _ _ _ ?_ ?_
          | with_reducible apply State.kfire_wf | intro _ _ _ | simp (maxDischargeDepth := 40) [*] | dsimp only))

@[simp] theorem execCsrwr_wf (f : FC) (s : State) (hmem : s.mem.wf = true) : MemWf (execCsrwr f s) := by
  unfold execCsrwr
  refine State.kfire_wf _ _ _ _ _ (fun t r h => ?_) hmem
  dsimp only
  split
  · rw [State.ktrap_mem]; exact h
  · split
    · rw [State.ktrap_mem]; exact h
    · split
      · rw [State.kwaits_mem]; exact State.writeCsr_wf _ _ _ _ _ h
      · rw [State.kplace_mem]; exact State.writeCsr_wf _ _ _ _ _ h

@[simp] theorem execTrap_wf (f : FC) (s : State) (hmem : s.mem.wf = true) : MemWf (execTrap f s) := by
  unfold execTrap
  first | rfl | (repeat' (
    first | (simp (maxDischargeDepth := 40) [*]; done) | split | with_reducible refine foldl_wf _ _ _ ?_ ?_
          | with_reducible apply State.kfire_wf | intro _ _ _ | simp (maxDischargeDepth := 40) [*] | dsimp only))

@[simp] theorem State.eret_mem (s : State) (c : Fin 96) (k : Fin 4) (b : Option Word64) :
    (State.eret s c k b).mem = s.mem := by
  unfold State.eret
  first | rfl | (repeat' (
    first | (simp (maxDischargeDepth := 40); done) | split | with_reducible refine foldl_mem _ _ _ ?_ | intro _ _
          | simp (maxDischargeDepth := 40) | dsimp only))

@[simp] theorem execEret_wf (f : FC) (s : State) (hmem : s.mem.wf = true) : MemWf (execEret f s) := by
  unfold execEret
  first | rfl | (repeat' (
    first | (simp (maxDischargeDepth := 40) [*]; done) | split | with_reducible refine foldl_wf _ _ _ ?_ ?_
          | with_reducible apply State.kfire_wf | intro _ _ _ | simp (maxDischargeDepth := 40) [*] | dsimp only))

@[simp] theorem execWfe_wf (f : FC) (s : State) (hmem : s.mem.wf = true) : MemWf (execWfe f s) := by
  unfold execWfe
  first | rfl | (repeat' (
    first | (simp (maxDischargeDepth := 40) [*]; done) | split | with_reducible refine foldl_wf _ _ _ ?_ ?_
          | with_reducible apply State.kfire_wf | intro _ _ _ | simp (maxDischargeDepth := 40) [*] | dsimp only))

@[simp] theorem execEvpop_wf (f : FC) (s : State) (hmem : s.mem.wf = true) : MemWf (execEvpop f s) := by
  unfold execEvpop
  first | rfl | (repeat' (
    first | (simp (maxDischargeDepth := 40) [*]; done) | split | with_reducible refine foldl_wf _ _ _ ?_ ?_
          | with_reducible apply State.kfire_wf | intro _ _ _ | simp (maxDischargeDepth := 40) [*] | dsimp only))

@[simp] theorem execPrcw_wf (f : FC) (s : State) (hmem : s.mem.wf = true) : MemWf (execPrcw f s) := by
  unfold execPrcw
  first | rfl | (repeat' (
    first | (simp (maxDischargeDepth := 40) [*]; done) | split | with_reducible refine foldl_wf _ _ _ ?_ ?_
          | with_reducible apply State.kfire_wf | intro _ _ _ | simp (maxDischargeDepth := 40) [*] | dsimp only))

@[simp] theorem State.kexitLater_mem (s : State) (x : Site) (d : Word64) (v : BitVec 2) :
    (State.kexitLater s x d v).mem = s.mem := by
  unfold State.kexitLater
  first | rfl | (repeat' (
    first | (simp (maxDischargeDepth := 40); done) | split | with_reducible refine foldl_mem _ _ _ ?_ | intro _ _
          | simp (maxDischargeDepth := 40) | dsimp only))

@[simp] theorem execPrcwS_wf (f : FC) (s : State) (hmem : s.mem.wf = true) : MemWf (execPrcwS f s) := by
  unfold execPrcwS
  first | rfl | (repeat' (
    first | (simp (maxDischargeDepth := 40) [*]; done) | split | with_reducible refine foldl_wf _ _ _ ?_ ?_
          | with_reducible apply State.kfire_wf | intro _ _ _ | simp (maxDischargeDepth := 40) [*] | dsimp only))

@[simp] theorem execHalt_wf (f : FC) (s : State) (hmem : s.mem.wf = true) : MemWf (execHalt f s) := by
  unfold execHalt
  first | rfl | (repeat' (
    first | (simp (maxDischargeDepth := 40) [*]; done) | split | with_reducible refine foldl_wf _ _ _ ?_ ?_
          | with_reducible apply State.kfire_wf | intro _ _ _ | simp (maxDischargeDepth := 40) [*] | dsimp only))

@[simp] theorem execEgarm_wf (f : FC) (s : State) (hmem : s.mem.wf = true) : MemWf (execEgarm f s) := by
  unfold execEgarm
  first | rfl | (repeat' (
    first | (simp (maxDischargeDepth := 40) [*]; done) | split | with_reducible refine foldl_wf _ _ _ ?_ ?_
          | with_reducible apply State.kfire_wf | intro _ _ _ | simp (maxDischargeDepth := 40) [*] | dsimp only))

end Sys2Proof.Machine
end

