-- ==== Sys2Proof/Laws/DeviceMem.lean ====
section
/-! SUPPORT. What the kiln, the packets and the link do to memory: each leaves it as it is, or keeps its canonical form. -/

namespace Sys2Proof.Machine

set_option linter.unusedSimpArgs false

/-! ## Machine/Kiln.lean -/

@[simp] theorem State.fetchImage_mem (s : State) (g : Cfg) : (State.fetchImage s g).mem = s.mem := by
  unfold State.fetchImage
  first | rfl | (repeat' (
    first | (simp (maxDischargeDepth := 40); done) | split | with_reducible refine foldl_mem _ _ _ ?_ | intro _ _
          | simp (maxDischargeDepth := 40) | dsimp only))

@[simp] theorem State.enterLaunch_mem (s : State) (h : Word64) : (State.enterLaunch s h).mem = s.mem := by
  unfold State.enterLaunch
  first | rfl | (repeat' (
    first | (simp (maxDischargeDepth := 40); done) | split | with_reducible refine foldl_mem _ _ _ ?_ | intro _ _
          | simp (maxDischargeDepth := 40) | dsimp only))

theorem State.admit_mem (s : State) (image : Word64) (asid : BitVec 12) (core : Fin 96) (ctx : Fin 4) (q
    : State × Cfg)
    (h : s.accept image asid core ctx = some q) : q.1.mem = s.mem := by
  unfold State.accept at h
  dsimp only at h
  split at h
  · simp at h
  · split at h
    · rw [← Option.some.inj h]
    · obtain ⟨t, ht, rfl⟩ := Option.map_eq_some_iff.1 h
      split at ht
      · rw [← Option.some.inj ht]
      · obtain ⟨b, -, rfl⟩ := Option.map_eq_some_iff.1 ht
        rfl

@[simp] theorem State.launch_mem (s : State) (image : Word64) (asid : BitVec 12) (core : Fin 96) (ctx : Fin 4) :
    (State.launch s image asid core ctx).1.mem = s.mem := by
  unfold State.launch
  cases h : s.accept image asid core ctx with
  | none => rfl
  | some q =>
    obtain ⟨t, g⟩ := q
    dsimp only
    split
    · rfl
    · rw [State.enterLaunch_mem, State.onCfg_mem]
      exact State.admit_mem _ _ _ _ _ _ h

@[simp] theorem execLaunch_wf (f : FC) (s : State) (hmem : s.mem.wf = true) : MemWf (execLaunch f s) := by
  unfold execLaunch
  first | rfl | (repeat' (
    first | (simp (maxDischargeDepth := 40) [*]; done) | split | with_reducible refine foldl_wf _ _ _ ?_ ?_
          | with_reducible apply State.kfire_wf | intro _ _ _ | simp (maxDischargeDepth := 40) [*] | dsimp only))

@[simp] theorem State.launchFails_mem (s : State) (g : Cfg) (fails : List ImageFail) :
    (State.launchFails s g fails).mem = s.mem := by
  unfold State.launchFails
  first | rfl | (repeat' (
    first | (simp (maxDischargeDepth := 40); done) | split | with_reducible refine foldl_mem _ _ _ ?_ | intro _ _
          | simp (maxDischargeDepth := 40) | dsimp only))

@[simp] theorem State.reinsFail_mem (s : State) (g : Cfg) (f : Nat × Nat × Nat) :
    (State.reinsFail s g f).mem = s.mem := by
  unfold State.reinsFail
  first | rfl | (repeat' (
    first | (simp (maxDischargeDepth := 40); done) | split | with_reducible refine foldl_mem _ _ _ ?_ | intro _ _
          | simp (maxDischargeDepth := 40) | dsimp only))

@[simp] theorem State.setPort_mem (s : State) (q : Ingress) : (State.setPort s q).mem = s.mem := by
  unfold State.setPort
  first | rfl | (repeat' (
    first | (simp (maxDischargeDepth := 40); done) | split | with_reducible refine foldl_mem _ _ _ ?_ | intro _ _
          | simp (maxDischargeDepth := 40) | dsimp only))

@[simp] theorem State.launchHeld_mem (s : State) (h : Word64) : (State.launchHeld s h).mem = s.mem := by
  unfold State.launchHeld
  first | rfl | (repeat' (
    first | (simp (maxDischargeDepth := 40); done) | split | with_reducible refine foldl_mem _ _ _ ?_ | intro _ _
          | simp (maxDischargeDepth := 40) | dsimp only))

@[simp] theorem State.bindPort_mem (s : State) (p : BitVec 8) (n : Nat) : (s.bindPort p n).mem = s.mem := by
  induction n generalizing s with
  | zero => rfl
  | succ n ih =>
    unfold State.bindPort
    dsimp only
    split
    · split
      · rw [ih, State.setPort_mem]
      · refine ite_mem ?_ ?_
        · rw [ih, State.setPort_mem]
        · rw [State.launchHeld_mem, State.setPort_mem]
    · rfl

@[simp] theorem State.settlePorts_mem (s : State) (g : Cfg) : (State.settlePorts s g).mem = s.mem := by
  unfold State.settlePorts
  first | rfl | (repeat' (
    first | (simp (maxDischargeDepth := 40); done) | split | with_reducible refine foldl_mem _ _ _ ?_ | intro _ _
          | simp (maxDischargeDepth := 40) | dsimp only))

@[simp] theorem execImageReadDone_wf (handle : Word64) (ok : Bool) (s : State) (hmem : s.mem.wf = true) :
    MemWf (execImageReadDone handle ok s) := by
  unfold execImageReadDone
  first | rfl | (repeat' (
    first | (simp (maxDischargeDepth := 40) [*]; done) | split | with_reducible refine foldl_wf _ _ _ ?_ ?_
          | with_reducible apply State.take_wf | intro _ _ _ | simp (maxDischargeDepth := 40) [*] | dsimp only))

@[simp] theorem execLaunchAging_mem (handle : Word64) (s : State) : MemIs s.mem (execLaunchAging handle s) := by
  unfold execLaunchAging
  first | rfl | (repeat' (
    first | (simp (maxDischargeDepth := 40); done) | split | with_reducible refine foldl_mem _ _ _ ?_ | intro _ _
          | simp (maxDischargeDepth := 40) | dsimp only))

@[simp] theorem State.unknownGranule_wf (s : State) (base : Nat) (hmem : s.mem.wf = true) :
    (State.unknownGranule s base).mem.wf = true := by
  have keep (s : State) (f : Memory → Memory) (hf : ∀ m, m.wf = true → (f m).wf = true) (h
      : s.mem.wf = true) := State.onMem_wf s f hf h
  unfold State.unknownGranule
  generalize List.range 65536 = units
  generalize List.range 512 = lines
  dsimp only
  rw [State.tickBy_mem]
  refine keep _ _ (fun m h => Memory.foldl_wf _ (fun m i h => Memory.setFull_wf h _ _) _ h) ?_
  refine keep _ _ (fun m h => Memory.putAll_wf h _ _) ?_
  refine keep _ _ (fun m h => ?_) hmem
  obtain ⟨h1, h2, h3, h4, h5, h6⟩ := (Memory.wf_iff _).1 h
  exact (Memory.wf_iff _).2 ⟨h1, h2, h3, filter_rises _ h4, filter_rises _ h5, filter_rises _ h6⟩

@[simp] theorem State.setPool_wf (s : State) (c : Fin 96) (p : Nat × Nat × Nat) (hmem : s.mem.wf = true) :
    (State.setPool s c p).mem.wf = true := by
  unfold State.setPool
  first | rfl | (repeat' (
    first | (simp (maxDischargeDepth := 40) [*]; done) | split | with_reducible refine foldl_wf _ _ _ ?_ ?_
          | with_reducible apply State.unknownGranule_wf | intro _ _ _ | simp (maxDischargeDepth := 40) [*]
          | dsimp only))

@[simp] theorem State.poolSpots_wf (s : State) (g : Cfg) (spots : List Spot) (hmem : s.mem.wf = true) :
    (State.poolSpots s g spots).mem.wf = true := by
  unfold State.poolSpots
  first | rfl | (repeat' (
    first | (simp (maxDischargeDepth := 40) [*]; done) | split | with_reducible refine foldl_wf _ _ _ ?_ ?_
          | with_reducible apply State.setPool_wf | intro _ _ _ | simp (maxDischargeDepth := 40) [*] | dsimp only))

@[simp] theorem State.bindQueues_mem (s : State) (g : Cfg) : (State.bindQueues s g).mem = s.mem := by
  unfold State.bindQueues
  first | rfl | (repeat' (
    first | (simp (maxDischargeDepth := 40); done) | split | with_reducible refine foldl_mem _ _ _ ?_ | intro _ _
          | simp (maxDischargeDepth := 40) | dsimp only))

@[simp] theorem State.claim_wf (s : State) (h : Word64) (spots : List Spot) (granules : List (Fin 96 × Nat))
    (hmem : s.mem.wf = true) : (State.claim s h spots granules).mem.wf = true := by
  unfold State.claim
  split
  · exact hmem
  · dsimp only
    rw [State.onCfg_mem, State.bindQueues_mem]
    exact foldl_wf _ _ _ hmem fun s c h => State.setPool_wf _ _ _ h

@[simp] theorem State.reclaim_wf (s : State) (g : Cfg) (spots : List (Nat × Spot)) (hmem : s.mem.wf = true) :
    (State.reclaim s g spots).mem.wf = true := by
  unfold State.reclaim
  first | rfl | (repeat' (
    first | (simp (maxDischargeDepth := 40) [*]; done) | split | with_reducible refine foldl_wf _ _ _ ?_ ?_
          | with_reducible apply State.poolSpots_wf | intro _ _ _ | simp (maxDischargeDepth := 40) [*] | dsimp only))

theorem State.serveOne_wf (s : State) (g : Cfg) (hmem : s.mem.wf = true) (t : State) (ht : s.serveOne g = some t) :
    t.mem.wf = true := by
  have hp (vs : List (Fin 96 × Fin 8)) : (vs.foldl (fun s v => s.preempt v.1 v.2) s).mem.wf = true := by
    rw [foldl_mem _ _ _ fun s v => State.preempt_mem _ _ _]; exact hmem
  unfold State.serveOne at ht
  dsimp only at ht
  split at ht
  · simp at ht
  · split at ht
    · split at ht
      · rw [← Option.some.inj ht, State.launchFails_mem]; exact hmem
      · obtain ⟨q, -, rfl⟩ := Option.map_eq_some_iff.1 ht
        split
        · exact State.claim_wf _ _ _ _ (hp _)
        · rw [State.launchFails_mem]; exact hmem
    · split at ht
      · rw [← Option.some.inj ht]; exact State.reclaim_wf _ _ _ hmem
      · split at ht
        · simp at ht
        · obtain ⟨n, -, hn⟩ := List.exists_of_findSome?_eq_some ht
          obtain ⟨q, -, rfl⟩ := Option.map_eq_some_iff.1 hn
          exact State.reclaim_wf _ _ _ (hp _)

@[simp] theorem State.serve_wf (s : State) (hmem : s.mem.wf = true) : (State.serve s).mem.wf = true := by
  unfold State.serve
  dsimp only
  split
  · exact hmem
  · split
    · rename_i t i h
      obtain ⟨g, -, hg⟩ := List.exists_of_findSome?_eq_some h
      obtain ⟨q, hq, he⟩ := Option.map_eq_some_iff.1 hg
      have := State.serveOne_wf _ _ hmem _ hq
      rw [Prod.ext_iff] at he
      exact (congrArg (fun s : State => s.mem.wf) he.1).symm.trans this
    · exact hmem

@[simp] theorem State.evict_mem (s : State) (c : Fin 96) (es : List (Fin 32)) : (State.evict s c es).mem = s.mem := by
  unfold State.evict
  first | rfl | (repeat' (
    first | (simp (maxDischargeDepth := 40); done) | split | with_reducible refine foldl_mem _ _ _ ?_ | intro _ _
          | simp (maxDischargeDepth := 40) | dsimp only))

@[simp] theorem State.moveClaim_wf (s : State) (g : Cfg) (entry : Nat) (hmem : s.mem.wf = true) :
    (State.moveClaim s g entry).mem.wf = true := by
  unfold State.moveClaim
  first | rfl | (repeat' (
    first | (simp (maxDischargeDepth := 40) [*]; done) | split | with_reducible refine foldl_wf _ _ _ ?_ ?_
          | with_reducible apply State.poolSpots_wf | intro _ _ _ | simp (maxDischargeDepth := 40) [*] | dsimp only))

@[simp] theorem State.startPlace_wf (s : State) (g : Cfg) (entry : Nat) (p : Place) (hmem : s.mem.wf = true) :
    (State.startPlace s g entry p).mem.wf = true := by
  unfold State.startPlace
  first | rfl | (repeat' (
    first | (simp (maxDischargeDepth := 40) [*]; done) | split | with_reducible refine foldl_wf _ _ _ ?_ ?_
          | with_reducible apply State.moveClaim_wf | intro _ _ _ | simp (maxDischargeDepth := 40) [*] | dsimp only))

@[simp] theorem execKilnPlace_wf (s : State) (hmem : s.mem.wf = true) : MemWf (execKilnPlace s) := by
  unfold execKilnPlace
  first | rfl | (repeat' (
    first | (simp (maxDischargeDepth := 40) [*]; done) | split | with_reducible refine foldl_wf _ _ _ ?_ ?_
          | with_reducible apply State.serve_wf | with_reducible apply State.startPlace_wf | intro _ _ _
          | simp (maxDischargeDepth := 40) [*] | dsimp only))

/-! ## Machine/Packets.lean -/

@[simp] theorem State.reply_mem (s : State) (p : Packet) (status step : Nat) (h : Word64) :
    (State.reply s p status step h).mem = s.mem := by
  unfold State.reply
  first | rfl | (repeat' (
    first | (simp (maxDischargeDepth := 40); done) | split | with_reducible refine foldl_mem _ _ _ ?_ | intro _ _
          | simp (maxDischargeDepth := 40) | dsimp only))

@[simp] theorem State.report_mem (s : State) (p : Packet) (bytes : List Byte) :
    (State.report s p bytes).mem = s.mem := by
  unfold State.report
  first | rfl | (repeat' (
    first | (simp (maxDischargeDepth := 40); done) | split | with_reducible refine foldl_mem _ _ _ ?_ | intro _ _
          | simp (maxDischargeDepth := 40) | dsimp only))

theorem State.perform_wf (s : State) (p : Packet) (op : Nat) (f : State → State) (hf : (f s).mem.wf = true)
    (hmem : s.mem.wf = true) : (s.perform p op f).mem.wf = true := by
  have hr (n k : Nat) (h : Word64) : (s.reply p n k h).mem.wf = true := by rw [State.reply_mem]; exact hmem
  unfold State.perform
  split
  · exact hmem
  · exact hr _ _ _
  · exact hr _ _ _
  · exact ite_wf (hr _ _ _) hf

@[simp] theorem State.defaultOwner_mem (s : State) (p : Packet) : (State.defaultOwner s p).1.mem = s.mem := by
  unfold State.defaultOwner
  first | rfl | (repeat' (
    first | (simp (maxDischargeDepth := 40); done) | split | with_reducible refine foldl_mem _ _ _ ?_ | intro _ _
          | simp (maxDischargeDepth := 40) | dsimp only))

@[simp] theorem State.owner_mem (s : State) (p : Packet) : (State.owner s p).1.mem = s.mem := by
  unfold State.owner
  first | rfl | (repeat' (
    first | (simp (maxDischargeDepth := 40); done) | split | with_reducible refine foldl_mem _ _ _ ?_ | intro _ _
          | simp (maxDischargeDepth := 40) | dsimp only))

@[simp] theorem execLaunchPacket_wf (p : Packet) (s : State) (hmem : s.mem.wf = true) :
    MemWf (execLaunchPacket p s) := by
  unfold execLaunchPacket
  first | rfl | (repeat' (
    first | (simp (maxDischargeDepth := 40) [*]; done) | split | with_reducible refine foldl_wf _ _ _ ?_ ?_
          | with_reducible apply State.perform_wf | intro _ _ _ | simp (maxDischargeDepth := 40) [*] | dsimp only))

@[simp] theorem execRegister_wf (p : Packet) (s : State) (hmem : s.mem.wf = true) : MemWf (execRegister p s) := by
  unfold execRegister
  refine (memWf_next _).2 (State.perform_wf _ _ _ _ ?_ hmem)
  dsimp only
  split
  · rename_i h
    have := State.admit_mem _ _ _ _ _ _ h
    simp_all
  · simp [hmem]

@[simp] theorem State.forget_mem (s : State) (h : Word64) : (State.forget s h).mem = s.mem := by
  unfold State.forget
  first | rfl | (repeat' (
    first | (simp (maxDischargeDepth := 40); done) | split | with_reducible refine foldl_mem _ _ _ ?_ | intro _ _
          | simp (maxDischargeDepth := 40) | dsimp only))

@[simp] theorem execDropPacket_wf (p : Packet) (s : State) (hmem : s.mem.wf = true) : MemWf (execDropPacket p s) := by
  unfold execDropPacket
  first | rfl | (repeat' (
    first | (simp (maxDischargeDepth := 40) [*]; done) | split | with_reducible refine foldl_wf _ _ _ ?_ ?_
          | with_reducible apply State.perform_wf | intro _ _ _ | simp (maxDischargeDepth := 40) [*] | dsimp only))

@[simp] theorem execQuery_wf (p : Packet) (s : State) (hmem : s.mem.wf = true) : MemWf (execQuery p s) := by
  unfold execQuery
  first | rfl | (repeat' (
    first | (simp (maxDischargeDepth := 40) [*]; done) | split | with_reducible refine foldl_wf _ _ _ ?_ ?_
          | with_reducible apply State.perform_wf | intro _ _ _ | simp (maxDischargeDepth := 40) [*] | dsimp only))

@[simp] theorem execAttest_wf (p : Packet) (s : State) (hmem : s.mem.wf = true) : MemWf (execAttest p s) := by
  unfold execAttest
  first | rfl | (repeat' (
    first | (simp (maxDischargeDepth := 40) [*]; done) | split | with_reducible refine foldl_wf _ _ _ ?_ ?_
          | with_reducible apply State.perform_wf | intro _ _ _ | simp (maxDischargeDepth := 40) [*] | dsimp only))

@[simp] theorem State.bootEnds_mem (s : State) (p : Packet) : (State.bootEnds s p).mem = s.mem := by
  unfold State.bootEnds
  first | rfl | (repeat' (
    first | (simp (maxDischargeDepth := 40); done) | split | with_reducible refine foldl_mem _ _ _ ?_ | intro _ _
          | simp (maxDischargeDepth := 40) | dsimp only))

@[simp] theorem execBoot_mem (p : Packet) (s : State) : MemIs s.mem (execBoot p s) := by
  unfold execBoot
  first | rfl | (repeat' (
    first | (simp (maxDischargeDepth := 40); done) | split | with_reducible refine foldl_mem _ _ _ ?_ | intro _ _
          | simp (maxDischargeDepth := 40) | dsimp only))

/-! ## Machine/Link.lean -/

@[simp] theorem State.ingressTakes_wf (s : State) (p : BitVec 8) (bs : List Byte) (hmem : s.mem.wf = true) :
    (State.ingressTakes s p bs).mem.wf = true := by
  unfold State.ingressTakes
  dsimp only
  split <;> simp [hmem]

@[simp] theorem execIngressWrite_wf (port : BitVec 8) (offset : Nat) (bytes : List Byte) (s : State)
    (hmem : s.mem.wf = true) :
    MemWf (execIngressWrite port offset bytes s) := by
  unfold execIngressWrite
  first | rfl | (repeat' (
    first | (simp (maxDischargeDepth := 40) [*]; done) | split | with_reducible refine foldl_wf _ _ _ ?_ ?_
          | with_reducible apply State.ingressTakes_wf | intro _ _ _ | simp (maxDischargeDepth := 40) [*]
          | dsimp only))

@[simp] theorem State.ingressPull_wf (s : State) (p : BitVec 8) (n : Nat) (hmem : s.mem.wf = true) :
    (s.ingressPull p n).mem.wf = true := by
  induction n generalizing s with
  | zero => exact hmem
  | succ n ih =>
    unfold State.ingressPull
    dsimp only
    split
    · exact hmem
    · refine ite_wf hmem (ih _ (State.ingressTakes_wf _ _ _ ?_))
      exact (by rw [State.setPort_mem]; exact hmem)

@[simp] theorem execIngressDelivery_wf (port : BitVec 8) (s : State) (hmem : s.mem.wf = true) :
    MemWf (execIngressDelivery port s) := by
  unfold execIngressDelivery
  first | rfl | (repeat' (
    first | (simp (maxDischargeDepth := 40) [*]; done) | split | with_reducible refine foldl_wf _ _ _ ?_ ?_
          | with_reducible apply State.ingressPull_wf | intro _ _ _ | simp (maxDischargeDepth := 40) [*] | dsimp only))

@[simp] theorem execIngStatClear_wf (port : BitVec 8) (v : Word64) (s : State) (hmem : s.mem.wf = true) : MemWf
    (execIngStatClear port v s) := by
  exact ite_wf ((by rw [State.setPort_mem]; exact hmem)) hmem

@[simp] theorem State.outsideWrite_wf (s : State) (a : Nat) (bs : List Byte) (hmem : s.mem.wf = true) :
    (State.outsideWrite s a bs).mem.wf = true := by
  unfold State.outsideWrite
  first | rfl | (repeat' (
    first | (simp (maxDischargeDepth := 40) [*]; done) | split | with_reducible refine foldl_wf _ _ _ ?_ ?_
          | with_reducible apply State.take_wf | with_reducible apply State.writePhys_wf
          | with_reducible apply State.spoilRings_wf | intro _ _ _ | simp (maxDischargeDepth := 40) [*] | dsimp only))

@[simp] theorem State.outsideRead_mem (s : State) (a n : Nat) : (State.outsideRead s a n).mem = s.mem := by
  unfold State.outsideRead
  first | rfl | (repeat' (
    first | (simp (maxDischargeDepth := 40); done) | split | with_reducible refine foldl_mem _ _ _ ?_ | intro _ _
          | simp (maxDischargeDepth := 40) | dsimp only))

@[simp] theorem State.mail_mem (s : State) (p : Packet) : (State.mail s p).mem = s.mem := by
  unfold State.mail
  first | rfl | (repeat' (
    first | (simp (maxDischargeDepth := 40); done) | split | with_reducible refine foldl_mem _ _ _ ?_ | intro _ _
          | simp (maxDischargeDepth := 40) | dsimp only))

@[simp] theorem execHostMemoryWrite_wf (addr : Nat) (bytes : List Byte) (s : State) (hmem : s.mem.wf = true) :
    MemWf (execHostMemoryWrite addr bytes s) := by
  unfold execHostMemoryWrite
  first | rfl | (repeat' (
    first | (simp (maxDischargeDepth := 40) [*]; done) | split | with_reducible refine foldl_wf _ _ _ ?_ ?_
          | with_reducible apply State.outsideWrite_wf | intro _ _ _ | simp (maxDischargeDepth := 40) [*]
          | dsimp only))

@[simp] theorem execHostMemoryRead_mem (addr n : Nat) (s : State) : MemIs s.mem (execHostMemoryRead addr n s) := by
  unfold execHostMemoryRead
  first | rfl | (repeat' (
    first | (simp (maxDischargeDepth := 40); done) | split | with_reducible refine foldl_mem _ _ _ ?_ | intro _ _
          | simp (maxDischargeDepth := 40) | dsimp only))

@[simp] theorem execPeerAccess_wf (write : Bool) (addr n : Nat) (bytes : List Byte) (s : State)
    (hmem : s.mem.wf = true) :
    MemWf (execPeerAccess write addr n bytes s) := by
  unfold execPeerAccess
  first | rfl | (repeat' (
    first | (simp (maxDischargeDepth := 40) [*]; done) | split | with_reducible refine foldl_wf _ _ _ ?_ ?_
          | with_reducible apply State.outsideWrite_wf | intro _ _ _ | simp (maxDischargeDepth := 40) [*]
          | dsimp only))

@[simp] theorem execDeviceReset_wf (s : State) (hmem : s.mem.wf = true) : MemWf (execDeviceReset s) := by
  exact hmem

@[simp] theorem execThermalThrottle_mem (s : State) : MemIs s.mem (execThermalThrottle s) := by
  unfold execThermalThrottle
  first | rfl | (repeat' (
    first | (simp (maxDischargeDepth := 40); done) | split | with_reducible refine foldl_mem _ _ _ ?_ | intro _ _
          | simp (maxDischargeDepth := 40) | dsimp only))

@[simp] theorem execThrottleEnd_mem (s : State) : MemIs s.mem (execThrottleEnd s) := by
  unfold execThrottleEnd
  first | rfl | (repeat' (
    first | (simp (maxDischargeDepth := 40); done) | split | with_reducible refine foldl_mem _ _ _ ?_ | intro _ _
          | simp (maxDischargeDepth := 40) | dsimp only))

end Sys2Proof.Machine
end

