-- ==== Sys2Proof/Laws/Encoding.lean ====
section
/-! SUPPORT. The fields of an encoded word (R63, R65, R66, R68): each format's reader undoes its writer, and the opcode stands
in the top byte. -/

namespace Sys2Proof

open BitVec (extractLsb'_append_eq_of_le extractLsb'_append_eq_of_add_le extractLsb'_eq_self)

/-! ## Port controls and targets -/

theorem PortCtl.bits_low (p : PortCtl) : p.bits.extractLsb' 0 3 = p.pop := by
  simp [PortCtl.bits, extractLsb'_append_eq_of_add_le (v := 3) (w := 3), extractLsb'_eq_self]

theorem PortCtl.bits_high (p : PortCtl) : p.bits.extractLsb' 3 3 = p.need :=
  (extractLsb'_append_eq_of_le (v := 3) (w := 3) (by decide)).trans extractLsb'_eq_self

theorem Target.bits_port (t : Target) : t.bits.extractLsb' 0 2 = t.port :=
  (extractLsb'_append_eq_of_add_le (v := 8) (w := 2) (by decide)).trans extractLsb'_eq_self

theorem Target.bits_slot (t : Target) : t.bits.extractLsb' 2 7 = t.slot :=
  (extractLsb'_append_eq_of_le (v := 8) (w := 2) (by decide)).trans
    ((extractLsb'_append_eq_of_add_le (v := 1) (w := 7) (by decide)).trans extractLsb'_eq_self)

theorem Target.bits_v (t : Target) : t.bits.getLsbD 9 = t.v := by
  refine (BitVec.getLsbD_append (x := BitVec.ofBool t.v ++ t.slot) (y := t.port)).trans ?_
  refine (BitVec.getLsbD_append (x := BitVec.ofBool t.v) (y := t.slot)).trans ?_
  simp

/-! ## The shared high 36 bits -/

/-- The top byte of the high bits is OP. -/
theorem headBits_op (op mod : BitVec 8) (t0 t1 : Target) (s l : Nat) (h : 28 ≤ s) :
    (headBits op mod t0 t1).extractLsb' s l = op.extractLsb' (s - 28) l := by
  refine (extractLsb'_append_eq_of_le (v := 26) (w := 10) (by omega)).trans ?_
  refine (extractLsb'_append_eq_of_le (v := 16) (w := 10) (by omega)).trans ?_
  refine (extractLsb'_append_eq_of_le (v := 8) (w := 8) (by omega)).trans ?_
  rw [show s - 10 - 10 - 8 = s - 28 from by omega]

/-- The second byte is MOD. -/
theorem headBits_mod (op mod : BitVec 8) (t0 t1 : Target) : (headBits op mod t0 t1).extractLsb' 20 8 = mod :=
  (extractLsb'_append_eq_of_le (v := 26) (w := 10) (by decide)).trans
    ((extractLsb'_append_eq_of_le (v := 16) (w := 10) (by decide)).trans
      ((extractLsb'_append_eq_of_add_le (v := 8) (w := 8) (by decide)).trans extractLsb'_eq_self))

/-- Bits of T0. -/
theorem headBits_t0 (op mod : BitVec 8) (t0 t1 : Target) (s l : Nat) (h : 10 ≤ s) (h' : s + l ≤ 20) :
    (headBits op mod t0 t1).extractLsb' s l = t0.bits.extractLsb' (s - 10) l :=
  (extractLsb'_append_eq_of_le (v := 26) (w := 10) h).trans
    (extractLsb'_append_eq_of_add_le (v := 16) (w := 10) (by omega))

/-- Bits of T1. -/
theorem headBits_t1 (op mod : BitVec 8) (t0 t1 : Target) (s l : Nat) (h : s + l ≤ 10) :
    (headBits op mod t0 t1).extractLsb' s l = t1.bits.extractLsb' s l :=
  extractLsb'_append_eq_of_add_le (v := 26) (w := 10) h

/-- One bit of a word is a field of one bit. -/
theorem getLsbD_eq_extract {n : Nat} (x : BitVec n) (i : Nat) : x.getLsbD i = (x.extractLsb' i 1).getLsbD 0 := by simp

/-- A word carries the shared high bits at bits [63:28]. -/
def Carries (w : Word64) (op mod : BitVec 8) (t0 t1 : Target) : Prop :=
  ∀ s l, 28 ≤ s → w.extractLsb' s l = (headBits op mod t0 t1).extractLsb' (s - 28) l

section
variable {w : Word64} {op mod : BitVec 8} {t0 t1 : Target}

/-- The opcode. -/
theorem Carries.op_eq (h : Carries w op mod t0 t1) (s l : Nat) (hs : 56 ≤ s) :
    w.extractLsb' s l = op.extractLsb' (s - 56) l := by
  rw [h s l (by omega), headBits_op _ _ _ _ _ _ (by omega), show s - 28 - 28 = s - 56 from by omega]

/-- MOD. -/
theorem Carries.mod_eq (h : Carries w op mod t0 t1) : w.extractLsb' 48 8 = mod :=
  (h 48 8 (by decide)).trans (headBits_mod op mod t0 t1)

/-- Bit 0 of MOD, which tells some pairs of instructions apart. -/
theorem Carries.mod0 (h : Carries w op mod t0 t1) : w.getLsbD 48 = mod.getLsbD 0 := by
  have := congrArg (fun x : BitVec 8 => x.getLsbD 0) h.mod_eq
  simpa using this

/-- T0. -/
theorem Carries.t0_eq (h : Carries w op mod t0 t1) : targetOf w 38 = t0 := by
  have cut (s l : Nat) (hs : 38 ≤ s) (hl : s + l ≤ 48) : w.extractLsb' s l = t0.bits.extractLsb' (s - 38) l := by
    rw [h s l (by omega), headBits_t0 _ _ _ _ _ _ (by omega) (by omega), show s - 28 - 10 = s - 38 from by omega]
  simp only [targetOf, getLsbD_eq_extract w, Nat.reduceAdd]
  rw [cut 47 1 (by decide) (by decide), cut 40 7 (by decide) (by decide), cut 38 2 (by decide) (by decide),
    ← getLsbD_eq_extract, Target.bits_v, Target.bits_slot, Target.bits_port]

/-- T1. -/
theorem Carries.t1_eq (h : Carries w op mod t0 t1) : targetOf w 28 = t1 := by
  have cut (s l : Nat) (hs : 28 ≤ s) (hl : s + l ≤ 38) : w.extractLsb' s l = t1.bits.extractLsb' (s - 28) l := by
    rw [h s l (by omega), headBits_t1 _ _ _ _ _ _ (by omega)]
  simp only [targetOf, getLsbD_eq_extract w, Nat.reduceAdd]
  rw [cut 37 1 (by decide) (by decide), cut 30 7 (by decide) (by decide), cut 28 2 (by decide) (by decide),
    ← getLsbD_eq_extract, Target.bits_v, Target.bits_slot, Target.bits_port]

/-- A word with an opcode in its top byte is not NOP when the opcode is not zero. -/
theorem Carries.ne_zero (h : Carries w op mod t0 t1) (ho : op ≠ 0) : w ≠ 0 := by
  rintro rfl
  have := h.op_eq 56 8 (by decide)
  exact ho (by simpa using this.symm)

end

/-! ## Port controls of a word -/

/-- A port control read from six bits that are one. -/
theorem portOf_eq {w : Word64} {lo : Nat} {p : PortCtl} (h : w.extractLsb' lo 3 = p.bits.extractLsb' 0 3)
    (h' : w.extractLsb' (lo + 3) 3 = p.bits.extractLsb' 3 3) : portOf w lo = p := by
  rw [portOf, h, h', PortCtl.bits_low, PortCtl.bits_high]

/-! ## The formats -/

theorem FA.carries (op : BitVec 8) (f : FA) : Carries (f.word op) op f.mod f.t0 f.t1 := by
  intro s l h
  refine (extractLsb'_append_eq_of_le (v := 54) (w := 10) (by omega)).trans ?_
  refine (extractLsb'_append_eq_of_le (v := 48) (w := 6) (by omega)).trans ?_
  refine (extractLsb'_append_eq_of_le (v := 42) (w := 6) (by omega)).trans ?_
  refine (extractLsb'_append_eq_of_le (v := 36) (w := 6) (by omega)).trans ?_
  rw [show s - 10 - 6 - 6 - 6 = s - 28 from by omega]

theorem FA.field_imm (op : BitVec 8) (f : FA) : (f.word op).extractLsb' 0 10 = f.imm :=
  (extractLsb'_append_eq_of_add_le (v := 54) (w := 10) (by decide)).trans extractLsb'_eq_self

theorem FA.port_c (op : BitVec 8) (f : FA) : portOf (f.word op) 10 = f.c := by
  apply portOf_eq
  · exact (extractLsb'_append_eq_of_le (v := 54) (w := 10) (by decide)).trans <|
      extractLsb'_append_eq_of_add_le (v := 48) (w := 6) (by decide)
  · exact (extractLsb'_append_eq_of_le (v := 54) (w := 10) (by decide)).trans <|
      extractLsb'_append_eq_of_add_le (v := 48) (w := 6) (by decide)

theorem FA.port_b (op : BitVec 8) (f : FA) : portOf (f.word op) 16 = f.b := by
  apply portOf_eq
  · exact (extractLsb'_append_eq_of_le (v := 54) (w := 10) (by decide)).trans <|
      (extractLsb'_append_eq_of_le (v := 48) (w := 6) (by decide)).trans <|
      extractLsb'_append_eq_of_add_le (v := 42) (w := 6) (by decide)
  · exact (extractLsb'_append_eq_of_le (v := 54) (w := 10) (by decide)).trans <|
      (extractLsb'_append_eq_of_le (v := 48) (w := 6) (by decide)).trans <|
      extractLsb'_append_eq_of_add_le (v := 42) (w := 6) (by decide)

theorem FA.port_a (op : BitVec 8) (f : FA) : portOf (f.word op) 22 = f.a := by
  apply portOf_eq
  · exact (extractLsb'_append_eq_of_le (v := 54) (w := 10) (by decide)).trans <|
      (extractLsb'_append_eq_of_le (v := 48) (w := 6) (by decide)).trans <|
      (extractLsb'_append_eq_of_le (v := 42) (w := 6) (by decide)).trans <|
      extractLsb'_append_eq_of_add_le (v := 36) (w := 6) (by decide)
  · exact (extractLsb'_append_eq_of_le (v := 54) (w := 10) (by decide)).trans <|
      (extractLsb'_append_eq_of_le (v := 48) (w := 6) (by decide)).trans <|
      (extractLsb'_append_eq_of_le (v := 42) (w := 6) (by decide)).trans <|
      extractLsb'_append_eq_of_add_le (v := 36) (w := 6) (by decide)

/-- Reading a word of format FA gives back its fields. -/
theorem faOf_word (op : BitVec 8) (f : FA) : faOf (f.word op) = f := by
  rw [faOf, (FA.carries op f).mod_eq, (FA.carries op f).t0_eq, (FA.carries op f).t1_eq, FA.port_a, FA.port_b, FA.port_c, FA.field_imm]

theorem FI.carries (op : BitVec 8) (f : FI) : Carries (f.word op) op f.mod f.t0 f.t1 := by
  intro s l h
  refine (extractLsb'_append_eq_of_le (v := 42) (w := 22) (by omega)).trans ?_
  refine (extractLsb'_append_eq_of_le (v := 36) (w := 6) (by omega)).trans ?_
  rw [show s - 22 - 6 = s - 28 from by omega]

theorem FI.field_imm (op : BitVec 8) (f : FI) : (f.word op).extractLsb' 0 22 = f.imm :=
  (extractLsb'_append_eq_of_add_le (v := 42) (w := 22) (by decide)).trans extractLsb'_eq_self

theorem FI.port_a (op : BitVec 8) (f : FI) : portOf (f.word op) 22 = f.a := by
  apply portOf_eq
  · exact (extractLsb'_append_eq_of_le (v := 42) (w := 22) (by decide)).trans <|
      extractLsb'_append_eq_of_add_le (v := 36) (w := 6) (by decide)
  · exact (extractLsb'_append_eq_of_le (v := 42) (w := 22) (by decide)).trans <|
      extractLsb'_append_eq_of_add_le (v := 36) (w := 6) (by decide)

/-- Reading a word of format FI gives back its fields. -/
theorem fiOf_word (op : BitVec 8) (f : FI) : fiOf (f.word op) = f := by
  rw [fiOf, (FI.carries op f).mod_eq, (FI.carries op f).t0_eq, (FI.carries op f).t1_eq, FI.port_a, FI.field_imm]

theorem FK.carries (op : BitVec 8) (f : FK) : Carries (f.word op) op f.mod f.t0 f.t1 := by
  intro s l h
  refine (extractLsb'_append_eq_of_le (v := 36) (w := 28) (by omega)).trans ?_
  rfl

theorem FK.field_imm (op : BitVec 8) (f : FK) : (f.word op).extractLsb' 0 28 = f.imm :=
  (extractLsb'_append_eq_of_add_le (v := 36) (w := 28) (by decide)).trans extractLsb'_eq_self

/-- Reading a word of format FK gives back its fields. -/
theorem fkOf_word (op : BitVec 8) (f : FK) : fkOf (f.word op) = f := by
  rw [fkOf, (FK.carries op f).mod_eq, (FK.carries op f).t0_eq, (FK.carries op f).t1_eq, FK.field_imm]

theorem FM.carries (op : BitVec 8) (f : FM) : Carries (f.word op) op f.mod f.t0 f.t1 := by
  intro s l h
  refine (extractLsb'_append_eq_of_le (v := 52) (w := 12) (by omega)).trans ?_
  refine (extractLsb'_append_eq_of_le (v := 48) (w := 4) (by omega)).trans ?_
  refine (extractLsb'_append_eq_of_le (v := 42) (w := 6) (by omega)).trans ?_
  refine (extractLsb'_append_eq_of_le (v := 36) (w := 6) (by omega)).trans ?_
  rw [show s - 12 - 4 - 6 - 6 = s - 28 from by omega]

theorem FM.field_off (op : BitVec 8) (f : FM) : (f.word op).extractLsb' 0 12 = f.off :=
  (extractLsb'_append_eq_of_add_le (v := 52) (w := 12) (by decide)).trans extractLsb'_eq_self

theorem FM.field_space (op : BitVec 8) (f : FM) : (f.word op).extractLsb' 12 4 = f.space :=
  (extractLsb'_append_eq_of_le (v := 52) (w := 12) (by decide)).trans <|
    (extractLsb'_append_eq_of_add_le (v := 48) (w := 4) (by decide)).trans extractLsb'_eq_self

theorem FM.port_b (op : BitVec 8) (f : FM) : portOf (f.word op) 16 = f.b := by
  apply portOf_eq
  · exact (extractLsb'_append_eq_of_le (v := 52) (w := 12) (by decide)).trans <|
      (extractLsb'_append_eq_of_le (v := 48) (w := 4) (by decide)).trans <|
      extractLsb'_append_eq_of_add_le (v := 42) (w := 6) (by decide)
  · exact (extractLsb'_append_eq_of_le (v := 52) (w := 12) (by decide)).trans <|
      (extractLsb'_append_eq_of_le (v := 48) (w := 4) (by decide)).trans <|
      extractLsb'_append_eq_of_add_le (v := 42) (w := 6) (by decide)

theorem FM.port_a (op : BitVec 8) (f : FM) : portOf (f.word op) 22 = f.a := by
  apply portOf_eq
  · exact (extractLsb'_append_eq_of_le (v := 52) (w := 12) (by decide)).trans <|
      (extractLsb'_append_eq_of_le (v := 48) (w := 4) (by decide)).trans <|
      (extractLsb'_append_eq_of_le (v := 42) (w := 6) (by decide)).trans <|
      extractLsb'_append_eq_of_add_le (v := 36) (w := 6) (by decide)
  · exact (extractLsb'_append_eq_of_le (v := 52) (w := 12) (by decide)).trans <|
      (extractLsb'_append_eq_of_le (v := 48) (w := 4) (by decide)).trans <|
      (extractLsb'_append_eq_of_le (v := 42) (w := 6) (by decide)).trans <|
      extractLsb'_append_eq_of_add_le (v := 36) (w := 6) (by decide)

/-- Reading a word of format FM gives back its fields. -/
theorem fmOf_word (op : BitVec 8) (f : FM) : fmOf (f.word op) = f := by
  rw [fmOf, (FM.carries op f).mod_eq, (FM.carries op f).t0_eq, (FM.carries op f).t1_eq, FM.port_a, FM.port_b, FM.field_space, FM.field_off]

theorem FO.carries (op : BitVec 8) (f : FO) : Carries (f.word op) op f.mod f.t0 f.t1 := by
  intro s l h
  refine (extractLsb'_append_eq_of_le (v := 48) (w := 16) (by omega)).trans ?_
  refine (extractLsb'_append_eq_of_le (v := 42) (w := 6) (by omega)).trans ?_
  refine (extractLsb'_append_eq_of_le (v := 36) (w := 6) (by omega)).trans ?_
  rw [show s - 16 - 6 - 6 = s - 28 from by omega]

theorem FO.field_params (op : BitVec 8) (f : FO) : (f.word op).extractLsb' 0 16 = f.params :=
  (extractLsb'_append_eq_of_add_le (v := 48) (w := 16) (by decide)).trans extractLsb'_eq_self

theorem FO.port_b (op : BitVec 8) (f : FO) : portOf (f.word op) 16 = f.b := by
  apply portOf_eq
  · exact (extractLsb'_append_eq_of_le (v := 48) (w := 16) (by decide)).trans <|
      extractLsb'_append_eq_of_add_le (v := 42) (w := 6) (by decide)
  · exact (extractLsb'_append_eq_of_le (v := 48) (w := 16) (by decide)).trans <|
      extractLsb'_append_eq_of_add_le (v := 42) (w := 6) (by decide)

theorem FO.port_a (op : BitVec 8) (f : FO) : portOf (f.word op) 22 = f.a := by
  apply portOf_eq
  · exact (extractLsb'_append_eq_of_le (v := 48) (w := 16) (by decide)).trans <|
      (extractLsb'_append_eq_of_le (v := 42) (w := 6) (by decide)).trans <|
      extractLsb'_append_eq_of_add_le (v := 36) (w := 6) (by decide)
  · exact (extractLsb'_append_eq_of_le (v := 48) (w := 16) (by decide)).trans <|
      (extractLsb'_append_eq_of_le (v := 42) (w := 6) (by decide)).trans <|
      extractLsb'_append_eq_of_add_le (v := 36) (w := 6) (by decide)

/-- Reading a word of format FO gives back its fields. -/
theorem foOf_word (op : BitVec 8) (f : FO) : foOf (f.word op) = f := by
  rw [foOf, (FO.carries op f).mod_eq, (FO.carries op f).t0_eq, (FO.carries op f).t1_eq, FO.port_a, FO.port_b, FO.field_params]

theorem FT.carries (op : BitVec 8) (f : FT) : Carries (f.word op) op f.mod f.t0 f.t1 := by
  intro s l h
  refine (extractLsb'_append_eq_of_le (v := 56) (w := 8) (by omega)).trans ?_
  refine (extractLsb'_append_eq_of_le (v := 48) (w := 8) (by omega)).trans ?_
  refine (extractLsb'_append_eq_of_le (v := 42) (w := 6) (by omega)).trans ?_
  refine (extractLsb'_append_eq_of_le (v := 36) (w := 6) (by omega)).trans ?_
  rw [show s - 8 - 8 - 6 - 6 = s - 28 from by omega]

theorem FT.field_params (op : BitVec 8) (f : FT) : (f.word op).extractLsb' 0 8 = f.params :=
  (extractLsb'_append_eq_of_add_le (v := 56) (w := 8) (by decide)).trans extractLsb'_eq_self

theorem FT.field_island (op : BitVec 8) (f : FT) : (f.word op).extractLsb' 8 8 = f.island :=
  (extractLsb'_append_eq_of_le (v := 56) (w := 8) (by decide)).trans <|
    (extractLsb'_append_eq_of_add_le (v := 48) (w := 8) (by decide)).trans extractLsb'_eq_self

theorem FT.port_b (op : BitVec 8) (f : FT) : portOf (f.word op) 16 = f.b := by
  apply portOf_eq
  · exact (extractLsb'_append_eq_of_le (v := 56) (w := 8) (by decide)).trans <|
      (extractLsb'_append_eq_of_le (v := 48) (w := 8) (by decide)).trans <|
      extractLsb'_append_eq_of_add_le (v := 42) (w := 6) (by decide)
  · exact (extractLsb'_append_eq_of_le (v := 56) (w := 8) (by decide)).trans <|
      (extractLsb'_append_eq_of_le (v := 48) (w := 8) (by decide)).trans <|
      extractLsb'_append_eq_of_add_le (v := 42) (w := 6) (by decide)

theorem FT.port_a (op : BitVec 8) (f : FT) : portOf (f.word op) 22 = f.a := by
  apply portOf_eq
  · exact (extractLsb'_append_eq_of_le (v := 56) (w := 8) (by decide)).trans <|
      (extractLsb'_append_eq_of_le (v := 48) (w := 8) (by decide)).trans <|
      (extractLsb'_append_eq_of_le (v := 42) (w := 6) (by decide)).trans <|
      extractLsb'_append_eq_of_add_le (v := 36) (w := 6) (by decide)
  · exact (extractLsb'_append_eq_of_le (v := 56) (w := 8) (by decide)).trans <|
      (extractLsb'_append_eq_of_le (v := 48) (w := 8) (by decide)).trans <|
      (extractLsb'_append_eq_of_le (v := 42) (w := 6) (by decide)).trans <|
      extractLsb'_append_eq_of_add_le (v := 36) (w := 6) (by decide)

/-- Reading a word of format FT gives back its fields. -/
theorem ftOf_word (op : BitVec 8) (f : FT) : ftOf (f.word op) = f := by
  rw [ftOf, (FT.carries op f).mod_eq, (FT.carries op f).t0_eq, (FT.carries op f).t1_eq, FT.port_a, FT.port_b, FT.field_island, FT.field_params]

theorem FC.carries (op : BitVec 8) (f : FC) : Carries (f.word op) op f.mod f.t0 f.t1 := by
  intro s l h
  refine (extractLsb'_append_eq_of_le (v := 54) (w := 10) (by omega)).trans ?_
  refine (extractLsb'_append_eq_of_le (v := 48) (w := 6) (by omega)).trans ?_
  refine (extractLsb'_append_eq_of_le (v := 42) (w := 6) (by omega)).trans ?_
  refine (extractLsb'_append_eq_of_le (v := 36) (w := 6) (by omega)).trans ?_
  rw [show s - 10 - 6 - 6 - 6 = s - 28 from by omega]

theorem FC.field_imm (op : BitVec 8) (f : FC) : (f.word op).extractLsb' 0 10 = f.imm :=
  (extractLsb'_append_eq_of_add_le (v := 54) (w := 10) (by decide)).trans extractLsb'_eq_self

theorem FC.port_c (op : BitVec 8) (f : FC) : portOf (f.word op) 10 = f.c := by
  apply portOf_eq
  · exact (extractLsb'_append_eq_of_le (v := 54) (w := 10) (by decide)).trans <|
      extractLsb'_append_eq_of_add_le (v := 48) (w := 6) (by decide)
  · exact (extractLsb'_append_eq_of_le (v := 54) (w := 10) (by decide)).trans <|
      extractLsb'_append_eq_of_add_le (v := 48) (w := 6) (by decide)

theorem FC.port_b (op : BitVec 8) (f : FC) : portOf (f.word op) 16 = f.b := by
  apply portOf_eq
  · exact (extractLsb'_append_eq_of_le (v := 54) (w := 10) (by decide)).trans <|
      (extractLsb'_append_eq_of_le (v := 48) (w := 6) (by decide)).trans <|
      extractLsb'_append_eq_of_add_le (v := 42) (w := 6) (by decide)
  · exact (extractLsb'_append_eq_of_le (v := 54) (w := 10) (by decide)).trans <|
      (extractLsb'_append_eq_of_le (v := 48) (w := 6) (by decide)).trans <|
      extractLsb'_append_eq_of_add_le (v := 42) (w := 6) (by decide)

theorem FC.port_a (op : BitVec 8) (f : FC) : portOf (f.word op) 22 = f.a := by
  apply portOf_eq
  · exact (extractLsb'_append_eq_of_le (v := 54) (w := 10) (by decide)).trans <|
      (extractLsb'_append_eq_of_le (v := 48) (w := 6) (by decide)).trans <|
      (extractLsb'_append_eq_of_le (v := 42) (w := 6) (by decide)).trans <|
      extractLsb'_append_eq_of_add_le (v := 36) (w := 6) (by decide)
  · exact (extractLsb'_append_eq_of_le (v := 54) (w := 10) (by decide)).trans <|
      (extractLsb'_append_eq_of_le (v := 48) (w := 6) (by decide)).trans <|
      (extractLsb'_append_eq_of_le (v := 42) (w := 6) (by decide)).trans <|
      extractLsb'_append_eq_of_add_le (v := 36) (w := 6) (by decide)

/-- Reading a word of format FC gives back its fields. -/
theorem fcOf_word (op : BitVec 8) (f : FC) : fcOf (f.word op) = f := by
  rw [fcOf, (FC.carries op f).mod_eq, (FC.carries op f).t0_eq, (FC.carries op f).t1_eq, FC.port_a, FC.port_b, FC.port_c, FC.field_imm]

end Sys2Proof
end

