-- ==== Sys2Proof/Laws/Lanes.lean ====
section
/-! SUPPORT. Elements of lanes (R126): what a token built from elements holds, and when an elementwise operation traps. -/

namespace Sys2Proof.Machine

theorem tagCount_mem (t : BitVec 4) : tagCount t = 1 ∨ tagCount t = 2 ∨ tagCount t = 4 ∨ tagCount t = 8 := by
  revert t; decide

theorem tagWidth_mul (t : BitVec 4) : tagWidth t * tagCount t = 32 := by
  revert t; decide

theorem tagWidth_pos (t : BitVec 4) : 0 < tagWidth t := by
  revert t; decide

theorem tagCount_pos (t : BitVec 4) : 0 < tagCount t := by
  revert t; decide

/-- A check that passes goes on. -/
theorem ok_bind {α β : Type} (a : α) (f : α → Except Cause β) : (Except.ok a >>= f) = f a := rfl

/-- A check that fails ends. -/
theorem error_bind {α β : Type} (c : Cause) (f : α → Except Cause β) : ((Except.error c : Except Cause α) >>= f) = .error c := rfl

/-- Elements laid one above the other, width w each. -/
def stacked (w : Nat) (es : List Nat) : Nat := es.foldr (fun x acc => acc * 2 ^ w + x % 2 ^ w) 0

theorem stacked_lt (w : Nat) (es : List Nat) : stacked w es < 2 ^ (w * es.length) := by
  induction es with
  | nil => exact Nat.one_pos
  | cons x rest ih =>
    have hx : x % 2 ^ w < 2 ^ w := Nat.mod_lt _ (Nat.two_pow_pos w)
    have : stacked w (x :: rest) = stacked w rest * 2 ^ w + x % 2 ^ w := rfl
    rw [this, List.length_cons, Nat.mul_succ, Nat.pow_add]
    calc stacked w rest * 2 ^ w + x % 2 ^ w < stacked w rest * 2 ^ w + 2 ^ w := by omega
      _ = (stacked w rest + 1) * 2 ^ w := by rw [Nat.add_mul, Nat.one_mul]
      _ ≤ 2 ^ (w * rest.length) * 2 ^ w := Nat.mul_le_mul_right _ ih

theorem stacked_get (w : Nat) (es : List Nat) (j : Nat) (h : j < es.length) :
    stacked w es / 2 ^ (w * j) % 2 ^ w = es.getD j 0 % 2 ^ w := by
  induction es generalizing j with
  | nil => simp at h
  | cons x rest ih =>
    have hs : stacked w (x :: rest) = stacked w rest * 2 ^ w + x % 2 ^ w := rfl
    have hx : x % 2 ^ w < 2 ^ w := Nat.mod_lt _ (Nat.two_pow_pos w)
    cases j with
    | zero => rw [hs]; simp [Nat.add_mod, Nat.mul_mod_left]
    | succ j =>
      rw [hs, Nat.mul_succ, Nat.add_comm (w * j) w, Nat.pow_add, ← Nat.div_div_eq_div_mul, Nat.mul_comm,
        Nat.mul_add_div (Nat.two_pow_pos w), Nat.div_eq_of_lt hx, Nat.add_zero]
      simpa using ih j (by simpa using h)

/-- An element of a lane built from exactly its elements. -/
theorem elem_laneOfElems (t : BitVec 4) (es : List Nat) (j : Nat) (hl : es.length = tagCount t) (hj : j < tagCount t) :
    elem t (laneOfElems t es) j = es.getD j 0 % 2 ^ tagWidth t := by
  have hlt := stacked_lt (tagWidth t) es
  rw [hl, tagWidth_mul] at hlt
  have : (laneOfElems t es).toNat = stacked (tagWidth t) es := by
    unfold laneOfElems
    rw [BitVec.toNat_ofNat]
    exact Nat.mod_eq_of_lt hlt
  unfold elem
  rw [this, Nat.shiftRight_eq_div_pow]
  exact stacked_get _ _ _ (by omega)

/-- The slice of a concatenation of pieces of one length. -/
theorem flatMap_slice {α : Type} (g : Nat → List α) (n k : Nat) (hg : ∀ i, (g i).length = n) (l : Nat) (hl : l < k) :
    (((List.range k).flatMap g).drop (l * n)).take n = g l := by
  induction k with
  | zero => omega
  | succ k ih =>
    have hlen (m : Nat) : ((List.range m).flatMap g).length = m * n := by
      induction m with
      | zero => simp
      | succ m ihm => rw [List.range_succ, List.flatMap_append, List.length_append, ihm, Nat.add_mul]; simp [hg]
    rw [List.range_succ, List.flatMap_append]
    rcases Nat.lt_or_ge l k with h | h
    · rw [List.drop_append_of_le_length (by rw [hlen]; exact Nat.mul_le_mul_right _ (Nat.le_of_lt h)),
        List.take_append_of_le_length (by
          rw [List.length_drop, hlen, ← Nat.sub_mul]
          exact Nat.le_mul_of_pos_left _ (by omega))]
      exact ih h
    · have : l = k := by omega
      subst this
      rw [List.drop_append, hlen, List.drop_eq_nil_of_le (Nat.le_of_eq (hlen l))]
      simpa using List.take_of_length_le (Nat.le_of_eq (hg l))

theorem positions_slice {α : Type} (t : BitVec 4) (op : Nat → Nat → α) (l : Nat) (hl : l < 16) :
    ((((positions t).map fun p => op p.1 p.2)).drop (l * tagCount t)).take (tagCount t) =
      (List.range (tagCount t)).map fun j => op l j := by
  unfold positions
  rw [List.map_flatMap]
  refine (flatMap_slice _ _ _ (fun i => ?_) l hl).trans ?_
  · simp
  · rw [List.map_map]; rfl

@[simp] theorem dataToken_lanes (ls : Vector Lane 16) (t : BitVec 4) : (dataToken ls t).lanes = ls := rfl
@[simp] theorem dataToken_tag (ls : Vector Lane 16) (t : BitVec 4) : (dataToken ls t).tag = t := rfl
@[simp] theorem dataToken_void (ls : Vector Lane 16) (t : BitVec 4) : (dataToken ls t).void = false := rfl
@[simp] theorem dataToken_eos (ls : Vector Lane 16) (t : BitVec 4) : (dataToken ls t).eos = false := rfl
@[simp] theorem dataToken_scale (ls : Vector Lane 16) (t : BitVec 4) : (dataToken ls t).scale = 0 := rfl

/-- A lane of a token built by lane number. -/
theorem lane_ofFn (f : Fin 16 → Lane) (t : BitVec 4) (l : Nat) (hl : l < 16) :
    (dataToken (Vector.ofFn f) t).lane l = f ⟨l, hl⟩ := by
  unfold Token.lane
  rw [dataToken_lanes, List.getD_eq_getElem?_getD]
  simp [hl]

theorem lane_mapLanes (t : BitVec 4) (op : Nat → Lane) (l : Nat) (hl : l < 16) : (mapLanes t op).lane l = op l :=
  lane_ofFn _ _ _ hl

/-- An element of a token built from its elements by position. -/
theorem el_elsToken (t : BitVec 4) (op : Nat → Nat → Nat) (l j : Nat) (hl : l < 16) (hj : j < tagCount t) :
    (elsToken t ((positions t).map fun p => op p.1 p.2)).el t l j = op l j % 2 ^ tagWidth t := by
  unfold Token.el elsToken lanesOfEls
  rw [lane_ofFn _ _ _ hl]
  dsimp only
  rw [positions_slice t op l hl, elem_laneOfElems _ _ _ (by simp) hj]
  simp [List.getD_eq_getElem?_getD, hj]

theorem mem_positions (t : BitVec 4) (p : Nat × Nat) : p ∈ positions t ↔ p.1 < 16 ∧ p.2 < tagCount t := by
  unfold positions
  obtain ⟨l, j⟩ := p
  simp

/-- An elementwise operation that traps nowhere gives a token of its elements. -/
theorem mapEls_ok (t : BitVec 4) (op : Nat → Nat → Nat × Bool)
    (h : ∀ l, l < 16 → ∀ j, j < tagCount t → (op l j).2 = false) :
    mapEls t op = .ok (elsToken t ((positions t).map fun p => (op p.1 p.2).1)) := by
  unfold mapEls trapToken
  rw [if_neg]
  · rw [List.map_map]; rfl
  · rw [Bool.not_eq_true, List.any_eq_false]
    intro q hq
    obtain ⟨p, hp, rfl⟩ := List.mem_map.1 hq
    obtain ⟨hl, hj⟩ := (mem_positions t p).1 hp
    simp [h p.1 hl p.2 hj]

/-- An elementwise operation that traps somewhere gives the cause of an arithmetic trap (R139). -/
theorem mapEls_trap (t : BitVec 4) (op : Nat → Nat → Nat × Bool) (l j : Nat) (hl : l < 16) (hj : j < tagCount t)
    (h : (op l j).2 = true) : mapEls t op = .error causeTrap := by
  unfold mapEls trapToken
  rw [if_pos]
  rw [List.any_eq_true]
  exact ⟨op l j, List.mem_map.2 ⟨(l, j), (mem_positions t (l, j)).2 ⟨hl, hj⟩, rfl⟩, h⟩

end Sys2Proof.Machine
end

