-- ==== Sys2Proof/Laws/State.lean ====
section
/-! SUPPORT. What each update of a part of the state does to every field of the state, one lemma per field, and to the
parts of a core.  Memory's own lemmas stand in Laws/FireMem.lean and the files after it. -/

namespace Sys2Proof.Machine

/-! ## The fields of the state -/

@[simp] theorem State.onCore_accs (s : State) (c : Fin 96) (f : Core → Core) : (s.onCore c f).accs = s.accs := rfl
@[simp] theorem State.onCore_kiln (s : State) (c : Fin 96) (f : Core → Core) : (s.onCore c f).kiln = s.kiln := rfl
@[simp] theorem State.onCore_col (s : State) (c : Fin 96) (f : Core → Core) : (s.onCore c f).col = s.col := rfl
@[simp] theorem State.onCore_egress (s : State) (c : Fin 96) (f : Core → Core) : (s.onCore c f).egress = s.egress := rfl
@[simp] theorem State.onCore_dev (s : State) (c : Fin 96) (f : Core → Core) : (s.onCore c f).dev = s.dev := rfl
@[simp] theorem State.onCore_host (s : State) (c : Fin 96) (f : Core → Core) : (s.onCore c f).host = s.host := rfl
@[simp] theorem State.onCore_clk (s : State) (c : Fin 96) (f : Core → Core) : (s.onCore c f).clk = s.clk := rfl

@[simp] theorem State.onRegion_accs (s : State) (c : Fin 96) (r : Fin 8) (f : Region → Region) : (s.onRegion c r f).accs = s.accs := rfl
@[simp] theorem State.onRegion_kiln (s : State) (c : Fin 96) (r : Fin 8) (f : Region → Region) : (s.onRegion c r f).kiln = s.kiln := rfl
@[simp] theorem State.onRegion_col (s : State) (c : Fin 96) (r : Fin 8) (f : Region → Region) : (s.onRegion c r f).col = s.col := rfl
@[simp] theorem State.onRegion_egress (s : State) (c : Fin 96) (r : Fin 8) (f : Region → Region) : (s.onRegion c r f).egress = s.egress := rfl
@[simp] theorem State.onRegion_dev (s : State) (c : Fin 96) (r : Fin 8) (f : Region → Region) : (s.onRegion c r f).dev = s.dev := rfl
@[simp] theorem State.onRegion_host (s : State) (c : Fin 96) (r : Fin 8) (f : Region → Region) : (s.onRegion c r f).host = s.host := rfl
@[simp] theorem State.onRegion_clk (s : State) (c : Fin 96) (r : Fin 8) (f : Region → Region) : (s.onRegion c r f).clk = s.clk := rfl

@[simp] theorem State.onCtx_accs (s : State) (c : Fin 96) (k : Fin 4) (f : Context → Context) : (s.onCtx c k f).accs = s.accs := rfl
@[simp] theorem State.onCtx_kiln (s : State) (c : Fin 96) (k : Fin 4) (f : Context → Context) : (s.onCtx c k f).kiln = s.kiln := rfl
@[simp] theorem State.onCtx_col (s : State) (c : Fin 96) (k : Fin 4) (f : Context → Context) : (s.onCtx c k f).col = s.col := rfl
@[simp] theorem State.onCtx_egress (s : State) (c : Fin 96) (k : Fin 4) (f : Context → Context) : (s.onCtx c k f).egress = s.egress := rfl
@[simp] theorem State.onCtx_dev (s : State) (c : Fin 96) (k : Fin 4) (f : Context → Context) : (s.onCtx c k f).dev = s.dev := rfl
@[simp] theorem State.onCtx_host (s : State) (c : Fin 96) (k : Fin 4) (f : Context → Context) : (s.onCtx c k f).host = s.host := rfl
@[simp] theorem State.onCtx_clk (s : State) (c : Fin 96) (k : Fin 4) (f : Context → Context) : (s.onCtx c k f).clk = s.clk := rfl

@[simp] theorem State.onElem_accs (s : State) (c : Fin 96) (e : Fin 32) (f : Element → Element) : (s.onElem c e f).accs = s.accs := rfl
@[simp] theorem State.onElem_kiln (s : State) (c : Fin 96) (e : Fin 32) (f : Element → Element) : (s.onElem c e f).kiln = s.kiln := rfl
@[simp] theorem State.onElem_col (s : State) (c : Fin 96) (e : Fin 32) (f : Element → Element) : (s.onElem c e f).col = s.col := rfl
@[simp] theorem State.onElem_egress (s : State) (c : Fin 96) (e : Fin 32) (f : Element → Element) : (s.onElem c e f).egress = s.egress := rfl
@[simp] theorem State.onElem_dev (s : State) (c : Fin 96) (e : Fin 32) (f : Element → Element) : (s.onElem c e f).dev = s.dev := rfl
@[simp] theorem State.onElem_host (s : State) (c : Fin 96) (e : Fin 32) (f : Element → Element) : (s.onElem c e f).host = s.host := rfl
@[simp] theorem State.onElem_clk (s : State) (c : Fin 96) (e : Fin 32) (f : Element → Element) : (s.onElem c e f).clk = s.clk := rfl

@[simp] theorem State.onSlot_accs (s : State) (x : Site) (f : Slot → Slot) : (s.onSlot x f).accs = s.accs := rfl
@[simp] theorem State.onSlot_kiln (s : State) (x : Site) (f : Slot → Slot) : (s.onSlot x f).kiln = s.kiln := rfl
@[simp] theorem State.onSlot_col (s : State) (x : Site) (f : Slot → Slot) : (s.onSlot x f).col = s.col := rfl
@[simp] theorem State.onSlot_egress (s : State) (x : Site) (f : Slot → Slot) : (s.onSlot x f).egress = s.egress := rfl
@[simp] theorem State.onSlot_dev (s : State) (x : Site) (f : Slot → Slot) : (s.onSlot x f).dev = s.dev := rfl
@[simp] theorem State.onSlot_host (s : State) (x : Site) (f : Slot → Slot) : (s.onSlot x f).host = s.host := rfl
@[simp] theorem State.onSlot_clk (s : State) (x : Site) (f : Slot → Slot) : (s.onSlot x f).clk = s.clk := rfl

@[simp] theorem State.onHead_accs (s : State) (x : Site) (f : Head → Head) : (s.onHead x f).accs = s.accs := rfl
@[simp] theorem State.onHead_kiln (s : State) (x : Site) (f : Head → Head) : (s.onHead x f).kiln = s.kiln := rfl
@[simp] theorem State.onHead_col (s : State) (x : Site) (f : Head → Head) : (s.onHead x f).col = s.col := rfl
@[simp] theorem State.onHead_egress (s : State) (x : Site) (f : Head → Head) : (s.onHead x f).egress = s.egress := rfl
@[simp] theorem State.onHead_dev (s : State) (x : Site) (f : Head → Head) : (s.onHead x f).dev = s.dev := rfl
@[simp] theorem State.onHead_host (s : State) (x : Site) (f : Head → Head) : (s.onHead x f).host = s.host := rfl
@[simp] theorem State.onHead_clk (s : State) (x : Site) (f : Head → Head) : (s.onHead x f).clk = s.clk := rfl

@[simp] theorem State.onBlk_accs (s : State) (x : Site) (f : KBlock → KBlock) : (s.onBlk x f).accs = s.accs := rfl
@[simp] theorem State.onBlk_kiln (s : State) (x : Site) (f : KBlock → KBlock) : (s.onBlk x f).kiln = s.kiln := rfl
@[simp] theorem State.onBlk_col (s : State) (x : Site) (f : KBlock → KBlock) : (s.onBlk x f).col = s.col := rfl
@[simp] theorem State.onBlk_egress (s : State) (x : Site) (f : KBlock → KBlock) : (s.onBlk x f).egress = s.egress := rfl
@[simp] theorem State.onBlk_dev (s : State) (x : Site) (f : KBlock → KBlock) : (s.onBlk x f).dev = s.dev := rfl
@[simp] theorem State.onBlk_host (s : State) (x : Site) (f : KBlock → KBlock) : (s.onBlk x f).host = s.host := rfl
@[simp] theorem State.onBlk_clk (s : State) (x : Site) (f : KBlock → KBlock) : (s.onBlk x f).clk = s.clk := rfl

@[simp] theorem State.onMatrix_accs (s : State) (c : Fin 96) (f : Matrix → Matrix) : (s.onMatrix c f).accs = s.accs := rfl
@[simp] theorem State.onMatrix_kiln (s : State) (c : Fin 96) (f : Matrix → Matrix) : (s.onMatrix c f).kiln = s.kiln := rfl
@[simp] theorem State.onMatrix_col (s : State) (c : Fin 96) (f : Matrix → Matrix) : (s.onMatrix c f).col = s.col := rfl
@[simp] theorem State.onMatrix_egress (s : State) (c : Fin 96) (f : Matrix → Matrix) : (s.onMatrix c f).egress = s.egress := rfl
@[simp] theorem State.onMatrix_dev (s : State) (c : Fin 96) (f : Matrix → Matrix) : (s.onMatrix c f).dev = s.dev := rfl
@[simp] theorem State.onMatrix_host (s : State) (c : Fin 96) (f : Matrix → Matrix) : (s.onMatrix c f).host = s.host := rfl
@[simp] theorem State.onMatrix_clk (s : State) (c : Fin 96) (f : Matrix → Matrix) : (s.onMatrix c f).clk = s.clk := rfl

@[simp] theorem State.onStreamer_accs (s : State) (c : Fin 96) (f : Streamer → Streamer) : (s.onStreamer c f).accs = s.accs := rfl
@[simp] theorem State.onStreamer_kiln (s : State) (c : Fin 96) (f : Streamer → Streamer) : (s.onStreamer c f).kiln = s.kiln := rfl
@[simp] theorem State.onStreamer_col (s : State) (c : Fin 96) (f : Streamer → Streamer) : (s.onStreamer c f).col = s.col := rfl
@[simp] theorem State.onStreamer_egress (s : State) (c : Fin 96) (f : Streamer → Streamer) : (s.onStreamer c f).egress = s.egress := rfl
@[simp] theorem State.onStreamer_dev (s : State) (c : Fin 96) (f : Streamer → Streamer) : (s.onStreamer c f).dev = s.dev := rfl
@[simp] theorem State.onStreamer_host (s : State) (c : Fin 96) (f : Streamer → Streamer) : (s.onStreamer c f).host = s.host := rfl
@[simp] theorem State.onStreamer_clk (s : State) (c : Fin 96) (f : Streamer → Streamer) : (s.onStreamer c f).clk = s.clk := rfl

@[simp] theorem State.onCfg_cores (s : State) (h : Word64) (f : Cfg → Cfg) : (s.onCfg h f).cores = s.cores := rfl
@[simp] theorem State.onCfg_accs (s : State) (h : Word64) (f : Cfg → Cfg) : (s.onCfg h f).accs = s.accs := rfl
@[simp] theorem State.onCfg_col (s : State) (h : Word64) (f : Cfg → Cfg) : (s.onCfg h f).col = s.col := rfl
@[simp] theorem State.onCfg_egress (s : State) (h : Word64) (f : Cfg → Cfg) : (s.onCfg h f).egress = s.egress := rfl
@[simp] theorem State.onCfg_dev (s : State) (h : Word64) (f : Cfg → Cfg) : (s.onCfg h f).dev = s.dev := rfl
@[simp] theorem State.onCfg_host (s : State) (h : Word64) (f : Cfg → Cfg) : (s.onCfg h f).host = s.host := rfl
@[simp] theorem State.onCfg_clk (s : State) (h : Word64) (f : Cfg → Cfg) : (s.onCfg h f).clk = s.clk := rfl

@[simp] theorem State.onRein_cores (s : State) (h : Word64) (i : Nat) (f : Rein → Rein) : (s.onRein h i f).cores = s.cores := rfl
@[simp] theorem State.onRein_accs (s : State) (h : Word64) (i : Nat) (f : Rein → Rein) : (s.onRein h i f).accs = s.accs := rfl
@[simp] theorem State.onRein_col (s : State) (h : Word64) (i : Nat) (f : Rein → Rein) : (s.onRein h i f).col = s.col := rfl
@[simp] theorem State.onRein_egress (s : State) (h : Word64) (i : Nat) (f : Rein → Rein) : (s.onRein h i f).egress = s.egress := rfl
@[simp] theorem State.onRein_dev (s : State) (h : Word64) (i : Nat) (f : Rein → Rein) : (s.onRein h i f).dev = s.dev := rfl
@[simp] theorem State.onRein_host (s : State) (h : Word64) (i : Nat) (f : Rein → Rein) : (s.onRein h i f).host = s.host := rfl
@[simp] theorem State.onRein_clk (s : State) (h : Word64) (i : Nat) (f : Rein → Rein) : (s.onRein h i f).clk = s.clk := rfl

@[simp] theorem State.onChan_cores (s : State) (h : Word64) (i : Nat) (f : Chan → Chan) : (s.onChan h i f).cores = s.cores := rfl
@[simp] theorem State.onChan_accs (s : State) (h : Word64) (i : Nat) (f : Chan → Chan) : (s.onChan h i f).accs = s.accs := rfl
@[simp] theorem State.onChan_col (s : State) (h : Word64) (i : Nat) (f : Chan → Chan) : (s.onChan h i f).col = s.col := rfl
@[simp] theorem State.onChan_egress (s : State) (h : Word64) (i : Nat) (f : Chan → Chan) : (s.onChan h i f).egress = s.egress := rfl
@[simp] theorem State.onChan_dev (s : State) (h : Word64) (i : Nat) (f : Chan → Chan) : (s.onChan h i f).dev = s.dev := rfl
@[simp] theorem State.onChan_host (s : State) (h : Word64) (i : Nat) (f : Chan → Chan) : (s.onChan h i f).host = s.host := rfl
@[simp] theorem State.onChan_clk (s : State) (h : Word64) (i : Nat) (f : Chan → Chan) : (s.onChan h i f).clk = s.clk := rfl

@[simp] theorem State.onPlace_cores (s : State) (h : Word64) (e : Nat) (f : Place → Place) : (s.onPlace h e f).cores = s.cores := rfl
@[simp] theorem State.onPlace_accs (s : State) (h : Word64) (e : Nat) (f : Place → Place) : (s.onPlace h e f).accs = s.accs := rfl
@[simp] theorem State.onPlace_col (s : State) (h : Word64) (e : Nat) (f : Place → Place) : (s.onPlace h e f).col = s.col := rfl
@[simp] theorem State.onPlace_egress (s : State) (h : Word64) (e : Nat) (f : Place → Place) : (s.onPlace h e f).egress = s.egress := rfl
@[simp] theorem State.onPlace_dev (s : State) (h : Word64) (e : Nat) (f : Place → Place) : (s.onPlace h e f).dev = s.dev := rfl
@[simp] theorem State.onPlace_host (s : State) (h : Word64) (e : Nat) (f : Place → Place) : (s.onPlace h e f).host = s.host := rfl
@[simp] theorem State.onPlace_clk (s : State) (h : Word64) (e : Nat) (f : Place → Place) : (s.onPlace h e f).clk = s.clk := rfl

@[simp] theorem State.onAcc_cores (s : State) (id : Nat) (f : Access → Access) : (s.onAcc id f).cores = s.cores := rfl
@[simp] theorem State.onAcc_kiln (s : State) (id : Nat) (f : Access → Access) : (s.onAcc id f).kiln = s.kiln := rfl
@[simp] theorem State.onAcc_col (s : State) (id : Nat) (f : Access → Access) : (s.onAcc id f).col = s.col := rfl
@[simp] theorem State.onAcc_egress (s : State) (id : Nat) (f : Access → Access) : (s.onAcc id f).egress = s.egress := rfl
@[simp] theorem State.onAcc_dev (s : State) (id : Nat) (f : Access → Access) : (s.onAcc id f).dev = s.dev := rfl
@[simp] theorem State.onAcc_host (s : State) (id : Nat) (f : Access → Access) : (s.onAcc id f).host = s.host := rfl
@[simp] theorem State.onAcc_clk (s : State) (id : Nat) (f : Access → Access) : (s.onAcc id f).clk = s.clk := rfl

@[simp] theorem State.dropAcc_cores (s : State) (id : Nat) : (s.dropAcc id).cores = s.cores := rfl
@[simp] theorem State.dropAcc_kiln (s : State) (id : Nat) : (s.dropAcc id).kiln = s.kiln := rfl
@[simp] theorem State.dropAcc_col (s : State) (id : Nat) : (s.dropAcc id).col = s.col := rfl
@[simp] theorem State.dropAcc_egress (s : State) (id : Nat) : (s.dropAcc id).egress = s.egress := rfl
@[simp] theorem State.dropAcc_dev (s : State) (id : Nat) : (s.dropAcc id).dev = s.dev := rfl
@[simp] theorem State.dropAcc_host (s : State) (id : Nat) : (s.dropAcc id).host = s.host := rfl
@[simp] theorem State.dropAcc_clk (s : State) (id : Nat) : (s.dropAcc id).clk = s.clk := rfl

@[simp] theorem State.onMem_cores (s : State) (f : Memory → Memory) : (s.onMem f).cores = s.cores := rfl
@[simp] theorem State.onMem_accs (s : State) (f : Memory → Memory) : (s.onMem f).accs = s.accs := rfl
@[simp] theorem State.onMem_kiln (s : State) (f : Memory → Memory) : (s.onMem f).kiln = s.kiln := rfl
@[simp] theorem State.onMem_col (s : State) (f : Memory → Memory) : (s.onMem f).col = s.col := rfl
@[simp] theorem State.onMem_egress (s : State) (f : Memory → Memory) : (s.onMem f).egress = s.egress := rfl
@[simp] theorem State.onMem_dev (s : State) (f : Memory → Memory) : (s.onMem f).dev = s.dev := rfl
@[simp] theorem State.onMem_host (s : State) (f : Memory → Memory) : (s.onMem f).host = s.host := rfl
@[simp] theorem State.onMem_clk (s : State) (f : Memory → Memory) : (s.onMem f).clk = s.clk := rfl

@[simp] theorem State.onCol_cores (s : State) (f : Collector → Collector) : (s.onCol f).cores = s.cores := rfl
@[simp] theorem State.onCol_accs (s : State) (f : Collector → Collector) : (s.onCol f).accs = s.accs := rfl
@[simp] theorem State.onCol_kiln (s : State) (f : Collector → Collector) : (s.onCol f).kiln = s.kiln := rfl
@[simp] theorem State.onCol_egress (s : State) (f : Collector → Collector) : (s.onCol f).egress = s.egress := rfl
@[simp] theorem State.onCol_dev (s : State) (f : Collector → Collector) : (s.onCol f).dev = s.dev := rfl
@[simp] theorem State.onCol_host (s : State) (f : Collector → Collector) : (s.onCol f).host = s.host := rfl
@[simp] theorem State.onCol_clk (s : State) (f : Collector → Collector) : (s.onCol f).clk = s.clk := rfl

@[simp] theorem State.onEgress_cores (s : State) (f : Egress → Egress) : (s.onEgress f).cores = s.cores := rfl
@[simp] theorem State.onEgress_accs (s : State) (f : Egress → Egress) : (s.onEgress f).accs = s.accs := rfl
@[simp] theorem State.onEgress_kiln (s : State) (f : Egress → Egress) : (s.onEgress f).kiln = s.kiln := rfl
@[simp] theorem State.onEgress_col (s : State) (f : Egress → Egress) : (s.onEgress f).col = s.col := rfl
@[simp] theorem State.onEgress_dev (s : State) (f : Egress → Egress) : (s.onEgress f).dev = s.dev := rfl
@[simp] theorem State.onEgress_host (s : State) (f : Egress → Egress) : (s.onEgress f).host = s.host := rfl
@[simp] theorem State.onEgress_clk (s : State) (f : Egress → Egress) : (s.onEgress f).clk = s.clk := rfl

@[simp] theorem State.later_cores (s : State) (d : Nat) (i : Instr) : (s.later d i).cores = s.cores := rfl
@[simp] theorem State.later_accs (s : State) (d : Nat) (i : Instr) : (s.later d i).accs = s.accs := rfl
@[simp] theorem State.later_kiln (s : State) (d : Nat) (i : Instr) : (s.later d i).kiln = s.kiln := rfl
@[simp] theorem State.later_col (s : State) (d : Nat) (i : Instr) : (s.later d i).col = s.col := rfl
@[simp] theorem State.later_egress (s : State) (d : Nat) (i : Instr) : (s.later d i).egress = s.egress := rfl
@[simp] theorem State.later_dev (s : State) (d : Nat) (i : Instr) : (s.later d i).dev = s.dev := rfl
@[simp] theorem State.later_host (s : State) (d : Nat) (i : Instr) : (s.later d i).host = s.host := rfl
@[simp] theorem State.later_now (s : State) (d : Nat) (i : Instr) : (s.later d i).clk.now = s.clk.now := rfl
@[simp] theorem State.later_focus (s : State) (d : Nat) (i : Instr) : (s.later d i).clk.focus = s.clk.focus := rfl

@[simp] theorem State.soon_cores (s : State) (i : Instr) : (s.soon i).cores = s.cores := rfl
@[simp] theorem State.soon_accs (s : State) (i : Instr) : (s.soon i).accs = s.accs := rfl
@[simp] theorem State.soon_kiln (s : State) (i : Instr) : (s.soon i).kiln = s.kiln := rfl
@[simp] theorem State.soon_col (s : State) (i : Instr) : (s.soon i).col = s.col := rfl
@[simp] theorem State.soon_egress (s : State) (i : Instr) : (s.soon i).egress = s.egress := rfl
@[simp] theorem State.soon_dev (s : State) (i : Instr) : (s.soon i).dev = s.dev := rfl
@[simp] theorem State.soon_host (s : State) (i : Instr) : (s.soon i).host = s.host := rfl
@[simp] theorem State.soon_now (s : State) (i : Instr) : (s.soon i).clk.now = s.clk.now := rfl
@[simp] theorem State.soon_focus (s : State) (i : Instr) : (s.soon i).clk.focus = s.clk.focus := rfl

@[simp] theorem State.tickBy_cores (s : State) (n : Nat) : (s.tickBy n).cores = s.cores := rfl
@[simp] theorem State.tickBy_accs (s : State) (n : Nat) : (s.tickBy n).accs = s.accs := rfl
@[simp] theorem State.tickBy_kiln (s : State) (n : Nat) : (s.tickBy n).kiln = s.kiln := rfl
@[simp] theorem State.tickBy_col (s : State) (n : Nat) : (s.tickBy n).col = s.col := rfl
@[simp] theorem State.tickBy_egress (s : State) (n : Nat) : (s.tickBy n).egress = s.egress := rfl
@[simp] theorem State.tickBy_dev (s : State) (n : Nat) : (s.tickBy n).dev = s.dev := rfl
@[simp] theorem State.tickBy_host (s : State) (n : Nat) : (s.tickBy n).host = s.host := rfl
@[simp] theorem State.tickBy_now (s : State) (n : Nat) : (s.tickBy n).clk.now = s.clk.now := rfl
@[simp] theorem State.tickBy_focus (s : State) (n : Nat) : (s.tickBy n).clk.focus = s.clk.focus := rfl

@[simp] theorem State.tickFresh_cores (s : State) : (s.tickFresh).cores = s.cores := rfl
@[simp] theorem State.tickFresh_accs (s : State) : (s.tickFresh).accs = s.accs := rfl
@[simp] theorem State.tickFresh_kiln (s : State) : (s.tickFresh).kiln = s.kiln := rfl
@[simp] theorem State.tickFresh_col (s : State) : (s.tickFresh).col = s.col := rfl
@[simp] theorem State.tickFresh_egress (s : State) : (s.tickFresh).egress = s.egress := rfl
@[simp] theorem State.tickFresh_dev (s : State) : (s.tickFresh).dev = s.dev := rfl
@[simp] theorem State.tickFresh_host (s : State) : (s.tickFresh).host = s.host := rfl
@[simp] theorem State.tickFresh_now (s : State) : (s.tickFresh).clk.now = s.clk.now := rfl
@[simp] theorem State.tickFresh_focus (s : State) : (s.tickFresh).clk.focus = s.clk.focus := rfl

@[simp] theorem State.laterFree_cores (s : State) (n : Nat) (i : Instr) : (s.laterFree n i).cores = s.cores := rfl
@[simp] theorem State.laterFree_accs (s : State) (n : Nat) (i : Instr) : (s.laterFree n i).accs = s.accs := rfl
@[simp] theorem State.laterFree_kiln (s : State) (n : Nat) (i : Instr) : (s.laterFree n i).kiln = s.kiln := rfl
@[simp] theorem State.laterFree_col (s : State) (n : Nat) (i : Instr) : (s.laterFree n i).col = s.col := rfl
@[simp] theorem State.laterFree_egress (s : State) (n : Nat) (i : Instr) : (s.laterFree n i).egress = s.egress := rfl
@[simp] theorem State.laterFree_dev (s : State) (n : Nat) (i : Instr) : (s.laterFree n i).dev = s.dev := rfl
@[simp] theorem State.laterFree_host (s : State) (n : Nat) (i : Instr) : (s.laterFree n i).host = s.host := rfl
@[simp] theorem State.laterFree_now (s : State) (n : Nat) (i : Instr) : (s.laterFree n i).clk.now = s.clk.now := rfl
@[simp] theorem State.laterFree_focus (s : State) (n : Nat) (i : Instr) : (s.laterFree n i).clk.focus = s.clk.focus := rfl

@[simp] theorem State.tickId_cores (s : State) : (s.tickId).cores = s.cores := rfl
@[simp] theorem State.tickId_accs (s : State) : (s.tickId).accs = s.accs := rfl
@[simp] theorem State.tickId_kiln (s : State) : (s.tickId).kiln = s.kiln := rfl
@[simp] theorem State.tickId_col (s : State) : (s.tickId).col = s.col := rfl
@[simp] theorem State.tickId_egress (s : State) : (s.tickId).egress = s.egress := rfl
@[simp] theorem State.tickId_dev (s : State) : (s.tickId).dev = s.dev := rfl
@[simp] theorem State.tickId_host (s : State) : (s.tickId).host = s.host := rfl
@[simp] theorem State.tickId_now (s : State) : (s.tickId).clk.now = s.clk.now := rfl
@[simp] theorem State.tickId_focus (s : State) : (s.tickId).clk.focus = s.clk.focus := rfl

@[simp] theorem State.collect_cores (s : State) (r : CRec) : (s.collect r).cores = s.cores := rfl
@[simp] theorem State.collect_accs (s : State) (r : CRec) : (s.collect r).accs = s.accs := rfl
@[simp] theorem State.collect_kiln (s : State) (r : CRec) : (s.collect r).kiln = s.kiln := rfl
@[simp] theorem State.collect_col (s : State) (r : CRec) : (s.collect r).col = s.col := rfl
@[simp] theorem State.collect_egress (s : State) (r : CRec) : (s.collect r).egress = s.egress := rfl
@[simp] theorem State.collect_dev (s : State) (r : CRec) : (s.collect r).dev = s.dev := rfl
@[simp] theorem State.collect_host (s : State) (r : CRec) : (s.collect r).host = s.host := rfl
@[simp] theorem State.collect_now (s : State) (r : CRec) : (s.collect r).clk.now = s.clk.now := rfl
@[simp] theorem State.collect_focus (s : State) (r : CRec) : (s.collect r).clk.focus = s.clk.focus := rfl

/-! ## What a timed step adds -/

@[simp] theorem State.later_pending (s : State) (d : Nat) (i : Instr) :
    (s.later d i).clk.pending = s.clk.pending ++ [(s.clk.now + d, i)] := rfl

@[simp] theorem State.later_agenda (s : State) (d : Nat) (i : Instr) : (s.later d i).clk.agenda = s.clk.agenda := rfl

@[simp] theorem State.soon_agenda (s : State) (i : Instr) : (s.soon i).clk.agenda = s.clk.agenda ++ [.event i] := rfl

@[simp] theorem State.soon_pending (s : State) (i : Instr) : (s.soon i).clk.pending = s.clk.pending := rfl

/-! ## Cores and their parts -/

theorem State.core_onCore (s : State) (c d : Fin 96) (f : Core → Core) :
    (s.onCore c f).core d = if d = c then f (s.core c) else s.core d := by
  unfold State.core State.onCore
  by_cases h : d = c
  · subst h; simp
  · rw [if_neg h]
    have : c.val ≠ d.val := fun e => h (Fin.ext e.symm)
    simpa using Vector.getElem_set_ne (xs := s.cores) c.isLt d.isLt this

@[simp] theorem State.core_onCore_self (s : State) (c : Fin 96) (f : Core → Core) : (s.onCore c f).core c = f (s.core c) := by
  rw [State.core_onCore, if_pos rfl]

theorem State.core_onCore_of_ne (s : State) {c d : Fin 96} (f : Core → Core) (h : d ≠ c) :
    (s.onCore c f).core d = s.core d := by
  rw [State.core_onCore, if_neg h]

theorem State.region_eq (s : State) (c : Fin 96) (r : Fin 8) : s.region c r = (s.core c).regions[r] := rfl

theorem State.ctx_eq (s : State) (c : Fin 96) (k : Fin 4) : s.ctx c k = (s.core c).ctxs[k] := rfl

theorem State.elem_eq (s : State) (c : Fin 96) (e : Fin 32) : s.elem c e = (s.core c).elems[e] := rfl

/-- A change to one entry of a vector, seen at any entry. -/
theorem getElem_set_fin {α : Type} {n : Nat} (v : Vector α n) (i j : Fin n) (a : α) :
    (v.set i a)[j] = if j = i then a else v[j] := by
  by_cases h : j = i
  · subst h; simp
  · rw [if_neg h]
    have : i.val ≠ j.val := fun e => h (Fin.ext e.symm)
    simpa using Vector.getElem_set_ne (xs := v) i.isLt j.isLt this

theorem State.region_onRegion (s : State) (c d : Fin 96) (r q : Fin 8) (f : Region → Region) :
    (s.onRegion c r f).region d q = if d = c ∧ q = r then f (s.region c r) else s.region d q := by
  rw [State.region_eq]
  unfold State.onRegion
  rw [State.core_onCore]
  by_cases h : d = c
  · subst h
    rw [if_pos rfl]
    refine (getElem_set_fin _ _ _ _).trans ?_
    by_cases hq : q = r
    · rw [if_pos hq, if_pos ⟨rfl, hq⟩]; rfl
    · rw [if_neg hq, if_neg fun e => hq e.2]; rfl
  · rw [if_neg h, if_neg fun e => h e.1]; rfl

@[simp] theorem State.region_onRegion_self (s : State) (c : Fin 96) (r : Fin 8) (f : Region → Region) :
    (s.onRegion c r f).region c r = f (s.region c r) := by
  rw [State.region_onRegion, if_pos ⟨rfl, rfl⟩]

theorem State.ctx_onCtx (s : State) (c d : Fin 96) (k q : Fin 4) (f : Context → Context) :
    (s.onCtx c k f).ctx d q = if d = c ∧ q = k then f (s.ctx c k) else s.ctx d q := by
  rw [State.ctx_eq]
  unfold State.onCtx
  rw [State.core_onCore]
  by_cases h : d = c
  · subst h
    rw [if_pos rfl]
    refine (getElem_set_fin _ _ _ _).trans ?_
    by_cases hq : q = k
    · rw [if_pos hq, if_pos ⟨rfl, hq⟩]; rfl
    · rw [if_neg hq, if_neg fun e => hq e.2]; rfl
  · rw [if_neg h, if_neg fun e => h e.1]; rfl

@[simp] theorem State.ctx_onCtx_self (s : State) (c : Fin 96) (k : Fin 4) (f : Context → Context) :
    (s.onCtx c k f).ctx c k = f (s.ctx c k) := by
  rw [State.ctx_onCtx, if_pos ⟨rfl, rfl⟩]

theorem State.elem_onElem (s : State) (c d : Fin 96) (e q : Fin 32) (f : Element → Element) :
    (s.onElem c e f).elem d q = if d = c ∧ q = e then f (s.elem c e) else s.elem d q := by
  rw [State.elem_eq]
  unfold State.onElem
  rw [State.core_onCore]
  by_cases h : d = c
  · subst h
    rw [if_pos rfl]
    refine (getElem_set_fin _ _ _ _).trans ?_
    by_cases hq : q = e
    · rw [if_pos hq, if_pos ⟨rfl, hq⟩]; rfl
    · rw [if_neg hq, if_neg fun h => hq h.2]; rfl
  · rw [if_neg h, if_neg fun e => h e.1]; rfl

@[simp] theorem State.elem_onElem_self (s : State) (c : Fin 96) (e : Fin 32) (f : Element → Element) :
    (s.onElem c e f).elem c e = f (s.elem c e) := by
  rw [State.elem_onElem, if_pos ⟨rfl, rfl⟩]

@[simp] theorem State.ctx_onRegion (s : State) (c : Fin 96) (r : Fin 8) (f : Region → Region) (d : Fin 96) (q : Fin 4) : (s.onRegion c r f).ctx d q = s.ctx d q := by
  rw [State.ctx_eq, State.onRegion, State.core_onCore]
  split
  · rename_i h; subst h; rfl
  · rfl

@[simp] theorem State.elem_onRegion (s : State) (c : Fin 96) (r : Fin 8) (f : Region → Region) (d : Fin 96) (q : Fin 32) : (s.onRegion c r f).elem d q = s.elem d q := by
  rw [State.elem_eq, State.onRegion, State.core_onCore]
  split
  · rename_i h; subst h; rfl
  · rfl

@[simp] theorem State.region_onCtx (s : State) (c : Fin 96) (k : Fin 4) (f : Context → Context) (d : Fin 96) (q : Fin 8) : (s.onCtx c k f).region d q = s.region d q := by
  rw [State.region_eq, State.onCtx, State.core_onCore]
  split
  · rename_i h; subst h; rfl
  · rfl

@[simp] theorem State.elem_onCtx (s : State) (c : Fin 96) (k : Fin 4) (f : Context → Context) (d : Fin 96) (q : Fin 32) : (s.onCtx c k f).elem d q = s.elem d q := by
  rw [State.elem_eq, State.onCtx, State.core_onCore]
  split
  · rename_i h; subst h; rfl
  · rfl

@[simp] theorem State.region_onElem (s : State) (c : Fin 96) (e : Fin 32) (f : Element → Element) (d : Fin 96) (q : Fin 8) : (s.onElem c e f).region d q = s.region d q := by
  rw [State.region_eq, State.onElem, State.core_onCore]
  split
  · rename_i h; subst h; rfl
  · rfl

@[simp] theorem State.ctx_onElem (s : State) (c : Fin 96) (e : Fin 32) (f : Element → Element) (d : Fin 96) (q : Fin 4) : (s.onElem c e f).ctx d q = s.ctx d q := by
  rw [State.ctx_eq, State.onElem, State.core_onCore]
  split
  · rename_i h; subst h; rfl
  · rfl

@[simp] theorem State.elemAt_onElem (s : State) (c : Fin 96) (e : Fin 32) (f : Element → Element) (x : Site) :
    (s.onElem c e f).elemAt x = s.elemAt x := by
  unfold State.elemAt
  rw [State.region_onElem]

@[simp] theorem State.region_onSlot (s : State) (x : Site) (f : Slot → Slot) (d : Fin 96) (q : Fin 8) :
    (s.onSlot x f).region d q = s.region d q := State.region_onElem ..

@[simp] theorem State.ctx_onSlot (s : State) (x : Site) (f : Slot → Slot) (d : Fin 96) (q : Fin 4) :
    (s.onSlot x f).ctx d q = s.ctx d q := State.ctx_onElem ..

@[simp] theorem State.elemAt_onSlot (s : State) (x y : Site) (f : Slot → Slot) : (s.onSlot x f).elemAt y = s.elemAt y :=
  State.elemAt_onElem ..

/-- A slot after a change to it. -/
@[simp] theorem State.slot_onSlot_self (s : State) (x : Site) (f : Slot → Slot) : (s.onSlot x f).slot x = f (s.slot x) := by
  unfold State.slot
  rw [State.elemAt_onSlot]
  unfold State.onSlot
  rw [State.elem_onElem_self]
  exact (getElem_set_fin _ _ _ _).trans (if_pos rfl)

/-- A slot after a change to another position or element. -/
theorem State.slot_onSlot_of_ne (s : State) (x y : Site) (f : Slot → Slot)
    (h : y.core ≠ x.core ∨ s.elemAt y ≠ s.elemAt x ∨ slotPos y.slot ≠ slotPos x.slot) :
    (s.onSlot x f).slot y = s.slot y := by
  unfold State.slot
  rw [State.elemAt_onSlot]
  unfold State.onSlot
  by_cases hc : y.core = x.core ∧ s.elemAt y = s.elemAt x
  · rw [hc.1, hc.2, State.elem_onElem_self]
    refine (getElem_set_fin _ _ _ _).trans (if_neg fun hp => ?_)
    rcases h with h | h | h
    · exact h hc.1
    · exact h hc.2
    · exact h hp
  · rw [State.elem_onElem, if_neg hc]

@[simp] theorem State.head_onSlot (s : State) (x y : Site) (f : Slot → Slot) : (s.onSlot x f).head y = s.head y := by
  unfold State.head
  rw [State.elemAt_onSlot]
  unfold State.onSlot
  by_cases hc : y.core = x.core ∧ s.elemAt y = s.elemAt x
  · rw [hc.1, hc.2, State.elem_onElem_self]
  · rw [State.elem_onElem, if_neg hc]

end Sys2Proof.Machine
end

