-- ==== Sys2Proof/Laws/Fire.lean ====
section
/-! SUPPORT. What the firing operation does, said once: when `attempt`, `plain` and `laneOp` fire, and what a firing
leaves alone. -/

namespace Sys2Proof.Machine

/-! ## When a firing goes through -/

theorem Clear.canShoot {s : State} {io : Io} {n0 n1 : Nat} (h : Clear s io n0 n1) (sh : Shot) :
    s.canShoot s.clk.focus io n0 n1 sh = true := by
  have hh (p : PortName) (n : Nat) : s.snapHolds s.clk.focus p n = false := by
    unfold State.snapHolds; rw [h.snap]
  unfold State.canShoot
  simp [h.live, h.room0, h.room1, h.rein, hh]

theorem Clear.attempt {s : State} {io : Io} {n0 n1 : Nat} (h : Clear s io n0 n1) (lat : Nat) (sh : Shot) :
    s.attempt s.clk.focus io lat n0 n1 sh = s.shoot s.clk.focus io lat sh := if_pos (h.canShoot sh)

theorem Ready.kind {s : State} {io : Io} (h : Ready s io) : s.kind s.clk.focus io = .fire := by
  unfold State.kind kindOf
  by_cases hu : io.used = []
  · rw [if_pos (by simp [hu]), h.fresh hu]; rfl
  · rw [if_neg (by simpa using hu), if_pos]
    rw [List.all_eq_true]
    intro q hq
    obtain ⟨p, hp, rfl⟩ := List.mem_map.1 hq
    simp [h.full p hp]

theorem Ready.plain {s : State} {io : Io} (h : Ready s io) (lat : Nat) (tag : BitVec 4) (sh : Shot) :
    s.plain s.clk.focus io lat tag sh = s.shoot s.clk.focus io lat sh := by
  unfold State.plain
  rw [h.kind]
  exact h.clear.attempt lat sh

theorem Clean.firstVoid {ts : List Token} (h : Clean ts) : firstVoid ts = none := by
  unfold Machine.firstVoid
  rw [List.find?_eq_none.2 fun t ht => by simp [(h t ht).1]]
  rfl

theorem Clean.poison {ts : List Token} (h : Clean ts) : ts.any Token.poisoned = false :=
  List.any_eq_false.2 fun t ht => by simp [(h t ht).2]

/-- A lane operation whose operands are clean and whose operation gives a token delivers it. -/
theorem Ready.laneOp_ok {s : State} {io : Io} (h : Ready s io) (hc : Clean (s.reads io)) (lat : Nat) (tag : BitVec 4)
    (pp : Bool) (op : List Token → List Token → List Token → Result) (t : Token)
    (ht : op (s.ents s.clk.focus io .a) (s.ents s.clk.focus io .b) (s.ents s.clk.focus io .c) = .ok t) :
    s.laneOp io lat tag pp op = s.delivers io lat t := by
  have hv : firstVoid ((s.ents s.clk.focus io .a).take 1 ++ (s.ents s.clk.focus io .b).take 1 ++
      (s.ents s.clk.focus io .c).take 1) = none := hc.firstVoid
  have hp : ((s.ents s.clk.focus io .a).take 1 ++ (s.ents s.clk.focus io .b).take 1 ++
      (s.ents s.clk.focus io .c).take 1).any Token.poisoned = false := hc.poison
  unfold State.laneOp State.delivers
  dsimp only
  rw [h.plain]
  unfold laneOut
  rw [hv, hp, ht]
  simp

/-- A lane operation whose operands are clean and whose operation faults delivers a void token and the fault. -/
theorem Ready.laneOp_error {s : State} {io : Io} (h : Ready s io) (hc : Clean (s.reads io)) (lat : Nat) (tag : BitVec 4)
    (pp : Bool) (op : List Token → List Token → List Token → Result) (c : Cause)
    (ht : op (s.ents s.clk.focus io .a) (s.ents s.clk.focus io .b) (s.ents s.clk.focus io .c) = .error c) :
    s.laneOp io lat tag pp op = s.faults io lat tag c := by
  have hv : firstVoid ((s.ents s.clk.focus io .a).take 1 ++ (s.ents s.clk.focus io .b).take 1 ++
      (s.ents s.clk.focus io .c).take 1) = none := hc.firstVoid
  have hp : ((s.ents s.clk.focus io .a).take 1 ++ (s.ents s.clk.focus io .b).take 1 ++
      (s.ents s.clk.focus io .c).take 1).any Token.poisoned = false := hc.poison
  unfold State.laneOp State.faults
  dsimp only
  rw [h.plain]
  unfold laneOut
  rw [hv, hp, ht]
  simp

theorem isData_dataToken (ls : Vector Lane 16) (t : BitVec 4) : IsData (dataToken ls t) t :=
  ⟨rfl, rfl, rfl, rfl, rfl, beq_self_eq_true _⟩

theorem isData_mapLanes (t : BitVec 4) (op : Nat → Lane) : IsData (mapLanes t op) t := isData_dataToken _ _

theorem isData_elsToken (t : BitVec 4) (es : List Nat) : IsData (elsToken t es) t := isData_dataToken _ _

theorem Tagged.check {raw : Bool} {tag : BitVec 4} {t : Token} (h : Tagged raw tag t) : checkTag raw tag t = .ok () := by
  unfold checkTag
  rw [h.1, h.2]
  rfl

theorem mem_used (io : Io) (p : PortName) : p ∈ io.used ↔ (io.ctl p).used = true := by
  unfold Io.used ports
  cases p <;> simp

/-- An unused port is read nothing of. -/
theorem ents_unused (s : State) (x : Site) (io : Io) (p : PortName) (h : (io.ctl p).used = false) : s.ents x io p = [] := by
  have : (io.ctl p).needN = 0 := by
    unfold PortCtl.used at h
    unfold PortCtl.needN
    simp at h
    simp [h.1, h.2]
  unfold State.ents
  simp [this]

/-- A used port needs at least one entry. -/
theorem needN_pos {c : PortCtl} (h : c.used = true) : 0 < c.needN := by
  have key : ∀ n p : BitVec 3, (PortCtl.mk n p).used = true → 0 < (PortCtl.mk n p).needN := by decide
  exact key c.need c.pop h

/-- A port that holds its need has an oldest entry, and reads it. -/
theorem ents_data {s : State} {x : Site} {io : Io} {p : PortName} (hu : (io.ctl p).used = true)
    (h : s.portSt x io p = .data) : ∃ rest, s.ents x io p = oldest (s.ents x io p) :: rest := by
  have hn := needN_pos hu
  have hlen : (io.ctl p).needN ≤ ((s.slot x).port p).q.length := by
    unfold State.portSt entriesSt at h
    split at h
    · cases h
    · split at h
      · assumption
      · cases h
  have : s.ents x io p ≠ [] := by
    unfold State.ents
    intro e
    rw [List.map_eq_nil_iff, List.take_eq_nil_iff] at e
    rcases e with e | e
    · omega
    · rw [e] at hlen
      exact absurd hlen (Nat.not_le.2 hn)
  cases hs : s.ents x io p with
  | nil => exact absurd hs this
  | cons a rest => exact ⟨rest, rfl⟩

/-- A used port's operand is among the entries a lane operation looks at. -/
theorem Ready.operand_mem {s : State} {io : Io} (h : Ready s io) {p : PortName} (hu : (io.ctl p).used = true) :
    s.operand io p ∈ s.reads io := by
  obtain ⟨rest, hr⟩ := ents_data hu (h.full p ((mem_used io p).2 hu))
  have : s.operand io p ∈ (s.ents s.clk.focus io p).take 1 := by
    unfold State.operand
    rw [hr]
    simp [oldest]
  unfold State.reads
  cases p
  · exact List.mem_append_left _ (List.mem_append_left _ this)
  · exact List.mem_append_left _ (List.mem_append_right _ this)
  · exact List.mem_append_right _ this

/-- An elementwise operation that does not trap delivers its elements. -/
theorem Ready.elementwise {s : State} {io : Io} {lat : Nat} {d t : BitVec 4}
    {op : List Token → List Token → List Token → Result} {v : Nat → Nat → Nat} {r : Done}
    (he : r = .next (s.laneOp io lat d false op)) (hr : Ready s io) (hc : Clean (s.reads io))
    (hop : op (s.ents s.clk.focus io .a) (s.ents s.clk.focus io .b) (s.ents s.clk.focus io .c) =
      mapEls t fun l j => (v l j, false)) :
    ∃ tok, r = .next (s.delivers io lat tok) ∧ IsData tok t ∧
      ∀ l < 16, ∀ j < tagCount t, tok.el t l j = v l j % 2 ^ tagWidth t := by
  have hm := mapEls_ok t (fun l j => (v l j, false)) (fun _ _ _ _ => rfl)
  exact ⟨_, he.trans (congrArg _ (hr.laneOp_ok hc _ _ _ _ _ (hop.trans hm))), isData_elsToken _ _,
    fun l hl j hj => el_elsToken t v l j hl hj⟩

/-! ## What a firing leaves alone -/

theorem Local.refl (x : Site) (s : State) : Local x s s :=
  ⟨rfl, rfl, rfl, rfl, rfl, rfl, rfl, rfl, fun _ _ => rfl, ⟨_, _, rfl⟩, fun _ _ => rfl, fun _ _ => rfl, ⟨_, _, rfl⟩⟩

/-- The element of the site is the same. -/
theorem Local.site {x : Site} {s t : State} (h : Local x s t) : t.elemAt x = s.elemAt x := by
  obtain ⟨ps, n, hr⟩ := h.region
  unfold State.elemAt
  rw [hr]
  rfl

/-- No snapshot is opened. -/
theorem Local.snap {x : Site} {s t : State} (h : Local x s t) :
    (t.region x.core x.unit).snap = (s.region x.core x.unit).snap := by
  obtain ⟨ps, n, hr⟩ := h.region
  rw [hr]

theorem Local.trans {x : Site} {s t u : State} (h : Local x s t) (k : Local x t u) : Local x s u where
  mem := k.mem.trans h.mem
  accs := k.accs.trans h.accs
  kiln := k.kiln.trans h.kiln
  col := k.col.trans h.col
  egress := k.egress.trans h.egress
  dev := k.dev.trans h.dev
  host := k.host.trans h.host
  now := k.now.trans h.now
  cores d hd := (k.cores d hd).trans (h.cores d hd)
  core := by
    obtain ⟨es, rs, h1⟩ := h.core
    obtain ⟨es', rs', h2⟩ := k.core
    exact ⟨es', rs', by rw [h2, h1]⟩
  regions r hr := (k.regions r hr).trans (h.regions r hr)
  elems e he := (k.elems e (by rw [h.site]; exact he)).trans (h.elems e he)
  region := by
    obtain ⟨ps, n, h1⟩ := h.region
    obtain ⟨qs, m, h2⟩ := k.region
    exact ⟨qs, m, by rw [h2, h1]⟩

theorem Local.onElem (s : State) (x : Site) (f : Element → Element) : Local x s (s.onElem x.core (s.elemAt x) f) :=
  ⟨rfl, rfl, rfl, rfl, rfl, rfl, rfl, rfl, fun _ hd => State.core_onCore_of_ne _ _ hd,
    ⟨_, _, State.core_onCore_self _ _ _⟩, fun _ _ => State.region_onElem ..,
    fun e he => by rw [State.elem_onElem, if_neg fun h => he h.2], ⟨_, _, State.region_onElem ..⟩⟩

theorem Local.onSlot (s : State) (x : Site) (f : Slot → Slot) : Local x s (s.onSlot x f) := Local.onElem _ _ _

theorem Local.onHead (s : State) (x : Site) (f : Head → Head) : Local x s (s.onHead x f) := Local.onElem _ _ _

/-- A change to the faults of the site's region. -/
theorem Local.onRegion (s : State) (x : Site) (f : Region → Region)
    (hf : ∀ g, ∃ ps n, f g = { g with pend := ps, later := n }) : Local x s (s.onRegion x.core x.unit f) :=
  ⟨rfl, rfl, rfl, rfl, rfl, rfl, rfl, rfl, fun _ hd => State.core_onCore_of_ne _ _ hd,
    ⟨_, _, State.core_onCore_self _ _ _⟩, fun r hr => by rw [State.region_onRegion, if_neg fun h => hr h.2],
    fun _ _ => State.elem_onRegion .., by
      obtain ⟨ps, n, h⟩ := hf (s.region x.core x.unit)
      exact ⟨ps, n, (State.region_onRegion_self ..).trans h⟩⟩

/-- A change to the clock that leaves the cycle. -/
theorem Local.clk (x : Site) (s : State) (k : Clock) (h : k.now = s.clk.now) : Local x s { s with clk := k } :=
  ⟨rfl, rfl, rfl, rfl, rfl, rfl, rfl, h, fun _ _ => rfl, ⟨_, _, rfl⟩, fun _ _ => rfl, fun _ _ => rfl, ⟨_, _, rfl⟩⟩

theorem Local.later (x : Site) (s : State) (d : Nat) (i : Instr) : Local x s (s.later d i) := Local.clk x s _ rfl
theorem Local.soon (x : Site) (s : State) (i : Instr) : Local x s (s.soon i) := Local.clk x s _ rfl
theorem Local.tickBy (x : Site) (s : State) (n : Nat) : Local x s (s.tickBy n) := Local.clk x s _ rfl
theorem Local.tickId (x : Site) (s : State) : Local x s s.tickId := Local.clk x s _ rfl

theorem Local.foldl {α : Type} (x : Site) (f : State → α → State) (hf : ∀ s a, Local x s (f s a)) (l : List α) (s : State) :
    Local x s (l.foldl f s) := by
  induction l generalizing s with
  | nil => exact Local.refl x s
  | cons a rest ih => exact (hf s a).trans (ih _)

theorem Local.ite {x : Site} {s a b : State} {c : Prop} [Decidable c] (ha : Local x s a) (hb : Local x s b) :
    Local x s (if c then a else b) := by split <;> assumption

theorem Local.returnCredits (s : State) (x y : Site) (f : Feeder) (n : Nat) : Local x s (s.returnCredits y f n) := by
  unfold State.returnCredits
  split
  · exact Local.foldl x _ (fun _ _ => Local.later x _ _ _) _ _
  · exact Local.refl x s

theorem Local.payBack (s : State) (x y : Site) (q : Port) (n : Nat) : Local x s (s.payBack y q n) := by
  unfold State.payBack
  have h := Local.foldl x (fun (s : State) (p : Feeder × Nat) => s.returnCredits y p.1 p.2)
    (fun _ _ => Local.returnCredits _ x y _ _) (splitFormer q.former n).1 s
  exact Local.ite h (h.trans (Local.returnCredits _ x y _ _))

theorem Local.refill (s : State) (x : Site) : Local x s (s.refill x) := by
  unfold State.refill
  split
  · exact Local.refl x s
  · exact Local.ite (Local.refl x s) ((Local.onSlot s x _).trans (Local.onHead _ x _))

theorem Local.pop (s : State) (x : Site) (p : PortName) (n : Nat) : Local x s (s.pop x p n) :=
  ((Local.onSlot s x _).trans (Local.payBack _ x x _ _)).trans (Local.refill _ x)

theorem Local.take (s : State) (x : Site) (p : PortName) (n : Nat) (h : (s.region x.core x.unit).snap = none) :
    Local x s (s.take x p n) := by
  unfold State.take
  rw [h]
  exact Local.ite (Local.refl x s) (Local.pop s x p n)

theorem Local.send (s : State) (x : Site) (second : Bool) (t : Target) (lat : Nat) (st : Stamp) (tok : Token) :
    Local x s (s.send x second t lat st tok) := by
  unfold State.send
  exact Local.ite (Local.refl x s) ((Local.onSlot s x _).trans (Local.later x _ _ _))

theorem Local.sendBoth (s : State) (x : Site) (t0 t1 : Target) (lat : Nat) (st : Stamp) (e : Emit) :
    Local x s (s.sendBoth x t0 t1 lat st e) := by
  unfold State.sendBoth
  cases e.t0 <;> cases e.t1
  · exact Local.refl x s
  · exact Local.send _ x _ _ _ _ _
  · exact Local.send _ x _ _ _ _ _
  · exact (Local.send _ x _ _ _ _ _).trans (Local.send _ x _ _ _ _ _)

theorem Local.regionFault (s : State) (x : Site) (i : Fin 128) (c : BitVec 8) (a : Word64) (k : Bool) :
    Local x s (s.regionFault x.core x.unit i c a k) :=
  Local.onRegion s x _ fun g => by unfold Region.raise; split <;> exact ⟨_, _, rfl⟩

theorem Local.firingFault (s : State) (x : Site) (c : Cause) : Local x s (s.firingFault x c) := by
  unfold State.firingFault
  exact Local.ite (Local.refl x s) (Local.regionFault s x _ _ _ _)

/-- A firing in a region without an open snapshot. -/
theorem Local.shoot (s : State) (x : Site) (io : Io) (lat : Nat) (sh : Shot) (h : (s.region x.core x.unit).snap = none) :
    Local x s (s.shoot x io lat sh) := by
  have h1 := Local.take s x .a sh.pa h
  have h2 := h1.trans (Local.take _ x .b sh.pb (h1.snap.trans h))
  have h3 := h2.trans (Local.take _ x .c sh.pc (h2.snap.trans h))
  have h4 (f : Slot → Slot) (st : Stamp) := (h3.trans (Local.onSlot _ x f)).trans
    ((Local.sendBoth _ x io.t0 io.t1 lat st sh.out).trans (Local.sendBoth _ x io.t0 io.t1 lat st sh.then_))
  have last (t : State) (ht : Local x s t) : Local x s (t.snapProgress x) := by
    unfold State.snapProgress
    rw [ht.snap, h]
    exact ht
  unfold State.shoot
  refine last _ ?_
  cases sh.cause with
  | none => exact h4 _ _
  | some c => exact (h4 _ _).trans (Local.firingFault _ x c)

theorem Local.attempt (s : State) (x : Site) (io : Io) (lat n0 n1 : Nat) (sh : Shot)
    (h : (s.region x.core x.unit).snap = none) : Local x s (s.attempt x io lat n0 n1 sh) :=
  Local.ite (Local.shoot s x io lat sh h) (Local.refl x s)

theorem Local.plain (s : State) (x : Site) (io : Io) (lat : Nat) (tag : BitVec 4) (sh : Shot)
    (h : (s.region x.core x.unit).snap = none) : Local x s (s.plain x io lat tag sh) := by
  unfold State.plain
  split
  · exact Local.refl x s
  · exact Local.attempt s x io lat _ _ _ h
  · exact Local.attempt s x io lat _ _ _ h
  · exact Local.attempt s x io lat _ _ _ h

theorem Local.laneOp (s : State) (io : Io) (lat : Nat) (tag : BitVec 4) (pp : Bool)
    (op : List Token → List Token → List Token → Result)
    (h : (s.region s.clk.focus.core s.clk.focus.unit).snap = none) : Local s.clk.focus s (s.laneOp io lat tag pp op) :=
  Local.plain s _ io lat tag _ h

theorem Local.wideOp (s : State) (io : Io) (lat : Nat) (tag : BitVec 4)
    (op : List Token → List Token → List Token → Result)
    (h : (s.region s.clk.focus.core s.clk.focus.unit).snap = none) : Local s.clk.focus s (s.wideOp io lat tag op) :=
  Local.plain s _ io lat tag _ h

end Sys2Proof.Machine
end

