-- ==== Sys2Proof/Laws/PerInstr.lean ====
section
/-! SUPPORT. The family RoundTrip, one lemma for each constructor: an instruction that passes the checks of its own word, once
encoded, decodes to itself (R63, R64, R68, R73). A step of the device itself has no word. -/

namespace Sys2Proof.Laws.RoundTrip

/-- What the family says of an instruction. -/
def Statement (i : Instr) : Prop := ∀ w, i.wf = true → encode i = some w → decode w = .instr i

/-- A word that is not zero, whose opcode names an instruction that passes its own checks, decodes to it. -/
theorem decode_of {w : Word64} {i : Instr} (hz : w ≠ 0) (hm : opcodeMap w = some i) (hw : i.wf = true) :
    decode w = .instr i := by
  have hn : localReason i = none := by simpa [Instr.wf] using hw
  have h0 : (w == 0) = false := by simpa using hz
  unfold decode
  rw [h0, hm]
  simp only [hn]
  rfl

@[simp] theorem need_none (b : Bool) (r : Reason) : need b r = none ↔ b = true := by
  cases b <;> simp [need]

theorem firstBad_none (l : List (Option Reason)) : firstBad l = none ↔ ∀ r ∈ l, r = none := by
  induction l with
  | nil => simp [firstBad]
  | cons a l ih => cases a <;> simp [firstBad, ih]

theorem wf_iff (i : Instr) : i.wf = true ↔ localReason i = none := by simp [Instr.wf]

/-- The column of a word's opcode and its place in it. -/
theorem nibbles {w : Word64} {op mod : BitVec 8} {t0 t1 : Target} (h : Carries w op mod t0 t1) :
    (w.extractLsb' 56 4).toNat = op.toNat % 16 ∧ (w.extractLsb' 60 4).toNat = op.toNat / 16 := by
  rw [h.op_eq 56 4 (by decide), h.op_eq 60 4 (by decide)]
  have := op.isLt
  simp only [BitVec.extractLsb'_toNat, Nat.shiftRight_eq_div_pow]
  omega

theorem iadd (f : FA) : Statement (.iadd f) := by
  intro w hw he
  obtain rfl : f.word 0x01 = w := Option.some.inj he
  have h := f.carries 0x01
  have hm : opcodeMap (f.word 0x01) = some (.iadd (faOf (f.word 0x01))) := by
    unfold opcodeMap
    rw [(nibbles h).1, (nibbles h).2]
    rfl
  rw [faOf_word] at hm
  exact decode_of (h.ne_zero (by decide)) hm hw

theorem isub (f : FA) : Statement (.isub f) := by
  intro w hw he
  obtain rfl : f.word 0x02 = w := Option.some.inj he
  have h := f.carries 0x02
  have hm : opcodeMap (f.word 0x02) = some (.isub (faOf (f.word 0x02))) := by
    unfold opcodeMap
    rw [(nibbles h).1, (nibbles h).2]
    rfl
  rw [faOf_word] at hm
  exact decode_of (h.ne_zero (by decide)) hm hw

theorem imul (f : FA) : Statement (.imul f) := by
  intro w hw he
  obtain rfl : f.word 0x03 = w := Option.some.inj he
  have h := f.carries 0x03
  have hm : opcodeMap (f.word 0x03) = some (.imul (faOf (f.word 0x03))) := by
    unfold opcodeMap
    rw [(nibbles h).1, (nibbles h).2]
    rfl
  rw [faOf_word] at hm
  exact decode_of (h.ne_zero (by decide)) hm hw

theorem imulh (f : FA) : Statement (.imulh f) := by
  intro w hw he
  obtain rfl : f.word 0x04 = w := Option.some.inj he
  have h := f.carries 0x04
  have hm : opcodeMap (f.word 0x04) = some (.imulh (faOf (f.word 0x04))) := by
    unfold opcodeMap
    rw [(nibbles h).1, (nibbles h).2]
    rfl
  rw [faOf_word] at hm
  exact decode_of (h.ne_zero (by decide)) hm hw

theorem imad (f : FA) : Statement (.imad f) := by
  intro w hw he
  obtain rfl : f.word 0x05 = w := Option.some.inj he
  have h := f.carries 0x05
  have hm : opcodeMap (f.word 0x05) = some (.imad (faOf (f.word 0x05))) := by
    unfold opcodeMap
    rw [(nibbles h).1, (nibbles h).2]
    rfl
  rw [faOf_word] at hm
  exact decode_of (h.ne_zero (by decide)) hm hw

theorem ineg (f : FA) : Statement (.ineg f) := by
  intro w hw he
  obtain rfl : f.word 0x06 = w := Option.some.inj he
  have h := f.carries 0x06
  have hm : opcodeMap (f.word 0x06) = some (.ineg (faOf (f.word 0x06))) := by
    unfold opcodeMap
    rw [(nibbles h).1, (nibbles h).2]
    rfl
  rw [faOf_word] at hm
  exact decode_of (h.ne_zero (by decide)) hm hw

theorem iabs (f : FA) : Statement (.iabs f) := by
  intro w hw he
  obtain rfl : f.word 0x07 = w := Option.some.inj he
  have h := f.carries 0x07
  have hm : opcodeMap (f.word 0x07) = some (.iabs (faOf (f.word 0x07))) := by
    unfold opcodeMap
    rw [(nibbles h).1, (nibbles h).2]
    rfl
  rw [faOf_word] at hm
  exact decode_of (h.ne_zero (by decide)) hm hw

theorem imin (f : FA) : Statement (.imin f) := by
  intro w hw he
  obtain rfl : f.word 0x08 = w := Option.some.inj he
  have h := f.carries 0x08
  have hm : opcodeMap (f.word 0x08) = some (.imin (faOf (f.word 0x08))) := by
    unfold opcodeMap
    rw [(nibbles h).1, (nibbles h).2]
    rfl
  rw [faOf_word] at hm
  exact decode_of (h.ne_zero (by decide)) hm hw

theorem imax (f : FA) : Statement (.imax f) := by
  intro w hw he
  obtain rfl : f.word 0x09 = w := Option.some.inj he
  have h := f.carries 0x09
  have hm : opcodeMap (f.word 0x09) = some (.imax (faOf (f.word 0x09))) := by
    unfold opcodeMap
    rw [(nibbles h).1, (nibbles h).2]
    rfl
  rw [faOf_word] at hm
  exact decode_of (h.ne_zero (by decide)) hm hw

theorem and (f : FA) : Statement (.and f) := by
  intro w hw he
  obtain rfl : f.word 0x0A = w := Option.some.inj he
  have h := f.carries 0x0A
  have hm : opcodeMap (f.word 0x0A) = some (.and (faOf (f.word 0x0A))) := by
    unfold opcodeMap
    rw [(nibbles h).1, (nibbles h).2]
    rfl
  rw [faOf_word] at hm
  exact decode_of (h.ne_zero (by decide)) hm hw

theorem or (f : FA) : Statement (.or f) := by
  intro w hw he
  obtain rfl : f.word 0x0B = w := Option.some.inj he
  have h := f.carries 0x0B
  have hm : opcodeMap (f.word 0x0B) = some (.or (faOf (f.word 0x0B))) := by
    unfold opcodeMap
    rw [(nibbles h).1, (nibbles h).2]
    rfl
  rw [faOf_word] at hm
  exact decode_of (h.ne_zero (by decide)) hm hw

theorem xor (f : FA) : Statement (.xor f) := by
  intro w hw he
  obtain rfl : f.word 0x0C = w := Option.some.inj he
  have h := f.carries 0x0C
  have hm : opcodeMap (f.word 0x0C) = some (.xor (faOf (f.word 0x0C))) := by
    unfold opcodeMap
    rw [(nibbles h).1, (nibbles h).2]
    rfl
  rw [faOf_word] at hm
  exact decode_of (h.ne_zero (by decide)) hm hw

theorem not (f : FA) : Statement (.not f) := by
  intro w hw he
  obtain rfl : f.word 0x0D = w := Option.some.inj he
  have h := f.carries 0x0D
  have hm : opcodeMap (f.word 0x0D) = some (.not (faOf (f.word 0x0D))) := by
    unfold opcodeMap
    rw [(nibbles h).1, (nibbles h).2]
    rfl
  rw [faOf_word] at hm
  exact decode_of (h.ne_zero (by decide)) hm hw

theorem shl (f : FA) : Statement (.shl f) := by
  intro w hw he
  obtain rfl : f.word 0x0E = w := Option.some.inj he
  have h := f.carries 0x0E
  have hm : opcodeMap (f.word 0x0E) = some (.shl (faOf (f.word 0x0E))) := by
    unfold opcodeMap
    rw [(nibbles h).1, (nibbles h).2]
    rfl
  rw [faOf_word] at hm
  exact decode_of (h.ne_zero (by decide)) hm hw

theorem shr (f : FA) : Statement (.shr f) := by
  intro w hw he
  obtain rfl : f.word 0x0F = w := Option.some.inj he
  have h := f.carries 0x0F
  have hm : opcodeMap (f.word 0x0F) = some (.shr (faOf (f.word 0x0F))) := by
    unfold opcodeMap
    rw [(nibbles h).1, (nibbles h).2]
    rfl
  rw [faOf_word] at hm
  exact decode_of (h.ne_zero (by decide)) hm hw

theorem sar (f : FA) : Statement (.sar f) := by
  intro w hw he
  obtain rfl : f.word 0x10 = w := Option.some.inj he
  have h := f.carries 0x10
  have hm : opcodeMap (f.word 0x10) = some (.sar (faOf (f.word 0x10))) := by
    unfold opcodeMap
    rw [(nibbles h).1, (nibbles h).2]
    rfl
  rw [faOf_word] at hm
  exact decode_of (h.ne_zero (by decide)) hm hw

theorem rotl (f : FA) : Statement (.rotl f) := by
  intro w hw he
  obtain rfl : f.word 0x11 = w := Option.some.inj he
  have h := f.carries 0x11
  have hm : opcodeMap (f.word 0x11) = some (.rotl (faOf (f.word 0x11))) := by
    unfold opcodeMap
    rw [(nibbles h).1, (nibbles h).2]
    rfl
  rw [faOf_word] at hm
  exact decode_of (h.ne_zero (by decide)) hm hw

theorem clz (f : FA) : Statement (.clz f) := by
  intro w hw he
  obtain rfl : f.word 0x12 = w := Option.some.inj he
  have h := f.carries 0x12
  have hm : opcodeMap (f.word 0x12) = some (.clz (faOf (f.word 0x12))) := by
    unfold opcodeMap
    rw [(nibbles h).1, (nibbles h).2]
    rfl
  rw [faOf_word] at hm
  exact decode_of (h.ne_zero (by decide)) hm hw

theorem popc (f : FA) : Statement (.popc f) := by
  intro w hw he
  obtain rfl : f.word 0x13 = w := Option.some.inj he
  have h := f.carries 0x13
  have hm : opcodeMap (f.word 0x13) = some (.popc (faOf (f.word 0x13))) := by
    unfold opcodeMap
    rw [(nibbles h).1, (nibbles h).2]
    rfl
  rw [faOf_word] at hm
  exact decode_of (h.ne_zero (by decide)) hm hw

theorem bfx (f : FI) : Statement (.bfx f) := by
  intro w hw he
  obtain rfl : f.word 0x14 = w := Option.some.inj he
  have h := f.carries 0x14
  have hm : opcodeMap (f.word 0x14) = some (.bfx (fiOf (f.word 0x14))) := by
    unfold opcodeMap
    rw [(nibbles h).1, (nibbles h).2]
    rfl
  rw [fiOf_word] at hm
  exact decode_of (h.ne_zero (by decide)) hm hw

theorem bfi (f : FA) : Statement (.bfi f) := by
  intro w hw he
  obtain rfl : f.word 0x15 = w := Option.some.inj he
  have h := f.carries 0x15
  have hm : opcodeMap (f.word 0x15) = some (.bfi (faOf (f.word 0x15))) := by
    unfold opcodeMap
    rw [(nibbles h).1, (nibbles h).2]
    rfl
  rw [faOf_word] at hm
  exact decode_of (h.ne_zero (by decide)) hm hw

theorem icmp (f : FA) : Statement (.icmp f) := by
  intro w hw he
  obtain rfl : f.word 0x16 = w := Option.some.inj he
  have h := f.carries 0x16
  have hm : opcodeMap (f.word 0x16) = some (.icmp (faOf (f.word 0x16))) := by
    unfold opcodeMap
    rw [(nibbles h).1, (nibbles h).2]
    rfl
  rw [faOf_word] at hm
  exact decode_of (h.ne_zero (by decide)) hm hw

theorem sel (f : FA) : Statement (.sel f) := by
  intro w hw he
  obtain rfl : f.word 0x17 = w := Option.some.inj he
  have h := f.carries 0x17
  have hm : opcodeMap (f.word 0x17) = some (.sel (faOf (f.word 0x17))) := by
    unfold opcodeMap
    rw [(nibbles h).1, (nibbles h).2]
    rfl
  rw [faOf_word] at hm
  exact decode_of (h.ne_zero (by decide)) hm hw

theorem mov (f : FA) : Statement (.mov f) := by
  intro w hw he
  obtain rfl : f.word 0x18 = w := Option.some.inj he
  have h := f.carries 0x18
  have hm : opcodeMap (f.word 0x18) = some (.mov (faOf (f.word 0x18))) := by
    unfold opcodeMap
    rw [(nibbles h).1, (nibbles h).2]
    rfl
  rw [faOf_word] at hm
  exact decode_of (h.ne_zero (by decide)) hm hw

theorem const (f : FK) : Statement (.const f) := by
  intro w hw he
  obtain rfl : f.word 0x19 = w := Option.some.inj he
  have h := f.carries 0x19
  have hm : opcodeMap (f.word 0x19) = some (.const (fkOf (f.word 0x19))) := by
    unfold opcodeMap
    rw [(nibbles h).1, (nibbles h).2]
    rfl
  rw [fkOf_word] at hm
  exact decode_of (h.ne_zero (by decide)) hm hw

theorem lane (f : FA) : Statement (.lane f) := by
  intro w hw he
  obtain rfl : f.word 0x1A = w := Option.some.inj he
  have h := f.carries 0x1A
  have hm : opcodeMap (f.word 0x1A) = some (.lane (faOf (f.word 0x1A))) := by
    unfold opcodeMap
    rw [(nibbles h).1, (nibbles h).2]
    rfl
  rw [faOf_word] at hm
  exact decode_of (h.ne_zero (by decide)) hm hw

theorem coord (f : FA) : Statement (.coord f) := by
  intro w hw he
  obtain rfl : f.word 0x1B = w := Option.some.inj he
  have h := f.carries 0x1B
  have hm : opcodeMap (f.word 0x1B) = some (.coord (faOf (f.word 0x1B))) := by
    unfold opcodeMap
    rw [(nibbles h).1, (nibbles h).2]
    rfl
  rw [faOf_word] at hm
  exact decode_of (h.ne_zero (by decide)) hm hw

theorem phase (f : FA) : Statement (.phase f) := by
  intro w hw he
  obtain rfl : f.word 0x1C = w := Option.some.inj he
  have h := f.carries 0x1C
  have hm : opcodeMap (f.word 0x1C) = some (.phase (faOf (f.word 0x1C))) := by
    unfold opcodeMap
    rw [(nibbles h).1, (nibbles h).2]
    rfl
  rw [faOf_word] at hm
  exact decode_of (h.ne_zero (by decide)) hm hw

theorem fadd (f : FA) : Statement (.fadd f) := by
  intro w hw he
  obtain rfl : f.word 0x20 = w := Option.some.inj he
  have h := f.carries 0x20
  have hm : opcodeMap (f.word 0x20) = some (.fadd (faOf (f.word 0x20))) := by
    unfold opcodeMap
    rw [(nibbles h).1, (nibbles h).2]
    rfl
  rw [faOf_word] at hm
  exact decode_of (h.ne_zero (by decide)) hm hw

theorem fsub (f : FA) : Statement (.fsub f) := by
  intro w hw he
  obtain rfl : f.word 0x21 = w := Option.some.inj he
  have h := f.carries 0x21
  have hm : opcodeMap (f.word 0x21) = some (.fsub (faOf (f.word 0x21))) := by
    unfold opcodeMap
    rw [(nibbles h).1, (nibbles h).2]
    rfl
  rw [faOf_word] at hm
  exact decode_of (h.ne_zero (by decide)) hm hw

theorem fmul (f : FA) : Statement (.fmul f) := by
  intro w hw he
  obtain rfl : f.word 0x22 = w := Option.some.inj he
  have h := f.carries 0x22
  have hm : opcodeMap (f.word 0x22) = some (.fmul (faOf (f.word 0x22))) := by
    unfold opcodeMap
    rw [(nibbles h).1, (nibbles h).2]
    rfl
  rw [faOf_word] at hm
  exact decode_of (h.ne_zero (by decide)) hm hw

theorem fma (f : FA) : Statement (.fma f) := by
  intro w hw he
  obtain rfl : f.word 0x23 = w := Option.some.inj he
  have h := f.carries 0x23
  have hm : opcodeMap (f.word 0x23) = some (.fma (faOf (f.word 0x23))) := by
    unfold opcodeMap
    rw [(nibbles h).1, (nibbles h).2]
    rfl
  rw [faOf_word] at hm
  exact decode_of (h.ne_zero (by decide)) hm hw

theorem fmin (f : FA) : Statement (.fmin f) := by
  intro w hw he
  obtain rfl : f.word 0x24 = w := Option.some.inj he
  have h := f.carries 0x24
  have hm : opcodeMap (f.word 0x24) = some (.fmin (faOf (f.word 0x24))) := by
    unfold opcodeMap
    rw [(nibbles h).1, (nibbles h).2]
    rfl
  rw [faOf_word] at hm
  exact decode_of (h.ne_zero (by decide)) hm hw

theorem fmax (f : FA) : Statement (.fmax f) := by
  intro w hw he
  obtain rfl : f.word 0x25 = w := Option.some.inj he
  have h := f.carries 0x25
  have hm : opcodeMap (f.word 0x25) = some (.fmax (faOf (f.word 0x25))) := by
    unfold opcodeMap
    rw [(nibbles h).1, (nibbles h).2]
    rfl
  rw [faOf_word] at hm
  exact decode_of (h.ne_zero (by decide)) hm hw

theorem fabs (f : FA) : Statement (.fabs f) := by
  intro w hw he
  obtain rfl : f.word 0x26 = w := Option.some.inj he
  have h := f.carries 0x26
  have hm : opcodeMap (f.word 0x26) = some (.fabs (faOf (f.word 0x26))) := by
    unfold opcodeMap
    rw [(nibbles h).1, (nibbles h).2]
    rfl
  rw [faOf_word] at hm
  exact decode_of (h.ne_zero (by decide)) hm hw

theorem fneg (f : FA) : Statement (.fneg f) := by
  intro w hw he
  obtain rfl : f.word 0x27 = w := Option.some.inj he
  have h := f.carries 0x27
  have hm : opcodeMap (f.word 0x27) = some (.fneg (faOf (f.word 0x27))) := by
    unfold opcodeMap
    rw [(nibbles h).1, (nibbles h).2]
    rfl
  rw [faOf_word] at hm
  exact decode_of (h.ne_zero (by decide)) hm hw

theorem fcmp (f : FA) : Statement (.fcmp f) := by
  intro w hw he
  obtain rfl : f.word 0x28 = w := Option.some.inj he
  have h := f.carries 0x28
  have hm : opcodeMap (f.word 0x28) = some (.fcmp (faOf (f.word 0x28))) := by
    unfold opcodeMap
    rw [(nibbles h).1, (nibbles h).2]
    rfl
  rw [faOf_word] at hm
  exact decode_of (h.ne_zero (by decide)) hm hw

theorem fclass (f : FA) : Statement (.fclass f) := by
  intro w hw he
  obtain rfl : f.word 0x29 = w := Option.some.inj he
  have h := f.carries 0x29
  have hm : opcodeMap (f.word 0x29) = some (.fclass (faOf (f.word 0x29))) := by
    unfold opcodeMap
    rw [(nibbles h).1, (nibbles h).2]
    rfl
  rw [faOf_word] at hm
  exact decode_of (h.ne_zero (by decide)) hm hw

theorem fscl (f : FA) : Statement (.fscl f) := by
  intro w hw he
  obtain rfl : f.word 0x2A = w := Option.some.inj he
  have h := f.carries 0x2A
  have hm : opcodeMap (f.word 0x2A) = some (.fscl (faOf (f.word 0x2A))) := by
    unfold opcodeMap
    rw [(nibbles h).1, (nibbles h).2]
    rfl
  rw [faOf_word] at hm
  exact decode_of (h.ne_zero (by decide)) hm hw

theorem rcp (f : FA) : Statement (.rcp f) := by
  intro w hw he
  obtain rfl : f.word 0x30 = w := Option.some.inj he
  have h := f.carries 0x30
  have hm : opcodeMap (f.word 0x30) = some (.rcp (faOf (f.word 0x30))) := by
    unfold opcodeMap
    rw [(nibbles h).1, (nibbles h).2]
    rfl
  rw [faOf_word] at hm
  exact decode_of (h.ne_zero (by decide)) hm hw

theorem rsq (f : FA) : Statement (.rsq f) := by
  intro w hw he
  obtain rfl : f.word 0x31 = w := Option.some.inj he
  have h := f.carries 0x31
  have hm : opcodeMap (f.word 0x31) = some (.rsq (faOf (f.word 0x31))) := by
    unfold opcodeMap
    rw [(nibbles h).1, (nibbles h).2]
    rfl
  rw [faOf_word] at hm
  exact decode_of (h.ne_zero (by decide)) hm hw

theorem exp2 (f : FA) : Statement (.exp2 f) := by
  intro w hw he
  obtain rfl : f.word 0x32 = w := Option.some.inj he
  have h := f.carries 0x32
  have hm : opcodeMap (f.word 0x32) = some (.exp2 (faOf (f.word 0x32))) := by
    unfold opcodeMap
    rw [(nibbles h).1, (nibbles h).2]
    rfl
  rw [faOf_word] at hm
  exact decode_of (h.ne_zero (by decide)) hm hw

theorem log2 (f : FA) : Statement (.log2 f) := by
  intro w hw he
  obtain rfl : f.word 0x33 = w := Option.some.inj he
  have h := f.carries 0x33
  have hm : opcodeMap (f.word 0x33) = some (.log2 (faOf (f.word 0x33))) := by
    unfold opcodeMap
    rw [(nibbles h).1, (nibbles h).2]
    rfl
  rw [faOf_word] at hm
  exact decode_of (h.ne_zero (by decide)) hm hw

theorem tcos (f : FA) : Statement (.tcos f) := by
  intro w hw he
  obtain rfl : f.word 0x34 = w := Option.some.inj he
  have h := f.carries 0x34
  have hm : opcodeMap (f.word 0x34) = some (.tcos (faOf (f.word 0x34))) := by
    unfold opcodeMap
    rw [(nibbles h).1, (nibbles h).2]
    rfl
  rw [faOf_word] at hm
  exact decode_of (h.ne_zero (by decide)) hm hw

theorem tsin (f : FA) : Statement (.tsin f) := by
  intro w hw he
  obtain rfl : f.word 0x35 = w := Option.some.inj he
  have h := f.carries 0x35
  have hm : opcodeMap (f.word 0x35) = some (.tsin (faOf (f.word 0x35))) := by
    unfold opcodeMap
    rw [(nibbles h).1, (nibbles h).2]
    rfl
  rw [faOf_word] at hm
  exact decode_of (h.ne_zero (by decide)) hm hw

theorem cvt (f : FA) : Statement (.cvt f) := by
  intro w hw he
  obtain rfl : f.word 0x40 = w := Option.some.inj he
  have h := f.carries 0x40
  have hm : opcodeMap (f.word 0x40) = some (.cvt (faOf (f.word 0x40))) := by
    unfold opcodeMap
    rw [(nibbles h).1, (nibbles h).2]
    rfl
  rw [faOf_word] at hm
  exact decode_of (h.ne_zero (by decide)) hm hw

theorem qnt (f : FA) : Statement (.qnt f) := by
  intro w hw he
  obtain rfl : f.word 0x41 = w := Option.some.inj he
  have h := f.carries 0x41
  have hm : opcodeMap (f.word 0x41) = some (.qnt (faOf (f.word 0x41))) := by
    unfold opcodeMap
    rw [(nibbles h).1, (nibbles h).2]
    rfl
  rw [faOf_word] at hm
  exact decode_of (h.ne_zero (by decide)) hm hw

theorem dqt (f : FA) : Statement (.dqt f) := by
  intro w hw he
  obtain rfl : f.word 0x42 = w := Option.some.inj he
  have h := f.carries 0x42
  have hm : opcodeMap (f.word 0x42) = some (.dqt (faOf (f.word 0x42))) := by
    unfold opcodeMap
    rw [(nibbles h).1, (nibbles h).2]
    rfl
  rw [faOf_word] at hm
  exact decode_of (h.ne_zero (by decide)) hm hw

theorem pack (f : FA) : Statement (.pack f) := by
  intro w hw he
  obtain rfl : f.word 0x43 = w := Option.some.inj he
  have h := f.carries 0x43
  have hm : opcodeMap (f.word 0x43) = some (.pack (faOf (f.word 0x43))) := by
    unfold opcodeMap
    rw [(nibbles h).1, (nibbles h).2]
    rfl
  rw [faOf_word] at hm
  exact decode_of (h.ne_zero (by decide)) hm hw

theorem unpk (f : FA) : Statement (.unpk f) := by
  intro w hw he
  obtain rfl : f.word 0x44 = w := Option.some.inj he
  have h := f.carries 0x44
  have hm : opcodeMap (f.word 0x44) = some (.unpk (faOf (f.word 0x44))) := by
    unfold opcodeMap
    rw [(nibbles h).1, (nibbles h).2]
    rfl
  rw [faOf_word] at hm
  exact decode_of (h.ne_zero (by decide)) hm hw

theorem rndi (f : FA) : Statement (.rndi f) := by
  intro w hw he
  obtain rfl : f.word 0x45 = w := Option.some.inj he
  have h := f.carries 0x45
  have hm : opcodeMap (f.word 0x45) = some (.rndi (faOf (f.word 0x45))) := by
    unfold opcodeMap
    rw [(nibbles h).1, (nibbles h).2]
    rfl
  rw [faOf_word] at hm
  exact decode_of (h.ne_zero (by decide)) hm hw

theorem sclc (f : FA) : Statement (.sclc f) := by
  intro w hw he
  obtain rfl : f.word 0x46 = w := Option.some.inj he
  have h := f.carries 0x46
  have hm : opcodeMap (f.word 0x46) = some (.sclc (faOf (f.word 0x46))) := by
    unfold opcodeMap
    rw [(nibbles h).1, (nibbles h).2]
    rfl
  rw [faOf_word] at hm
  exact decode_of (h.ne_zero (by decide)) hm hw

theorem rsum (f : FA) : Statement (.rsum f) := by
  intro w hw he
  obtain rfl : f.word 0x50 = w := Option.some.inj he
  have h := f.carries 0x50
  have hm : opcodeMap (f.word 0x50) = some (.rsum (faOf (f.word 0x50))) := by
    unfold opcodeMap
    rw [(nibbles h).1, (nibbles h).2]
    rfl
  rw [faOf_word] at hm
  exact decode_of (h.ne_zero (by decide)) hm hw

theorem rmax (f : FA) : Statement (.rmax f) := by
  intro w hw he
  obtain rfl : f.word 0x51 = w := Option.some.inj he
  have h := f.carries 0x51
  have hm : opcodeMap (f.word 0x51) = some (.rmax (faOf (f.word 0x51))) := by
    unfold opcodeMap
    rw [(nibbles h).1, (nibbles h).2]
    rfl
  rw [faOf_word] at hm
  exact decode_of (h.ne_zero (by decide)) hm hw

theorem rmin (f : FA) : Statement (.rmin f) := by
  intro w hw he
  obtain rfl : f.word 0x52 = w := Option.some.inj he
  have h := f.carries 0x52
  have hm : opcodeMap (f.word 0x52) = some (.rmin (faOf (f.word 0x52))) := by
    unfold opcodeMap
    rw [(nibbles h).1, (nibbles h).2]
    rfl
  rw [faOf_word] at hm
  exact decode_of (h.ne_zero (by decide)) hm hw

theorem argmx (f : FA) : Statement (.argmx f) := by
  intro w hw he
  obtain rfl : f.word 0x53 = w := Option.some.inj he
  have h := f.carries 0x53
  have hm : opcodeMap (f.word 0x53) = some (.argmx (faOf (f.word 0x53))) := by
    unfold opcodeMap
    rw [(nibbles h).1, (nibbles h).2]
    rfl
  rw [faOf_word] at hm
  exact decode_of (h.ne_zero (by decide)) hm hw

theorem scan (f : FA) : Statement (.scan f) := by
  intro w hw he
  obtain rfl : f.word 0x54 = w := Option.some.inj he
  have h := f.carries 0x54
  have hm : opcodeMap (f.word 0x54) = some (.scan (faOf (f.word 0x54))) := by
    unfold opcodeMap
    rw [(nibbles h).1, (nibbles h).2]
    rfl
  rw [faOf_word] at hm
  exact decode_of (h.ne_zero (by decide)) hm hw

theorem dot (f : FA) : Statement (.dot f) := by
  intro w hw he
  obtain rfl : f.word 0x55 = w := Option.some.inj he
  have h := f.carries 0x55
  have hm : opcodeMap (f.word 0x55) = some (.dot (faOf (f.word 0x55))) := by
    unfold opcodeMap
    rw [(nibbles h).1, (nibbles h).2]
    rfl
  rw [faOf_word] at hm
  exact decode_of (h.ne_zero (by decide)) hm hw

theorem perm (f : FA) : Statement (.perm f) := by
  intro w hw he
  obtain rfl : f.word 0x56 = w := Option.some.inj he
  have h := f.carries 0x56
  have hm : opcodeMap (f.word 0x56) = some (.perm (faOf (f.word 0x56))) := by
    unfold opcodeMap
    rw [(nibbles h).1, (nibbles h).2]
    rfl
  rw [faOf_word] at hm
  exact decode_of (h.ne_zero (by decide)) hm hw

theorem bcast (f : FI) : Statement (.bcast f) := by
  intro w hw he
  obtain rfl : f.word 0x57 = w := Option.some.inj he
  have h := f.carries 0x57
  have hm : opcodeMap (f.word 0x57) = some (.bcast (fiOf (f.word 0x57))) := by
    unfold opcodeMap
    rw [(nibbles h).1, (nibbles h).2]
    rfl
  rw [fiOf_word] at hm
  exact decode_of (h.ne_zero (by decide)) hm hw

theorem adv (f : FA) : Statement (.adv f) := by
  intro w hw he
  obtain rfl : f.word 0x58 = w := Option.some.inj he
  have h := f.carries 0x58
  have hm : opcodeMap (f.word 0x58) = some (.adv (faOf (f.word 0x58))) := by
    unfold opcodeMap
    rw [(nibbles h).1, (nibbles h).2]
    rfl
  rw [faOf_word] at hm
  exact decode_of (h.ne_zero (by decide)) hm hw

theorem steer (f : FO) : Statement (.steer f) := by
  intro w hw he
  obtain rfl : f.word 0x60 = w := Option.some.inj he
  have h := f.carries 0x60
  have hm : opcodeMap (f.word 0x60) = some (.steer (foOf (f.word 0x60))) := by
    unfold opcodeMap
    rw [(nibbles h).1, (nibbles h).2]
    rfl
  rw [foOf_word] at hm
  exact decode_of (h.ne_zero (by decide)) hm hw

theorem carry (f : FA) : Statement (.carry f) := by
  intro w hw he
  obtain rfl : f.word 0x61 = w := Option.some.inj he
  have h := f.carries 0x61
  have hm : opcodeMap (f.word 0x61) = some (.carry (faOf (f.word 0x61))) := by
    unfold opcodeMap
    rw [(nibbles h).1, (nibbles h).2]
    rfl
  rw [faOf_word] at hm
  exact decode_of (h.ne_zero (by decide)) hm hw

theorem inv (f : FO) : Statement (.inv f) := by
  intro w hw he
  obtain rfl : f.word 0x62 = w := Option.some.inj he
  have h := f.carries 0x62
  have hm : opcodeMap (f.word 0x62) = some (.inv (foOf (f.word 0x62))) := by
    unfold opcodeMap
    rw [(nibbles h).1, (nibbles h).2]
    rfl
  rw [foOf_word] at hm
  exact decode_of (h.ne_zero (by decide)) hm hw

theorem merge (f : FA) : Statement (.merge f) := by
  intro w hw he
  obtain rfl : f.word 0x63 = w := Option.some.inj he
  have h := f.carries 0x63
  have hm : opcodeMap (f.word 0x63) = some (.merge (faOf (f.word 0x63))) := by
    unfold opcodeMap
    rw [(nibbles h).1, (nibbles h).2]
    rfl
  rw [faOf_word] at hm
  exact decode_of (h.ne_zero (by decide)) hm hw

theorem amrg (f : FA) : Statement (.amrg f) := by
  intro w hw he
  obtain rfl : f.word 0x64 = w := Option.some.inj he
  have h := f.carries 0x64
  have hm : opcodeMap (f.word 0x64) = some (.amrg (faOf (f.word 0x64))) := by
    unfold opcodeMap
    rw [(nibbles h).1, (nibbles h).2]
    rfl
  rw [faOf_word] at hm
  exact decode_of (h.ne_zero (by decide)) hm hw

theorem cinch (f : FA) : Statement (.cinch f) := by
  intro w hw he
  obtain rfl : f.word 0x65 = w := Option.some.inj he
  have h := f.carries 0x65
  have hm : opcodeMap (f.word 0x65) = some (.cinch (faOf (f.word 0x65))) := by
    unfold opcodeMap
    rw [(nibbles h).1, (nibbles h).2]
    rfl
  rw [faOf_word] at hm
  exact decode_of (h.ne_zero (by decide)) hm hw

theorem drop (f : FA) : Statement (.drop f) := by
  intro w hw he
  obtain rfl : f.word 0x66 = w := Option.some.inj he
  have h := f.carries 0x66
  have hm : opcodeMap (f.word 0x66) = some (.drop (faOf (f.word 0x66))) := by
    unfold opcodeMap
    rw [(nibbles h).1, (nibbles h).2]
    rfl
  rw [faOf_word] at hm
  exact decode_of (h.ne_zero (by decide)) hm hw

theorem count (f : FO) : Statement (.count f) := by
  intro w hw he
  obtain rfl : f.word 0x67 = w := Option.some.inj he
  have h := f.carries 0x67
  have hm : opcodeMap (f.word 0x67) = some (.count (foOf (f.word 0x67))) := by
    unfold opcodeMap
    rw [(nibbles h).1, (nibbles h).2]
    rfl
  rw [foOf_word] at hm
  exact decode_of (h.ne_zero (by decide)) hm hw

theorem lctr (f : FO) : Statement (.lctr f) := by
  intro w hw he
  obtain rfl : f.word 0x68 = w := Option.some.inj he
  have h := f.carries 0x68
  have hm : opcodeMap (f.word 0x68) = some (.lctr (foOf (f.word 0x68))) := by
    unfold opcodeMap
    rw [(nibbles h).1, (nibbles h).2]
    rfl
  rw [foOf_word] at hm
  exact decode_of (h.ne_zero (by decide)) hm hw

theorem eos (f : FO) : Statement (.eos f) := by
  intro w hw he
  obtain rfl : f.word 0x69 = w := Option.some.inj he
  have h := f.carries 0x69
  have hm : opcodeMap (f.word 0x69) = some (.eos (foOf (f.word 0x69))) := by
    unfold opcodeMap
    rw [(nibbles h).1, (nibbles h).2]
    rfl
  rw [foOf_word] at hm
  exact decode_of (h.ne_zero (by decide)) hm hw

theorem gate (f : FO) : Statement (.gate f) := by
  intro w hw he
  obtain rfl : f.word 0x6A = w := Option.some.inj he
  have h := f.carries 0x6A
  have hm : opcodeMap (f.word 0x6A) = some (.gate (foOf (f.word 0x6A))) := by
    unfold opcodeMap
    rw [(nibbles h).1, (nibbles h).2]
    rfl
  rw [foOf_word] at hm
  exact decode_of (h.ne_zero (by decide)) hm hw

theorem rhead (f : FA) : Statement (.rhead f) := by
  intro w hw he
  obtain rfl : f.word 0x70 = w := Option.some.inj he
  have h := f.carries 0x70
  have hb : (f.word 0x70).getLsbD 9 = f.imm.getLsbD 9 := by
    have := congrArg (fun x : BitVec 10 => x.getLsbD 9) (FA.field_imm 0x70 f)
    simpa using this
  have hi : f.imm.getLsbD 9 = false := by
    have := (wf_iff _).1 hw
    simp only [localReason, firstBad_none, List.mem_cons, forall_eq_or_imp, need_none] at this
    simpa using this.2.2.1
  have hm : opcodeMap (f.word 0x70) = some (if (f.word 0x70).getLsbD 9 then .rheadLa (faOf (f.word 0x70)) else .rhead (faOf (f.word 0x70))) := by
    unfold opcodeMap
    rw [(nibbles h).1, (nibbles h).2]
    rfl
  rw [faOf_word, hb, hi] at hm
  exact decode_of (h.ne_zero (by decide)) hm hw

theorem rheadLa (f : FA) : Statement (.rheadLa f) := by
  intro w hw he
  obtain rfl : f.word 0x70 = w := Option.some.inj he
  have h := f.carries 0x70
  have hb : (f.word 0x70).getLsbD 9 = f.imm.getLsbD 9 := by
    have := congrArg (fun x : BitVec 10 => x.getLsbD 9) (FA.field_imm 0x70 f)
    simpa using this
  have hi : f.imm.getLsbD 9 = true := by
    have := (wf_iff _).1 hw
    simp only [localReason, firstBad_none, List.mem_cons, forall_eq_or_imp, need_none] at this
    simpa using this.2.1
  have hm : opcodeMap (f.word 0x70) = some (if (f.word 0x70).getLsbD 9 then .rheadLa (faOf (f.word 0x70)) else .rhead (faOf (f.word 0x70))) := by
    unfold opcodeMap
    rw [(nibbles h).1, (nibbles h).2]
    rfl
  rw [faOf_word, hb, hi] at hm
  exact decode_of (h.ne_zero (by decide)) hm hw

theorem sadm (f : FA) : Statement (.sadm f) := by
  intro w hw he
  obtain rfl : f.word 0x71 = w := Option.some.inj he
  have h := f.carries 0x71
  have hm : opcodeMap (f.word 0x71) = some (.sadm (faOf (f.word 0x71))) := by
    unfold opcodeMap
    rw [(nibbles h).1, (nibbles h).2]
    rfl
  rw [faOf_word] at hm
  exact decode_of (h.ne_zero (by decide)) hm hw

theorem sevc (f : FA) : Statement (.sevc f) := by
  intro w hw he
  obtain rfl : f.word 0x72 = w := Option.some.inj he
  have h := f.carries 0x72
  have hm : opcodeMap (f.word 0x72) = some (.sevc (faOf (f.word 0x72))) := by
    unfold opcodeMap
    rw [(nibbles h).1, (nibbles h).2]
    rfl
  rw [faOf_word] at hm
  exact decode_of (h.ne_zero (by decide)) hm hw

theorem shld (f : FA) : Statement (.shld f) := by
  intro w hw he
  obtain rfl : f.word 0x73 = w := Option.some.inj he
  have h := f.carries 0x73
  have hi : f.mod.getLsbD 0 = false := by
    have := (wf_iff _).1 hw
    simp only [localReason, cmdReason, modIs, firstBad_none, List.mem_cons, forall_eq_or_imp, need_none, List.contains_eq_mem] at this
    have hm := this.1
    clear this hw
    rw [show f.mod = 0 by simpa using hm]; rfl
  have hm : opcodeMap (f.word 0x73) = some (if (f.word 0x73).getLsbD 48 then .shldU (faOf (f.word 0x73)) else .shld (faOf (f.word 0x73))) := by
    unfold opcodeMap
    rw [(nibbles h).1, (nibbles h).2]
    rfl
  rw [faOf_word, h.mod0, hi] at hm
  exact decode_of (h.ne_zero (by decide)) hm hw

theorem shldU (f : FA) : Statement (.shldU f) := by
  intro w hw he
  obtain rfl : f.word 0x73 = w := Option.some.inj he
  have h := f.carries 0x73
  have hi : f.mod.getLsbD 0 = true := by
    have := (wf_iff _).1 hw
    simp only [localReason, cmdReason, modIs, firstBad_none, List.mem_cons, forall_eq_or_imp, need_none, List.contains_eq_mem] at this
    have hm := this.1
    clear this hw
    rw [show f.mod = 1 by simpa using hm]; rfl
  have hm : opcodeMap (f.word 0x73) = some (if (f.word 0x73).getLsbD 48 then .shldU (faOf (f.word 0x73)) else .shld (faOf (f.word 0x73))) := by
    unfold opcodeMap
    rw [(nibbles h).1, (nibbles h).2]
    rfl
  rw [faOf_word, h.mod0, hi] at hm
  exact decode_of (h.ne_zero (by decide)) hm hw

theorem srel (f : FA) : Statement (.srel f) := by
  intro w hw he
  obtain rfl : f.word 0x74 = w := Option.some.inj he
  have h := f.carries 0x74
  have hm : opcodeMap (f.word 0x74) = some (.srel (faOf (f.word 0x74))) := by
    unfold opcodeMap
    rw [(nibbles h).1, (nibbles h).2]
    rfl
  rw [faOf_word] at hm
  exact decode_of (h.ne_zero (by decide)) hm hw

theorem sclr (f : FA) : Statement (.sclr f) := by
  intro w hw he
  obtain rfl : f.word 0x75 = w := Option.some.inj he
  have h := f.carries 0x75
  have hm : opcodeMap (f.word 0x75) = some (.sclr (faOf (f.word 0x75))) := by
    unfold opcodeMap
    rw [(nibbles h).1, (nibbles h).2]
    rfl
  rw [faOf_word] at hm
  exact decode_of (h.ne_zero (by decide)) hm hw

theorem sstat (f : FA) : Statement (.sstat f) := by
  intro w hw he
  obtain rfl : f.word 0x76 = w := Option.some.inj he
  have h := f.carries 0x76
  have hm : opcodeMap (f.word 0x76) = some (.sstat (faOf (f.word 0x76))) := by
    unfold opcodeMap
    rw [(nibbles h).1, (nibbles h).2]
    rfl
  rw [faOf_word] at hm
  exact decode_of (h.ne_zero (by decide)) hm hw

theorem bank (f : FA) : Statement (.bank f) := by
  intro w hw he
  obtain rfl : f.word 0x77 = w := Option.some.inj he
  have h := f.carries 0x77
  have hm : opcodeMap (f.word 0x77) = some (.bank (faOf (f.word 0x77))) := by
    unfold opcodeMap
    rw [(nibbles h).1, (nibbles h).2]
    rfl
  rw [faOf_word] at hm
  exact decode_of (h.ne_zero (by decide)) hm hw

theorem unbank (f : FA) : Statement (.unbank f) := by
  intro w hw he
  obtain rfl : f.word 0x78 = w := Option.some.inj he
  have h := f.carries 0x78
  have hm : opcodeMap (f.word 0x78) = some (.unbank (faOf (f.word 0x78))) := by
    unfold opcodeMap
    rw [(nibbles h).1, (nibbles h).2]
    rfl
  rw [faOf_word] at hm
  exact decode_of (h.ne_zero (by decide)) hm hw

theorem rerot (f : FA) : Statement (.rerot f) := by
  intro w hw he
  obtain rfl : f.word 0x79 = w := Option.some.inj he
  have h := f.carries 0x79
  have hm : opcodeMap (f.word 0x79) = some (.rerot (faOf (f.word 0x79))) := by
    unfold opcodeMap
    rw [(nibbles h).1, (nibbles h).2]
    rfl
  rw [faOf_word] at hm
  exact decode_of (h.ne_zero (by decide)) hm hw

theorem mark (f : FA) : Statement (.mark f) := by
  intro w hw he
  obtain rfl : f.word 0x7A = w := Option.some.inj he
  have h := f.carries 0x7A
  have hm : opcodeMap (f.word 0x7A) = some (.mark (faOf (f.word 0x7A))) := by
    unfold opcodeMap
    rw [(nibbles h).1, (nibbles h).2]
    rfl
  rw [faOf_word] at hm
  exact decode_of (h.ne_zero (by decide)) hm hw

theorem ld (f : FM) : Statement (.ld f) := by
  intro w hw he
  obtain rfl : f.word 0x80 = w := Option.some.inj he
  have h := f.carries 0x80
  have hm : opcodeMap (f.word 0x80) = some (.ld (fmOf (f.word 0x80))) := by
    unfold opcodeMap
    rw [(nibbles h).1, (nibbles h).2]
    rfl
  rw [fmOf_word] at hm
  exact decode_of (h.ne_zero (by decide)) hm hw

theorem st (f : FM) : Statement (.st f) := by
  intro w hw he
  obtain rfl : f.word 0x81 = w := Option.some.inj he
  have h := f.carries 0x81
  have hm : opcodeMap (f.word 0x81) = some (.st (fmOf (f.word 0x81))) := by
    unfold opcodeMap
    rw [(nibbles h).1, (nibbles h).2]
    rfl
  rw [fmOf_word] at hm
  exact decode_of (h.ne_zero (by decide)) hm hw

theorem lds (f : FM) : Statement (.lds f) := by
  intro w hw he
  obtain rfl : f.word 0x82 = w := Option.some.inj he
  have h := f.carries 0x82
  have hm : opcodeMap (f.word 0x82) = some (.lds (fmOf (f.word 0x82))) := by
    unfold opcodeMap
    rw [(nibbles h).1, (nibbles h).2]
    rfl
  rw [fmOf_word] at hm
  exact decode_of (h.ne_zero (by decide)) hm hw

theorem stf (f : FM) : Statement (.stf f) := by
  intro w hw he
  obtain rfl : f.word 0x83 = w := Option.some.inj he
  have h := f.carries 0x83
  have hm : opcodeMap (f.word 0x83) = some (.stf (fmOf (f.word 0x83))) := by
    unfold opcodeMap
    rw [(nibbles h).1, (nibbles h).2]
    rfl
  rw [fmOf_word] at hm
  exact decode_of (h.ne_zero (by decide)) hm hw

theorem ldx (f : FM) : Statement (.ldx f) := by
  intro w hw he
  obtain rfl : f.word 0x84 = w := Option.some.inj he
  have h := f.carries 0x84
  have hm : opcodeMap (f.word 0x84) = some (.ldx (fmOf (f.word 0x84))) := by
    unfold opcodeMap
    rw [(nibbles h).1, (nibbles h).2]
    rfl
  rw [fmOf_word] at hm
  exact decode_of (h.ne_zero (by decide)) hm hw

theorem stx (f : FM) : Statement (.stx f) := by
  intro w hw he
  obtain rfl : f.word 0x85 = w := Option.some.inj he
  have h := f.carries 0x85
  have hm : opcodeMap (f.word 0x85) = some (.stx (fmOf (f.word 0x85))) := by
    unfold opcodeMap
    rw [(nibbles h).1, (nibbles h).2]
    rfl
  rw [fmOf_word] at hm
  exact decode_of (h.ne_zero (by decide)) hm hw

theorem amo (f : FM) : Statement (.amo f) := by
  intro w hw he
  obtain rfl : f.word 0x86 = w := Option.some.inj he
  have h := f.carries 0x86
  have hm : opcodeMap (f.word 0x86) = some (.amo (fmOf (f.word 0x86))) := by
    unfold opcodeMap
    rw [(nibbles h).1, (nibbles h).2]
    rfl
  rw [fmOf_word] at hm
  exact decode_of (h.ne_zero (by decide)) hm hw

theorem done (f : FM) : Statement (.done f) := by
  intro w hw he
  obtain rfl : f.word 0x87 = w := Option.some.inj he
  have h := f.carries 0x87
  have hm : opcodeMap (f.word 0x87) = some (.done (fmOf (f.word 0x87))) := by
    unfold opcodeMap
    rw [(nibbles h).1, (nibbles h).2]
    rfl
  rw [fmOf_word] at hm
  exact decode_of (h.ne_zero (by decide)) hm hw

theorem rpush (f : FM) : Statement (.rpush f) := by
  intro w hw he
  obtain rfl : f.word 0x88 = w := Option.some.inj he
  have h := f.carries 0x88
  have hm : opcodeMap (f.word 0x88) = some (.rpush (fmOf (f.word 0x88))) := by
    unfold opcodeMap
    rw [(nibbles h).1, (nibbles h).2]
    rfl
  rw [fmOf_word] at hm
  exact decode_of (h.ne_zero (by decide)) hm hw

theorem rpop (f : FM) : Statement (.rpop f) := by
  intro w hw he
  obtain rfl : f.word 0x89 = w := Option.some.inj he
  have h := f.carries 0x89
  have hm : opcodeMap (f.word 0x89) = some (.rpop (fmOf (f.word 0x89))) := by
    unfold opcodeMap
    rw [(nibbles h).1, (nibbles h).2]
    rfl
  rw [fmOf_word] at hm
  exact decode_of (h.ne_zero (by decide)) hm hw

theorem mtask (f : FT) : Statement (.mtask f) := by
  intro w hw he
  obtain rfl : f.word 0xA0 = w := Option.some.inj he
  have h := f.carries 0xA0
  have hm : opcodeMap (f.word 0xA0) = some (.mtask (ftOf (f.word 0xA0))) := by
    unfold opcodeMap
    rw [(nibbles h).1, (nibbles h).2]
    rfl
  rw [ftOf_word] at hm
  exact decode_of (h.ne_zero (by decide)) hm hw

theorem msync (f : FT) : Statement (.msync f) := by
  intro w hw he
  obtain rfl : f.word 0xA1 = w := Option.some.inj he
  have h := f.carries 0xA1
  have hm : opcodeMap (f.word 0xA1) = some (.msync (ftOf (f.word 0xA1))) := by
    unfold opcodeMap
    rw [(nibbles h).1, (nibbles h).2]
    rfl
  rw [ftOf_word] at hm
  exact decode_of (h.ne_zero (by decide)) hm hw

theorem mdrain (f : FT) : Statement (.mdrain f) := by
  intro w hw he
  obtain rfl : f.word 0xA2 = w := Option.some.inj he
  have h := f.carries 0xA2
  have hm : opcodeMap (f.word 0xA2) = some (.mdrain (ftOf (f.word 0xA2))) := by
    unfold opcodeMap
    rw [(nibbles h).1, (nibbles h).2]
    rfl
  rw [ftOf_word] at hm
  exact decode_of (h.ne_zero (by decide)) hm hw

theorem xreq (f : FT) : Statement (.xreq f) := by
  intro w hw he
  obtain rfl : f.word 0xA3 = w := Option.some.inj he
  have h := f.carries 0xA3
  have hm : opcodeMap (f.word 0xA3) = some (.xreq (ftOf (f.word 0xA3))) := by
    unfold opcodeMap
    rw [(nibbles h).1, (nibbles h).2]
    rfl
  rw [ftOf_word] at hm
  exact decode_of (h.ne_zero (by decide)) hm hw

theorem xmc (f : FT) : Statement (.xmc f) := by
  intro w hw he
  obtain rfl : f.word 0xA4 = w := Option.some.inj he
  have h := f.carries 0xA4
  have hm : opcodeMap (f.word 0xA4) = some (.xmc (ftOf (f.word 0xA4))) := by
    unfold opcodeMap
    rw [(nibbles h).1, (nibbles h).2]
    rfl
  rw [ftOf_word] at hm
  exact decode_of (h.ne_zero (by decide)) hm hw

theorem pglk (f : FM) : Statement (.pglk f) := by
  intro w hw he
  obtain rfl : f.word 0xB0 = w := Option.some.inj he
  have h := f.carries 0xB0
  have hm : opcodeMap (f.word 0xB0) = some (.pglk (fmOf (f.word 0xB0))) := by
    unfold opcodeMap
    rw [(nibbles h).1, (nibbles h).2]
    rfl
  rw [fmOf_word] at hm
  exact decode_of (h.ne_zero (by decide)) hm hw

theorem pgfork (f : FM) : Statement (.pgfork f) := by
  intro w hw he
  obtain rfl : f.word 0xB1 = w := Option.some.inj he
  have h := f.carries 0xB1
  have hm : opcodeMap (f.word 0xB1) = some (.pgfork (fmOf (f.word 0xB1))) := by
    unfold opcodeMap
    rw [(nibbles h).1, (nibbles h).2]
    rfl
  rw [fmOf_word] at hm
  exact decode_of (h.ne_zero (by decide)) hm hw

theorem pgfree (f : FM) : Statement (.pgfree f) := by
  intro w hw he
  obtain rfl : f.word 0xB2 = w := Option.some.inj he
  have h := f.carries 0xB2
  have hm : opcodeMap (f.word 0xB2) = some (.pgfree (fmOf (f.word 0xB2))) := by
    unfold opcodeMap
    rw [(nibbles h).1, (nibbles h).2]
    rfl
  rw [fmOf_word] at hm
  exact decode_of (h.ne_zero (by decide)) hm hw

theorem pgbase (f : FM) : Statement (.pgbase f) := by
  intro w hw he
  obtain rfl : f.word 0xB3 = w := Option.some.inj he
  have h := f.carries 0xB3
  have hm : opcodeMap (f.word 0xB3) = some (.pgbase (fmOf (f.word 0xB3))) := by
    unfold opcodeMap
    rw [(nibbles h).1, (nibbles h).2]
    rfl
  rw [fmOf_word] at hm
  exact decode_of (h.ne_zero (by decide)) hm hw

theorem ldk (f : FM) : Statement (.ldk f) := by
  intro w hw he
  obtain rfl : f.word 0xB4 = w := Option.some.inj he
  have h := f.carries 0xB4
  have hm : opcodeMap (f.word 0xB4) = some (.ldk (fmOf (f.word 0xB4))) := by
    unfold opcodeMap
    rw [(nibbles h).1, (nibbles h).2]
    rfl
  rw [fmOf_word] at hm
  exact decode_of (h.ne_zero (by decide)) hm hw

theorem ldv (f : FM) : Statement (.ldv f) := by
  intro w hw he
  obtain rfl : f.word 0xB5 = w := Option.some.inj he
  have h := f.carries 0xB5
  have hm : opcodeMap (f.word 0xB5) = some (.ldv (fmOf (f.word 0xB5))) := by
    unfold opcodeMap
    rw [(nibbles h).1, (nibbles h).2]
    rfl
  rw [fmOf_word] at hm
  exact decode_of (h.ne_zero (by decide)) hm hw

theorem kapp (f : FM) : Statement (.kapp f) := by
  intro w hw he
  obtain rfl : f.word 0xB6 = w := Option.some.inj he
  have h := f.carries 0xB6
  have hm : opcodeMap (f.word 0xB6) = some (.kapp (fmOf (f.word 0xB6))) := by
    unfold opcodeMap
    rw [(nibbles h).1, (nibbles h).2]
    rfl
  rw [fmOf_word] at hm
  exact decode_of (h.ne_zero (by decide)) hm hw

theorem smrg (f : FA) : Statement (.smrg f) := by
  intro w hw he
  obtain rfl : f.word 0xB7 = w := Option.some.inj he
  have h := f.carries 0xB7
  have hm : opcodeMap (f.word 0xB7) = some (.smrg (faOf (f.word 0xB7))) := by
    unfold opcodeMap
    rw [(nibbles h).1, (nibbles h).2]
    rfl
  rw [faOf_word] at hm
  exact decode_of (h.ne_zero (by decide)) hm hw

theorem rsvr (f : FA) : Statement (.rsvr f) := by
  intro w hw he
  obtain rfl : f.word 0xB8 = w := Option.some.inj he
  have h := f.carries 0xB8
  have hm : opcodeMap (f.word 0xB8) = some (.rsvr (faOf (f.word 0xB8))) := by
    unfold opcodeMap
    rw [(nibbles h).1, (nibbles h).2]
    rfl
  rw [faOf_word] at hm
  exact decode_of (h.ne_zero (by decide)) hm hw

theorem rdraw (f : FA) : Statement (.rdraw f) := by
  intro w hw he
  obtain rfl : f.word 0xB9 = w := Option.some.inj he
  have h := f.carries 0xB9
  have hm : opcodeMap (f.word 0xB9) = some (.rdraw (faOf (f.word 0xB9))) := by
    unfold opcodeMap
    rw [(nibbles h).1, (nibbles h).2]
    rfl
  rw [faOf_word] at hm
  exact decode_of (h.ne_zero (by decide)) hm hw

theorem accpt (f : FA) : Statement (.accpt f) := by
  intro w hw he
  obtain rfl : f.word 0xBA = w := Option.some.inj he
  have h := f.carries 0xBA
  have hm : opcodeMap (f.word 0xBA) = some (.accpt (faOf (f.word 0xBA))) := by
    unfold opcodeMap
    rw [(nibbles h).1, (nibbles h).2]
    rfl
  rw [faOf_word] at hm
  exact decode_of (h.ne_zero (by decide)) hm hw

theorem egput (f : FM) : Statement (.egput f) := by
  intro w hw he
  obtain rfl : f.word 0xBB = w := Option.some.inj he
  have h := f.carries 0xBB
  have hm : opcodeMap (f.word 0xBB) = some (.egput (fmOf (f.word 0xBB))) := by
    unfold opcodeMap
    rw [(nibbles h).1, (nibbles h).2]
    rfl
  rw [fmOf_word] at hm
  exact decode_of (h.ne_zero (by decide)) hm hw

theorem egver (f : FM) : Statement (.egver f) := by
  intro w hw he
  obtain rfl : f.word 0xBC = w := Option.some.inj he
  have h := f.carries 0xBC
  have hm : opcodeMap (f.word 0xBC) = some (.egver (fmOf (f.word 0xBC))) := by
    unfold opcodeMap
    rw [(nibbles h).1, (nibbles h).2]
    rfl
  rw [fmOf_word] at hm
  exact decode_of (h.ne_zero (by decide)) hm hw

theorem egrst (f : FM) : Statement (.egrst f) := by
  intro w hw he
  obtain rfl : f.word 0xBD = w := Option.some.inj he
  have h := f.carries 0xBD
  have hm : opcodeMap (f.word 0xBD) = some (.egrst (fmOf (f.word 0xBD))) := by
    unfold opcodeMap
    rw [(nibbles h).1, (nibbles h).2]
    rfl
  rw [fmOf_word] at hm
  exact decode_of (h.ne_zero (by decide)) hm hw

theorem rein (f : FO) : Statement (.rein f) := by
  intro w hw he
  obtain rfl : f.word 0xBE = w := Option.some.inj he
  have h := f.carries 0xBE
  have hm : opcodeMap (f.word 0xBE) = some (.rein (foOf (f.word 0xBE))) := by
    unfold opcodeMap
    rw [(nibbles h).1, (nibbles h).2]
    rfl
  rw [foOf_word] at hm
  exact decode_of (h.ne_zero (by decide)) hm hw

theorem kadd (f : FC) : Statement (.kadd f) := by
  intro w hw he
  obtain rfl : f.word 0xC0 = w := Option.some.inj he
  have h := f.carries 0xC0
  have hm : opcodeMap (f.word 0xC0) = some (.kadd (fcOf (f.word 0xC0))) := by
    unfold opcodeMap
    rw [(nibbles h).1, (nibbles h).2]
    rfl
  rw [fcOf_word] at hm
  exact decode_of (h.ne_zero (by decide)) hm hw

theorem ksub (f : FC) : Statement (.ksub f) := by
  intro w hw he
  obtain rfl : f.word 0xC1 = w := Option.some.inj he
  have h := f.carries 0xC1
  have hm : opcodeMap (f.word 0xC1) = some (.ksub (fcOf (f.word 0xC1))) := by
    unfold opcodeMap
    rw [(nibbles h).1, (nibbles h).2]
    rfl
  rw [fcOf_word] at hm
  exact decode_of (h.ne_zero (by decide)) hm hw

theorem kmul (f : FC) : Statement (.kmul f) := by
  intro w hw he
  obtain rfl : f.word 0xC2 = w := Option.some.inj he
  have h := f.carries 0xC2
  have hm : opcodeMap (f.word 0xC2) = some (.kmul (fcOf (f.word 0xC2))) := by
    unfold opcodeMap
    rw [(nibbles h).1, (nibbles h).2]
    rfl
  rw [fcOf_word] at hm
  exact decode_of (h.ne_zero (by decide)) hm hw

theorem kand (f : FC) : Statement (.kand f) := by
  intro w hw he
  obtain rfl : f.word 0xC3 = w := Option.some.inj he
  have h := f.carries 0xC3
  have hm : opcodeMap (f.word 0xC3) = some (.kand (fcOf (f.word 0xC3))) := by
    unfold opcodeMap
    rw [(nibbles h).1, (nibbles h).2]
    rfl
  rw [fcOf_word] at hm
  exact decode_of (h.ne_zero (by decide)) hm hw

theorem kor (f : FC) : Statement (.kor f) := by
  intro w hw he
  obtain rfl : f.word 0xC4 = w := Option.some.inj he
  have h := f.carries 0xC4
  have hm : opcodeMap (f.word 0xC4) = some (.kor (fcOf (f.word 0xC4))) := by
    unfold opcodeMap
    rw [(nibbles h).1, (nibbles h).2]
    rfl
  rw [fcOf_word] at hm
  exact decode_of (h.ne_zero (by decide)) hm hw

theorem kxor (f : FC) : Statement (.kxor f) := by
  intro w hw he
  obtain rfl : f.word 0xC5 = w := Option.some.inj he
  have h := f.carries 0xC5
  have hm : opcodeMap (f.word 0xC5) = some (.kxor (fcOf (f.word 0xC5))) := by
    unfold opcodeMap
    rw [(nibbles h).1, (nibbles h).2]
    rfl
  rw [fcOf_word] at hm
  exact decode_of (h.ne_zero (by decide)) hm hw

theorem kshl (f : FC) : Statement (.kshl f) := by
  intro w hw he
  obtain rfl : f.word 0xC6 = w := Option.some.inj he
  have h := f.carries 0xC6
  have hi : f.mod.getLsbD 0 = false := by
    have := (wf_iff _).1 hw
    simp only [localReason, fcReason, firstBad_none, List.mem_cons, forall_eq_or_imp, need_none] at this
    have hm := this.1
    clear this hw
    simp_all
  have hm : opcodeMap (f.word 0xC6) = some (if (f.word 0xC6).getLsbD 48 then .kshr (fcOf (f.word 0xC6)) else .kshl (fcOf (f.word 0xC6))) := by
    unfold opcodeMap
    rw [(nibbles h).1, (nibbles h).2]
    rfl
  rw [fcOf_word, h.mod0, hi] at hm
  exact decode_of (h.ne_zero (by decide)) hm hw

theorem kshr (f : FC) : Statement (.kshr f) := by
  intro w hw he
  obtain rfl : f.word 0xC6 = w := Option.some.inj he
  have h := f.carries 0xC6
  have hi : f.mod.getLsbD 0 = true := by
    have := (wf_iff _).1 hw
    simp only [localReason, fcReason, firstBad_none, List.mem_cons, forall_eq_or_imp, need_none] at this
    have hm := this.1
    clear this hw
    rcases (by simpa using hm) with h | h <;> rw [h] <;> rfl
  have hm : opcodeMap (f.word 0xC6) = some (if (f.word 0xC6).getLsbD 48 then .kshr (fcOf (f.word 0xC6)) else .kshl (fcOf (f.word 0xC6))) := by
    unfold opcodeMap
    rw [(nibbles h).1, (nibbles h).2]
    rfl
  rw [fcOf_word, h.mod0, hi] at hm
  exact decode_of (h.ne_zero (by decide)) hm hw

theorem kcmp (f : FC) : Statement (.kcmp f) := by
  intro w hw he
  obtain rfl : f.word 0xC7 = w := Option.some.inj he
  have h := f.carries 0xC7
  have hm : opcodeMap (f.word 0xC7) = some (.kcmp (fcOf (f.word 0xC7))) := by
    unfold opcodeMap
    rw [(nibbles h).1, (nibbles h).2]
    rfl
  rw [fcOf_word] at hm
  exact decode_of (h.ne_zero (by decide)) hm hw

theorem ksel (f : FC) : Statement (.ksel f) := by
  intro w hw he
  obtain rfl : f.word 0xC8 = w := Option.some.inj he
  have h := f.carries 0xC8
  have hm : opcodeMap (f.word 0xC8) = some (.ksel (fcOf (f.word 0xC8))) := by
    unfold opcodeMap
    rw [(nibbles h).1, (nibbles h).2]
    rfl
  rw [fcOf_word] at hm
  exact decode_of (h.ne_zero (by decide)) hm hw

theorem kmovi (f : FK) : Statement (.kmovi f) := by
  intro w hw he
  obtain rfl : f.word 0xC9 = w := Option.some.inj he
  have h := f.carries 0xC9
  have hm : opcodeMap (f.word 0xC9) = some (.kmovi (fkOf (f.word 0xC9))) := by
    unfold opcodeMap
    rw [(nibbles h).1, (nibbles h).2]
    rfl
  rw [fkOf_word] at hm
  exact decode_of (h.ne_zero (by decide)) hm hw

theorem kld (f : FC) : Statement (.kld f) := by
  intro w hw he
  obtain rfl : f.word 0xCA = w := Option.some.inj he
  have h := f.carries 0xCA
  have hm : opcodeMap (f.word 0xCA) = some (.kld (fcOf (f.word 0xCA))) := by
    unfold opcodeMap
    rw [(nibbles h).1, (nibbles h).2]
    rfl
  rw [fcOf_word] at hm
  exact decode_of (h.ne_zero (by decide)) hm hw

theorem kst (f : FC) : Statement (.kst f) := by
  intro w hw he
  obtain rfl : f.word 0xCB = w := Option.some.inj he
  have h := f.carries 0xCB
  have hm : opcodeMap (f.word 0xCB) = some (.kst (fcOf (f.word 0xCB))) := by
    unfold opcodeMap
    rw [(nibbles h).1, (nibbles h).2]
    rfl
  rw [fcOf_word] at hm
  exact decode_of (h.ne_zero (by decide)) hm hw

theorem kstm (f : FC) : Statement (.kstm f) := by
  intro w hw he
  obtain rfl : f.word 0xCC = w := Option.some.inj he
  have h := f.carries 0xCC
  have hm : opcodeMap (f.word 0xCC) = some (.kstm (fcOf (f.word 0xCC))) := by
    unfold opcodeMap
    rw [(nibbles h).1, (nibbles h).2]
    rfl
  rw [fcOf_word] at hm
  exact decode_of (h.ne_zero (by decide)) hm hw

theorem kldm (f : FC) : Statement (.kldm f) := by
  intro w hw he
  obtain rfl : f.word 0xCD = w := Option.some.inj he
  have h := f.carries 0xCD
  have hm : opcodeMap (f.word 0xCD) = some (.kldm (fcOf (f.word 0xCD))) := by
    unfold opcodeMap
    rw [(nibbles h).1, (nibbles h).2]
    rfl
  rw [fcOf_word] at hm
  exact decode_of (h.ne_zero (by decide)) hm hw

theorem krd (f : FC) : Statement (.krd f) := by
  intro w hw he
  obtain rfl : f.word 0xCE = w := Option.some.inj he
  have h := f.carries 0xCE
  have hm : opcodeMap (f.word 0xCE) = some (.krd (fcOf (f.word 0xCE))) := by
    unfold opcodeMap
    rw [(nibbles h).1, (nibbles h).2]
    rfl
  rw [fcOf_word] at hm
  exact decode_of (h.ne_zero (by decide)) hm hw

theorem kwr (f : FC) : Statement (.kwr f) := by
  intro w hw he
  obtain rfl : f.word 0xCF = w := Option.some.inj he
  have h := f.carries 0xCF
  have hm : opcodeMap (f.word 0xCF) = some (.kwr (fcOf (f.word 0xCF))) := by
    unfold opcodeMap
    rw [(nibbles h).1, (nibbles h).2]
    rfl
  rw [fcOf_word] at hm
  exact decode_of (h.ne_zero (by decide)) hm hw

theorem bra (f : FC) : Statement (.bra f) := by
  intro w hw he
  obtain rfl : f.word 0xD0 = w := Option.some.inj he
  have h := f.carries 0xD0
  have hm : opcodeMap (f.word 0xD0) = some (.bra (fcOf (f.word 0xD0))) := by
    unfold opcodeMap
    rw [(nibbles h).1, (nibbles h).2]
    rfl
  rw [fcOf_word] at hm
  exact decode_of (h.ne_zero (by decide)) hm hw

theorem bcall (f : FC) : Statement (.bcall f) := by
  intro w hw he
  obtain rfl : f.word 0xD1 = w := Option.some.inj he
  have h := f.carries 0xD1
  have hm : opcodeMap (f.word 0xD1) = some (.bcall (fcOf (f.word 0xD1))) := by
    unfold opcodeMap
    rw [(nibbles h).1, (nibbles h).2]
    rfl
  rw [fcOf_word] at hm
  exact decode_of (h.ne_zero (by decide)) hm hw

theorem bret (f : FC) : Statement (.bret f) := by
  intro w hw he
  obtain rfl : f.word 0xD2 = w := Option.some.inj he
  have h := f.carries 0xD2
  have hm : opcodeMap (f.word 0xD2) = some (.bret (fcOf (f.word 0xD2))) := by
    unfold opcodeMap
    rw [(nibbles h).1, (nibbles h).2]
    rfl
  rw [fcOf_word] at hm
  exact decode_of (h.ne_zero (by decide)) hm hw

theorem rep (f : FC) : Statement (.rep f) := by
  intro w hw he
  obtain rfl : f.word 0xD3 = w := Option.some.inj he
  have h := f.carries 0xD3
  have hm : opcodeMap (f.word 0xD3) = some (.rep (fcOf (f.word 0xD3))) := by
    unfold opcodeMap
    rw [(nibbles h).1, (nibbles h).2]
    rfl
  rw [fcOf_word] at hm
  exact decode_of (h.ne_zero (by decide)) hm hw

theorem qsend (f : FC) : Statement (.qsend f) := by
  intro w hw he
  obtain rfl : f.word 0xD4 = w := Option.some.inj he
  have h := f.carries 0xD4
  have hm : opcodeMap (f.word 0xD4) = some (.qsend (fcOf (f.word 0xD4))) := by
    unfold opcodeMap
    rw [(nibbles h).1, (nibbles h).2]
    rfl
  rw [fcOf_word] at hm
  exact decode_of (h.ne_zero (by decide)) hm hw

theorem qrecv (f : FC) : Statement (.qrecv f) := by
  intro w hw he
  obtain rfl : f.word 0xD5 = w := Option.some.inj he
  have h := f.carries 0xD5
  have hm : opcodeMap (f.word 0xD5) = some (.qrecv (fcOf (f.word 0xD5))) := by
    unfold opcodeMap
    rw [(nibbles h).1, (nibbles h).2]
    rfl
  rw [fcOf_word] at hm
  exact decode_of (h.ne_zero (by decide)) hm hw

theorem csrrd (f : FC) : Statement (.csrrd f) := by
  intro w hw he
  obtain rfl : f.word 0xD6 = w := Option.some.inj he
  have h := f.carries 0xD6
  have hm : opcodeMap (f.word 0xD6) = some (.csrrd (fcOf (f.word 0xD6))) := by
    unfold opcodeMap
    rw [(nibbles h).1, (nibbles h).2]
    rfl
  rw [fcOf_word] at hm
  exact decode_of (h.ne_zero (by decide)) hm hw

theorem csrwr (f : FC) : Statement (.csrwr f) := by
  intro w hw he
  obtain rfl : f.word 0xD7 = w := Option.some.inj he
  have h := f.carries 0xD7
  have hm : opcodeMap (f.word 0xD7) = some (.csrwr (fcOf (f.word 0xD7))) := by
    unfold opcodeMap
    rw [(nibbles h).1, (nibbles h).2]
    rfl
  rw [fcOf_word] at hm
  exact decode_of (h.ne_zero (by decide)) hm hw

theorem trap (f : FC) : Statement (.trap f) := by
  intro w hw he
  obtain rfl : f.word 0xD8 = w := Option.some.inj he
  have h := f.carries 0xD8
  have hm : opcodeMap (f.word 0xD8) = some (.trap (fcOf (f.word 0xD8))) := by
    unfold opcodeMap
    rw [(nibbles h).1, (nibbles h).2]
    rfl
  rw [fcOf_word] at hm
  exact decode_of (h.ne_zero (by decide)) hm hw

theorem eret (f : FC) : Statement (.eret f) := by
  intro w hw he
  obtain rfl : f.word 0xD9 = w := Option.some.inj he
  have h := f.carries 0xD9
  have hm : opcodeMap (f.word 0xD9) = some (.eret (fcOf (f.word 0xD9))) := by
    unfold opcodeMap
    rw [(nibbles h).1, (nibbles h).2]
    rfl
  rw [fcOf_word] at hm
  exact decode_of (h.ne_zero (by decide)) hm hw

theorem wfe (f : FC) : Statement (.wfe f) := by
  intro w hw he
  obtain rfl : f.word 0xDA = w := Option.some.inj he
  have h := f.carries 0xDA
  have hm : opcodeMap (f.word 0xDA) = some (.wfe (fcOf (f.word 0xDA))) := by
    unfold opcodeMap
    rw [(nibbles h).1, (nibbles h).2]
    rfl
  rw [fcOf_word] at hm
  exact decode_of (h.ne_zero (by decide)) hm hw

theorem evpop (f : FC) : Statement (.evpop f) := by
  intro w hw he
  obtain rfl : f.word 0xDB = w := Option.some.inj he
  have h := f.carries 0xDB
  have hm : opcodeMap (f.word 0xDB) = some (.evpop (fcOf (f.word 0xDB))) := by
    unfold opcodeMap
    rw [(nibbles h).1, (nibbles h).2]
    rfl
  rw [fcOf_word] at hm
  exact decode_of (h.ne_zero (by decide)) hm hw

theorem prcw (f : FC) : Statement (.prcw f) := by
  intro w hw he
  obtain rfl : f.word 0xDC = w := Option.some.inj he
  have h := f.carries 0xDC
  have hi : f.mod.getLsbD 0 = false := by
    have := (wf_iff _).1 hw
    simp only [localReason, fcReason, firstBad_none, List.mem_cons, forall_eq_or_imp, need_none] at this
    have hm := this.1
    clear this hw
    rw [show f.mod = 0 by simpa using hm]; rfl
  have hm : opcodeMap (f.word 0xDC) = some (if (f.word 0xDC).getLsbD 48 then .prcwS (fcOf (f.word 0xDC)) else .prcw (fcOf (f.word 0xDC))) := by
    unfold opcodeMap
    rw [(nibbles h).1, (nibbles h).2]
    rfl
  rw [fcOf_word, h.mod0, hi] at hm
  exact decode_of (h.ne_zero (by decide)) hm hw

theorem prcwS (f : FC) : Statement (.prcwS f) := by
  intro w hw he
  obtain rfl : f.word 0xDC = w := Option.some.inj he
  have h := f.carries 0xDC
  have hi : f.mod.getLsbD 0 = true := by
    have := (wf_iff _).1 hw
    simp only [localReason, fcReason, firstBad_none, List.mem_cons, forall_eq_or_imp, need_none] at this
    have hm := this.1
    clear this hw
    rw [show f.mod = 1 by simpa using hm]; rfl
  have hm : opcodeMap (f.word 0xDC) = some (if (f.word 0xDC).getLsbD 48 then .prcwS (fcOf (f.word 0xDC)) else .prcw (fcOf (f.word 0xDC))) := by
    unfold opcodeMap
    rw [(nibbles h).1, (nibbles h).2]
    rfl
  rw [fcOf_word, h.mod0, hi] at hm
  exact decode_of (h.ne_zero (by decide)) hm hw

theorem launch (f : FC) : Statement (.launch f) := by
  intro w hw he
  obtain rfl : f.word 0xDD = w := Option.some.inj he
  have h := f.carries 0xDD
  have hm : opcodeMap (f.word 0xDD) = some (.launch (fcOf (f.word 0xDD))) := by
    unfold opcodeMap
    rw [(nibbles h).1, (nibbles h).2]
    rfl
  rw [fcOf_word] at hm
  exact decode_of (h.ne_zero (by decide)) hm hw

theorem halt (f : FC) : Statement (.halt f) := by
  intro w hw he
  obtain rfl : f.word 0xDE = w := Option.some.inj he
  have h := f.carries 0xDE
  have hm : opcodeMap (f.word 0xDE) = some (.halt (fcOf (f.word 0xDE))) := by
    unfold opcodeMap
    rw [(nibbles h).1, (nibbles h).2]
    rfl
  rw [fcOf_word] at hm
  exact decode_of (h.ne_zero (by decide)) hm hw

theorem egarm (f : FC) : Statement (.egarm f) := by
  intro w hw he
  obtain rfl : f.word 0xDF = w := Option.some.inj he
  have h := f.carries 0xDF
  have hm : opcodeMap (f.word 0xDF) = some (.egarm (fcOf (f.word 0xDF))) := by
    unfold opcodeMap
    rw [(nibbles h).1, (nibbles h).2]
    rfl
  rw [fcOf_word] at hm
  exact decode_of (h.ne_zero (by decide)) hm hw

theorem tokenArrival (src : Site) (tgt : Target) (tok : Token) (gen : Nat) (stamp : Stamp) : Statement (.tokenArrival src tgt tok gen stamp) := by
  intro w _ he
  cases he

theorem creditReturn (src : Site) (which : OutPort) (gen : Nat) : Statement (.creditReturn src which gen) := by
  intro w _ he
  cases he

theorem longChannelDelivery (handle : Word64) (chan : Nat) : Statement (.longChannelDelivery handle chan) := by
  intro w _ he
  cases he

theorem guardReportPost (core : Fin 96) (region : Fin 8) (link : BitVec 7) : Statement (.guardReportPost core region link) := by
  intro w _ he
  cases he

theorem slotPass (core : Fin 96) (region : Fin 8) : Statement (.slotPass core region) := by
  intro w _ he
  cases he

theorem commandEnqueue (core : Fin 96) (region : Fin 8) (cmd : Cmd) (gen : Nat) : Statement (.commandEnqueue core region cmd gen) := by
  intro w _ he
  cases he

theorem emberReadDone (core : Fin 96) (region : Fin 8) (gen : Nat) : Statement (.emberReadDone core region gen) := by
  intro w _ he
  cases he

theorem emberWriteDone (core : Fin 96) (region : Fin 8) (gen : Nat) : Statement (.emberWriteDone core region gen) := by
  intro w _ he
  cases he

theorem headRetire (core : Fin 96) (region : Fin 8) : Statement (.headRetire core region) := by
  intro w _ he
  cases he

theorem markerArrival (dst : Site) (port : PortName) (pos : Nat) (gen : Nat) : Statement (.markerArrival dst port pos gen) := by
  intro w _ he
  cases he

theorem snapWindowExpiry (site : Site) (gen : Nat) : Statement (.snapWindowExpiry site gen) := by
  intro w _ he
  cases he

theorem snapshotClose (core : Fin 96) (region : Fin 8) : Statement (.snapshotClose core region) := by
  intro w _ he
  cases he

theorem regionLoad (core : Fin 96) (region : Fin 8) (gen : Nat) : Statement (.regionLoad core region gen) := by
  intro w _ he
  cases he

theorem loadComplete (core : Fin 96) (region : Fin 8) (gen : Nat) : Statement (.loadComplete core region gen) := by
  intro w _ he
  cases he

theorem elementEviction (core : Fin 96) (elem : Fin 32) : Statement (.elementEviction core elem) := by
  intro w _ he
  cases he

theorem elementRestore (core : Fin 96) (elem : Fin 32) : Statement (.elementRestore core elem) := by
  intro w _ he
  cases he

theorem regionCommit (core : Fin 96) (region : Fin 8) : Statement (.regionCommit core region) := by
  intro w _ he
  cases he

theorem completionRelease (core : Fin 96) (region : Fin 8) : Statement (.completionRelease core region) := by
  intro w _ he
  cases he

theorem preemptComplete (core : Fin 96) (region : Fin 8) (gen : Nat) : Statement (.preemptComplete core region gen) := by
  intro w _ he
  cases he

theorem lateResultArrival (id : Nat) : Statement (.lateResultArrival id) := by
  intro w _ he
  cases he

theorem accessPerform (id : Nat) : Statement (.accessPerform id) := by
  intro w _ he
  cases he

theorem memoryResultDelivery (site : Site) : Statement (.memoryResultDelivery site) := by
  intro w _ he
  cases he

theorem ldsWake (id : Nat) : Statement (.ldsWake id) := by
  intro w _ he
  cases he

theorem walkComplete (id : Nat) : Statement (.walkComplete id) := by
  intro w _ he
  cases he

theorem scrubLine (core : Fin 96) (dram : Bool) (line : Nat) : Statement (.scrubLine core dram line) := by
  intro w _ he
  cases he

theorem taskEnqueue (core : Fin 96) : Statement (.taskEnqueue core) := by
  intro w _ he
  cases he

theorem taskIssue (core : Fin 96) : Statement (.taskIssue core) := by
  intro w _ he
  cases he

theorem taskRetire (core : Fin 96) (engine : Fin 4) : Statement (.taskRetire core engine) := by
  intro w _ he
  cases he

theorem msyncComplete (core : Fin 96) : Statement (.msyncComplete core) := by
  intro w _ he
  cases he

theorem transferAccept (core : Fin 96) : Statement (.transferAccept core) := by
  intro w _ he
  cases he

theorem transferLine (core : Fin 96) (id : Nat) (line : Nat) : Statement (.transferLine core id line) := by
  intro w _ he
  cases he

theorem transferComplete (core : Fin 96) (id : Nat) : Statement (.transferComplete core id) := by
  intro w _ he
  cases he

theorem xmcPermit (core : Fin 96) (id : Nat) : Statement (.xmcPermit core id) := by
  intro w _ he
  cases he

theorem blockFetch (core : Fin 96) (ctx : Fin 4) (gen : Nat) : Statement (.blockFetch core ctx gen) := by
  intro w _ he
  cases he

theorem controlBlockCommit (core : Fin 96) (ctx : Fin 4) : Statement (.controlBlockCommit core ctx) := by
  intro w _ he
  cases he

theorem repRepetition (core : Fin 96) (ctx : Fin 4) : Statement (.repRepetition core ctx) := by
  intro w _ he
  cases he

theorem wfeTimeout (core : Fin 96) (ctx : Fin 4) (slot : Fin 128) (gen : Nat) : Statement (.wfeTimeout core ctx slot gen) := by
  intro w _ he
  cases he

theorem ctxpartWrite (core : Fin 96) (w : Writer) (v : Word64) : Statement (.ctxpartWrite core w v) := by
  intro w _ he
  cases he

theorem guardMapWrite (core : Fin 96) (w : Writer) (num : BitVec 12) (v : Word64) : Statement (.guardMapWrite core w num v) := by
  intro w _ he
  cases he

theorem tlbinvAll (w : Writer) : Statement (.tlbinvAll w) := by
  intro w _ he
  cases he

theorem tlbinvAsid (w : Writer) (asid : BitVec 12) : Statement (.tlbinvAsid w asid) := by
  intro w _ he
  cases he

theorem tlbinvPage (w : Writer) (asid : BitVec 12) (vpn : BitVec 38) : Statement (.tlbinvPage w asid vpn) := by
  intro w _ he
  cases he

theorem regctlRelease (core : Fin 96) (w : Writer) (region : Fin 8) : Statement (.regctlRelease core w region) := by
  intro w _ he
  cases he

theorem regctlRemap (core : Fin 96) (w : Writer) (region : Fin 8) : Statement (.regctlRemap core w region) := by
  intro w _ he
  cases he

theorem regctlPreempt (core : Fin 96) (w : Writer) (region : Fin 8) : Statement (.regctlPreempt core w region) := by
  intro w _ he
  cases he

theorem fwCtlWrite (w : Writer) (v : Word64) : Statement (.fwCtlWrite w v) := by
  intro w _ he
  cases he

theorem fwResume (w : Writer) (v : Word64) : Statement (.fwResume w v) := by
  intro w _ he
  cases he

theorem ctxswSave (core : Fin 96) (w : Writer) (ctx : Fin 4) (addr : BitVec 48) : Statement (.ctxswSave core w ctx addr) := by
  intro w _ he
  cases he

theorem ctxswRestore (core : Fin 96) (w : Writer) (ctx : Fin 4) (addr : BitVec 48) : Statement (.ctxswRestore core w ctx addr) := by
  intro w _ he
  cases he

theorem ctxswClear (core : Fin 96) (w : Writer) (ctx : Fin 4) : Statement (.ctxswClear core w ctx) := by
  intro w _ he
  cases he

theorem ctxswStop (core : Fin 96) (w : Writer) (ctx : Fin 4) : Statement (.ctxswStop core w ctx) := by
  intro w _ he
  cases he

theorem contextStop (core : Fin 96) (ctx : Fin 4) : Statement (.contextStop core ctx) := by
  intro w _ he
  cases he

theorem ctxgo (core : Fin 96) (w : Writer) (v : Word64) : Statement (.ctxgo core w v) := by
  intro w _ he
  cases he

theorem dbgCtlWrite (core : Fin 96) (w : Writer) (v : Word64) : Statement (.dbgCtlWrite core w v) := by
  intro w _ he
  cases he

theorem kvtCsrWrite (w : Writer) (num : BitVec 12) (v : Word64) : Statement (.kvtCsrWrite w num v) := by
  intro w _ he
  cases he

theorem dmawinLockSet (w : Writer) (v : Word64) : Statement (.dmawinLockSet w v) := by
  intro w _ he
  cases he

theorem csrWrite (core : Fin 96) (w : Writer) (num : BitVec 12) (v : Word64) : Statement (.csrWrite core w num v) := by
  intro w _ he
  cases he

theorem collectorRecord (r : CRec) : Statement (.collectorRecord r) := by
  intro w _ he
  cases he

theorem collectorWindowClose : Statement (.collectorWindowClose) := by
  intro w _ he
  cases he

theorem parkedReoffer (r : CRec) : Statement (.parkedReoffer r) := by
  intro w _ he
  cases he

theorem reinWindowStart (handle : Word64) (rein : Nat) : Statement (.reinWindowStart handle rein) := by
  intro w _ he
  cases he

theorem reinUpdate (handle : Word64) (rein : Nat) : Statement (.reinUpdate handle rein) := by
  intro w _ he
  cases he

theorem egputEntryFree : Statement (.egputEntryFree) := by
  intro w _ he
  cases he

theorem egressRecordOut : Statement (.egressRecordOut) := by
  intro w _ he
  cases he

theorem egoHeadWrite (v : Word64) : Statement (.egoHeadWrite v) := by
  intro w _ he
  cases he

theorem launchPacket (p : Packet) : Statement (.launchPacket p) := by
  intro w _ he
  cases he

theorem register (p : Packet) : Statement (.register p) := by
  intro w _ he
  cases he

theorem dropPacket (p : Packet) : Statement (.dropPacket p) := by
  intro w _ he
  cases he

theorem query (p : Packet) : Statement (.query p) := by
  intro w _ he
  cases he

theorem attest (p : Packet) : Statement (.attest p) := by
  intro w _ he
  cases he

theorem boot (p : Packet) : Statement (.boot p) := by
  intro w _ he
  cases he

theorem ingressWrite (port : BitVec 8) (offset : Nat) (bytes : List Byte) : Statement (.ingressWrite port offset bytes) := by
  intro w _ he
  cases he

theorem ingressDelivery (port : BitVec 8) : Statement (.ingressDelivery port) := by
  intro w _ he
  cases he

theorem ingStatClear (port : BitVec 8) (v : Word64) : Statement (.ingStatClear port v) := by
  intro w _ he
  cases he

theorem hostMemoryWrite (addr : Nat) (bytes : List Byte) : Statement (.hostMemoryWrite addr bytes) := by
  intro w _ he
  cases he

theorem hostMemoryRead (addr : Nat) (n : Nat) : Statement (.hostMemoryRead addr n) := by
  intro w _ he
  cases he

theorem kilnPlace : Statement (.kilnPlace) := by
  intro w _ he
  cases he

theorem launchAging (handle : Word64) : Statement (.launchAging handle) := by
  intro w _ he
  cases he

theorem imageReadDone (handle : Word64) (ok : Bool) : Statement (.imageReadDone handle ok) := by
  intro w _ he
  cases he

theorem deviceReset : Statement (.deviceReset) := by
  intro w _ he
  cases he

theorem thermalThrottle : Statement (.thermalThrottle) := by
  intro w _ he
  cases he

theorem peerAccess (write : Bool) (addr : Nat) (n : Nat) (bytes : List Byte) : Statement (.peerAccess write addr n bytes) := by
  intro w _ he
  cases he

theorem throttleEnd : Statement (.throttleEnd) := by
  intro w _ he
  cases he

end Sys2Proof.Laws.RoundTrip
end

