-- ==== Sys2Proof/Laws/StepMem.lean ====
section
/-! SUPPORT. What every instruction and every step do to memory: each leaves it as it is, or keeps its canonical form. -/

namespace Sys2Proof.Machine

set_option linter.unusedSimpArgs false

/-! ## Machine/Dispatch.lean -/

/-- Every instruction keeps memory's canonical form. -/
theorem exec_wf (i : Instr) (s : State) (hmem : s.mem.wf = true) : MemWf (exec i s) := by
  unfold exec
  cases i with
  | iadd _ => exact execIadd_wf _ _ hmem
  | isub _ => exact execIsub_wf _ _ hmem
  | imul _ => exact execImul_wf _ _ hmem
  | imulh _ => exact execImulh_wf _ _ hmem
  | imad _ => exact execImad_wf _ _ hmem
  | ineg _ => exact execIneg_wf _ _ hmem
  | iabs _ => exact execIabs_wf _ _ hmem
  | imin _ => exact execImin_wf _ _ hmem
  | imax _ => exact execImax_wf _ _ hmem
  | and _ => exact execAnd_wf _ _ hmem
  | or _ => exact execOr_wf _ _ hmem
  | xor _ => exact execXor_wf _ _ hmem
  | not _ => exact execNot_wf _ _ hmem
  | shl _ => exact execShl_wf _ _ hmem
  | shr _ => exact execShr_wf _ _ hmem
  | sar _ => exact execSar_wf _ _ hmem
  | rotl _ => exact execRotl_wf _ _ hmem
  | clz _ => exact execClz_wf _ _ hmem
  | popc _ => exact execPopc_wf _ _ hmem
  | icmp _ => exact execIcmp_wf _ _ hmem
  | sel _ => exact execSel_wf _ _ hmem
  | bfx _ => exact execBfx_wf _ _ hmem
  | bfi _ => exact execBfi_wf _ _ hmem
  | mov _ => exact execMov_wf _ _ hmem
  | const _ => exact execConst_wf _ _ hmem
  | lane _ => exact execLane_wf _ _ hmem
  | coord _ => exact execCoord_wf _ _ hmem
  | phase _ => exact execPhase_wf _ _ hmem
  | fadd _ => exact execFadd_wf _ _ hmem
  | fsub _ => exact execFsub_wf _ _ hmem
  | fmul _ => exact execFmul_wf _ _ hmem
  | fma _ => exact execFma_wf _ _ hmem
  | fmin _ => exact execFmin_wf _ _ hmem
  | fmax _ => exact execFmax_wf _ _ hmem
  | fabs _ => exact execFabs_wf _ _ hmem
  | fneg _ => exact execFneg_wf _ _ hmem
  | fcmp _ => exact execFcmp_wf _ _ hmem
  | fclass _ => exact execFclass_wf _ _ hmem
  | fscl _ => exact execFscl_wf _ _ hmem
  | rcp _ => exact execRcp_wf _ _ hmem
  | rsq _ => exact execRsq_wf _ _ hmem
  | exp2 _ => exact execExp2_wf _ _ hmem
  | log2 _ => exact execLog2_wf _ _ hmem
  | tcos _ => exact execTcos_wf _ _ hmem
  | tsin _ => exact execTsin_wf _ _ hmem
  | cvt _ => exact execCvt_wf _ _ hmem
  | qnt _ => exact execQnt_wf _ _ hmem
  | dqt _ => exact execDqt_wf _ _ hmem
  | pack _ => exact execPack_wf _ _ hmem
  | unpk _ => exact execUnpk_wf _ _ hmem
  | rndi _ => exact execRndi_wf _ _ hmem
  | sclc _ => exact execSclc_wf _ _ hmem
  | rsum _ => exact execRsum_wf _ _ hmem
  | rmax _ => exact execRmax_wf _ _ hmem
  | rmin _ => exact execRmin_wf _ _ hmem
  | argmx _ => exact execArgmx_wf _ _ hmem
  | scan _ => exact execScan_wf _ _ hmem
  | dot _ => exact execDot_wf _ _ hmem
  | perm _ => exact execPerm_wf _ _ hmem
  | bcast _ => exact execBcast_wf _ _ hmem
  | adv _ => exact execAdv_wf _ _ hmem
  | steer _ => exact execSteer_wf _ _ hmem
  | carry _ => exact execCarry_wf _ _ hmem
  | inv _ => exact execInv_wf _ _ hmem
  | merge _ => exact execMerge_wf _ _ hmem
  | amrg _ => exact execAmrg_wf _ _ hmem
  | cinch _ => exact execCinch_wf _ _ hmem
  | drop _ => exact execDrop_wf _ _ hmem
  | count _ => exact execCount_wf _ _ hmem
  | lctr _ => exact execLctr_wf _ _ hmem
  | eos _ => exact execEos_wf _ _ hmem
  | gate _ => exact execGate_wf _ _ hmem
  | rhead _ => exact execRhead_wf _ _ hmem
  | rheadLa _ => exact execRheadLa_wf _ _ hmem
  | sadm _ => exact execSadm_wf _ _ hmem
  | sevc _ => exact execSevc_wf _ _ hmem
  | shld _ => exact execShld_wf _ _ hmem
  | shldU _ => exact execShldU_wf _ _ hmem
  | srel _ => exact execSrel_wf _ _ hmem
  | sclr _ => exact execSclr_wf _ _ hmem
  | sstat _ => exact execSstat_wf _ _ hmem
  | bank _ => exact execBank_wf _ _ hmem
  | unbank _ => exact execUnbank_wf _ _ hmem
  | rerot _ => exact execRerot_wf _ _ hmem
  | mark _ => exact execMark_wf _ _ hmem
  | ld _ => exact execLd_wf _ _ hmem
  | st _ => exact execSt_wf _ _ hmem
  | lds _ => exact execLds_wf _ _ hmem
  | stf _ => exact execStf_wf _ _ hmem
  | ldx _ => exact execLdx_wf _ _ hmem
  | stx _ => exact execStx_wf _ _ hmem
  | amo _ => exact execAmo_wf _ _ hmem
  | done _ => exact execDone_wf _ _ hmem
  | rpush _ => exact execRpush_wf _ _ hmem
  | rpop _ => exact execRpop_wf _ _ hmem
  | mtask _ => exact execMtask_wf _ _ hmem
  | msync _ => exact execMsync_wf _ _ hmem
  | mdrain _ => exact execMdrain_wf _ _ hmem
  | xreq _ => exact execXreq_wf _ _ hmem
  | xmc _ => exact execXmc_wf _ _ hmem
  | pglk _ => exact execPglk_wf _ _ hmem
  | pgfork _ => exact execPgfork_wf _ _ hmem
  | pgfree _ => exact execPgfree_wf _ _ hmem
  | pgbase _ => exact execPgbase_wf _ _ hmem
  | ldk _ => exact execLdk_wf _ _ hmem
  | ldv _ => exact execLdv_wf _ _ hmem
  | kapp _ => exact execKapp_wf _ _ hmem
  | smrg _ => exact execSmrg_wf _ _ hmem
  | rsvr _ => exact execRsvr_wf _ _ hmem
  | rdraw _ => exact execRdraw_wf _ _ hmem
  | accpt _ => exact execAccpt_wf _ _ hmem
  | egput _ => exact execEgput_wf _ _ hmem
  | egver _ => exact execEgver_wf _ _ hmem
  | egrst _ => exact execEgrst_wf _ _ hmem
  | rein _ => exact execRein_wf _ _ hmem
  | kadd _ => exact memWf_of_memIs hmem (execKadd_mem _ _)
  | ksub _ => exact memWf_of_memIs hmem (execKsub_mem _ _)
  | kmul _ => exact memWf_of_memIs hmem (execKmul_mem _ _)
  | kand _ => exact memWf_of_memIs hmem (execKand_mem _ _)
  | kor _ => exact memWf_of_memIs hmem (execKor_mem _ _)
  | kxor _ => exact memWf_of_memIs hmem (execKxor_mem _ _)
  | kshl _ => exact memWf_of_memIs hmem (execKshl_mem _ _)
  | kshr _ => exact memWf_of_memIs hmem (execKshr_mem _ _)
  | kcmp _ => exact memWf_of_memIs hmem (execKcmp_mem _ _)
  | ksel _ => exact memWf_of_memIs hmem (execKsel_mem _ _)
  | kmovi _ => exact memWf_of_memIs hmem (execKmovi_mem _ _)
  | kld _ => exact execKld_wf _ _ hmem
  | kst _ => exact execKst_wf _ _ hmem
  | krd _ => exact memWf_of_memIs hmem (execKrd_mem _ _)
  | kwr _ => exact execKwr_wf _ _ hmem
  | kstm _ => exact memWf_of_memIs hmem (execKstm_mem _ _)
  | kldm _ => exact memWf_of_memIs hmem (execKldm_mem _ _)
  | qsend _ => exact memWf_of_memIs hmem (execQsend_mem _ _)
  | qrecv _ => exact memWf_of_memIs hmem (execQrecv_mem _ _)
  | rep _ => exact memWf_of_memIs hmem (execRep_mem _ _)
  | bra _ => exact execBra_wf _ _ hmem
  | bcall _ => exact execBcall_wf _ _ hmem
  | bret _ => exact execBret_wf _ _ hmem
  | csrrd _ => exact execCsrrd_wf _ _ hmem
  | csrwr _ => exact execCsrwr_wf _ _ hmem
  | trap _ => exact execTrap_wf _ _ hmem
  | eret _ => exact execEret_wf _ _ hmem
  | wfe _ => exact execWfe_wf _ _ hmem
  | evpop _ => exact execEvpop_wf _ _ hmem
  | prcw _ => exact execPrcw_wf _ _ hmem
  | prcwS _ => exact execPrcwS_wf _ _ hmem
  | launch _ => exact execLaunch_wf _ _ hmem
  | halt _ => exact execHalt_wf _ _ hmem
  | egarm _ => exact execEgarm_wf _ _ hmem
  | tokenArrival _ _ _ _ _ => exact memWf_of_memIs hmem (execTokenArrival_mem _ _ _ _ _ _)
  | creditReturn _ _ _ => exact memWf_of_memIs hmem (execCreditReturn_mem _ _ _ _)
  | longChannelDelivery _ _ => exact execLongChannelDelivery_wf _ _ _ hmem
  | guardReportPost _ _ _ => exact memWf_of_memIs hmem (execGuardReportPost_mem _ _ _ _)
  | slotPass _ _ => exact execSlotPass_wf _ _ _ hmem
  | commandEnqueue _ _ _ _ => exact memWf_of_memIs hmem (execCommandEnqueue_mem _ _ _ _ _)
  | emberReadDone _ _ _ => exact memWf_of_memIs hmem (execEmberReadDone_mem _ _ _ _)
  | emberWriteDone _ _ _ => exact memWf_of_memIs hmem (execEmberWriteDone_mem _ _ _ _)
  | headRetire _ _ => exact execHeadRetire_wf _ _ _ hmem
  | markerArrival _ _ _ _ => exact execMarkerArrival_wf _ _ _ _ _ hmem
  | snapWindowExpiry _ _ => exact execSnapWindowExpiry_wf _ _ _ hmem
  | snapshotClose _ _ => exact execSnapshotClose_wf _ _ _ hmem
  | regionLoad _ _ _ => exact execRegionLoad_wf _ _ _ _ hmem
  | loadComplete _ _ _ => exact memWf_of_memIs hmem (execLoadComplete_mem _ _ _ _)
  | elementEviction _ _ => exact execElementEviction_wf _ _ _ hmem
  | elementRestore _ _ => exact memWf_of_memIs hmem (execElementRestore_mem _ _ _)
  | regionCommit _ _ => exact memWf_of_memIs hmem (execRegionCommit_mem _ _ _)
  | completionRelease _ _ => exact execCompletionRelease_wf _ _ _ hmem
  | preemptComplete _ _ _ => exact execPreemptComplete_wf _ _ _ _ hmem
  | lateResultArrival _ => exact memWf_of_memIs hmem (execLateResultArrival_mem _ _)
  | accessPerform _ => exact execAccessPerform_wf _ _ hmem
  | memoryResultDelivery _ => exact execMemoryResultDelivery_wf _ _ hmem
  | ldsWake _ => exact execLdsWake_wf _ _ hmem
  | walkComplete _ => exact memWf_of_memIs hmem (execWalkComplete_mem _ _)
  | scrubLine _ _ _ => exact execScrubLine_wf _ _ _ _ hmem
  | taskEnqueue _ => exact memWf_of_memIs hmem (execTaskEnqueue_mem _ _)
  | taskIssue _ => exact memWf_of_memIs hmem (execTaskIssue_mem _ _)
  | taskRetire _ _ => exact execTaskRetire_wf _ _ _ hmem
  | msyncComplete _ => exact memWf_of_memIs hmem (execMsyncComplete_mem _ _)
  | transferAccept _ => exact memWf_of_memIs hmem (execTransferAccept_mem _ _)
  | transferLine _ _ _ => exact memWf_of_memIs hmem (execTransferLine_mem _ _ _ _)
  | transferComplete _ _ => exact memWf_of_memIs hmem (execTransferComplete_mem _ _ _)
  | xmcPermit _ _ => exact execXmcPermit_wf _ _ _ hmem
  | blockFetch _ _ _ => exact memWf_of_memIs hmem (execBlockFetch_mem _ _ _ _)
  | controlBlockCommit _ _ => exact memWf_of_memIs hmem (execControlBlockCommit_mem _ _ _)
  | repRepetition _ _ => exact memWf_of_memIs hmem (execRepRepetition_mem _ _ _)
  | wfeTimeout _ _ _ _ => exact memWf_of_memIs hmem (execWfeTimeout_mem _ _ _ _ _)
  | ctxpartWrite _ _ _ => exact memWf_of_memIs hmem (execCtxpartWrite_mem _ _ _ _)
  | guardMapWrite _ _ _ _ => exact memWf_of_memIs hmem (execGuardMapWrite_mem _ _ _ _ _)
  | tlbinvAll _ => exact memWf_of_memIs hmem (execTlbinvAll_mem _ _)
  | tlbinvAsid _ _ => exact memWf_of_memIs hmem (execTlbinvAsid_mem _ _ _)
  | tlbinvPage _ _ _ => exact memWf_of_memIs hmem (execTlbinvPage_mem _ _ _ _)
  | regctlRelease _ _ _ => exact memWf_of_memIs hmem (execRegctlRelease_mem _ _ _ _)
  | regctlRemap _ _ _ => exact memWf_of_memIs hmem (execRegctlRemap_mem _ _ _ _)
  | regctlPreempt _ _ _ => exact memWf_of_memIs hmem (execRegctlPreempt_mem _ _ _ _)
  | fwCtlWrite _ _ => exact memWf_of_memIs hmem (execFwCtlWrite_mem _ _ _)
  | fwResume _ _ => exact execFwResume_wf _ _ _ hmem
  | ctxswSave _ _ _ _ => exact execCtxswSave_wf _ _ _ _ _ hmem
  | ctxswRestore _ _ _ _ => exact memWf_of_memIs hmem (execCtxswRestore_mem _ _ _ _ _)
  | ctxswClear _ _ _ => exact memWf_of_memIs hmem (execCtxswClear_mem _ _ _ _)
  | ctxswStop _ _ _ => exact memWf_of_memIs hmem (execCtxswStop_mem _ _ _ _)
  | contextStop _ _ => exact memWf_of_memIs hmem (execContextStop_mem _ _ _)
  | ctxgo _ _ _ => exact memWf_of_memIs hmem (execCtxgo_mem _ _ _ _)
  | dbgCtlWrite _ _ _ => exact memWf_of_memIs hmem (execDbgCtlWrite_mem _ _ _ _)
  | kvtCsrWrite _ _ _ => exact memWf_of_memIs hmem (execKvtCsrWrite_mem _ _ _ _)
  | dmawinLockSet _ _ => exact memWf_of_memIs hmem (execDmawinLockSet_mem _ _ _)
  | csrWrite _ _ _ _ => exact execCsrWrite_wf _ _ _ _ _ hmem
  | collectorRecord _ => exact memWf_of_memIs hmem (execCollectorRecord_mem _ _)
  | collectorWindowClose => exact execCollectorWindowClose_wf _ hmem
  | parkedReoffer _ => exact memWf_of_memIs hmem (execParkedReoffer_mem _ _)
  | reinWindowStart _ _ => exact memWf_of_memIs hmem (execReinWindowStart_mem _ _ _)
  | reinUpdate _ _ => exact memWf_of_memIs hmem (execReinUpdate_mem _ _ _)
  | egputEntryFree => exact memWf_of_memIs hmem (execEgputEntryFree_mem _)
  | egressRecordOut => exact memWf_of_memIs hmem (execEgressRecordOut_mem _)
  | egoHeadWrite _ => exact memWf_of_memIs hmem (execEgoHeadWrite_mem _ _)
  | launchPacket _ => exact execLaunchPacket_wf _ _ hmem
  | register _ => exact execRegister_wf _ _ hmem
  | dropPacket _ => exact execDropPacket_wf _ _ hmem
  | query _ => exact execQuery_wf _ _ hmem
  | attest _ => exact execAttest_wf _ _ hmem
  | boot _ => exact memWf_of_memIs hmem (execBoot_mem _ _)
  | ingressWrite _ _ _ => exact execIngressWrite_wf _ _ _ _ hmem
  | ingressDelivery _ => exact execIngressDelivery_wf _ _ hmem
  | ingStatClear _ _ => exact execIngStatClear_wf _ _ _ hmem
  | hostMemoryWrite _ _ => exact execHostMemoryWrite_wf _ _ _ hmem
  | hostMemoryRead _ _ => exact memWf_of_memIs hmem (execHostMemoryRead_mem _ _ _)
  | kilnPlace => exact execKilnPlace_wf _ hmem
  | launchAging _ => exact memWf_of_memIs hmem (execLaunchAging_mem _ _)
  | imageReadDone _ _ => exact execImageReadDone_wf _ _ _ hmem
  | deviceReset => exact execDeviceReset_wf _ hmem
  | thermalThrottle => exact memWf_of_memIs hmem (execThermalThrottle_mem _)
  | peerAccess _ _ _ _ => exact execPeerAccess_wf _ _ _ _ _ hmem
  | throttleEnd => exact memWf_of_memIs hmem (execThrottleEnd_mem _)

/-! ## Machine/Tick.lean -/

@[simp] theorem State.settleAll_mem (s : State) : s.settleAll.mem = s.mem :=
  (foldl_mem _ _ _ fun _ _ => foldl_mem _ _ _ fun _ _ => State.settleKept_mem _ _ _).trans
    (foldl_mem _ _ _ fun _ _ => State.settleFaults_mem _ _ _)

@[simp] theorem State.channels_mem (s : State) : (State.channels s).mem = s.mem := by
  unfold State.channels
  first | rfl | (repeat' (
    first | (simp (maxDischargeDepth := 40); done) | split | with_reducible refine foldl_mem _ _ _ ?_ | intro _ _
          | simp (maxDischargeDepth := 40) | dsimp only))

@[simp] theorem State.reinsTick_mem (s : State) : s.reinsTick.1.mem = s.mem :=
  foldl_fst_mem _ _ _ fun _ _ => foldl_fst_mem _ _ _ fun _ _ => State.onRein_mem _ _ _ _

@[simp] theorem State.tendAll_mem (s : State) : s.tendAll.mem = s.mem :=
  foldl_mem _ _ _ fun _ _ => ite_mem (State.ktend_mem _ _ _) rfl

@[simp] theorem State.engine_mem (s : State) (q : State × List Act) (c : Fin 96) :
    (s.engine q c).1.mem = q.1.mem := by
  unfold State.engine
  dsimp only
  split
  · rfl
  · exact State.onCore_mem _ _ _

@[simp] theorem State.engines_mem (s : State) : s.engines.1.mem = s.mem :=
  foldl_fst_mem _ _ _ fun _ _ => State.engine_mem _ _ _

@[simp] theorem State.clockOn_mem (s : State) : s.clockOn.mem = s.mem := rfl

@[simp] theorem State.serveDue_mem (s : State) (due : List Instr) : (State.serveDue s due).1.mem = s.mem := by
  unfold State.serveDue
  first | rfl | (repeat' (
    first | (simp (maxDischargeDepth := 40); done) | split | with_reducible refine foldl_mem _ _ _ ?_ | intro _ _
          | simp (maxDischargeDepth := 40) | dsimp only))

@[simp] theorem State.plan_mem (s : State) (as : List Act) : (s.plan as).mem = s.mem := rfl

@[simp] theorem State.tick_mem (s : State) : s.tick.mem = s.mem := by
  unfold State.tick
  rw [State.tickFresh_mem, State.plan_mem, State.serveDue_mem, State.engines_mem, State.reinsTick_mem,
    State.tendAll_mem, State.channels_mem, State.settleAll_mem, State.plan_mem, State.clockOn_mem]

@[simp] theorem State.mendPort_mem (s : State) (x : Site) (p : PortName) : (State.mendPort s x p).mem = s.mem := by
  unfold State.mendPort
  first | rfl | (repeat' (
    first | (simp (maxDischargeDepth := 40); done) | split | with_reducible refine foldl_mem _ _ _ ?_ | intro _ _
          | simp (maxDischargeDepth := 40) | dsimp only))

theorem State.readPorts_mem (s t : State) (x : Site) (h : s.readPorts x = some t) : t.mem = s.mem := by
  unfold State.readPorts at h
  dsimp only at h
  split at h
  · rw [← Option.some.inj h]
    exact foldl_mem _ _ _ fun s p => State.mendPort_mem _ _ _
  · simp at h

theorem State.runSlot_wf (s : State) (x : Site) (hmem : s.mem.wf = true) : MemWf (s.runSlot x) := by
  unfold State.runSlot
  dsimp only
  split
  · exact hmem
  · split
    · exact hmem
    · split
      · rename_i t h
        refine exec_wf _ _ ?_
        exact (congrArg Memory.wf (State.readPorts_mem _ _ _ h)).trans hmem
      · exact (congrArg Memory.wf (State.regionFault_mem _ _ _ _ _ _ _)).trans hmem
    · trivial

theorem State.runControl_wf (s : State) (x : Site) (hmem : s.mem.wf = true) : MemWf (s.runControl x) := by
  unfold State.runControl
  split
  · exact hmem
  · split
    · exact hmem
    · split
      · exact hmem
      · exact exec_wf _ _ hmem
      · trivial

@[simp] theorem State.advance_wf (s : State) (hmem : s.mem.wf = true) : MemWf (State.advance s) := by
  unfold State.advance
  split
  · refine (memWf_next _).2 ?_
    rw [State.tick_mem]; exact hmem
  · dsimp only
    split
    · exact State.runSlot_wf _ _ hmem
    · exact State.runControl_wf _ _ hmem
    · exact exec_wf _ _ hmem

@[simp] theorem State.placeFabric_mem (s : State) (w : Word64) : (State.placeFabric s w).mem = s.mem := by
  unfold State.placeFabric
  first | rfl | (repeat' (
    first | (simp (maxDischargeDepth := 40); done) | split | with_reducible refine foldl_mem _ _ _ ?_ | intro _ _
          | simp (maxDischargeDepth := 40) | dsimp only))

@[simp] theorem State.placeControl_mem (s : State) (w : Word64) : (State.placeControl s w).mem = s.mem := by
  unfold State.placeControl
  rfl

@[simp] theorem State.placeWord_mem (s : State) (w : Word64) : (State.placeWord s w).mem = s.mem := by
  unfold State.placeWord
  exact ite_mem (State.placeControl_mem _ _) (State.placeFabric_mem _ _)

/-! ## Machine/Step.lean -/

@[simp] theorem State.withFetchWord_mem (s : State) (nbits w : Nat) : (State.withFetchWord s nbits w).mem = s.mem :=
  State.placeWord_mem _ _

end Sys2Proof.Machine
end

