-- ==== Sys2Proof/Tests/Base.lean ====
section
/-! SUPPORT. Small states for the tests and the witnesses: one slot of a MAPPED 4 × 4 region of core 0 with tokens in its
ports, or one slot of a control block of context 0; and the checks that a premise of a statement holds of such a state. -/

namespace Sys2Proof.Tests

open Sys2Proof Sys2Proof.Machine

/-- Region 0 of core 0, MAPPED, of 4 × 4 elements, for configuration `handle`. -/
def stageRegion (handle : Word64) : Region := { Region.blank with st := .mapped, w := 4, h := 4, handle := handle }

/-- The machine with slot i of that region in focus, holding u. -/
def stage (i : Fin 128) (u : Slot) : State :=
  let s := State.reset.onRegion 0 0 fun _ => stageRegion 0
  let s := s.onSlot ⟨0, 0, i⟩ fun _ => u
  { s with clk := { s.clk with focus := ⟨0, 0, i⟩ } }

/-- A port that holds tokens. -/
def queue (ts : List Token) : Port := { Port.empty with q := ts.map fun t => ⟨t, 0, Origin.none⟩ }

/-- A slot whose ports hold tokens. -/
def fed (a b c : List Token) : Slot := { Slot.holding 1 with a := queue a, b := queue b, c := queue c }

/-- A token of sixteen equal lanes. -/
def flat (tag : BitVec 4) (v : Lane) : Token := dataToken (Vector.replicate 16 v) tag

/-- Port controls: unused, need 1 pop 1, need 1 pop 0. -/
def off : PortCtl := ⟨0, 0⟩
def one : PortCtl := ⟨1, 1⟩
def peek : PortCtl := ⟨1, 0⟩

/-- A word of format FA that delivers to port a of slot 1 from the ports used. -/
def wordFA (mod : BitVec 8) (a b c : PortCtl) (imm : BitVec 10) : FA := ⟨mod, ⟨true, 1, 0⟩, ⟨false, 0, 0⟩, a, b, c, imm⟩
/-- The same of format FO. -/
def wordFO (a b : PortCtl) (params : BitVec 16) : FO := ⟨0, ⟨true, 1, 0⟩, ⟨false, 0, 0⟩, a, b, params⟩
/-- The same of format FM. -/
def wordFM (mod : BitVec 8) (a b : PortCtl) (space : BitVec 4) (o : BitVec 12) : FM :=
  ⟨mod, ⟨true, 1, 0⟩, ⟨false, 0, 0⟩, a, b, space, o⟩

/-- `Clear` as a check. -/
def clearB (s : State) (io : Io) (n0 n1 : Nat) : Bool :=
  s.live s.clk.focus && s.room s.clk.focus false io.t0 n0 && s.room s.clk.focus true io.t1 n1 &&
    (s.slot s.clk.focus).snap == .off && s.reinOk s.clk.focus

theorem clear_of {s : State} {io : Io} {n0 n1 : Nat} (h : clearB s io n0 n1 = true) : Clear s io n0 n1 := by
  simp only [clearB, Bool.and_eq_true, beq_iff_eq] at h
  exact ⟨h.1.1.1.1, h.1.1.1.2, h.1.1.2, h.1.2, h.2⟩

/-- `Ready` as a check. -/
def readyB (s : State) (io : Io) : Bool :=
  clearB s io 1 1 && (!io.used.isEmpty || !(s.slot s.clk.focus).fired) &&
    io.used.all fun p => s.portSt s.clk.focus io p == .data

theorem ready_of {s : State} {io : Io} (h : readyB s io = true) : Ready s io := by
  simp only [readyB, Bool.and_eq_true, List.all_eq_true, beq_iff_eq] at h
  refine ⟨clear_of h.1.1, fun e => ?_, h.2⟩
  simpa [e] using h.1.2

theorem clean_of {ts : List Token} (h : ts.all (fun t => !t.void && !t.poisoned) = true) : Clean ts := by
  intro t ht
  simpa using List.all_eq_true.mp h t ht

theorem tagged_of {r : Bool} {d : BitVec 4} {t : Token} (h : (tagCheck r d t && !t.badTag) = true) : Tagged r d t := by
  simpa [Tagged] using h

theorem wellFed_of {s : State} {io : Io} {p : PortName}
    (h : (!(io.ctl p).used || (!(s.operand io p).badTag &&
      match wellScaled (s.edgeAt s.clk.focus p) [s.operand io p] with
      | .ok _ => true
      | .error _ => false)) = true) : s.wellFed io p := by
  intro hu
  rw [hu, Bool.not_true, Bool.false_or, Bool.and_eq_true, Bool.not_eq_true'] at h
  refine ⟨h.1, ?_⟩
  have := h.2
  split at this
  · assumption
  · cases this

theorem goes {o : Host.Outcome State Fault Refusal} {t : State} (h : o = .next t) : Goes o := ⟨t, h⟩

theorem goes_tok {o : Host.Outcome State Fault Refusal} {α : Type} {f : α → State} {P : α → Prop}
    (h : ∃ x, o = .next (f x) ∧ P x) : Goes o := let ⟨_, e, _⟩ := h; ⟨_, e⟩

end Sys2Proof.Tests
end

