-- ==== Sys2Proof/Tests/WitnessLanes.lean ====
section
/-! SUPPORT. Witnesses for the statements about the lane instructions: for each clause a concrete state and operands that
meet all its premises together, the statement being applied to them. -/

namespace Sys2Proof.Tests

open Sys2Proof Sys2Proof.Machine

set_option maxRecDepth 100000

/-- IADD, ISUB and the others of two ports: 5 and 3 in every lane. -/
def twoIn (tag : BitVec 4) (x y : Lane) : State := stage 0 (fed [flat tag x] [flat tag y] [])
/-- Three ports. -/
def threeIn (tag : BitVec 4) (x y z : Lane) : State := stage 0 (fed [flat tag x] [flat tag y] [flat tag z])
/-- One port with several tokens. -/
def oneIn (ts : List Token) : State := stage 0 (fed ts [] [])

/-! ## Integers -/

theorem witness_IntegerArithmetic_wrap (h : Clause.IntegerArithmetic) :
    Goes (exec (.iadd (wordFA 0x70 one one off 0)) (twoIn 7 5 3)) :=
  goes_tok ((h (wordFA 0x70 one one off 0) (twoIn 7 5 3) _ _ _ (.head _) rfl (ready_of (by decide)) (clean_of (by decide))
    (fun p hp => tagged_of (by revert p; decide))).1 (by decide))

/-- The trap form where every exact value is the largest of its range. -/
theorem witness_IntegerArithmetic_edge (h : Clause.IntegerArithmetic) :
    Goes (exec (.iadd (wordFA 0x78 one one off 0)) (twoIn 7 0x7FFFFFFE 1)) :=
  goes_tok ((h (wordFA 0x78 one one off 0) (twoIn 7 0x7FFFFFFE 1) _ _ _ (.head _) rfl (ready_of (by decide))
    (clean_of (by decide)) (fun p hp => tagged_of (by revert p; decide))).1 (by decide))

/-- The trap form one above. -/
theorem witness_IntegerArithmetic_trap (h : Clause.IntegerArithmetic) :
    Goes (exec (.iadd (wordFA 0x78 one one off 0)) (twoIn 7 0x7FFFFFFF 1)) :=
  goes ((h (wordFA 0x78 one one off 0) (twoIn 7 0x7FFFFFFF 1) _ _ _ (.head _) rfl (ready_of (by decide))
    (clean_of (by decide)) (fun p hp => tagged_of (by revert p; decide))).2 (by decide) ⟨0, by decide, 0, by decide, by decide +kernel⟩)

/-- A shift by the width, from port b. -/
theorem witness_BitOperations (h : Clause.BitOperations) :
    Goes (exec (.and (wordFA 0x70 one off off (-1))) (oneIn [flat 0 6])) :=
  goes_tok (h (wordFA 0x70 one off off (-1)) (oneIn [flat 0 6]) _ _ (.head _) rfl rfl (ready_of (by decide))
    (clean_of (by decide)) (fun p hp => ⟨tagged_of (by revert p; decide), wellFed_of (by revert p; decide)⟩))

theorem witness_BitOperations_any_raw (h : Clause.BitOperations) :
    Goes (exec (.and (wordFA 0 one one off 0)) (twoIn 1 6 3)) :=
  goes_tok (h (wordFA 0 one one off 0) (twoIn 1 6 3) _ _ (.head _) rfl rfl (ready_of (by decide))
    (clean_of (by decide)) (fun p hp => ⟨tagged_of (by revert p; decide), wellFed_of (by revert p; decide)⟩))

theorem witness_CompareAndSelect_icmp (h : Clause.CompareAndSelect) :
    Goes (exec (.icmp (wordFA 0x70 one one off 5)) (twoIn 7 6 3)) :=
  goes_tok ((h (wordFA 0x70 one one off 5) (twoIn 7 6 3) (ready_of (by decide)) (clean_of (by decide)) rfl rfl
    (tagged_of (by decide)) (tagged_of (by decide))).1 (by decide))

theorem witness_CompareAndSelect_sel (h : Clause.CompareAndSelect) :
    Goes (exec (.sel (wordFA 0x70 one one one 0)) (threeIn 7 6 3 0)) :=
  goes_tok ((h (wordFA 0x70 one one one 0) (threeIn 7 6 3 0) (ready_of (by decide)) (clean_of (by decide)) rfl rfl
    (tagged_of (by decide)) (tagged_of (by decide))).2 (by decide) (tagged_of (by decide)))

/-- The whole lane: POS 0, LEN 32. -/
theorem witness_BitFields_bfx (h : Clause.BitFields) :
    Goes (exec (.bfx ⟨0x70, ⟨true, 1, 0⟩, ⟨false, 0, 0⟩, one, 0x3E0⟩) (oneIn [flat 7 6])) :=
  goes_tok (h.1 ⟨0x70, ⟨true, 1, 0⟩, ⟨false, 0, 0⟩, one, 0x3E0⟩ (oneIn [flat 7 6]) (by decide) (ready_of (by decide))
    (clean_of (by decide)) (tagged_of (by decide)))

/-- POS 31, LEN 1. -/
theorem witness_BitFields_bfi (h : Clause.BitFields) : Goes (exec (.bfi (wordFA 0x70 one one off 31)) (twoIn 7 6 1)) :=
  goes_tok (h.2 (wordFA 0x70 one one off 31) (twoIn 7 6 1) (by decide) (by decide) (ready_of (by decide))
    (clean_of (by decide)) (tagged_of (by decide)) (tagged_of (by decide)) (by decide))

theorem witness_MovesAndSources_mov (h : Clause.MovesAndSources) :
    Goes (exec (.mov (wordFA 0x60 one off off 0)) (oneIn [scaledToken zeroLanes 6 0x0080])) :=
  goes_tok (h.1 (wordFA 0x60 one off off 0) (oneIn [scaledToken zeroLanes 6 0x0080]) (by decide) (by decide) rfl rfl
    (ready_of (by decide)) (clean_of (by decide)) (by decide) (by decide) rfl)

theorem witness_MovesAndSources_retag (h : Clause.MovesAndSources) :
    Goes (exec (.mov (wordFA 0x11 one off off 0)) (oneIn [flat 7 6])) :=
  goes_tok (h.2.1 (wordFA 0x11 one off off 0) (oneIn [flat 7 6]) (by decide) (by decide) rfl rfl (ready_of (by decide))
    (clean_of (by decide)) (by decide) (by decide) (by decide))

theorem witness_MovesAndSources_const (h : Clause.MovesAndSources) :
    Goes (exec (.const ⟨0x23, ⟨true, 1, 0⟩, ⟨false, 0, 0⟩, 0x3F00⟩) (oneIn [])) :=
  goes_tok (h.2.2.1 ⟨0x23, ⟨true, 1, 0⟩, ⟨false, 0, 0⟩, 0x3F00⟩ (oneIn []) (ready_of (by decide)))

theorem witness_MovesAndSources_lane (h : Clause.MovesAndSources) :
    Goes (exec (.lane (wordFA 0x90 off off off 0)) (oneIn [])) :=
  goes_tok (h.2.2.2.1 (wordFA 0x90 off off off 0) (oneIn []) (ready_of (by decide)) (clean_of (by decide))
    (wellFed_of (by decide)))

theorem witness_MovesAndSources_coord (h : Clause.MovesAndSources) :
    Goes (exec (.coord (wordFA 0x70 one off off 0)) (oneIn [flat 7 6])) :=
  goes_tok (h.2.2.2.2.1 (wordFA 0x70 one off off 0) (oneIn [flat 7 6]) (ready_of (by decide)) (clean_of (by decide))
    (wellFed_of (by decide)))

theorem witness_MovesAndSources_phase (h : Clause.MovesAndSources) :
    Goes (exec (.phase (wordFA 0x71 one off off 0)) (oneIn [flat 7 6])) :=
  goes_tok ((h.2.2.2.2.2 (wordFA 0x71 one off off 0) (oneIn [flat 7 6]) (ready_of (by decide)) (clean_of (by decide))
    (wellFed_of (by decide))).1 (by decide))

/-! ## Floats -/

theorem witness_FloatArithmetic_value (h : Clause.FloatArithmetic) :
    Goes (exec (.fadd (wordFA 0x10 one one off 0)) (twoIn 1 0x3F800000 0x40000000)) :=
  goes_tok ((h (wordFA 0x10 one one off 0) (twoIn 1 0x3F800000 0x40000000) _ _ _ _ (.head _) rfl (ready_of (by decide))
    (clean_of (by decide)) (fun p hp => tagged_of (by revert p; decide))).1 (.inl rfl))

/-- Infinity minus infinity under TRAPV. -/
theorem witness_FloatArithmetic_trap (h : Clause.FloatArithmetic) :
    Goes (exec (.fadd (wordFA 0x12 one one off 0)) (twoIn 1 0x7F800000 0xFF800000)) :=
  goes ((h (wordFA 0x12 one one off 0) (twoIn 1 0x7F800000 0xFF800000) _ _ _ _ (.head _) rfl (ready_of (by decide))
    (clean_of (by decide)) (fun p hp => tagged_of (by revert p; decide))).2 rfl ⟨0, by decide, 0, by decide, by decide +kernel⟩)

theorem witness_FloatSelection (h : Clause.FloatSelection) :
    Goes (exec (.fmin (wordFA 0x10 one one off 0)) (twoIn 1 0 0x80000000)) ∧
    Goes (exec (.fmax (wordFA 0x10 one one off 0)) (twoIn 1 0 0x80000000)) ∧
    Goes (exec (.fcmp (wordFA 0x10 one one off 0)) (twoIn 1 0 0x80000000)) ∧
    Goes (exec (.fabs (wordFA 0x10 one one off 0)) (twoIn 1 0 0x80000000)) ∧
    Goes (exec (.fneg (wordFA 0x10 one one off 0)) (twoIn 1 0 0x80000000)) ∧
    Goes (exec (.fclass (wordFA 0x10 one one off 0)) (twoIn 1 0 0x80000000)) := by
  obtain ⟨h1, h2, h3, h4, -⟩ := h (wordFA 0x10 one one off 0) (twoIn 1 0 0x80000000) (ready_of (by decide))
    (clean_of (by decide)) rfl (tagged_of (by decide))
  obtain ⟨h5, h6, h7⟩ := h1 (tagged_of (by decide))
  exact ⟨goes_tok h5, goes_tok h6, goes_tok h7, goes_tok h2, goes_tok h3, goes_tok h4⟩

theorem witness_FloatSelection_fscl (h : Clause.FloatSelection) :
    Goes (exec (.fscl (wordFA 0x10 one off off (-3))) (oneIn [flat 1 0x3F800000])) :=
  goes_tok ((h (wordFA 0x10 one off off (-3)) (oneIn [flat 1 0x3F800000]) (ready_of (by decide)) (clean_of (by decide)) rfl
    (tagged_of (by decide))).2.2.2.2 (fun e => absurd e (by decide)))

/-- Port b of FSCL with its I32 exponents. -/
theorem witness_FloatSelection_fscl_port (h : Clause.FloatSelection) :
    Goes (exec (.fscl (wordFA 0x10 one one off 0)) (stage 0 (fed [flat 1 0x3F800000] [flat 7 2] []))) :=
  goes_tok ((h (wordFA 0x10 one one off 0) (stage 0 (fed [flat 1 0x3F800000] [flat 7 2] [])) (ready_of (by decide))
    (clean_of (by decide)) rfl (tagged_of (by decide))).2.2.2.2 (fun _ => tagged_of (by decide)))

theorem witness_FunctionUnit (h : Clause.FunctionUnit) :
    Goes (exec (.rcp (wordFA 0x10 one off off 0)) (oneIn [flat 1 0])) :=
  goes_tok ((h.1 (wordFA 0x10 one off off 0) (oneIn [flat 1 0]) _ _ _ (.head _) rfl (ready_of (by decide))
    (clean_of (by decide)) (tagged_of (by decide))).1 (.inl rfl))

/-- The square root of −1 under TRAPV. -/
theorem witness_FunctionUnit_trap (h : Clause.FunctionUnit) :
    Goes (exec (.rsq (wordFA 0x12 one off off 0)) (oneIn [flat 1 0xBF800000])) :=
  goes ((h.1 (wordFA 0x12 one off off 0) (oneIn [flat 1 0xBF800000]) _ _ _ (.tail _ (.head _)) rfl (ready_of (by decide))
    (clean_of (by decide)) (tagged_of (by decide))).2 rfl ⟨0, by decide, by decide +kernel⟩)

theorem witness_FunctionUnit_turns (h : Clause.FunctionUnit) :
    Goes (exec (.tcos (wordFA 0x70 one off off 0)) (oneIn [flat 7 0x40000000])) ∧
    Goes (exec (.tsin (wordFA 0x70 one off off 0)) (oneIn [flat 7 0x40000000])) := by
  obtain ⟨h1, h2⟩ := h.2 (wordFA 0x70 one off off 0) (oneIn [flat 7 0x40000000]) rfl (ready_of (by decide))
    (clean_of (by decide)) (tagged_of (by decide))
  exact ⟨goes_tok h1, goes_tok h2⟩

end Sys2Proof.Tests
end

