-- ==== Sys2Proof/Tests/WitnessMemory.lean ====
section
/-! SUPPORT. Witnesses for the statements about memory operators, accesses, results and translation. -/

namespace Sys2Proof.Tests

open Sys2Proof Sys2Proof.Machine

set_option maxRecDepth 100000

/-- A configuration with handle 9 under ASID 5, owned by context 0 of core 0, its one entry block placed on region 0. -/
def cfg9 (bytes : List Byte) : Cfg :=
  { handle := 9, image := 0, asid := 5, core := 0, ctx := 0, prio := 3, st := .running, queuedAt := 0, aged := 0, launchedAt := 0,
    bytes := bytes, cached := true, digest := 0, shapes := [(4, 4)],
    places := [⟨.placed, 0, 0, 0, 0, 0, none, [], [], true⟩], chans := [], reins := [], granules := [], after := [] }

/-- The state with that configuration, which region 0 belongs to. -/
def owned (g : Cfg) (s : State) : State :=
  { s.onRegion 0 0 (fun r => { r with handle := 9 }) with kiln := ⟨[g], [9], [0, 0, 0, 0]⟩ }

/-- Bytes put into memory. -/
def withBytes (a : Nat) (bs : List Byte) (s : State) : State := s.onMem fun m => m.store a bs

/-- The M slot of element 0. -/
def memSlot (a b : List Token) : State := stage 7 (fed a b [])

theorem witness_MemoryBytes (h : Clause.MemoryBytes) :
    (Memory.reset.store 0 (List.replicate 64 1)).isPoison 0 = false :=
  ((h Memory.reset 0 (List.replicate 64 1) (by decide)).2.2.2.1 0 (by decide) (by decide)).1

/-- The last aligned 64 bytes of a tile, and an address through BASE[7]. -/
theorem witness_Addresses (h : Clause.Addresses) :
    ((memSlot [] []).locate ⟨0, 0, 7⟩ 0 0 0x2FFC0 64 64 true).bad = none ∧
    ((owned (cfg9 []) (memSlot [] [])).locate ⟨0, 0, 7⟩ 2 0xE01 64 64 64 false).virt = true := by
  obtain ⟨⟨_, _, h1⟩, _⟩ := h (memSlot [] []) ⟨0, 0, 7⟩ 0 0x2FFC0 64 64 true (by decide)
  obtain ⟨_, _, h2⟩ := h (owned (cfg9 []) (memSlot [] [])) ⟨0, 0, 7⟩ 0xE01 64 64 64 false (by decide)
  exact ⟨h1.trans (by decide +kernel), (h2 _ 2 rfl (.inr rfl)).1⟩

theorem witness_Loads (h : Clause.Loads) :
    let s := memSlot [flat 7 64] []
    Goes (exec (.ld (wordFM 0x60 one off 0 1)) s) ∧ Goes (exec (.ld (wordFM 0x71 one off 0 1)) s) ∧
    Goes (exec (.ld (wordFM 0x72 one off 0 1)) s) ∧ Goes (exec (.lds (wordFM 0x71 one off 0 1)) s) ∧
    Goes (exec (.ld (wordFM 0x73 one off 0 0)) s) ∧
    Goes (exec (.ld (wordFM 0x71 one off 0 1)) (s.onMem fun m => m.setFull 0x4000000080 true)) :=
  ⟨goes ((h (wordFM 0x60 one off 0 1) (memSlot [flat 7 64] []) (ready_of (by decide)) rfl ⟨by decide, by decide⟩ rfl).1 rfl
      (by decide) (by decide)),
    goes (((h (wordFM 0x71 one off 0 1) (memSlot [flat 7 64] []) (ready_of (by decide)) rfl ⟨by decide, by decide⟩ rfl).2.1
      rfl (by decide)).2 (by decide) (by decide)),
    goes ((h (wordFM 0x72 one off 0 1) (memSlot [flat 7 64] []) (ready_of (by decide)) rfl ⟨by decide, by decide⟩ rfl).2.2.1
      (by decide) (fun _ => ⟨by decide, rfl⟩) rfl (by decide)),
    goes ((h (wordFM 0x71 one off 0 1) (memSlot [flat 7 64] []) (ready_of (by decide)) rfl ⟨by decide, by decide⟩ rfl).2.2.2.1
      rfl (by decide)),
    goes ((h (wordFM 0x73 one off 0 0) (memSlot [flat 7 64] []) (ready_of (by decide)) rfl ⟨by decide, by decide⟩ rfl).2.2.2.2
      rfl (by decide) (by decide) (by decide)),
    goes (((h (wordFM 0x71 one off 0 1) ((memSlot [flat 7 64] []).onMem fun m => m.setFull 0x4000000080 true)
      (ready_of (by decide)) rfl ⟨by decide, by decide⟩ rfl).2.1 rfl (by decide)).1 (by decide) (by decide))⟩

/-- A store of a scaled token, one without an address, and a poisoned one. -/
theorem witness_Stores (h : Clause.Stores) :
    Goes (exec (.st (wordFM 0x60 one one 0 1)) (memSlot [flat 7 64] [scaledToken zeroLanes 6 0x0080])) ∧
    Goes (exec (.stf (wordFM 0x70 off one 0 1)) (memSlot [] [flat 7 1])) ∧
    Goes (exec (.st (wordFM 0x70 one one 0 1)) (memSlot [flat 7 64] [poisonToken])) :=
  ⟨goes (h (wordFM 0x60 one one 0 1) (memSlot [flat 7 64] [scaledToken zeroLanes 6 0x0080]) 64 false (ready_of (by decide)) rfl
      ⟨by decide, by decide⟩ (by decide) (.inr ⟨rfl, rfl, rfl, rfl⟩) (by decide) (by decide)
      (fun _ => ⟨fun t ht => tagged_of (by revert t; decide), rfl⟩) (by decide)).1,
    goes (h (wordFM 0x70 off one 0 1) (memSlot [] [flat 7 1]) 0 false (ready_of (by decide)) rfl
      ⟨by decide, by decide⟩ (by decide) (.inl ⟨rfl, rfl⟩) (by decide) (by decide)
      (fun _ => ⟨fun t ht => tagged_of (by revert t; decide), rfl⟩) (by decide)).2,
    goes (h (wordFM 0x70 one one 0 1) (memSlot [flat 7 64] [poisonToken]) 64 true (ready_of (by decide)) rfl
      ⟨by decide, by decide⟩ (by decide) (.inr ⟨rfl, rfl, rfl, rfl⟩) (by decide) (by decide)
      (fun e => nomatch e) (by decide)).1⟩

/-- Lanes at 8, 0xFFFFFFFF and zeros. -/
def indices : Token := i32Token [8, 0xFFFFFFFF]

theorem witness_LaneAccesses (h : Clause.LaneAccesses) :
    Goes (exec (.ldx (wordFM 0x70 one off 0 0)) (memSlot [indices] [])) ∧
    Goes (exec (.stx (wordFM 0x70 one one 0 0)) (memSlot [indices] [flat 7 5])) :=
  ⟨goes ((h (wordFM 0x70 one off 0 0) (memSlot [indices] []) (ready_of (by decide)) rfl ⟨by decide, by decide⟩ rfl rfl
      (by decide)).1 (by decide)),
    goes ((h (wordFM 0x70 one one 0 0) (memSlot [indices] [flat 7 5]) (ready_of (by decide)) rfl ⟨by decide, by decide⟩ rfl rfl
      (by decide)).2 rfl (clean_of (by decide)) (fun t ht => tagged_of (by revert t; decide)) rfl (by decide))⟩

theorem witness_AtomicAndDone (h : Clause.AtomicAndDone) :
    Goes (exec (.amo (wordFM 0x78 one one 0 0)) (memSlot [flat 7 64] [flat 7 5])) ∧
    Goes (exec (.done (wordFM 0 one off 0 0)) (memSlot [flat 7 64] [])) := by
  obtain ⟨_, _, e, _⟩ := h.2 (wordFM 0 one off 0 0) (memSlot [flat 7 64] []) (ready_of (by decide)) rfl ⟨by decide, by decide⟩
    rfl (by decide) (wellFed_of (by decide)) rfl rfl (fun b hb => nomatch hb) (fun b hb => nomatch hb) rfl rfl
  exact ⟨goes (h.1 (wordFM 0x78 one one 0 0) (memSlot [flat 7 64] [flat 7 5]) (ready_of (by decide)) rfl rfl
    ⟨by decide, by decide⟩ (clean_of (by decide)) rfl (tagged_of (by decide)) (by decide)), goes e⟩

/-- A ring at 0 of tile 0: BASE 64, SIZE 128, HEAD and TAIL. -/
def ringed (head tail : Nat) (s : State) : State :=
  withBytes 0x4000000000 (natBytes 4 64 ++ natBytes 4 128 ++ natBytes 4 head ++ natBytes 4 tail) s

/-- A push into the last place, its counts about to wrap, and a pop of the last beat. -/
theorem witness_Rings (h : Clause.Rings) :
    Goes (exec (.rpush (wordFM 0x70 off one 0 0)) (ringed 0xFFFFFF80 0xFFFFFFC0 (memSlot [] [flat 7 1]))) ∧
    Goes (exec (.rpop (wordFM 0x70 one off 0 0)) (ringed 0 64 (memSlot [flat 7 0] []))) :=
  ⟨goes ((h (wordFM 0x70 off one 0 0) (ringed 0xFFFFFF80 0xFFFFFFC0 (memSlot [] [flat 7 1])) 0 (ready_of (by decide))
      ⟨by decide, by decide⟩ (by decide)).1 rfl (.inl ⟨rfl, rfl⟩) (clean_of (by decide))
      (fun t ht => tagged_of (by revert t; decide)) rfl (by decide +kernel) (by decide +kernel) (by decide +kernel)),
    goes ((h (wordFM 0x70 one off 0 0) (ringed 0 64 (memSlot [flat 7 0] [])) 0 (ready_of (by decide))
      ⟨by decide, by decide⟩ (by decide)).2 rfl rfl rfl rfl (by decide +kernel) (by decide +kernel) (by decide +kernel))⟩

/-- A void address. -/
theorem witness_VoidAddress (h : Clause.VoidAddress) :
    let s := memSlot [voidToken zeroLanes 7 2] [flat 7 1]
    Goes (exec (.ld (wordFM 0x70 one off 0 0)) s) ∧ Goes (exec (.lds (wordFM 0x70 one off 0 0)) s) ∧
    Goes (exec (.ldx (wordFM 0x70 one off 0 0)) s) ∧ Goes (exec (.rpop (wordFM 0x70 one off 0 0)) s) ∧
    Goes (exec (.st (wordFM 0x70 one one 0 0)) s) ∧ Goes (exec (.stf (wordFM 0x70 one one 0 0)) s) ∧
    Goes (exec (.stx (wordFM 0x70 one one 0 0)) s) ∧ Goes (exec (.rpush (wordFM 0x70 one one 0 0)) s) ∧
    Goes (exec (.amo (wordFM 0x70 one one 0 0)) s) := by
  obtain ⟨h1, h2, h3, h4, -⟩ := (h (wordFM 0x70 one off 0 0) (memSlot [voidToken zeroLanes 7 2] [flat 7 1])
    (ready_of (by decide))).1 rfl _ rfl
  obtain ⟨-, -, -, -, h5, h6⟩ := (h (wordFM 0x70 one one 0 0) (memSlot [voidToken zeroLanes 7 2] [flat 7 1])
    (ready_of (by decide))).1 rfl _ rfl
  obtain ⟨h7, h8, h9, h10⟩ := h5 (.inl rfl)
  exact ⟨goes (h1 (by decide)), goes h2, goes h3, goes h4, goes h7, goes h8, goes h9, goes h10, goes (h6 (.inl rfl))⟩

/-- A void trigger. -/
theorem witness_VoidAddress_trigger (h : Clause.VoidAddress) :
    let s := memSlot [voidToken zeroLanes 7 2] []
    Goes (exec (.ld (wordFM 0x72 one off 0 0)) s) ∧ Goes (exec (.done (wordFM 0 one off 0 0)) s) :=
  ⟨goes (((h (wordFM 0x72 one off 0 0) (memSlot [voidToken zeroLanes 7 2] []) (ready_of (by decide))).2.1 rfl).1 _ rfl rfl),
    goes (((h (wordFM 0 one off 0 0) (memSlot [voidToken zeroLanes 7 2] []) (ready_of (by decide))).2.1 rfl).2 _ rfl)⟩

/-- A void data token beside a poisoned address. -/
theorem witness_VoidAddress_data (h : Clause.VoidAddress) :
    let s := memSlot [poisonToken] [voidToken zeroLanes 7 2]
    Goes (exec (.st (wordFM 0x70 one one 0 0)) s) ∧ Goes (exec (.stf (wordFM 0x70 one one 0 0)) s) ∧
    Goes (exec (.rpush (wordFM 0x70 one one 0 0)) s) ∧ Goes (exec (.stx (wordFM 0x70 one one 0 0)) s) ∧
    Goes (exec (.amo (wordFM 0x70 one one 0 0)) s) := by
  obtain ⟨-, -, h3, h4⟩ := h (wordFM 0x70 one one 0 0) (memSlot [poisonToken] [voidToken zeroLanes 7 2]) (ready_of (by decide))
  obtain ⟨h5, h6, h7⟩ := h3 [] _ [] rfl (fun _ ht => nomatch ht) rfl (fun _ => rfl)
  obtain ⟨h8, h9⟩ := h5 (.inl rfl)
  exact ⟨goes h8, goes h9, goes h6, goes (h7 rfl), goes (h4 rfl rfl rfl rfl)⟩

/-- A misaligned address; for the rings, a descriptor at one. -/
theorem witness_RefusedAddress (h : Clause.RefusedAddress) :
    let s := memSlot [flat 7 2] [flat 7 1]
    Goes (exec (.ld (wordFM 0x70 one off 0 0)) s) ∧ Goes (exec (.lds (wordFM 0x70 one off 0 0)) s) ∧
    Goes (exec (.st (wordFM 0x70 one one 0 0)) s) ∧ Goes (exec (.stf (wordFM 0x70 one one 0 0)) s) ∧
    Goes (exec (.ldx (wordFM 0x70 one off 0 0)) s) ∧ Goes (exec (.stx (wordFM 0x70 one one 0 0)) s) ∧
    Goes (exec (.amo (wordFM 0x70 one one 0 0)) s) ∧ Goes (exec (.rpush (wordFM 0x70 one one 0 0)) s) ∧
    Goes (exec (.rpop (wordFM 0x70 one off 0 0)) s) := by
  obtain ⟨h1, -, h3, -, h5⟩ := h (wordFM 0x70 one off 0 0) (memSlot [flat 7 2] [flat 7 1]) 0x0C (ready_of (by decide)) rfl
    ⟨by decide, by decide⟩ rfl rfl
  obtain ⟨-, k2, k3, k4, k5⟩ := h (wordFM 0x70 one one 0 0) (memSlot [flat 7 2] [flat 7 1]) 0x0C (ready_of (by decide)) rfl
    ⟨by decide, by decide⟩ rfl rfl
  have v : ∀ t ∈ (memSlot [flat 7 2] [flat 7 1]).ents ⟨0, 0, 7⟩ (wordFM 0x70 one one 0 0).io .b, t.void = false := by decide
  have w : ∀ t ∈ (memSlot [flat 7 2] [flat 7 1]).ents ⟨0, 0, 7⟩ (wordFM 0x70 one one 0 0).io .b, Tagged true 7 t :=
    fun t ht => tagged_of (by revert t; decide)
  obtain ⟨g1, g2⟩ := h1 _ rfl (by decide)
  obtain ⟨g3, g4⟩ := k2 _ rfl (by decide) rfl ⟨v, .inr ⟨w, rfl⟩⟩
  obtain ⟨g5, -⟩ := h3 false ((memSlot [flat 7 2] [flat 7 1]).locate ⟨0, 0, 7⟩ 0 0 2 4 4 false) _ _ rfl rfl (by decide) (.inl ⟨⟨2, by decide, by decide⟩, rfl⟩)
  obtain ⟨-, g6⟩ := k3 true ((memSlot [flat 7 2] [flat 7 1]).locate ⟨0, 0, 7⟩ 0 0 2 4 4 true) _ _ rfl rfl (by decide) (.inl ⟨⟨2, by decide, by decide⟩, rfl⟩)
  obtain ⟨g7, -⟩ := k5 _ rfl (by decide)
  obtain ⟨-, g8⟩ := h5 _ rfl (by decide)
  exact ⟨goes (g1 rfl), goes g2, goes g3, goes g4, goes (g5 rfl), goes (g6 rfl ⟨v, .inr ⟨w, rfl⟩⟩),
    goes (k4 _ _ rfl rfl (by decide) (clean_of (by decide)) (tagged_of (by decide))), goes (g7 ⟨v, .inr ⟨w, rfl⟩⟩ (by decide)), goes (g8 (by decide))⟩

/-- Lanes that are aligned and outside the tile. -/
theorem witness_RefusedAddress_lanes (h : Clause.RefusedAddress) :
    Goes (exec (.ldx (wordFM 0x70 one off 0 0xC00)) (memSlot [flat 7 4] [])) := by
  have h3 := (h (wordFM 0x70 one off 0 0xC00) (memSlot [flat 7 4] []) 0x0D (ready_of (by decide)) rfl
    ⟨by decide, by decide⟩ rfl rfl).2.2.1
  have e : List.replicate 16 4 = ((List.range 16).map
    ((memSlot [flat 7 4] []).operand (wordFM 0x70 one off 0 0xC00).io .a).lane).filter (· != 0xFFFFFFFF) := by decide
  have b : ((memSlot [flat 7 4] []).locate ⟨0, 0, 7⟩ 0 0xC00 4 4 4 false).bad = some 0x0D := by decide
  have k : ∀ l : Loc, l.bad = some 0x0D → (List.replicate 16 l).findSome? Loc.bad = some 0x0D := fun l hl => by
    simp only [List.replicate_succ, List.findSome?_cons, hl]
  refine goes ((h3 false ((memSlot [flat 7 4] []).locate ⟨0, 0, 7⟩ 0 0xC00 4 4 4 false) _ (List.replicate 16 4) e rfl ?_
    (.inr ⟨fun o ho => ?_, ?_⟩)).1 rfl)
  · rw [List.map_replicate]; rfl
  · rw [List.eq_of_mem_replicate ho]; rfl
  · rw [List.map_replicate]; exact k _ b

/-! ## Accesses -/

/-- An access of slot 7 at one unit of tile 0, ready. -/
def unit (kind : AKind) (len pa : Nat) (data : List Byte) (wr : Bool) : Access :=
  { id := 1, agent := .op ⟨0, 0, 7⟩ 0 0, kind := kind, asid := 0, wr := wr, virt := false, column := false, addr := 64,
    pieces := [⟨64, len, some pa⟩], data := data, bads := [], poison := false, stage := .ready, held := false }

/-- The machine with one access in progress. -/
def acting (a : Access) : State :=
  let s := memSlot [] []
  { s with accs := [a], clk := { s.clk with ids := 2 } }

theorem lastUnit (a : Access) (s : State) (p : Piece) (pa : Nat) (h1 : s.acc a.id = some a) (h2 : a.stage = .ready)
    (h3 : a.held = false) (h4 : s.accBlocked a = false) (h5 : a.pieces = [p]) (h6 : p.pa = some pa)
    (h7 : (match s.phys pa with | .dram .. => true | .scratch .. => true | .ember .. => true | _ => false) = true) :
    LastUnit s a p pa := by
  refine ⟨h1, h2, h3, h4, h5, h6, ?_⟩
  split at h7
  · exact .inl ⟨_, _, by assumption⟩
  · exact .inr (.inl ⟨_, _, _, by assumption⟩)
  · exact .inr (.inr ⟨_, _, by assumption⟩)
  · cases h7

/-- The address of byte 64 of tile 0 of core 0. -/
def tile64 : Nat := 0x4000000040

theorem noRings_of {s : State} (h : s.accs.all (fun b => match b.kind with | .ringPush .. => false | .ringPop .. => false | _ => true) = true) :
    s.noRings := by
  intro b hb
  have := List.all_eq_true.mp h b hb
  refine ⟨fun t d ts e => ?_, fun t d q g n e => ?_⟩ <;> · rw [e] at this; cases this

theorem witness_LoadPerformed (h : Clause.LoadPerformed) :
    Goes (exec (.accessPerform 1) (acting (unit (.load 7 1) 64 tile64 [] false))) := by
  obtain ⟨_, e, _⟩ := h.1 (acting (unit (.load 7 1) 64 tile64 [] false)) (unit (.load 7 1) 64 tile64 [] false) _ _ _ _ _
    (lastUnit _ _ ⟨64, 64, some tile64⟩ tile64 rfl rfl rfl (by decide) rfl rfl (by decide)) rfl (fun _ _ e => nomatch e) _
    (fun _ _ _ e => nomatch e) rfl
  exact goes e

/-- The same in indirect mode. -/
def inTurn (s : State) : State := s.onRegion 0 0 fun r => { r with hdr := 1 <<< 76 }

/-- Two lanes of one line. -/
def lanesAccess : Access :=
  { unit (.loadLanes 7 indices.lanes) 4 tile64 [] false with pieces := [⟨64, 4, some tile64⟩, ⟨68, 4, some (tile64 + 4)⟩] }

/-- An LDX in indirect mode: two lanes of one line. -/
theorem witness_LoadPerformed_lanes (h : Clause.LoadPerformed) :
    Goes (exec (.accessPerform 1) (inTurn (acting lanesAccess))) := by
  obtain ⟨_, e, _⟩ := h.2 (inTurn (acting lanesAccess)) lanesAccess _ _ _ _ _ [tile64, tile64 + 4] (tile64 / 128)
    ⟨rfl, rfl, rfl, by decide⟩ rfl rfl (by decide) rfl rfl rfl (by decide) (by
      intro pa hp
      simp only [List.mem_cons, List.not_mem_nil, or_false] at hp
      rcases hp with rfl | rfl
      · exact ⟨rfl, .inr (.inl ⟨_, _, _, rfl⟩)⟩
      · exact ⟨rfl, .inr (.inl ⟨_, _, _, rfl⟩)⟩)
  exact goes e

theorem witness_LdsWaits (h : Clause.LdsWaits) :
    let a := unit (.loadFull true 7 1) 64 tile64 [] false
    Goes (exec (.accessPerform 1) (acting a)) ∧
    Goes (exec (.accessPerform 1) ((acting a).onMem fun m => m.setFull tile64 true)) ∧
    ∃ s, Goes (exec (.ldsWake 1) s) := by
  have e1 := (h (acting (unit (.loadFull true 7 1) 64 tile64 [] false)) (unit (.loadFull true 7 1) 64 tile64 [] false) _ _ _ _ _ _
    _ _ (lastUnit _ _ ⟨64, 64, some tile64⟩ tile64 rfl rfl rfl (by decide) rfl rfl (by decide)) rfl rfl ⟨0, 0, 64, by decide⟩).1
    (by decide)
  obtain ⟨h2, h3⟩ := (h ((acting (unit (.loadFull true 7 1) 64 tile64 [] false)).onMem fun m => m.setFull tile64 true)
    (unit (.loadFull true 7 1) 64 tile64 [] false) _ _ _ _ _ _
    _ _ (lastUnit _ _ ⟨64, 64, some tile64⟩ tile64 rfl rfl rfl (by decide) rfl rfl (by decide)) rfl rfl ⟨0, 0, 64, by decide⟩).2
  obtain ⟨_, e2, _⟩ := h2 (by decide) (by decide)
  obtain ⟨_, e3, _⟩ := h3 (by decide)
  exact ⟨goes e1, goes e2, _, goes e3⟩

/-- A store into the tile, an STF, and a store to the next core's column, which is posted and then written. -/
theorem witness_StorePerformed (h : Clause.StorePerformed) :
    let st (full : Bool) (pa : Nat) := unit (.store [flat 7 1] full) 64 pa (List.replicate 64 1) true
    Goes (exec (.accessPerform 1) (acting (st false tile64))) ∧ Goes (exec (.accessPerform 1) (acting (st true tile64))) ∧
    Goes (exec (.accessPerform 1) (acting (st false 0x80000000))) := by
  obtain ⟨_, _, e1, _⟩ := (h (acting (unit (.store [flat 7 1] false) 64 tile64 (List.replicate 64 1) true))
    (unit (.store [flat 7 1] false) 64 tile64 (List.replicate 64 1) true) _ _ _ _ _ _ _
    (lastUnit _ _ ⟨64, 64, some tile64⟩ tile64 rfl rfl rfl (by decide) rfl rfl (by decide)) rfl rfl rfl (by decide)
    (noRings_of (by decide)) (by decide) (by decide) (by decide)).1 (.inr (by decide))
  obtain ⟨_, _, e2, _, _, _, h2, _⟩ := (h (acting (unit (.store [flat 7 1] true) 64 tile64 (List.replicate 64 1) true))
    (unit (.store [flat 7 1] true) 64 tile64 (List.replicate 64 1) true) _ _ _ _ _ _ _
    (lastUnit _ _ ⟨64, 64, some tile64⟩ tile64 rfl rfl rfl (by decide) rfl rfl (by decide)) rfl rfl rfl (by decide)
    (noRings_of (by decide)) (by decide) (by decide) (by decide)).1 (.inl rfl)
  have := h2 rfl (by decide)
  obtain ⟨_, _, e3, _⟩ := (h (acting (unit (.store [flat 7 1] false) 64 0x80000000 (List.replicate 64 1) true))
    (unit (.store [flat 7 1] false) 64 0x80000000 (List.replicate 64 1) true) _ _ _ _ _ _ _
    (lastUnit _ _ ⟨64, 64, some 0x80000000⟩ 0x80000000 rfl rfl rfl (by decide) rfl rfl (by decide)) rfl rfl rfl (by decide)
    (noRings_of (by decide)) (by decide) (by decide) (by decide)).2 rfl (by decide) (by decide)
  exact ⟨goes e1, goes e2, goes e3⟩

/-- The state an outcome leads to. -/
def after (o : Host.Outcome State Fault Refusal) : State :=
  match o with
  | .next t => t
  | _ => State.reset

/-- A store to the next core's column. -/
def farStore : Access := unit (.store [flat 7 1] false) 64 0x80000000 (List.replicate 64 1) true

/-- The posted write of the statement, performed. -/
theorem witness_StorePosted (h : Clause.StorePerformed) : ∃ s b, Goes (exec (.accessPerform b) s) := by
  obtain ⟨t, b, e, _, hb, _, _, _, _, hu⟩ := (h (acting farStore) farStore _ _ _ _ _ _ _
    (lastUnit _ _ ⟨64, 64, some 0x80000000⟩ 0x80000000 rfl rfl rfl (by decide) rfl rfl (by decide)) rfl rfl rfl (by decide)
    (noRings_of (by decide)) (by decide) (by decide) (by decide)).2 rfl (by decide) (by decide)
  have ht : t = after (exec (.accessPerform 1) (acting farStore)) := (congrArg after e).symm
  subst ht
  have free : ∀ q ∈ (after (exec (.accessPerform 1) (acting farStore))).accs,
      (after (exec (.accessPerform 1) (acting farStore))).accBlocked q = false := by decide
  obtain ⟨_, e6, _⟩ := hu _ hb (free b (List.mem_of_find?_eq_some hb)) (noRings_of (by decide)) (by decide) (by decide)
  exact ⟨_, _, goes e6⟩

theorem witness_AtomicPerformed (h : Clause.AtomicPerformed) :
    let a := unit (.amo 0x70 (flat 7 5)) 4 tile64 [] true
    Goes (exec (.accessPerform 1) (acting a)) ∧
    Goes (exec (.accessPerform 1) ((acting a).onMem fun m => { m with poison := [tile64 / 64] })) := by
  obtain ⟨_, _, e1, _⟩ := (h (acting (unit (.amo 0x70 (flat 7 5)) 4 tile64 [] true)) (unit (.amo 0x70 (flat 7 5)) 4 tile64 [] true)
    _ _ _ _ _ _ _ (lastUnit _ _ ⟨64, 4, some tile64⟩ tile64 rfl rfl rfl (by decide) rfl rfl (by decide)) rfl rfl rfl
    (noRings_of (by decide)) (by decide)).1 (by decide) (by decide)
  obtain ⟨_, e2, _⟩ := (h ((acting (unit (.amo 0x70 (flat 7 5)) 4 tile64 [] true)).onMem fun m => { m with poison := [tile64 / 64] })
    (unit (.amo 0x70 (flat 7 5)) 4 tile64 [] true)
    _ _ _ _ _ _ _ (lastUnit _ _ ⟨64, 4, some tile64⟩ tile64 rfl rfl rfl (by decide) rfl rfl (by decide)) rfl rfl rfl
    (noRings_of (by decide)) (by decide)).2 (.inl (by decide))
  exact ⟨goes e1, goes e2⟩

theorem witness_RingPushed (h : Clause.RingPushed) :
    Goes (exec (.accessPerform 1) (acting (unit (.ringPush 0 0 [flat 7 1]) 64 tile64 (List.replicate 64 1) true))) ∧
    Goes (exec (.accessPerform 1) (acting (unit (.ringPop 0 0 64 7 1) 64 tile64 [] false))) := by
  obtain ⟨_, e, _⟩ := h.2 (acting (unit (.ringPush 0 0 [flat 7 1]) 64 tile64 (List.replicate 64 1) true))
    (unit (.ringPush 0 0 [flat 7 1]) 64 tile64 (List.replicate 64 1) true) _ _ _ _ _ _ _ 12 _
    (lastUnit _ _ ⟨64, 64, some tile64⟩ tile64 rfl rfl rfl (by decide) rfl rfl (by decide)) rfl rfl rfl (by decide) (by decide)
    (by decide) (.inr (by decide))
  obtain ⟨_, _, e2, _⟩ := h.1 (acting (unit (.ringPop 0 0 64 7 1) 64 tile64 [] false)) (unit (.ringPop 0 0 64 7 1) 64 tile64 [] false)
    _ _ _ _ _ _ _ 8 _ _ _ (lastUnit _ _ ⟨64, 64, some tile64⟩ tile64 rfl rfl rfl (by decide) rfl rfl (by decide)) rfl rfl
    (by decide) (by decide) (by decide)
  exact ⟨goes e, goes e2⟩

/-- A result arrives; the oldest of two results leaves. -/
theorem witness_ResultsInOrder (h : Clause.ResultsInOrder) :
    (∃ t, exec (.lateResultArrival 1) (acting { unit (.load 7 1) 64 tile64 [] false with stage := .late [.both (flat 7 1)] }) =
      .next t) ∧
    Goes (exec (.memoryResultDelivery ⟨0, 0, 7⟩) (stage 7 { Slot.holding 0x8070_8100_0240_0000 with
      rob := [⟨1, some [.both (flat 7 1), .both (flat 7 2)], [5], 0⟩, ⟨2, none, [], 0⟩] })) := by
  obtain ⟨_, e1, _⟩ := h.1 (acting { unit (.load 7 1) 64 tile64 [] false with stage := .late [.both (flat 7 1)] })
    { unit (.load 7 1) 64 tile64 [] false with stage := .late [.both (flat 7 1)] } _ _ _ _ rfl rfl rfl (by decide)
  obtain ⟨_, e2, _, h2, _⟩ := h.2 (stage 7 { Slot.holding 0x8070_8100_0240_0000 with
      rob := [⟨1, some [.both (flat 7 1), .both (flat 7 2)], [5], 0⟩, ⟨2, none, [], 0⟩] }) ⟨0, 0, 7⟩ _ _ _ _ (.inl rfl) rfl rfl
    rfl (by decide) (by decide) (by decide) (by decide)
  have := h2 _ rfl (by decide)
  exact ⟨⟨_, e1⟩, goes e2⟩

/-- Two loads of one unit of tile 0 in one cycle: its own element's is served, another element's waits. -/
theorem witness_BankOrder (h : Clause.BankOrder) :
    let a := unit (.load 7 1) 64 tile64 [] false
    let s : State := { acting a with accs := [a, { a with id := 2, agent := .op ⟨0, 0, 15⟩ 0 0 }] }
    s.bankRound [1, 2] = ([1], [2]) ∧ ∀ p ∈ s.bankReqs [1, 2], p.id ∈ (s.bankRound [1, 2]).1 ∨ p.id ∈ (s.bankRound [1, 2]).2 :=
  ⟨by decide, (h _ [1, 2] (by decide)).1⟩

end Sys2Proof.Tests
end

