-- ==== Sys2Proof/Tests/WitnessControl.lean ====
section
/-! SUPPORT. Witnesses for the statements about control blocks. -/

namespace Sys2Proof.Tests

open Sys2Proof Sys2Proof.Machine

set_option maxRecDepth 100000

/-- A port of a control slot that holds values. -/
def kport (vs : List Word64) : KPort := ⟨vs.map fun v => (0, ⟨v, false⟩), []⟩

/-- A control slot with a word and what its ports hold. -/
def kslot (w : Word64) (a b c : List Word64) : KSlot := ⟨w, kport a, kport b, kport c, false, []⟩

/-- A block at 0x1000 whose slot 0 is u; register r held 100 + r at its start. -/
def kblock (u : KSlot) : KBlock :=
  { hdr := 0, addr := 0x1000, slots := (Vector.replicate 128 (KSlot.holding 0)).set 0 u,
    regs := (List.range 16).map fun r => BitVec.ofNat 64 (100 + r), qregs := [], writes := [], branch := none, push := none,
    pop := false, exitV := none, halt := false, counts := [], reps := [], waits := [], resume := none, wants := [], bad := [] }

/-- The machine whose context 0 of core 0 runs a block. -/
def running0 (b : KBlock) : State := State.reset.onCtx 0 0 fun t => { t with st := .run, blk := some b }

/-- The block and the machine of slot 0 with operands. -/
def kb (a b c : List Word64) : KBlock := kblock (kslot 0 a b c)
def ks (a b c : List Word64) : State := running0 (kb a b c)

/-- A word of format FC that delivers to port a of slot 1. -/
def wordFC (mod : BitVec 8) (a b c : PortCtl) (imm : BitVec 10) : FC := ⟨mod, ⟨true, 1, 0⟩, ⟨false, 0, 0⟩, a, b, c, imm⟩

theorem kclean_of {s : State} {b : KBlock} {io : Io}
    (h : ([PortName.a, .b, .c].all fun p => !(s.kin b io p).void) = true) : s.kClean b io := by
  intro p
  simp only [List.all_cons, List.all_nil, Bool.and_true, Bool.and_eq_true, Bool.not_eq_true'] at h
  cases p
  · exact h.1
  · exact h.2.1
  · exact h.2.2

/-- Each instruction on two values, one with its immediate, and one on a void operand. -/
theorem witness_ScalarArithmetic (h : Clause.ScalarArithmetic) (i : FC → Instr) (lat : Nat)
    (v : BitVec 8 → Word64 → Word64 → Word64) (hi : (i, lat, v) ∈ scalarTable) :
    Goes (exec (i (wordFC 0 one one off 0)) (ks [7] [3] [])) ∧ Goes (exec (i (wordFC 0 one off off 0x3FF)) (ks [7] [] [])) ∧
    Goes (exec (i (wordFC 0 one one off 0)) (running0 (kblock ⟨0, ⟨[(0, ⟨0, true⟩)], []⟩, kport [3], kport [], false, []⟩))) :=
  ⟨goes ((h (wordFC 0 one one off 0) (ks [7] [3] []) (kb [7] [3] []) i lat v hi ⟨rfl, rfl, rfl, by decide, by decide, by decide⟩).1
      (kclean_of (by decide))),
    goes ((h (wordFC 0 one off off 0x3FF) (ks [7] [] []) (kb [7] [] []) i lat v hi ⟨rfl, rfl, rfl, by decide, by decide, by decide⟩).1
      (kclean_of (by decide))),
    goes ((h (wordFC 0 one one off 0) (running0 (kblock ⟨0, ⟨[(0, ⟨0, true⟩)], []⟩, kport [3], kport [], false, []⟩))
      (kblock ⟨0, ⟨[(0, ⟨0, true⟩)], []⟩, kport [3], kport [], false, []⟩) i lat v hi
      ⟨rfl, rfl, rfl, by decide, by decide, by decide⟩).2 .a rfl)⟩

theorem witness_ScalarChoice (h : Clause.ScalarChoice) :
    Goes (exec (.ksel (wordFC 0 one one one 0)) (ks [7] [3] [0])) ∧
    Goes (exec (.kmovi ⟨2, ⟨true, 1, 0⟩, ⟨false, 0, 0⟩, 0x8000001⟩) (ks [] [] [])) :=
  ⟨goes (h.1 (wordFC 0 one one one 0) (ks [7] [3] [0]) (kb [7] [3] [0]) ⟨rfl, rfl, rfl, by decide, by decide, by decide⟩
      (kclean_of (by decide))),
    goes (h.2 ⟨2, ⟨true, 1, 0⟩, ⟨false, 0, 0⟩, 0x8000001⟩ (ks [] [] []) (kb [] [] []) ⟨rfl, rfl, rfl, by decide, by decide, by decide⟩)⟩

/-- The last word before an address, and a misaligned address. -/
theorem witness_ScalarMemory (h : Clause.ScalarMemory) :
    Goes (exec (.kld (wordFC 0 one one off 0x3FF)) (ks [0x1000] [3] [])) ∧
    Goes (exec (.kst (wordFC 0 one one off 0x3FF)) (ks [0x1000] [3] [])) ∧
    Goes (exec (.kld (wordFC 0 one one off 0)) (ks [0x1004] [3] [])) ∧
    Goes (exec (.kst (wordFC 0 one one off 0)) (ks [0x1004] [3] [])) := by
  obtain ⟨h1, _⟩ := h (wordFC 0 one one off 0x3FF) (ks [0x1000] [3] []) (kb [0x1000] [3] [])
    ⟨rfl, rfl, rfl, by decide, by decide, by decide⟩ (kclean_of (by decide))
  obtain ⟨_, h2⟩ := h (wordFC 0 one one off 0) (ks [0x1004] [3] []) (kb [0x1004] [3] [])
    ⟨rfl, rfl, rfl, by decide, by decide, by decide⟩ (kclean_of (by decide))
  obtain ⟨⟨_, e1, _⟩, _, e2, _⟩ := h1 (by decide)
  obtain ⟨⟨_, e3, _⟩, _, e4, _⟩ := h2 (by decide)
  exact ⟨goes e1, goes e2, goes e3, goes e4⟩

/-- Configuration 9 with one long channel: tokens at its out-link and in its buffer. -/
def channelled (out : List ChanTok) (buf : List Token) (s : State) : State :=
  owned { cfg9 [] with chans := [⟨0, out, buf, false, 0, 0, 0⟩] } s

/-- Context 0 has all 32 registers, and its queue 0 is bound to that channel in a direction. -/
def queued (send : Bool) (buf : List Token) (b : KBlock) : State :=
  channelled [] buf (((running0 b).onCore 0 fun k => { k with ctxpart := 3 }).onCtx 0 0 fun t =>
    { t with qmap := true, qbind := t.qbind.set 0 ⟨true, send, 0, 9⟩ })

/-- The last register of the allotment, the first beyond it, a queue with a token, and a queue not bound to send. -/
theorem witness_ScalarRegisters (h : Clause.ScalarRegisters) :
    Goes (exec (.krd (wordFC 0 off off off 0x1E0)) (ks [] [] [])) ∧ Goes (exec (.kwr (wordFC 0 one off off 0x1E0)) (ks [4] [] [])) ∧
    Goes (exec (.krd (wordFC 0 off off off 0x200)) (ks [] [] [])) ∧ Goes (exec (.kwr (wordFC 0 one off off 0x200)) (ks [4] [] [])) ∧
    Goes (exec (.krd (wordFC 0 off off off 0x300)) (queued false [flat 0 3] (kb [] [] []))) ∧
    Goes (exec (.kwr (wordFC 0 one off off 0x300)) (queued false [flat 0 3] (kb [4] [] []))) := by
  have e1 := ((h (wordFC 0 off off off 0x1E0) (ks [] [] []) (kb [] [] []) ⟨rfl, rfl, rfl, by decide, by decide, by decide⟩
    (kclean_of (by decide))).1 (by decide) (by decide)).1 (by decide)
  have e2 := ((h (wordFC 0 one off off 0x1E0) (ks [4] [] []) (kb [4] [] []) ⟨rfl, rfl, rfl, by decide, by decide, by decide⟩
    (kclean_of (by decide))).1 (by decide) (by decide)).2
  obtain ⟨_, e3, _⟩ := ((h (wordFC 0 off off off 0x200) (ks [] [] []) (kb [] [] []) ⟨rfl, rfl, rfl, by decide, by decide, by decide⟩
    (kclean_of (by decide))).2.1 (by decide)).1
  obtain ⟨_, e4, _⟩ := ((h (wordFC 0 one off off 0x200) (ks [4] [] []) (kb [4] [] []) ⟨rfl, rfl, rfl, by decide, by decide, by decide⟩
    (kclean_of (by decide))).2.1 (by decide)).2
  obtain ⟨_, _, e5, _⟩ := (h (wordFC 0 off off off 0x300) (queued false [flat 0 3] (kb [] [] [])) (kb [] [] [])
    ⟨rfl, rfl, rfl, by decide, by decide, by decide⟩ (kclean_of (by decide))).2.2.1 (9, 0) _ _ _ (by decide) (by decide) (by decide) rfl rfl
    (fun p hp => nomatch hp) rfl
  obtain ⟨_, e6, _⟩ := (h (wordFC 0 one off off 0x300) (queued false [flat 0 3] (kb [4] [] [])) (kb [4] [] [])
    ⟨rfl, rfl, rfl, by decide, by decide, by decide⟩ (kclean_of (by decide))).2.2.2 (by decide) (by decide) (by decide)
  exact ⟨goes e1, goes e2, goes e3, goes e4, goes e5, goes e6⟩

/-! ## Register ranges -/

/-- A block whose slot 0 is a REP and whose slot 1 is a range instruction with its base, with the count the REP gave. -/
def repBlock (n : Nat) : KBlock :=
  { kblock (KSlot.holding 0xD300000000000000) with
    slots := ((Vector.replicate 128 (KSlot.holding 0)).set 0 (KSlot.holding 0xD300000000000000)).set 1
      (kslot 0xCC00000000000000 [0x2000] [] [])
    counts := [⟨1, some n, 2⟩] }

/-- The machine with slot 1 of that block in focus. -/
def repState (n : Nat) : State := { running0 (repBlock n) with clk := { Clock.reset with focus := ⟨0, 0, 1⟩ } }

/-- Each range instruction without a REP, and with the greatest count and one more; a REP. -/
theorem witness_RangeFirings (h : Clause.RangeFirings) (i : FC → Instr) (hi : i ∈ [Instr.kstm, .kldm, .qsend, .qrecv]) :
    Goes (exec (i (wordFC 0 one off off 0)) (ks [0x2000] [] [])) ∧ Goes (exec (i (wordFC 0 one off off 0)) (repState 32)) ∧
    Goes (exec (i (wordFC 0 one off off 0)) (repState 33)) ∧ Goes (exec (.rep (wordFC 0 one off off 0x12)) (ks [4] [] [])) := by
  have hi' : i (wordFC 0 one off off 0) ∈ [Instr.kstm (wordFC 0 one off off 0), .kldm (wordFC 0 one off off 0),
      .qsend (wordFC 0 one off off 0), .qrecv (wordFC 0 one off off 0)] := 
    List.mem_map_of_mem (f := fun j : FC → Instr => j (wordFC 0 one off off 0)) hi
  obtain ⟨_, _, e1, _⟩ := ((h (wordFC 0 one off off 0) (ks [0x2000] [] []) (kb [0x2000] [] [])).1 _ hi').1
    ⟨rfl, rfl, rfl, by decide, by decide, by decide⟩ (kclean_of (by decide))
  obtain ⟨_, _, e2, _⟩ := (((h (wordFC 0 one off off 0) (repState 32) (repBlock 32)).1 _ hi').2 ⟨1, some 32, 2⟩ 32 rfl rfl rfl
    (by decide) (by decide) (by decide) rfl rfl (kclean_of (by decide)) rfl).1 (by decide)
  obtain ⟨_, e3, _⟩ := (((h (wordFC 0 one off off 0) (repState 33) (repBlock 33)).1 _ hi').2 ⟨1, some 33, 2⟩ 33 rfl rfl rfl
    (by decide) (by decide) (by decide) rfl rfl (kclean_of (by decide)) rfl).2 (by decide)
  exact ⟨goes e1, goes e2, goes e3,
    goes ((h (wordFC 0 one off off 0x12) (ks [4] [] []) (kb [4] [] [])).2 ⟨rfl, rfl, rfl, by decide, by decide, by decide⟩)⟩

/-- The last two repetitions of a range instruction in slot 0, at index 1 with stride 2 and base 0x2000. -/
def rep0 : KRep := ⟨0, 5, 0x2000, 1, 2, 2, true, none⟩

/-- Its block: the range instruction of an operation on register RA. -/
def ranged (op ra : Nat) : KBlock :=
  { kblock (KSlot.holding (BitVec.ofNat 64 (2 ^ 56 * op + 32 * ra))) with reps := [rep0] }

/-- The machine that runs it, its queue 0 bound in a direction. -/
def rangeState (send : Bool) (buf : List Token) (op ra : Nat) : State :=
  (queued send buf (ranged op ra)).onCtx 0 0 fun t => { t with qmap := false }

/-- Each instruction on register 9, a register beyond the allotment, and unbound queues. -/
theorem witness_Repetitions (h : Clause.Repetitions) :
    Goes (exec (.repRepetition 0 0) (rangeState true [] 0xCC 7)) ∧ Goes (exec (.repRepetition 0 0) (rangeState true [] 0xCD 7)) ∧
    Goes (exec (.repRepetition 0 0) (rangeState true [] 0xD4 7)) ∧
    Goes (exec (.repRepetition 0 0) (rangeState false [flat 0 3] 0xD5 7)) ∧
    Goes (exec (.repRepetition 0 0) (rangeState true [] 0xCC 30)) ∧
    Goes (exec (.repRepetition 0 0) (rangeState false [] 0xD4 7)) ∧
    Goes (exec (.repRepetition 0 0) (rangeState true [] 0xD5 7)) := by
  have key := fun (send : Bool) (buf : List Token) (op ra : Nat) e1 e2 e3 =>
    h (rangeState send buf op ra) 0 0 (ranged op ra) rep0 1 e1 e2 e3 rfl rfl rfl rfl
  obtain ⟨_, _, e1, _⟩ := ((key true [] 0xCC 7 rfl rfl rfl).2.1 (by decide) (by decide) (by decide) (by decide)).1 (by decide) (by decide)
  obtain ⟨_, _, e2, _⟩ := ((key true [] 0xCD 7 rfl rfl rfl).2.1 (by decide) (by decide) (by decide) (by decide)).2 (by decide)
  obtain ⟨_, _, e3, _⟩ := ((key true [] 0xD4 7 rfl rfl rfl).2.2.1 (by decide) (by decide) (by decide) (by decide) (by decide)).2 (9, 0) _
    (by decide) rfl (by decide)
  obtain ⟨_, _, e4, _⟩ := ((key false [flat 0 3] 0xD5 7 rfl rfl rfl).2.2.2 (by decide) (by decide) (by decide) (by decide) rfl).2 (9, 0) _ _ _
    (by decide) rfl rfl rfl
  obtain ⟨_, e5, _⟩ := (key true [] 0xCC 30 rfl rfl rfl).1 (.inr (by decide)) (.inl (by decide)) (by decide)
  obtain ⟨_, e6, _⟩ := ((key false [] 0xD4 7 rfl rfl rfl).2.2.1 (by decide) (by decide) (by decide) (by decide) (by decide)).1 (by decide)
  obtain ⟨_, e7, _⟩ := ((key true [] 0xD5 7 rfl rfl rfl).2.2.2 (by decide) (by decide) (by decide) (by decide) rfl).1 (by decide)
  exact ⟨goes e1, goes e2, goes e3, goes e4, goes e5, goes e6, goes e7⟩

/-! ## Branches, blocks and traps -/

/-- A call stack of n entries. -/
def called (n : Nat) (s : State) : State := s.onCtx 0 0 fun t => { t with stack := List.replicate n 0x99 }

/-- Each branch; a misaligned target, a second branch, a full stack and an empty one. -/
theorem witness_Branches (h : Clause.Branches) :
    Goes (exec (.bra (wordFC 0 one off off 0)) (ks [0x2000] [] [])) ∧
    Goes (exec (.bcall (wordFC 0 off off off 0x3FF)) (called 7 (ks [] [] []))) ∧
    Goes (exec (.bret (wordFC 0 off off off 0)) (called 8 (ks [] [] []))) ∧
    Goes (exec (.halt (wordFC 0 off off off 0)) (ks [] [] [])) ∧
    Goes (exec (.bra (wordFC 0 one off off 0)) (ks [0x2020] [] [])) ∧
    Goes (exec (.bra (wordFC 0 one off off 0)) (running0 { kb [0x2000] [] [] with branch := some 0 })) ∧
    Goes (exec (.bcall (wordFC 0 off off off 1)) (called 8 (ks [] [] []))) ∧
    Goes (exec (.bret (wordFC 0 off off off 0)) (ks [] [] [])) := by
  obtain ⟨e1, _⟩ := h (wordFC 0 one off off 0) (ks [0x2000] [] []) (kb [0x2000] [] []) ⟨rfl, rfl, rfl, by decide, by decide, by decide⟩
    (kclean_of (by decide))
  obtain ⟨_, e2, _⟩ := h (wordFC 0 off off off 0x3FF) (called 7 (ks [] [] [])) (kb [] [] [])
    ⟨rfl, rfl, rfl, by decide, by decide, by decide⟩ (kclean_of (by decide))
  obtain ⟨_, _, e3, _⟩ := h (wordFC 0 off off off 0) (called 8 (ks [] [] [])) (kb [] [] []) ⟨rfl, rfl, rfl, by decide, by decide, by decide⟩
    (kclean_of (by decide))
  obtain ⟨_, _, _, e4, _, _, _, e8⟩ := h (wordFC 0 off off off 0) (ks [] [] []) (kb [] [] [])
    ⟨rfl, rfl, rfl, by decide, by decide, by decide⟩ (kclean_of (by decide))
  obtain ⟨_, _, _, _, e5, _⟩ := h (wordFC 0 one off off 0) (ks [0x2020] [] []) (kb [0x2020] [] [])
    ⟨rfl, rfl, rfl, by decide, by decide, by decide⟩ (kclean_of (by decide))
  obtain ⟨_, _, _, _, _, e6, _⟩ := h (wordFC 0 one off off 0) (running0 { kb [0x2000] [] [] with branch := some 0 })
    { kb [0x2000] [] [] with branch := some 0 } ⟨rfl, rfl, rfl, by decide, by decide, by decide⟩ (kclean_of (by decide))
  obtain ⟨_, _, _, _, _, _, e7, _⟩ := h (wordFC 0 off off off 1) (called 8 (ks [] [] [])) (kb [] [] [])
    ⟨rfl, rfl, rfl, by decide, by decide, by decide⟩ (kclean_of (by decide))
  obtain ⟨_, e5, _⟩ := e5 (by decide)
  obtain ⟨_, e6, _⟩ := e6 0 rfl (by decide)
  obtain ⟨_, e7, _⟩ := e7 (by decide)
  obtain ⟨_, e8, _⟩ := e8 rfl
  exact ⟨goes (e1 rfl (by decide)), goes (e2 rfl (by decide) (by decide)), goes (e3 0x99 rfl (by decide)), goes e4, goes e5, goes e6,
    goes e7, goes e8⟩

/-- A block with nothing left to do, and two writes of register 3. -/
def doneBlock : KBlock :=
  { kblock { KSlot.holding 0 with fired := true } with
    slots := Vector.replicate 128 { KSlot.holding 0 with fired := true }
    writes := [⟨4, 0, 3, ⟨8, false⟩⟩, ⟨5, 0, 3, ⟨9, false⟩⟩, ⟨5, 1, 6, ⟨10, false⟩⟩], branch := some 0x2000 }

/-- A branch whose block calls, and one that returns; a HALT. -/
theorem witness_BlockCommits (h : Clause.BlockCommits) :
    Goes (exec (.controlBlockCommit 0 0) (running0 { doneBlock with push := some 0x1040 })) ∧
    Goes (exec (.controlBlockCommit 0 0) (called 2 (running0 { doneBlock with pop := true }))) ∧
    Goes (exec (.controlBlockCommit 0 0) (running0 { doneBlock with halt := true })) := by
  obtain ⟨_, e1, _, _, hw, hr, _, hb, _, hp, _⟩ := h (running0 { doneBlock with push := some 0x1040 }) 0 0
    { doneBlock with push := some 0x1040 } rfl rfl rfl (by decide) (by decide)
  have := hw 3 ⟨5, 0, 3, ⟨9, false⟩⟩ (by decide) (by decide) ⟨by decide, rfl, by decide⟩
  have := hr 4 (by decide)
  have := hb rfl (by decide) (by decide) rfl
  have := hp 0x1040 rfl rfl
  obtain ⟨_, e2, _, _, _, _, _, _, _, _, hq⟩ := h (called 2 (running0 { doneBlock with pop := true })) 0 0
    { doneBlock with pop := true } rfl rfl rfl (by decide) (by decide)
  have := hq rfl rfl
  obtain ⟨_, e3, _, _, _, _, ha, _, hn, _⟩ := h (running0 { doneBlock with halt := true }) 0 0
    { doneBlock with halt := true } rfl rfl rfl (by decide) (by decide)
  have := ha (.inl rfl)
  have := hn rfl rfl
  exact ⟨goes e1, goes e2, goes e3⟩

end Sys2Proof.Tests
end

