-- ==== Sys2Proof/Tests/WitnessPages.lean ====
section
/-! SUPPORT. Witnesses for the statements about translation and KV pages. -/

namespace Sys2Proof.Tests

open Sys2Proof Sys2Proof.Machine

set_option maxRecDepth 100000

/-! ## Translation -/

/-- Page tables of ASID 5 in column 0: the root word at 40, then entries 0 of levels 0 to 2 and entry 1 of level 3. -/
def tables (w0 w1 w2 w3 : Nat) (s : State) : State :=
  withBytes 40 (natBytes 8 0x2001) (withBytes 8192 (natBytes 8 w0) (withBytes 16384 (natBytes 8 w1)
    (withBytes 24576 (natBytes 8 w2) (withBytes 32776 (natBytes 8 w3) s))))

/-- The machine with full tables: the page of 0x12345 is the frame at 0x10000, readable and writable. -/
def paged (s : State) : State := tables 0x4001 0x6001 0x8001 0x1000F s

/-- The words of the tables, and where they stand. -/
def walkWords (w0 w1 w2 w3 : Nat) (k : Nat) : Word64 := BitVec.ofNat 64 ([w0, w1, w2, w3].getD k 0)
def walkTables (k : Nat) : Nat := 8192 * (k + 1)

/-- A small page, an invalid root, an invalid entry, a large page, and a leaf at level 1. -/
theorem witness_PageWalk (h : Clause.PageWalk) :
    (paged State.reset).walk 0 5 0x12345 = .page 0x10000 false true true ∧ State.reset.walk 0 5 0x12345 = .refuse 1 ∧
    (tables 0x4001 0x6001 0x8001 0 State.reset).walk 0 5 0x12345 = .refuse 2 ∧
    (tables 0x4001 0x6001 0x200000F 0 State.reset).walk 0 5 0x12345 = .page 0x2000000 true true true ∧
    (tables 0x4001 0x200000F 0 0 State.reset).walk 0 5 0x12345 = .refuse 4 := by
  refine ⟨((h (paged State.reset) 0 5 0x12345 (walkWords 0x4001 0x6001 0x8001 0x1000F) walkTables 3 (by decide) (by decide)
      (by decide) (by decide) (by decide) (by decide)).2.2 (by decide) (by decide) (by decide) (by decide) (by decide)).1 rfl
      (by decide),
    (h State.reset 0 5 0x12345 (fun _ => 0) (fun _ => 0) 0 (by decide) (by decide) (by decide) (by decide) (by decide)
      (by decide)).1 (by decide),
    (h (tables 0x4001 0x6001 0x8001 0 State.reset) 0 5 0x12345 (walkWords 0x4001 0x6001 0x8001 0) walkTables 3 (by decide)
      (by decide) (by decide) (by decide) (by decide) (by decide)).2.1 (by decide) (by decide),
    ((h (tables 0x4001 0x6001 0x200000F 0 State.reset) 0 5 0x12345 (walkWords 0x4001 0x6001 0x200000F 0) walkTables 2
      (by decide) (by decide) (by decide) (by decide) (by decide) (by decide)).2.2 (by decide) (by decide) (by decide) (by decide)
      (by decide)).2.1 rfl (by decide),
    ((h (tables 0x4001 0x200000F 0 0 State.reset) 0 5 0x12345 (walkWords 0x4001 0x200000F 0 0) walkTables 1
      (by decide) (by decide) (by decide) (by decide) (by decide) (by decide)).2.2 (by decide) (by decide) (by decide) (by decide)
      (by decide)).2.2 (by decide)⟩

/-- A record for the collector. -/
def anyRec : CRec := placedRec 0 0 0x40 0 0 0 0 0 0 7

/-- Through a walk, through the translation cache, and refused by a page that is not writable. -/
theorem witness_Translation (h : Clause.Translation) :
    ((paged State.reset).translate anyRec 0 5 true true false false 0x12345 1).2 = .ok 0x12345 ∧
    ((State.reset.onCore 0 fun k => { k with tlb := [⟨5, 0, true, 0x2000000, true, false⟩] }).translate anyRec 0 5 true false false false
      0x12345 1).2 = .ok 0x2012345 ∧
    ((tables 0x4001 0x6001 0x8001 0x10007 State.reset).translate anyRec 0 5 false true false false 0x12345 1).2 = .error 3 :=
  ⟨(h (paged State.reset) anyRec 0 5 true true 0x12345 1 0x10000 false true true (by decide) (.inr ⟨by decide, by decide⟩)).2
      (by decide) (by decide) (by decide),
    (h (State.reset.onCore 0 fun k => { k with tlb := [⟨5, 0, true, 0x2000000, true, false⟩] }) anyRec 0 5 true false 0x12345 1
      0x2000000 true true false (by decide) (.inl ⟨⟨5, 0, true, 0x2000000, true, false⟩, by decide, rfl, rfl, rfl, rfl⟩)).2
      (by decide) (by decide) (by decide),
    (h (tables 0x4001 0x6001 0x8001 0x10007 State.reset) anyRec 0 5 false true 0x12345 1 0x10000 false true false (by decide)
      (.inr ⟨by decide, by decide⟩)).1 (.inr (by decide))⟩

/-- A load of slot 7 that waits for its translation. -/
def walking (va : Word64) : Access :=
  { unit (.load 7 1) 64 0 [] false with asid := 5, virt := true, stage := .walk, pieces := [⟨va, 64, none⟩] }

theorem witness_WalkEnds (h : Clause.WalkEnds) :
    Goes (exec (.walkComplete 1) (paged (acting (walking 0x12340)))) ∧
    Goes (exec (.walkComplete 1) (acting (walking 0x12340))) ∧
    Goes (exec (.walkComplete 1) (acting (walking 0xFFC0000000012340))) := by
  have key := fun (s : State) (va : Word64) e1 e2 (e3 : s.accs = [walking va]) => h s (walking va) ⟨va, 64, none⟩ ⟨0, 0, 7⟩ 0 0
    e1 rfl rfl rfl rfl rfl e2 (fun b hb _ => List.mem_singleton.mp (e3 ▸ hb)) 7 1 (.inl rfl)
  obtain ⟨_, _, e1, _⟩ := (key (paged (acting (walking 0x12340))) 0x12340 rfl (by decide) rfl).1 _ (by rfl)
  obtain ⟨_, _, _, e2, _⟩ := (key (acting (walking 0x12340)) 0x12340 rfl (by decide) rfl).2.1 1 (by rfl) (by decide)
  obtain ⟨_, e3, _⟩ := (key (acting (walking 0xFFC0000000012340)) 0xFFC0000000012340 rfl (by decide) rfl).2.2 8 (by rfl)
    (by decide) (by decide) (by decide) (by decide)
  exact ⟨goes e1, goes e2, goes e3⟩

/-! ## KV pages -/

theorem witness_PageFirings (h : Clause.PageFirings) :
    Goes (exec (.pglk (wordFM 0 one off 0 0)) (memSlot [flat 7 1] [])) ∧
    Goes (exec (.pgfork (wordFM 0 one off 0 0)) (memSlot [flat 7 1] [])) ∧
    Goes (exec (.pgfree (wordFM 0 one off 0 0)) (memSlot [flat 7 1] [])) ∧
    Goes (exec (.pgbase (wordFM 1 one off 0 0)) (memSlot [flat 7 1] [])) := by
  refine ⟨?_, ?_, ?_, ?_⟩
  · exact goes (h (wordFM 0 one off 0 0) (memSlot [flat 7 1] []) Instr.pglk false (by simp) (ready_of (by decide)) rfl
      ⟨by decide, by decide⟩ rfl rfl)
  · exact goes (h (wordFM 0 one off 0 0) (memSlot [flat 7 1] []) Instr.pgfork true (by simp) (ready_of (by decide)) rfl
      ⟨by decide, by decide⟩ rfl rfl)
  · exact goes (h (wordFM 0 one off 0 0) (memSlot [flat 7 1] []) Instr.pgfree true (by simp) (ready_of (by decide)) rfl
      ⟨by decide, by decide⟩ rfl rfl)
  · exact goes (h (wordFM 1 one off 0 0) (memSlot [flat 7 1] []) Instr.pgbase true (by simp) (ready_of (by decide)) rfl
      ⟨by decide, by decide⟩ rfl rfl)

/-- A table of 256 entries at 0 with the entry of key (0, 1, 0) in place 53: valid, with the reference count and bits. -/
def kvTable (ref bits : Nat) (s : State) : State :=
  { s with dev := { s.dev with kvtBase := 0, logn := 8 } }.kvPut 53 (BitVec.ofNat 256 (2 ^ 232 * ref + 2 ^ 176 + bits))

/-- A page instruction at the table controller: its word and its request. -/
def tableAccess (op : Nat) (req : List Lane) : Access :=
  { unit (.page (BitVec.ofNat 64 (2 ^ 56 * op)) (i32Token req)) 64 0 [] false with pieces := [] }

/-- A page append. -/
def appendAccess (seq : Lane) (data : List Token) : Access :=
  { unit (.pageAppend ⟨6, 0, 16, 16⟩ (i32Token [seq, 0, 0, 0]) 0 data) 64 0 [] true with pieces := [] }

/-- No unit is spoilt where none is poisoned and none holds an error. -/
theorem unspoilt {s : State} (h : s.mem.poison = [] ∧ s.mem.ue = []) (l : List Nat) : l.any s.mem.spoilt = false := by
  simp [Memory.spoilt, Memory.isPoison, Memory.isUe, h]

/-- The machine with one page instruction at the table controller. -/
def tableState (ref bits op : Nat) (req : List Lane) : State := kvTable ref bits (acting (tableAccess op req))

theorem unheld {s : State} {a : Access} (h1 : s.acc a.id = some a) (h2 : a.stage = .ready) (h3 : a.held = false)
    (h4 : s.accBlocked a = false) : Unheld s a := ⟨h1, h2, h3, h4⟩

/-- PGLK of an alias, PGFORK, PGBASE; PGFREE of one of two references, of the last, of a page whose count saturated, and of an
alias of the page in place 0. -/
theorem witness_PageTable (h : Clause.PageTable) :
    Goes (exec (.accessPerform 1) (tableState 1 5 0xB0 [1])) ∧ Goes (exec (.accessPerform 1) (tableState 1 1 0xB1 [1, 0, 2, 0])) ∧
    Goes (exec (.accessPerform 1) (tableState 1 1 0xB3 [1, 0, 7])) ∧ Goes (exec (.accessPerform 1) (tableState 2 1 0xB2 [1])) ∧
    Goes (exec (.accessPerform 1) (tableState 1 1 0xB2 [1])) ∧ Goes (exec (.accessPerform 1) (tableState 4095 0x11 0xB2 [1])) ∧
    Goes (exec (.accessPerform 1) (tableState 0 5 0xB2 [1])) := by
  have key := fun (ref bits op : Nat) (req : List Lane) e1 e2 e3 e5 e4 => h (tableState ref bits op req) (tableAccess op req) _ _ _ _
    _ 53 false (unheld e1 rfl rfl e2) rfl rfl e3 (unspoilt e5 _) e4
  obtain ⟨_, e1, _⟩ := (key 1 5 0xB0 [1] (by decide) (by decide) (by decide) ⟨rfl, rfl⟩ (by decide)).1 (by decide)
  obtain ⟨_, e2, _⟩ := (key 1 1 0xB3 [1, 0, 7] (by decide) (by decide) (by decide) ⟨rfl, rfl⟩ (by decide)).2.1 (by decide)
  obtain ⟨_, e3, _⟩ := (key 1 1 0xB1 [1, 0, 2, 0] (by decide) (by decide) (by decide) ⟨rfl, rfl⟩ (by decide)).2.2.1 (by decide)
    (by decide) (by decide) (by decide) (by decide) 215 (by decide) (by decide)
  obtain ⟨_, e4, _, _, h4⟩ := (key 2 1 0xB2 [1] (by decide) (by decide) (by decide) ⟨rfl, rfl⟩ (by decide)).2.2.2.1 (by decide)
    (by decide) (by decide)
  obtain ⟨_, e5, _, h5, _⟩ := (key 1 1 0xB2 [1] (by decide) (by decide) (by decide) ⟨rfl, rfl⟩ (by decide)).2.2.2.1 (by decide)
    (by decide) (by decide)
  obtain ⟨_, e6, _⟩ := (key 4095 0x11 0xB2 [1] (by decide) (by decide) (by decide) ⟨rfl, rfl⟩ (by decide)).2.2.2.2.1 (by decide)
    (by decide) (by decide)
  obtain ⟨_, e7, _⟩ := (key 0 5 0xB2 [1] (by decide) (by decide) (by decide) ⟨rfl, rfl⟩ (by decide)).2.2.2.2.2 (by decide)
    (by decide) (by decide)
  have := h4 (by decide)
  have := h5 (by decide)
  exact ⟨goes e1, goes e3, goes e2, goes e4, goes e5, goes e6, goes e7⟩

/-- A head table of 8 pairs and pages of 16 slots at 64 of tile 0. -/
def tabled (s : State) : State := withBytes 0x4000000040 (natBytes 4 8 ++ (List.range 8).flatMap fun i => natBytes 4 (i + 1)) s

/-- Fills of 1 and of all of the page. -/
theorem witness_PageLoads (h : Clause.PageLoads) :
    Goes (exec (.ldk (wordFM 0x60 one off 0 1)) (tabled (memSlot [i32Token [0, 0, 5, 1]] []))) ∧
    Goes (exec (.ldv (wordFM 0x60 one off 0 1)) (tabled (memSlot [i32Token [0, 0, 5, 16]] []))) := by
  obtain ⟨h1, _⟩ := h (wordFM 0x60 one off 0 1) (tabled (memSlot [i32Token [0, 0, 5, 1]] []))
    ⟨false, 16, 8, [1, 2, 3, 4, 5, 6, 7, 8]⟩ (ready_of (by decide)) rfl ⟨by decide, by decide⟩ rfl rfl (by rfl) (by decide)
    (by decide)
  obtain ⟨_, h2⟩ := h (wordFM 0x60 one off 0 1) (tabled (memSlot [i32Token [0, 0, 5, 16]] []))
    ⟨false, 16, 8, [1, 2, 3, 4, 5, 6, 7, 8]⟩ (ready_of (by decide)) rfl ⟨by decide, by decide⟩ rfl rfl (by rfl) (by decide)
    (by decide)
  exact ⟨goes (h1 (by decide)), goes (h2 (by decide))⟩

/-- The first of two data tokens, and the second with the request. -/
theorem witness_AppendFirings (h : Clause.AppendFirings) :
    Goes (exec (.kapp (wordFM 0x60 one one 0 1)) (tabled (memSlot [flat 7 1] [flat 1 0]))) ∧
    Goes (exec (.kapp (wordFM 0x60 one one 0 1)) (tabled (stage 7 { fed [flat 7 1] [flat 1 0] [] with run := .kapp [flat 1 0] }))) := by
  obtain ⟨h1, _⟩ := h (wordFM 0x60 one one 0 1) (tabled (memSlot [flat 7 1] [flat 1 0]))
    ⟨false, 16, 8, [1, 2, 3, 4, 5, 6, 7, 8]⟩ [] (ready_of (by decide)) rfl rfl ⟨by decide, by decide⟩ (by rfl)
    (.inr ⟨rfl, rfl⟩) rfl rfl
  obtain ⟨_, h2⟩ := h (wordFM 0x60 one one 0 1)
    (tabled (stage 7 { fed [flat 7 1] [flat 1 0] [] with run := .kapp [flat 1 0] }))
    ⟨false, 16, 8, [1, 2, 3, 4, 5, 6, 7, 8]⟩ [flat 1 0] (ready_of (by decide)) rfl rfl ⟨by decide, by decide⟩ (by rfl)
    (.inl rfl) rfl rfl
  exact ⟨goes (h1 (by decide)), goes (h2 (by decide) (clean_of (by decide)) rfl rfl)⟩

/-- Not in the table, an alias, full, and a NaN. -/
theorem witness_AppendRefused (h : Clause.AppendRefused) :
    Goes (exec (.accessPerform 1) (kvTable 1 1 (acting (appendAccess 2 [])))) ∧
    Goes (exec (.accessPerform 1) (kvTable 1 5 (acting (appendAccess 1 [])))) ∧
    Goes (exec (.accessPerform 1) (kvTable 1 0x100001 (acting (appendAccess 1 [])))) ∧
    Goes (exec (.accessPerform 1) (kvTable 1 1 (acting (appendAccess 1 [flat 1 0x7FC00000, flat 1 0])))) := by
  have key := fun (bits : Nat) (seq : Lane) (data : List Token) e1 e2 e3 => h (kvTable 1 bits (acting (appendAccess seq data)))
    (appendAccess seq data) _ _ _ _ _ _ _ (unheld e1 rfl rfl e2) rfl rfl (unspoilt e3 _)
  obtain ⟨_, e1, _⟩ := (key 1 2 [] (by decide) (by decide) ⟨rfl, rfl⟩).1 (by decide)
  obtain ⟨_, e2, _⟩ := ((key 5 1 [] (by decide) (by decide) ⟨rfl, rfl⟩).2 53 false (by decide)).1 (by decide)
  obtain ⟨_, e3, _⟩ := ((key 0x100001 1 [] (by decide) (by decide) ⟨rfl, rfl⟩).2 53 false (by decide)).2.1 (by decide) (by decide)
  obtain ⟨_, e4, _⟩ := ((key 1 1 [flat 1 0x7FC00000, flat 1 0] (by decide) (by decide) ⟨rfl, rfl⟩).2 53 false (by decide)).2.2
    (by decide) (by decide) ⟨_, .head _, 0, by decide, .inl (by decide)⟩
  exact ⟨goes e1, goes e2, goes e3, goes e4⟩

/-- The machine with an append, core 0's translation cache mapping the pages of ASID 0 from 0x2000000 on. -/
def appending (bits : Nat) (data : List Token) : State :=
  (kvTable 1 bits (acting (appendAccess 1 data))).onCore 0 fun k => { k with tlb := [⟨0, 0, true, 0x2000000, true, true⟩] }

/-- The units of the page in place 53 that an append to its first band touches. -/
def pageUnits : List (Word64 × Nat) := [0, 128, 192, 256, 384, 448].map fun k => (BitVec.ofNat 64 (27136 + k), 0x2000000 + 27136 + k)

/-- The first slot of a band, and the second, both bands open. -/
theorem witness_AppendDone (h : Clause.AppendDone) :
    Goes (exec (.accessPerform 1) (appending 1 [flat 1 0x3F800000, flat 1 0x40000000])) ∧
    Goes (exec (.accessPerform 1) (appending 0x11101 [flat 1 0x3F800000, flat 1 0x40000000])) := by
  have key := fun (bits : Nat) e1 e2 e3 e4 e5 e6 e7 e8 e9 e10 e11 => h (appending bits [flat 1 0x3F800000, flat 1 0x40000000])
    (appendAccess 1 [flat 1 0x3F800000, flat 1 0x40000000]) _ _ _ _ _ _ _ 53 false pageUnits (unheld e1 rfl rfl e2) rfl rfl e3
    (unspoilt e4 _) e5 e6 e7 (.inr (.inr rfl)) (by decide) (by decide) (by decide) rfl e8 e9 e10 e11
  obtain ⟨_, e1, _⟩ := key 1 (by decide) (by decide) (by decide) ⟨rfl, rfl⟩ (by decide) (by decide) (by decide)
    (by decide) rfl (by decide) (by decide)
  obtain ⟨_, e2, _⟩ := key 0x11101 (by decide) (by decide) (by decide) ⟨rfl, rfl⟩ (by decide) (by decide) (by decide)
    (by decide) rfl (by decide) (by decide)
  exact ⟨goes e1, goes e2⟩

/-- A half page of one slot and one group whose codes have been read and whose scale words are to come. -/
def pageRead : Access :=
  { unit (.pageLoad ⟨6, 0, 16, 16⟩ 5 1 false [1, 2, 3, 4, 5, 6, 7, 8]) 64 tile64 [] false with
    data := List.replicate 64 0x21, bads := [false] }

/-- A good scale word, and one with a reserved bit. -/
theorem witness_PageValues (h : Clause.PageValues) :
    Goes (exec (.accessPerform 1) (withBytes tile64 (natBytes 64 0x100) (acting pageRead))) ∧
    Goes (exec (.accessPerform 1) (withBytes tile64 (natBytes 64 0x8100) (acting pageRead))) := by
  have key := fun (n : Nat) e1 e2 e3 => h (withBytes tile64 (natBytes 64 n) (acting pageRead)) pageRead ⟨64, 64, some tile64⟩ tile64
    _ _ _ _ _ _ _ _ (lastUnit _ _ ⟨64, 64, some tile64⟩ tile64 e1 rfl rfl e2 rfl rfl e3) rfl rfl
  obtain ⟨_, _, e1, _⟩ := (key 0x100 (by decide) (by decide) (by decide)).2 (by
    rintro ⟨t, ht, j, hj, -, hb⟩
    obtain rfl : t = 0 := by omega
    obtain rfl : j = 0 := by simp only at hj; omega
    exact absurd hb (by decide))
  obtain ⟨_, e2, _⟩ := (key 0x8100 (by decide) (by decide) (by decide)).1 ⟨0, by decide, 0, by decide, by decide, by decide⟩
  exact ⟨goes e1, goes e2⟩

end Sys2Proof.Tests
end

