-- ==== Sys2Proof/Tests/WitnessContexts.lean ====
section
/-! SUPPORT. Witnesses for the statements about block fetches, CSRs, traps, contexts and the instructions that act on them. -/

namespace Sys2Proof.Tests

open Sys2Proof Sys2Proof.Machine

set_option maxRecDepth 100000

/-! ## Fetches -/

/-- A control header of one word, KMOVI to slot 0 of nothing: no target. -/
def ctlHeader : BitVec 128 := 2 <<< 124
def haltWord : Word64 := 0xDE00_0000_0000_0000

/-- Context 0 of ASID 5 about to fetch at 0x12340, where a header and a word stand. -/
def fetching (hdr : BitVec 128) (s : State) : State :=
  withBytes 0x12340 (natBytes 16 hdr.toNat ++ natBytes 8 haltWord.toNat) (s.onCtx 0 0 fun t =>
    { t with st := .run, asid := 5, bptr := 0x48D })

theorem witness_BlockStarts (h : Clause.BlockStarts) :
    Goes (exec (.blockFetch 0 0 0) (fetching ctlHeader (paged State.reset))) ∧
    Goes (exec (.blockFetch 0 0 0) (fetching (1 <<< 124) (paged State.reset))) := by
  obtain ⟨_, _, e1, _⟩ := (h (fetching ctlHeader (paged State.reset)) 0 0 0x12340 ctlHeader haltWord rfl rfl (fun _ => by rfl)
    ⟨0, 0x12340, by decide⟩ (by decide) (by decide) (by decide) (by decide) (by decide) (by decide) (by decide) (by decide)).1 (by decide)
    (by decide) (by decide) (by decide)
  obtain ⟨_, e2, _⟩ := (h (fetching (1 <<< 124) (paged State.reset)) 0 0 0x12340 (1 <<< 124) haltWord rfl rfl (fun _ => by rfl)
    ⟨0, 0x12340, by decide⟩ (by decide) (by decide) (by decide) (by decide) (by decide) (by decide) (by decide) (by decide)).2
    (.inl (by decide))
  exact ⟨goes e1, goes e2⟩

/-- No page tables; a page whose frame is served by nothing. -/
theorem witness_FetchRefused (h : Clause.FetchRefused) :
    Goes (exec (.blockFetch 0 0 0) (fetching ctlHeader State.reset)) ∧
    Goes (exec (.blockFetch 0 0 0) (fetching ctlHeader (tables 0x4001 0x6001 0x8001 0x300000000F State.reset))) := by
  obtain ⟨_, _, e1, _⟩ := (h (fetching ctlHeader State.reset) 0 0 1 rfl rfl (fun _ => by rfl)).1 (by decide)
  obtain ⟨_, e2, _⟩ := (h (fetching ctlHeader (tables 0x4001 0x6001 0x8001 0x300000000F State.reset)) 0 0 0x0A rfl rfl
    (fun _ => by rfl)).2 (by decide)
  exact ⟨goes e1, goes e2⟩

/-! ## CSRs, traps and waits -/

/-- Context 0 with the privilege bit. -/
def priv (s : State) : State := s.onCtx 0 0 fun t => { t with priv := true }

/-- A CSR read and written, a privileged one without PRIV, and a number that is no CSR. -/
theorem witness_CsrAccess (h : Clause.CsrAccess) :
    Goes (exec (.csrrd (wordFC 0 off off off 0x240)) (ks [] [] [])) ∧
    Goes (exec (.csrwr (wordFC 0 one off off 0x240)) (ks [3] [] [])) ∧
    Goes (exec (.csrwr (wordFC 0 one off off 0x100)) (ks [3] [] [])) ∧
    Goes (exec (.csrwr (wordFC 0 one off off 0x320)) (priv (ks [3] [] []))) ∧
    Goes (exec (.csrrd (wordFC 0 one off off 0x200)) (ks [3] [] [])) := by
  obtain ⟨h1, _⟩ := h (wordFC 0 off off off 0x240) (ks [] [] []) (kb [] [] []) ⟨rfl, rfl, rfl, by decide, by decide, by decide⟩
    (kclean_of (by decide))
  obtain ⟨h2, _⟩ := h (wordFC 0 one off off 0x240) (ks [3] [] []) (kb [3] [] []) ⟨rfl, rfl, rfl, by decide, by decide, by decide⟩
    (kclean_of (by decide))
  obtain ⟨h3, _⟩ := h (wordFC 0 one off off 0x100) (ks [3] [] []) (kb [3] [] []) ⟨rfl, rfl, rfl, by decide, by decide, by decide⟩
    (kclean_of (by decide))
  obtain ⟨h4, _⟩ := h (wordFC 0 one off off 0x320) (priv (ks [3] [] [])) (kb [3] [] []) ⟨rfl, rfl, rfl, by decide, by decide, by decide⟩
    (kclean_of (by decide))
  obtain ⟨_, h5⟩ := h (wordFC 0 one off off 0x200) (ks [3] [] []) (kb [3] [] []) ⟨rfl, rfl, rfl, by decide, by decide, by decide⟩
    (kclean_of (by decide))
  obtain ⟨_, e3, _⟩ := (h3 _ (by rfl)).2.2 rfl (.inl (by decide))
  obtain ⟨⟨_, e5, _⟩, _⟩ := h5 (by decide)
  exact ⟨goes (h1 _ (by rfl)).1, goes ((h2 _ (by rfl)).2.1 (.inr (.inr (by decide))) (by decide)), goes e3,
    goes ((h4 _ (by rfl)).2.1 (.inl rfl) (by decide)), goes e5⟩

/-- Queues and pools in their bounds. -/
theorem witness_CsrValues (h : Clause.CsrValues) : ∃ v, State.reset.csrRead 0 0 0x260 = some v ∧ (v.extractLsb' 0 8).toNat = 96 := by
  obtain ⟨_, _, _, _, h4, _, _, _, h5, h6, _⟩ := h State.reset 0 0
  have := h4 (by decide)
  have := h5 (by decide) (by decide)
  obtain ⟨v, e, p, _⟩ := h6 (by decide)
  exact ⟨v, e, p.trans (by decide)⟩

/-- Context 2 is TRAPPED. -/
def trapped2 (s : State) : State := s.onCtx 0 2 fun t => { t with st := .trapped, bptr := 0x77 }

/-- TRAP; ERET without PRIV, to a misaligned block, of a context that is not TRAPPED, and of one that is, at its own block and at
another. -/
theorem witness_TrapAndReturn (h : Clause.TrapAndReturn) :
    Goes (exec (.trap (wordFC 0 one one off 0x55)) (ks [2] [0x2000] [])) ∧
    Goes (exec (.eret (wordFC 0 one one off 0)) (ks [2] [0x2000] [])) ∧
    Goes (exec (.eret (wordFC 0 one one off 0)) (priv (ks [2] [0x2010] []))) ∧
    Goes (exec (.eret (wordFC 0 one one off 0)) (priv (ks [2] [0x2000] []))) ∧
    Goes (exec (.eret (wordFC 0 one off off 0)) (trapped2 (priv (ks [2] [] [])))) ∧
    Goes (exec (.eret (wordFC 0 one one off 0)) (trapped2 (priv (ks [2] [0x2000] [])))) := by
  obtain ⟨⟨_, e1, _⟩, h1, _⟩ := h.1 (wordFC 0 one one off 0x55) (ks [2] [0x2000] []) (kb [2] [0x2000] [])
    ⟨rfl, rfl, rfl, by decide, by decide, by decide⟩ (kclean_of (by decide))
  obtain ⟨_, h2, _⟩ := h.1 (wordFC 0 one one off 0) (ks [2] [0x2000] []) (kb [2] [0x2000] [])
    ⟨rfl, rfl, rfl, by decide, by decide, by decide⟩ (kclean_of (by decide))
  obtain ⟨_, _, h3, _⟩ := h.1 (wordFC 0 one one off 0) (priv (ks [2] [0x2010] [])) (kb [2] [0x2010] [])
    ⟨rfl, rfl, rfl, by decide, by decide, by decide⟩ (kclean_of (by decide))
  obtain ⟨_, _, _, h4, _⟩ := h.1 (wordFC 0 one one off 0) (priv (ks [2] [0x2000] [])) (kb [2] [0x2000] [])
    ⟨rfl, rfl, rfl, by decide, by decide, by decide⟩ (kclean_of (by decide))
  obtain ⟨_, _, _, _, h5⟩ := h.1 (wordFC 0 one off off 0) (trapped2 (priv (ks [2] [] []))) (kb [2] [] [])
    ⟨rfl, rfl, rfl, by decide, by decide, by decide⟩ (kclean_of (by decide))
  obtain ⟨_, _, _, _, h6⟩ := h.1 (wordFC 0 one one off 0) (trapped2 (priv (ks [2] [0x2000] []))) (kb [2] [0x2000] [])
    ⟨rfl, rfl, rfl, by decide, by decide, by decide⟩ (kclean_of (by decide))
  obtain ⟨_, e2, _⟩ := h2 rfl
  obtain ⟨_, e3, _⟩ := h3 rfl rfl (by decide)
  exact ⟨goes e1, goes e2, goes e3, goes (h4 rfl (fun _ => by decide) (.inr (by decide))),
    goes ((h5 rfl (by decide) (by decide)).1 rfl), goes ((h6 rfl (by decide) (by decide)).2 rfl (by decide) (by decide))⟩

/-- Context 0 with a record in its event queue. -/
def recorded (s : State) : State := s.onCtx 0 0 fun t => { t with evq := [0x1234] }

/-- The block of a WFE in slot 0 that waits until cycle 0. -/
def waitBlock : KBlock := { kb [] [] [] with waits := [⟨0, 5, .event 0⟩] }

theorem witness_Waits (h : Clause.Waits) :
    Goes (exec (.wfe (wordFC 0 one off off 0)) (recorded (ks [9] [] []))) ∧ Goes (exec (.wfe (wordFC 0 one off off 0)) (ks [0] [] [])) ∧
    Goes (exec (.wfe (wordFC 0 one off off 0)) (ks [9] [] [])) ∧ Goes (exec (.evpop (wordFC 0 off off off 7)) (ks [] [] [])) ∧
    Goes (exec (.wfeTimeout 0 0 0 0) (running0 waitBlock)) ∧
    ((recorded (ks [9] [] [])).kpoll 0 0 ⟨0, 5, .record 1 true⟩).ctx 0 0 ≠ (recorded (ks [9] [] [])).ctx 0 0 := by
  obtain ⟨h1, _⟩ := h.1 (wordFC 0 one off off 0) (recorded (ks [9] [] [])) (kb [9] [] []) ⟨rfl, rfl, rfl, by decide, by decide, by decide⟩
    (kclean_of (by decide))
  obtain ⟨_, h2, _⟩ := h.1 (wordFC 0 one off off 0) (ks [0] [] []) (kb [0] [] []) ⟨rfl, rfl, rfl, by decide, by decide, by decide⟩
    (kclean_of (by decide))
  obtain ⟨_, _, h3, _⟩ := h.1 (wordFC 0 one off off 0) (ks [9] [] []) (kb [9] [] []) ⟨rfl, rfl, rfl, by decide, by decide, by decide⟩
    (kclean_of (by decide))
  obtain ⟨_, _, _, _, _, e4, _⟩ := h.1 (wordFC 0 off off off 7) (ks [] [] []) (kb [] [] [])
    ⟨rfl, rfl, rfl, by decide, by decide, by decide⟩ (kclean_of (by decide))
  obtain ⟨_, _, e3, _⟩ := h3 rfl (by decide)
  have e6 := (h.2.1 (recorded (ks [9] [] [])) 0 0 0 5 1 true 0x1234 [] rfl).1
  obtain ⟨_, _, e5, _⟩ := h.2.2 (running0 waitBlock) 0 0 waitBlock ⟨0, 5, .event 0⟩ 0 rfl (by decide) rfl (by decide)
    (by decide) rfl
  exact ⟨goes (h1 (by decide)), goes (h2 rfl (by decide)), goes e3, goes e4, goes e5,
    fun q => absurd ((congrArg Context.evq q).symm.trans e6) (by decide)⟩

/-- A record and two of one cycle in an empty queue, and a record in a full one. -/
theorem witness_EventQueue (h : Clause.EventQueue) :
    let s : State := { State.reset with clk := { Clock.reset with now := 1 } }
    ((s.pushEvent 0 0 5 true).ctx 0 0).evq = [5] ∧
    (((s.pushEvent 0 0 5 true).pushEvent 0 0 6 true).ctx 0 0).evq.length = 2 ∧
    (((s.onCtx 0 0 fun t => { t with evq := List.replicate 64 0 }).pushEvent 0 0 5 true).ctx 0 0).ovf = true := by
  obtain ⟨h1, _, h3⟩ := h { State.reset with clk := { Clock.reset with now := 1 } } 0 0 5 6 (by decide)
  obtain ⟨_, h2, _⟩ := h ({ State.reset with clk := { Clock.reset with now := 1 } }.onCtx 0 0 fun t =>
    { t with evq := List.replicate 64 0 }) 0 0 5 6 (by decide)
  exact ⟨(h1 (by decide)).1, (congrArg List.length (h3 (by decide))).trans (by decide), (h2 (by decide)).2.1⟩

/-- A context asked to stop while it fetches, at a wait, and between two repetitions. -/
theorem witness_ContextStops (h : Clause.ContextStops) :
    Goes (exec (.contextStop 0 0) ((fetching 0 State.reset).onCtx 0 0 fun t => { t with stopReq := true })) ∧
    Goes (exec (.contextStop 0 0) ((running0 waitBlock).onCtx 0 0 fun t => { t with stopReq := true })) ∧
    Goes (exec (.contextStop 0 0) ((running0 (ranged 0xCC 7)).onCtx 0 0 fun t => { t with stopReq := true })) := by
  obtain ⟨_, e1, _⟩ := h ((fetching 0 State.reset).onCtx 0 0 fun t => { t with stopReq := true }) 0 0 rfl rfl (.inl rfl)
  obtain ⟨_, e2, _⟩ := h ((running0 waitBlock).onCtx 0 0 fun t => { t with stopReq := true }) 0 0 rfl rfl
    (.inr ⟨_, rfl, .inl ⟨⟨0, 5, .event 0⟩, by decide, .inl ⟨0, rfl⟩⟩⟩)
  obtain ⟨_, e3, _⟩ := h ((running0 (ranged 0xCC 7)).onCtx 0 0 fun t => { t with stopReq := true }) 0 0 rfl rfl
    (.inr ⟨_, rfl, .inr ⟨rep0, by decide, rfl, rfl⟩⟩)
  exact ⟨goes e1, goes e2, goes e3⟩

/-! ## PRCW, LAUNCH and EGARM -/

/-- Region 0 belongs to configuration 9, owned by context 0. -/
def mine (b : KBlock) : State :=
  let s := owned (cfg9 []) (stage 5 (Slot.holding 0x77))
  { s.onCtx 0 0 fun t => { t with st := .run, blk := some b } with clk := Clock.reset }

/-- PRCW: a misaligned address, a region that is not MAPPED, another's region, slots beyond 127, and the last slots. -/
theorem witness_Rewrites (h : Clause.Rewrites) :
    Goes (exec (.prcw (wordFC 0 one one off 0)) (mine (kb [0] [0x2004] []))) ∧
    Goes (exec (.prcw (wordFC 0 one one off 0)) (mine (kb [0x800] [0x2000] []))) ∧
    Goes (exec (.prcw (wordFC 0 one one off 0)) ((mine (kb [0] [0x2000] [])).onRegion 0 0 fun g => { g with handle := 8 })) ∧
    Goes (exec (.prcw (wordFC 0 one one off 0)) (mine (kb [0x0FF] [0x2000] []))) ∧
    Goes (exec (.prcw (wordFC 0 one one off 0)) (mine (kb [0x0FE] [0x2000] []))) := by
  have key := fun (s : State) (b : KBlock) e1 e2 => h (wordFC 0 one one off 0) s b e1 (kclean_of e2)
  obtain ⟨_, e1, _⟩ := (key (mine (kb [0] [0x2004] [])) (kb [0] [0x2004] []) ⟨rfl, rfl, rfl, by decide, by decide, by decide⟩
    (by decide)).1 (by decide)
  obtain ⟨_, e2, _⟩ := key (mine (kb [0x800] [0x2000] [])) (kb [0x800] [0x2000] [])
    ⟨rfl, rfl, rfl, by decide, by decide, by decide⟩ (by decide)
  obtain ⟨_, _, e3, _⟩ := key ((mine (kb [0] [0x2000] [])).onRegion 0 0 fun g => { g with handle := 8 })
    (kb [0] [0x2000] []) ⟨rfl, rfl, rfl, by decide, by decide, by decide⟩ (by decide)
  obtain ⟨_, _, _, e4, _⟩ := key (mine (kb [0x0FF] [0x2000] [])) (kb [0x0FF] [0x2000] [])
    ⟨rfl, rfl, rfl, by decide, by decide, by decide⟩ (by decide)
  obtain ⟨_, _, _, _, e5, _⟩ := key (mine (kb [0x0FE] [0x2000] [])) (kb [0x0FE] [0x2000] [])
    ⟨rfl, rfl, rfl, by decide, by decide, by decide⟩ (by decide)
  obtain ⟨_, _, e5, _⟩ := e5 (by decide) (by decide) ⟨_, rfl, rfl, rfl⟩ (by decide)
  exact ⟨goes e1, goes (e2 (by decide) (by decide)), goes (e3 (by decide) (by decide) fun ⟨_, e, _⟩ => nomatch e),
    goes (e4 (by decide) (by decide) ⟨_, rfl, rfl, rfl⟩ (by decide)), goes e5⟩

/-- The access of a PRCW of one word for slot 5 of region 0 whose word has been read. -/
def wordsAccess (outs : List Emit) : Access :=
  { unit (.kwords 5) 8 0 (natBytes 8 0) false with
    agent := .ctx 0 0 3 0, pieces := [], bads := [false], stage := .late outs }

/-- PRCW.S: a region that is not MAPPED, another's, one whose value is set, one whose value is not, and one with a PRCW before. -/
theorem witness_Rewrites_exit (h : Clause.Rewrites) :
    Goes (exec (.prcwS (wordFC 0 one one off 0)) (mine (kb [0x800] [3] []))) ∧
    Goes (exec (.prcwS (wordFC 0 one one off 0)) ((mine (kb [0] [3] [])).onRegion 0 0 fun g => { g with handle := 8 })) ∧
    Goes (exec (.prcwS (wordFC 0 one one off 0)) ((mine (kb [0] [3] [])).onRegion 0 0 fun g => { g with exitV := some 1 })) ∧
    Goes (exec (.prcwS (wordFC 0 one one off 0)) (mine (kb [0] [3] []))) ∧
    Goes (exec (.prcwS (wordFC 0 one one off 0)) { mine (kb [0] [3] []) with accs := [wordsAccess []] }) := by
  have key := fun (s : State) (b : KBlock) e1 e2 => (h (wordFC 0 one one off 0) s b e1 (kclean_of e2)).2.2.2.2.2
  obtain ⟨e1, _⟩ := key (mine (kb [0x800] [3] [])) (kb [0x800] [3] []) ⟨rfl, rfl, rfl, by decide, by decide, by decide⟩ (by decide)
  obtain ⟨_, e2, _⟩ := key ((mine (kb [0] [3] [])).onRegion 0 0 fun g => { g with handle := 8 })
    (kb [0] [3] []) ⟨rfl, rfl, rfl, by decide, by decide, by decide⟩ (by decide)
  obtain ⟨_, _, e3, _⟩ := key ((mine (kb [0] [3] [])).onRegion 0 0 fun g => { g with exitV := some 1 })
    (kb [0] [3] []) ⟨rfl, rfl, rfl, by decide, by decide, by decide⟩ (by decide)
  obtain ⟨_, _, _, e4, _⟩ := key (mine (kb [0] [3] [])) (kb [0] [3] []) ⟨rfl, rfl, rfl, by decide, by decide, by decide⟩ (by decide)
  obtain ⟨_, _, _, _, e5⟩ := key { mine (kb [0] [3] []) with accs := [wordsAccess []] } (kb [0] [3] [])
    ⟨rfl, rfl, rfl, by decide, by decide, by decide⟩ (by decide)
  obtain ⟨_, _, e5, _⟩ := e5 fun f => f (wordsAccess []) (.head _) rfl rfl
  exact ⟨goes (e1 (fun _ hb => nomatch hb) (by decide)),
    goes (e2 (fun _ hb => nomatch hb) (by decide) fun ⟨_, e, _⟩ => nomatch e),
    goes (e3 (fun _ hb => nomatch hb) (by decide) ⟨_, rfl, rfl, rfl⟩ (by decide)),
    goes (e4 (fun _ hb => nomatch hb) (by decide) ⟨_, rfl, rfl, rfl⟩ (by decide)), goes e5⟩

/-- A NOP for slot 5: its word has been read, and its turn has come. -/
theorem witness_RewriteApplied (h : Clause.RewriteApplied) :
    Goes (exec (.lateResultArrival 1) { mine (kb [] [] []) with accs := [wordsAccess []] }) ∧
    Goes (exec (.lateResultArrival 1) { mine (kb [] [] []) with accs := [wordsAccess [Emit.none]] }) := by
  have key := fun (outs : List Emit) e1 e2 e3 e4 e5 e6 e7 e8 => h { mine (kb [] [] []) with accs := [wordsAccess outs] }
    (wordsAccess outs) 0 0 3 5 0 (cfg9 []) e1 rfl rfl e2 rfl rfl e3 (by decide) e4 rfl rfl rfl e5 e6 e7 e8
  obtain ⟨_, e2, _⟩ := (key [Emit.none] rfl (by decide) (by decide) (by decide) (by decide) (by decide) (by decide)
    (by decide)).2 rfl
  exact ⟨goes ((key [] rfl (by decide) (by decide) (by decide) (by decide) (by decide) (by decide) (by decide)).1 rfl), goes e2⟩

/-- A held configuration of image 0x40, with its bytes or without. -/
def heldCfg (cached : Bool) : Cfg := { cfg9 [] with image := 0x40, asid := 0, st := .held, cached := cached }

/-- Held with and without its bytes, running already, and an image not known yet. -/
theorem witness_Launches (h : Clause.Launches) :
    Goes (exec (.launch (wordFC 0 one off off 0)) (owned (heldCfg true) (ks [0x40] [] []))) ∧
    Goes (exec (.launch (wordFC 0 one off off 0)) (owned (heldCfg false) (ks [0x40] [] []))) ∧
    Goes (exec (.launch (wordFC 0 one off off 0)) (owned { heldCfg true with st := .running } (ks [0x40] [] []))) ∧
    Goes (exec (.launch (wordFC 0 one off off 0)) (owned (heldCfg true) (ks [0x80] [] []))) := by
  obtain ⟨h1, _⟩ := h (wordFC 0 one off off 0) (owned (heldCfg true) (ks [0x40] [] [])) (kb [0x40] [] [])
    ⟨rfl, rfl, rfl, by decide, by decide, by decide⟩ (kclean_of (by decide))
  obtain ⟨h2, _⟩ := h (wordFC 0 one off off 0) (owned (heldCfg false) (ks [0x40] [] [])) (kb [0x40] [] [])
    ⟨rfl, rfl, rfl, by decide, by decide, by decide⟩ (kclean_of (by decide))
  obtain ⟨_, h3, _⟩ := h (wordFC 0 one off off 0) (owned { heldCfg true with st := .running } (ks [0x40] [] [])) (kb [0x40] [] [])
    ⟨rfl, rfl, rfl, by decide, by decide, by decide⟩ (kclean_of (by decide))
  obtain ⟨_, _, h4⟩ := h (wordFC 0 one off off 0) (owned (heldCfg true) (ks [0x80] [] [])) (kb [0x80] [] [])
    ⟨rfl, rfl, rfl, by decide, by decide, by decide⟩ (kclean_of (by decide))
  have a1 : (owned (heldCfg true) (ks [0x40] [] [])).named 0x40 0 = some (heldCfg true) := rfl
  have a2 : (owned (heldCfg true) (ks [0x40] [] [])).cfg 9 = some (heldCfg true) := rfl
  have b1 : (owned (heldCfg false) (ks [0x40] [] [])).named 0x40 0 = some (heldCfg false) := rfl
  have b2 : (owned (heldCfg false) (ks [0x40] [] [])).cfg 9 = some (heldCfg false) := rfl
  have c1 : (owned { heldCfg true with st := .running } (ks [0x40] [] [])).named 0x40 0 =
    some { heldCfg true with st := .running } := rfl
  have d1 : (owned (heldCfg true) (ks [0x80] [] [])).named 0x80 0 = none := rfl
  obtain ⟨_, e1, _⟩ := h1 (heldCfg true) a1 a2 rfl
  obtain ⟨_, e2, _⟩ := h2 (heldCfg false) b1 b2 rfl
  obtain ⟨_, _, e4, _⟩ := h4 d1 (by decide) (by decide)
    (fun g (hg : g ∈ [heldCfg true]) => by rw [List.mem_singleton.mp hg]; exact List.mem_singleton.mpr rfl)
  exact ⟨goes e1, goes e2, goes (h3 { heldCfg true with st := .running } c1 (by decide)), goes e4⟩

/-- Without PRIV, armed, misaligned, a record of one digest at the end of a page, and a record of none. -/
theorem witness_Arms (h : Clause.Arms) :
    Goes (exec (.egarm (wordFC 0 one off off 0)) (ks [0x1000] [] [])) ∧
    Goes (exec (.egarm (wordFC 0 one off off 0)) ((priv (ks [0x1000] [] [])).onEgress fun g => { g with armed := some [] })) ∧
    Goes (exec (.egarm (wordFC 0 one off off 0)) (priv (ks [0x1020] [] []))) ∧
    Goes (exec (.egarm (wordFC 0 one off off 0)) (withBytes 0x1000 [1] (priv (ks [0x1000] [] [])))) ∧
    Goes (exec (.egarm (wordFC 0 one off off 0)) (priv (ks [0x1000] [] []))) := by
  have key := fun (s : State) (b : KBlock) e1 e2 => h (wordFC 0 one off off 0) s b e1 (kclean_of e2)
  obtain ⟨_, e1, _⟩ := (key (ks [0x1000] [] []) (kb [0x1000] [] []) ⟨rfl, rfl, rfl, by decide, by decide, by decide⟩ (by decide)).1 rfl
  obtain ⟨_, e2, _⟩ := key ((priv (ks [0x1000] [] [])).onEgress fun g => { g with armed := some [] }) (kb [0x1000] [] [])
    ⟨rfl, rfl, rfl, by decide, by decide, by decide⟩ (by decide)
  obtain ⟨_, _, e3, _⟩ := key (priv (ks [0x1020] [] [])) (kb [0x1020] [] []) ⟨rfl, rfl, rfl, by decide, by decide, by decide⟩ (by decide)
  obtain ⟨_, _, _, h4⟩ := key (withBytes 0x1000 [1] (priv (ks [0x1000] [] []))) (kb [0x1000] [] [])
    ⟨rfl, rfl, rfl, by decide, by decide, by decide⟩ (by decide)
  obtain ⟨_, e4, _⟩ := (h4 rfl rfl (by decide) (by decide) (by decide)).1 ⟨by decide, by decide,
    fun j h1 h2 => (by decide : ∀ j < 64, 1 ≤ j → (withBytes 0x1000 [1] (priv (ks [0x1000] [] []))).mem.byte (0x1000 + j) = 0) j h2 h1,
    fun j h1 h2 => (by decide : ∀ j < 512, 112 ≤ j → (withBytes 0x1000 [1] (priv (ks [0x1000] [] []))).mem.byte (0x1000 + j) = 0)
      j h2 h1⟩
  obtain ⟨_, _, _, h5⟩ := key (priv (ks [0x1000] [] [])) (kb [0x1000] [] []) ⟨rfl, rfl, rfl, by decide, by decide, by decide⟩ (by decide)
  obtain ⟨_, e5, _⟩ := (h5 rfl rfl (by decide) (by decide) (by decide)).2 fun g => absurd g.1 (by decide)
  exact ⟨goes e1, goes (e2 rfl (by decide)), goes (e3 rfl rfl (by decide)), goes e4, goes e5⟩

/-! ## Accesses of a context -/

/-- A block with a result of slot 3 still to come. -/
def pendingBlock : KBlock := (kb [] [] []).onSlot 3 fun u => { u with rob := [⟨1, none, 0⟩] }

/-- An access of slot 3 of context 0, and the machine with it. -/
def ctxAccess (kind : AKind) (data : List Byte) (wr : Bool) : Access :=
  { unit kind 8 tile64 data wr with agent := .ctx 0 0 3 0 }
def ctxState (a : Access) : State := { running0 pendingBlock with accs := [a] }

theorem witness_ContextAccesses (h : Clause.ContextAccesses) :
    Goes (exec (.accessPerform 1) (ctxState (ctxAccess (.kstore 7) (natBytes 8 7) true))) ∧
    Goes (exec (.accessPerform 1) (ctxState (ctxAccess .kload [] false))) ∧
    (∃ t, exec (.lateResultArrival 1)
      (ctxState { ctxAccess .kload (natBytes 8 7) false with pieces := [], bads := [false], stage := .late [] }) = .next t) ∧
    ∃ t, exec (.walkComplete 1)
      (ctxState { ctxAccess .kload [] false with virt := true, pieces := [⟨0xFFC0000000012340, 8, none⟩], stage := .walk }) =
        .next t := by
  obtain ⟨_, e1, _⟩ := (h (ctxState (ctxAccess (.kstore 7) (natBytes 8 7) true)) (ctxAccess (.kstore 7) (natBytes 8 7) true) 0 0 3
    pendingBlock rfl rfl (fun r hr => nomatch hr) rfl).1 _ _ 7
    (lastUnit _ _ ⟨64, 8, some tile64⟩ tile64 rfl rfl rfl (by decide) rfl rfl (by decide)) rfl rfl rfl rfl (noRings_of (by decide))
    (by decide)
  obtain ⟨_, _, e2, _⟩ := (h (ctxState (ctxAccess .kload [] false)) (ctxAccess .kload [] false) 0 0 3 pendingBlock rfl rfl
    (fun r hr => nomatch hr) rfl).2.1 _ _
    (lastUnit _ _ ⟨64, 8, some tile64⟩ tile64 rfl rfl rfl (by decide) rfl rfl (by decide)) rfl rfl rfl rfl
  obtain ⟨_, e3, _⟩ := (h (ctxState { ctxAccess .kload (natBytes 8 7) false with pieces := [], bads := [false], stage := .late [] })
    { ctxAccess .kload (natBytes 8 7) false with pieces := [], bads := [false], stage := .late [] } 0 0 3 pendingBlock rfl rfl
    (fun r hr => nomatch hr) rfl).2.2.1 _ rfl rfl rfl rfl
  obtain ⟨_, e4, _⟩ := (h (ctxState { ctxAccess .kload [] false with
      virt := true, pieces := [⟨0xFFC0000000012340, 8, none⟩], stage := .walk })
    { ctxAccess .kload [] false with virt := true, pieces := [⟨0xFFC0000000012340, 8, none⟩], stage := .walk } 0 0 3 pendingBlock
    rfl rfl (fun r hr => nomatch hr) rfl).2.2.2 ⟨0xFFC0000000012340, 8, none⟩ 8 rfl rfl rfl rfl rfl (by decide) (by rfl) (by decide)
  exact ⟨goes e1, goes e2, ⟨_, e3⟩, ⟨_, e4⟩⟩

/-! ## CSR writes -/

/-- A context without PRIV, one with it, and the system controller. -/
def user : Writer := ⟨0, 0, false, false⟩
def boss : Writer := ⟨0, 0, true, false⟩
def host : Writer := ⟨0, 0, true, true⟩

theorem witness_CsrWrites (h : Clause.CsrWrites) :
    Goes (exec (.csrWrite 0 user 0x100 5) State.reset) ∧ Goes (exec (.csrWrite 0 user 0x000 0x4000) State.reset) ∧
    Goes (exec (.csrWrite 0 host 0x001 7) State.reset) ∧ Goes (exec (.csrWrite 0 boss 0x320 0x2000) State.reset) ∧
    Goes (exec (.csrWrite 0 boss 0x314 5) State.reset) ∧ Goes (exec (.csrWrite 0 boss 0x381 5) State.reset) ∧
    Goes (exec (.csrWrite 0 boss 0x381 5) (State.reset.onEgress fun g => { g with armed := some [] })) ∧
    Goes (exec (.csrWrite 0 boss 0x7FF 5) { State.reset with dev := { State.reset.dev with lock := true } }) := by
  obtain ⟨h1, _, _, h2, _⟩ := h State.reset 0 user 5
  obtain ⟨_, _, _, h2', _⟩ := h State.reset 0 user 0x4000
  obtain ⟨_, _, _, _, h3, _⟩ := h State.reset 0 host 7
  obtain ⟨_, _, _, _, _, _, _, _, h4⟩ := h State.reset 0 boss 0x2000
  obtain ⟨_, _, _, _, _, _, _, _, h5⟩ := h State.reset 0 boss 5
  obtain ⟨_, _, _, _, h6, _, _, h7, _⟩ := h5 rfl
  obtain ⟨_, _, _, _, _, _, _, _, h8⟩ := h (State.reset.onEgress fun g => { g with armed := some [] }) 0 boss 5
  obtain ⟨_, _, _, _, _, _, h8, _⟩ := h8 rfl
  obtain ⟨_, _, _, _, _, _, _, _, h9⟩ := h { State.reset with dev := { State.reset.dev with lock := true } } 0 boss 5
  obtain ⟨_, _, _, _, _, _, _, _, h9⟩ := h9 rfl
  exact ⟨goes (h1 0x100 (.inl (by decide)) rfl rfl), goes (h2' rfl).2, goes (h3 rfl), goes (h4 rfl).1,
    goes (h6 0x314 (by decide) (by decide)), goes (h7 rfl), goes (h8 (by decide)),
    goes (h9 rfl 0x7FF (by decide) (by decide))⟩

/-- Without PRIV, 72 registers, a context that runs, and a new allotment. -/
theorem witness_Allotments (h : Clause.Allotments) :
    Goes (exec (.ctxpartWrite 0 user 0xFF) State.reset) ∧ Goes (exec (.ctxpartWrite 0 boss 0xEB) State.reset) ∧
    Goes (exec (.ctxpartWrite 0 boss 0xA9) (ks [] [] [])) ∧ Goes (exec (.ctxpartWrite 0 boss 0x0F) State.reset) := by
  obtain ⟨_, _, _, _, e1, _⟩ := h State.reset 0 user 0xFF
  obtain ⟨_, _, _, _, _, e2, _⟩ := h State.reset 0 boss 0xEB
  obtain ⟨_, _, _, _, _, _, e3, _⟩ := h (ks [] [] []) 0 boss 0xA9
  obtain ⟨_, _, _, _, _, _, _, e4⟩ := h State.reset 0 boss 0x0F
  obtain ⟨_, _, e4, _⟩ := e4 (.inl rfl) (by decide) (fun k _ => by revert k; decide) (by decide)
  exact ⟨goes (e1 rfl rfl), goes (e2 (by decide)), goes (e3 0 (by decide) (by decide)), goes e4⟩

/-- Without PRIV, an element in use, a row that moves nothing in use, a running context, islands at work, and all at rest. -/
theorem witness_GuardMap (h : Clause.GuardMap) :
    Goes (exec (.guardMapWrite 0 user 0x310 1) State.reset) ∧ Goes (exec (.guardMapWrite 0 boss 0x310 1) (stage 0 (fed [] [] []))) ∧
    Goes (exec (.guardMapWrite 0 boss 0x313 0xC000) (stage 0 (fed [] [] []))) ∧
    Goes (exec (.guardMapWrite 0 boss 0x314 1) (ks [] [] [])) ∧
    Goes (exec (.guardMapWrite 0 boss 0x314 0x100)
      (State.reset.onCore 0 fun k => { k with matrix := ⟨[], 0, [⟨⟨⟨0, 0, 0⟩, 0, 0, 0, 0, 0, zeroLanes⟩, 0, 0, none, 0, 0, 0, 0, 0, 0, 0, 0⟩],
        [], [], 0⟩ })) ∧
    Goes (exec (.guardMapWrite 0 boss 0x314 0x400)
      (State.reset.onCore 0 fun k => { k with streamer := ⟨[], [⟨3, ⟨⟨0, 0, 0⟩, 0, 0, 0, 0, 0, zeroLanes⟩, 0, [], 0, false, false, 0, 0⟩], 0⟩ })) ∧
    Goes (exec (.guardMapWrite 0 boss 0x314 0xFFF) State.reset) := by
  obtain ⟨e1, _⟩ := h State.reset 0 user 1 0
  obtain ⟨_, e2, _⟩ := h (stage 0 (fed [] [] [])) 0 boss 1 0
  obtain ⟨_, _, e3, _⟩ := h (stage 0 (fed [] [] [])) 0 boss 0xC000 3
  obtain ⟨_, _, _, e4, _⟩ := h (ks [] [] []) 0 boss 1 0
  obtain ⟨_, _, _, _, e5, _⟩ := h (State.reset.onCore 0 fun k => { k with
    matrix := ⟨[], 0, [⟨⟨⟨0, 0, 0⟩, 0, 0, 0, 0, 0, zeroLanes⟩, 0, 0, none, 0, 0, 0, 0, 0, 0, 0, 0⟩], [], [], 0⟩ }) 0 boss 0x100 0
  obtain ⟨_, _, _, _, _, e6, _⟩ := h (State.reset.onCore 0 fun k => { k with
    streamer := ⟨[], [⟨3, ⟨⟨0, 0, 0⟩, 0, 0, 0, 0, 0, zeroLanes⟩, 0, [], 0, false, false, 0, 0⟩], 0⟩ }) 0 boss 0x400 0
  obtain ⟨_, _, _, _, _, _, e7⟩ := h State.reset 0 boss 0xFFF 0
  exact ⟨goes (e1 rfl rfl 0x310), goes (e2 0 (by decide) (by decide) ⟨0, by decide, 0, by decide, by decide⟩),
    goes (e3 rfl (by decide)), goes (e4 0 (by decide) (by decide)), goes (e5 (by decide) (by decide)),
    goes (e6 (by decide) (by decide)), goes (e7 rfl (by decide) rfl rfl)⟩

theorem witness_Invalidations (h : Clause.Invalidations) :
    Goes (exec (.tlbinvAll user) State.reset) ∧ Goes (exec (.tlbinvAll boss) State.reset) ∧
    Goes (exec (.tlbinvAsid boss 5) State.reset) ∧ Goes (exec (.tlbinvPage boss 5 0x1FF) State.reset) := by
  obtain ⟨⟨_, e1, _⟩, _⟩ := (h State.reset user 5 0x1FF).1 rfl rfl
  obtain ⟨⟨_, e2, _⟩, ⟨_, e3, _⟩, ⟨_, e4, _⟩⟩ := (h State.reset boss 5 0x1FF).2 rfl
  exact ⟨goes e1, goes e2, goes e3, goes e4⟩

/-- Tables that lie in one column and that do not, the last core and one beyond it, and the lock. -/
theorem witness_DeviceCsrs (h : Clause.DeviceCsrs) :
    Goes (exec (.kvtCsrWrite boss 0x370 0x7FFFE000) State.reset) ∧ Goes (exec (.kvtCsrWrite boss 0x370 0x7FFFF000) State.reset) ∧
    Goes (exec (.kvtCsrWrite boss 0x371 0x1408) State.reset) ∧ Goes (exec (.kvtCsrWrite boss 0x371 7) State.reset) ∧
    Goes (exec (.kvtCsrWrite boss 0x372 8) State.reset) ∧ Goes (exec (.fwCtlWrite boss 0x5F0000) State.reset) ∧
    Goes (exec (.fwCtlWrite boss 0x600000) State.reset) ∧ Goes (exec (.dmawinLockSet boss 1) State.reset) ∧
    Goes (exec (.dmawinLockSet boss 2) State.reset) ∧ Goes (exec (.dbgCtlWrite 0 boss 0x1F) State.reset) := by
  have key := fun v => h State.reset boss v rfl
  exact ⟨goes ((key 0x7FFFE000).1.1 (by decide)), goes ((key 0x7FFFF000).1.2 (by decide)),
    goes ((key 0x1408).2.1.1 (by decide)), goes ((key 7).2.1.2 (by decide)), goes ((key 8).2.2.1.1 (by decide)),
    goes ((key 0x5F0000).2.2.2.1 (by decide)), goes ((key 0x600000).2.2.2.2.1 (by decide)),
    goes ((key 1).2.2.2.2.2.1 (by decide)), goes ((key 2).2.2.2.2.2.2.1 (by decide)), goes ((key 0x1F).2.2.2.2.2.2.2 0)⟩

/-! ## Contexts -/

/-- SAVE of a running and of a stopped context; RESTORE of a running one, from an area of another allotment, and of the same. -/
theorem witness_ContextSwitch (h : Clause.ContextSwitch) :
    Goes (exec (.ctxswSave 0 boss 0 0x1000) (ks [] [] [])) ∧ Goes (exec (.ctxswSave 0 boss 0 0x1000) State.reset) ∧
    Goes (exec (.ctxswRestore 0 boss 0 0x1000) (ks [] [] [])) ∧ Goes (exec (.ctxswRestore 0 boss 0 0x1000) State.reset) ∧
    Goes (exec (.ctxswRestore 0 boss 0 0x1000) (withBytes 0x1178 [2, 16] State.reset)) := by
  obtain ⟨h1, _, h3, _⟩ := h (ks [] [] []) 0 boss 0 0x1000 rfl
  obtain ⟨_, h2, _, h4⟩ := h State.reset 0 boss 0 0x1000 rfl
  obtain ⟨_, _, _, h5⟩ := h (withBytes 0x1178 [2, 16] State.reset) 0 boss 0 0x1000 rfl
  obtain ⟨_, e1, _⟩ := h1 (.inl rfl)
  obtain ⟨_, e2, _⟩ := h2 (by decide) (by decide) (by decide) (by decide)
  obtain ⟨_, e3, _⟩ := h3 (.inl (by decide))
  obtain ⟨_, e4, _⟩ := (h4 rfl (by decide) (by decide)).1 (by decide)
  obtain ⟨_, e5, _⟩ := (h5 rfl (by decide) (by decide)).2 (by decide) (by decide)
  exact ⟨goes e1, goes e2, goes e3, goes e4, goes e5⟩

theorem witness_ContextControl (h : Clause.ContextControl) :
    Goes (exec (.ctxswClear 0 boss 0) (ks [] [] [])) ∧ Goes (exec (.ctxswClear 0 boss 0) State.reset) ∧
    Goes (exec (.ctxswStop 0 boss 0) (ks [] [] [])) ∧ Goes (exec (.ctxswStop 0 boss 0) State.reset) := by
  obtain ⟨h1, _, h3, _⟩ := h (ks [] [] []) 0 boss 0 rfl
  obtain ⟨_, h2, _, h4⟩ := h State.reset 0 boss 0 rfl
  obtain ⟨_, e1, _⟩ := h1 rfl
  obtain ⟨_, e2, _⟩ := h2 (by decide)
  obtain ⟨_, e3, _⟩ := h3 rfl
  obtain ⟨_, e4, _⟩ := h4 (by decide)
  exact ⟨goes e1, goes e2, goes e3, goes e4⟩

theorem witness_ContextStart (h : Clause.ContextStart) :
    Goes (exec (.ctxgo 0 user 0x12340) State.reset) ∧ Goes (exec (.ctxgo 0 boss 0xC000000000012340) State.reset) ∧
    Goes (exec (.ctxgo 0 boss 0x12340) (ks [] [] [])) := by
  obtain ⟨_, e2, _⟩ := (h State.reset 0 boss 0xC000000000012340).2.1 rfl rfl
  exact ⟨goes ((h State.reset 0 user 0x12340).1 rfl rfl), goes e2, goes ((h (ks [] [] []) 0 boss 0x12340).2.2.1 rfl (by decide))⟩

end Sys2Proof.Tests
end

