-- ==== Sys2Proof/Tests/WitnessRouters.lean ====
section
/-! SUPPORT. Witnesses for the statements about the router operators. -/

namespace Sys2Proof.Tests

open Sys2Proof Sys2Proof.Machine

set_option maxRecDepth 100000

/-- A slot with running values. -/
def running (r : Run) (a b c : List Token) : State := stage 6 { fed a b c with run := r }

theorem decides (t : Token) (h : (!t.eos && !t.void && t.wordTag) = true) : Decides t (t.lane 0) := by
  simp only [Bool.and_eq_true, Bool.not_eq_eq_eq_not, Bool.not_true, Token.wordTag, Bool.or_eq_true, beq_iff_eq] at h
  exact ⟨h.1.1, .inr ⟨h.1.2, h.2, rfl⟩⟩

/-- A zero decision, another, and a void one, which reads as zero. -/
theorem witness_Steer (h : Clause.Steer) :
    Goes (exec (.steer (wordFO one one 0)) (running .idle [flat 7 1] [flat 7 0] [])) ∧
    Goes (exec (.steer (wordFO one one 0)) (running .idle [flat 7 1] [flat 7 9] [])) ∧
    Goes (exec (.steer (wordFO one one 0)) (running .idle [flat 7 1] [voidToken zeroLanes 7 2] [])) ∧
    Goes (exec (.steer (wordFO one one 0)) (running .idle [eosToken] [eosToken] [])) :=
  ⟨goes ((h (wordFO one one 0) (running .idle [flat 7 1] [flat 7 0] []) (flat 7 1) (flat 7 0) 0).1 rfl (by decide)
      ⟨rfl, rfl⟩ ⟨rfl, rfl⟩ (decides _ (by decide)) (clear_of (by decide))),
    goes ((h (wordFO one one 0) (running .idle [flat 7 1] [flat 7 9] []) (flat 7 1) (flat 7 9) 9).1 rfl (by decide)
      ⟨rfl, rfl⟩ ⟨rfl, rfl⟩ (decides _ (by decide)) (clear_of (by decide))),
    goes ((h (wordFO one one 0) (running .idle [flat 7 1] [voidToken zeroLanes 7 2] []) (flat 7 1) (voidToken zeroLanes 7 2) 0).1
      rfl (by decide) ⟨rfl, rfl⟩ ⟨rfl, rfl⟩ ⟨rfl, .inl ⟨rfl, rfl⟩⟩ (clear_of (by decide))),
    goes ((h (wordFO one one 0) (running .idle [eosToken] [eosToken] []) eosToken eosToken 0).2.1 ⟨_, rfl, rfl⟩ ⟨_, rfl, rfl⟩
      (clear_of (by decide)))⟩

/-- The data at an end beside a decision, the decisions at an end beside a token, and the pass after an exit. -/
theorem witness_Steer_ends (h : Clause.Steer) :
    Goes (exec (.steer (wordFO one one 0)) (running .idle [eosToken] [flat 7 9] [])) ∧
    Goes (exec (.steer (wordFO one one 0)) (running .idle [flat 7 1] [eosToken] [])) ∧
    Goes (exec (.steer (wordFO one one 1)) (running .exit [flat 7 1] [flat 7 9] [])) := by
  obtain ⟨_, _, _, _, _, e1⟩ := (h (wordFO one one 0) (running .idle [flat 7 1] [eosToken] []) (flat 7 1) (flat 7 0) 0).2.2.1
    (by decide) ⟨rfl, rfl⟩ ⟨_, rfl, rfl⟩ (clear_of (by decide))
  obtain ⟨_, _, _, e2⟩ := (h (wordFO one one 0) (running .idle [eosToken] [flat 7 9] []) (flat 7 1) (flat 7 9) 9).2.2.2.1
    (by decide) ⟨_, rfl, rfl⟩ ⟨rfl, rfl⟩ (decides _ (by decide)) (clear_of (by decide))
  exact ⟨goes e2, goes e1, goes ((h (wordFO one one 1) (running .exit [flat 7 1] [flat 7 9] []) (flat 7 1) (flat 7 9) 9).2.2.2.2
    rfl ⟨rfl, rfl⟩ ⟨rfl, rfl⟩ (clear_of (by decide)))⟩

theorem witness_CarryLoop (h : Clause.CarryLoop) :
    let f := wordFA 0 one one one 0
    Goes (exec (.carry f) (running .idle [flat 7 1] [] [])) ∧
    Goes (exec (.carry f) (running (.loop false false false) [] [] [flat 7 0])) ∧
    Goes (exec (.carry f) (running (.loop false false false) [] [flat 7 2] [flat 7 1])) ∧
    Goes (exec (.carry f) (running .idle [eosToken] [] [])) :=
  ⟨goes ((h (wordFA 0 one one one 0) (running .idle [flat 7 1] [] []) (flat 7 1) (flat 7 0) 0 (clear_of (by decide))).1 rfl
      ⟨rfl, rfl⟩),
    goes (((h (wordFA 0 one one one 0) (running (.loop false false false) [] [] [flat 7 0]) (flat 7 1) (flat 7 0) 0
      (clear_of (by decide))).2.1 false false rfl ⟨rfl, rfl⟩ (decides _ (by decide)) (fun ⟨_, e, _⟩ => nomatch e)).1 rfl rfl),
    goes (((h (wordFA 0 one one one 0) (running (.loop false false false) [] [flat 7 2] [flat 7 1]) (flat 7 2) (flat 7 1) 1
      (clear_of (by decide))).2.1 false false rfl ⟨rfl, rfl⟩ (decides _ (by decide))
        (fun ⟨t, e, e'⟩ => by cases e; exact absurd e' (by decide))).2 (by decide) ⟨rfl, rfl⟩),
    goes ((h (wordFA 0 one one one 0) (running .idle [eosToken] [] []) (flat 7 1) (flat 7 0) 0 (clear_of (by decide))).2.2 rfl
      ⟨_, rfl, rfl⟩)⟩

theorem witness_InvariantCopies (h : Clause.InvariantCopies) :
    let f := wordFO one one 0
    Goes (exec (.inv f) (running .idle [flat 7 5] [] [])) ∧
    Goes (exec (.inv f) (running (.loop false false false) [flat 7 5] [flat 7 1] [])) ∧
    Goes (exec (.inv f) (running (.loop false false false) [flat 7 5] [flat 7 0] [])) :=
  ⟨goes ((h (wordFO one one 0) (running .idle [flat 7 5] [] []) (flat 7 5) (flat 7 0) 0 (clear_of (by decide)) rfl rfl
      ⟨rfl, rfl⟩).1 rfl),
    goes (((h (wordFO one one 0) (running (.loop false false false) [flat 7 5] [flat 7 1] []) (flat 7 5) (flat 7 1) 1
      (clear_of (by decide)) rfl rfl ⟨rfl, rfl⟩).2 false false rfl ⟨rfl, rfl⟩ (decides _ (by decide))).1 (by decide)),
    goes (((h (wordFO one one 0) (running (.loop false false false) [flat 7 5] [flat 7 0] []) (flat 7 5) (flat 7 0) 0
      (clear_of (by decide)) rfl rfl ⟨rfl, rfl⟩).2 false false rfl ⟨rfl, rfl⟩ (decides _ (by decide))).2 rfl)⟩

/-- MERGE by its decision; AMRG where both arrived together and only port b ends. -/
theorem witness_Merges (h : Clause.Merges) :
    let f := wordFA 0 one one one 0
    Goes (exec (.merge f) (running .idle [flat 7 1] [flat 7 2] [flat 7 0])) ∧
    Goes (exec (.merge f) (running .idle [flat 7 1] [flat 7 2] [flat 7 8])) ∧
    Goes (exec (.amrg (wordFA 0 one one off 0)) (running .idle [flat 7 1] [flat 7 2] [])) :=
  ⟨goes ((h (wordFA 0 one one one 0) (running .idle [flat 7 1] [flat 7 2] [flat 7 0]) (clear_of (by decide)) rfl).1
      (flat 7 1) (flat 7 0) 0 ⟨rfl, rfl⟩ (decides _ (by decide)) ⟨rfl, rfl⟩),
    goes ((h (wordFA 0 one one one 0) (running .idle [flat 7 1] [flat 7 2] [flat 7 8]) (clear_of (by decide)) rfl).1
      (flat 7 2) (flat 7 8) 8 ⟨rfl, rfl⟩ (decides _ (by decide)) ⟨rfl, rfl⟩),
    goes ((h (wordFA 0 one one off 0) (running .idle [flat 7 1] [flat 7 2] []) (clear_of (by decide)) rfl).2 .a ⟨flat 7 1, 0, Origin.none⟩
      (by decide) rfl rfl (fun q hq e he _ => by
        rcases q with _ | _ | _
        · cases he; exact .inr ⟨rfl, Nat.le_refl _⟩
        · cases he; exact .inr ⟨rfl, Nat.zero_le _⟩
        · exact absurd hq (by decide)))⟩

/-- A sampled region scope and a system scope. -/
theorem witness_Cinch (h : Clause.Cinch) :
    Goes (exec (.cinch (wordFA 0 one one off 1)) (running .idle [flat 7 1] [flat 7 2] [])) ∧
    Goes (exec (.cinch (wordFA 0 one one off 0xC)) (running .idle [flat 7 1] [flat 7 2] [])) :=
  ⟨goes (((h (wordFA 0 one one off 1) (running .idle [flat 7 1] [flat 7 2] []) (ready_of (by decide))).1 (by decide)).1 rfl),
    let ⟨_, _, e⟩ := ((h (wordFA 0 one one off 0xC) (running .idle [flat 7 1] [flat 7 2] []) (ready_of (by decide))).1
      (by decide)).2 (by decide)
    goes e⟩

/-- A void entry beside the token that is selected. -/
theorem witness_Cinch_void (h : Clause.Cinch) :
    Goes (exec (.cinch (wordFA 0 one one off 0)) (running .idle [flat 7 1] [voidToken zeroLanes 7 2] [])) := by
  obtain ⟨_, _, _, _, _, _, _, e, _⟩ := (h (wordFA 0 one one off 0) (running .idle [flat 7 1] [voidToken zeroLanes 7 2] [])
    (ready_of (by decide))).2 [flat 7 1] _ [] rfl (by decide) rfl
  exact goes (e rfl)

/-- A DROP word without a target. -/
def dropWord (mod : BitVec 8) : FA := ⟨mod, ⟨false, 0, 0⟩, ⟨false, 0, 0⟩, one, off, off, 0⟩

theorem witness_Drop (h : Clause.Drop) :
    Goes (exec (.drop (dropWord 0)) (running .idle [flat 7 1] [] [])) ∧
    Goes (exec (.drop (wordFA 1 one off off 0)) (running .idle [voidToken zeroLanes 7 0] [] [])) ∧
    Goes (exec (.drop (dropWord 0)) (running .idle [eosToken] [] [])) ∧
    ((dropWord 0).t0.v = false ∧ (dropWord 0).t1.v = false) :=
  ⟨goes ((h.1 (dropWord 0) (running .idle [flat 7 1] [] []) (clear_of (by decide))).1 _ ⟨rfl, rfl⟩),
    goes ((h.1 (wordFA 1 one off off 0) (running .idle [voidToken zeroLanes 7 0] [] []) (clear_of (by decide))).1 _ ⟨rfl, rfl⟩),
    goes ((h.1 (dropWord 0) (running .idle [eosToken] [] []) (clear_of (by decide))).2 ⟨_, rfl, rfl⟩),
    h.2 (dropWord 0) (by decide) rfl⟩

/-- A COUNT word, a sink or not. -/
def countWord (p : BitVec 16) : FO := ⟨0, ⟨true, 1, 0⟩, ⟨false, 0, 0⟩, one, off, p⟩

/-- The block of a sink: SINKS 1. -/
def sinkState (r : Run) (a : List Token) : State :=
  (running r a [] []).onRegion 0 0 fun g => { g with hdr := 0x10000 <<< 64 }

/-- A count at its largest value, the report of an ordinary COUNT, the report of the only sink, and one made before. -/
theorem witness_Count (h : Clause.Count) :
    Goes (exec (.count (countWord 0)) (running (.count 0xFFFFFFFF 0 false) [flat 7 1] [] [])) ∧
    Goes (exec (.count (countWord 0)) (running .idle [eosToken] [] [])) ∧
    Goes (exec (.count (countWord 0x8000)) (sinkState (.count 3 1 false) [eosToken])) ∧
    Goes (exec (.count (countWord 0x8000)) (sinkState (.count 3 1 true) [eosToken])) := by
  refine ⟨goes ((h (countWord 0) (running (.count 0xFFFFFFFF 0 false) [flat 7 1] [] []) 0xFFFFFFFF 0 false (.inl rfl)).1 _
      (clear_of (by decide)) ⟨rfl, rfl⟩), ?_, ?_, ?_⟩
  · obtain ⟨_, _, _, _, _, e, _⟩ := (h (countWord 0) (running .idle [eosToken] [] []) 0 0 false
      (.inr ⟨rfl, rfl, rfl, rfl⟩)).2 (clear_of (by decide)) ⟨_, rfl, rfl⟩
    exact goes (e (.inl rfl))
  · obtain ⟨_, _, _, _, _, _, e⟩ := (h (countWord 0x8000) (sinkState (.count 3 1 false) [eosToken]) 3 1 false
      (.inl rfl)).2 (clear_of (by decide)) ⟨_, rfl, rfl⟩
    obtain ⟨_, e, _⟩ := e rfl rfl rfl rfl rfl rfl
    exact goes e
  · obtain ⟨_, _, _, _, _, e, _⟩ := (h (countWord 0x8000) (sinkState (.count 3 1 true) [eosToken]) 3 1 true
      (.inl rfl)).2 (clear_of (by decide)) ⟨_, rfl, rfl⟩
    exact goes (e (.inr rfl))

/-- The counters of the element of slot 6. -/
def withCounters (s : State) (c0 c1 : Counter) : State :=
  s.onElem 0 0 fun e => { e with ctr := (e.ctr.set 0 c0).set 1 c1 }

/-- A step within a pass, and the last one with a base from port a. -/
theorem witness_LoopCounters (h : Clause.LoopCounters) :
    (∃ u, exec (.lctr (wordFO off off 0x100)) (withCounters (running (.pass 64 true false) [] [] []) ⟨7, 8, 2, 16⟩ ⟨5, 4, 0, 0⟩) =
      .next u ∧ u.here.run = .pass 64 true false) ∧
    ∃ u, exec (.lctr (wordFO one off 0x100)) (withCounters (running (.pass 64 true false) [flat 7 64] [] []) ⟨7, 8, 7, 56⟩
      ⟨5, 4, 5, 20⟩) = .next u ∧ u.here.run = .idle ∧ (u.here.port .a).q = [] := by
  obtain ⟨_, u, e, _, _, _, e1, _⟩ := h (wordFO off off 0x100) (withCounters (running (.pass 64 true false) [] [] []) ⟨7, 8, 2, 16⟩
    ⟨5, 4, 0, 0⟩) 64 false (clear_of (by decide)) rfl rfl rfl
  obtain ⟨_, v, e2, _, _, _, _, e3, e4, _⟩ := h (wordFO one off 0x100) (withCounters (running (.pass 64 true false) [flat 7 64] [] [])
    ⟨7, 8, 7, 56⟩ ⟨5, 4, 5, 20⟩) 64 false (clear_of (by decide)) rfl rfl rfl
  exact ⟨⟨u, e, e1 (by decide)⟩, ⟨v, e2, e3 (by decide), e4 (by decide) rfl⟩⟩

/-- The PARAMS16-th token, a decision on port b, the insertion, and the end right after an inserted end-of-stream. -/
theorem witness_EndInsertion (h : Clause.EndInsertion) :
    Goes (exec (.eos (wordFO one off 2)) (running (.eos 1 false false) [flat 7 1] [] [])) ∧
    Goes (exec (.eos (wordFO one one 0)) (running .idle [flat 7 1] [flat 7 1] [])) ∧
    Goes (exec (.eos (wordFO one off 2)) (running (.eos 0 true false) [] [] [])) ∧
    Goes (exec (.eos (wordFO one off 2)) (running (.eos 0 false true) [eosToken] [] [])) :=
  ⟨goes (((h (wordFO one off 2) (running (.eos 1 false false) [flat 7 1] [] []) 1 false (clear_of (by decide)) rfl rfl).1 _
      (.inl rfl) rfl (by decide) ⟨rfl, rfl⟩).1 rfl),
    goes (((h (wordFO one one 0) (running .idle [flat 7 1] [flat 7 1] []) 0 false (clear_of (by decide)) rfl rfl).1 _
      (.inr ⟨rfl, rfl, rfl⟩) rfl (by decide) ⟨rfl, rfl⟩).2 _ _ rfl (by decide) ⟨rfl, rfl⟩ (decides _ (by decide))),
    goes ((h (wordFO one off 2) (running (.eos 0 true false) [] [] []) 0 false (clear_of (by decide)) rfl rfl).2.1 rfl),
    goes ((h (wordFO one off 2) (running (.eos 0 false true) [eosToken] [] []) 0 true (clear_of (by decide)) rfl rfl).2.2 (.inl rfl)
      (by decide))⟩

/-- Credit one, a credit that saturates, both at once, and the end. -/
theorem witness_Gate (h : Clause.Gate) :
    Goes (exec (.gate (wordFO one one 1)) (running .idle [flat 7 1] [] [])) ∧
    Goes (exec (.gate (wordFO one one 1)) (running (.gate 0xFFFF false) [] [flat 7 0x10000] [])) ∧
    Goes (exec (.gate (wordFO one one 1)) (running (.gate 1 false) [flat 7 1] [flat 7 0] [])) ∧
    Goes (exec (.gate (wordFO one one 1)) (running (.gate 1 false) [eosToken] [] [])) :=
  ⟨goes ((h (wordFO one one 1) (running .idle [flat 7 1] [] []) 1 (clear_of (by decide)) rfl rfl (.inr ⟨rfl, rfl⟩)).1 _
      ⟨rfl, rfl⟩ rfl (by decide)),
    goes ((h (wordFO one one 1) (running (.gate 0xFFFF false) [] [flat 7 0x10000] []) 0xFFFF (clear_of (by decide)) rfl rfl
      (.inl rfl)).2.1 _ _ ⟨rfl, rfl⟩ (decides _ (by decide)) rfl),
    goes ((h (wordFO one one 1) (running (.gate 1 false) [flat 7 1] [flat 7 0] []) 1 (clear_of (by decide)) rfl rfl
      (.inl rfl)).2.2.1 _ _ _ ⟨rfl, rfl⟩ ⟨rfl, rfl⟩ (decides _ (by decide)) (by decide)),
    goes ((h (wordFO one one 1) (running (.gate 1 false) [eosToken] [] []) 1 (clear_of (by decide)) rfl rfl (.inl rfl)).2.2.2
      ⟨_, rfl, rfl⟩)⟩

end Sys2Proof.Tests
end

