-- ==== Sys2Proof/Tests/WitnessHeads.lean ====
section
/-! SUPPORT. Witnesses for the statements about rotation heads, commands and snapshots. -/

namespace Sys2Proof.Tests

open Sys2Proof Sys2Proof.Machine

set_option maxRecDepth 100000

/-- A slot table entry in a state. -/
def entryIn (st : SState) : SEntry := { SEntry.zero with st := st, key := 9 }

/-- A head of a rotation of two slots in slot 6, both entries in state st, past its first round. -/
def spin (st : SState) : Head :=
  { slot := 6, faults := 0, lates := 0, rejects := 0, discards := 0, ebase := 0, kbase := 0, kcount := 0, rotnum := 3,
    made := 5, epochs := [⟨0, 2, 1⟩], map := [], pmax := 2, pcur := 2, pos := 1, lnat := 2, drain := ⟨true, 3, 0⟩, drainCred := 8, relight := false,
    hstate := .run, table := [entryIn st, entryIn st], shadow := [flat 7 1, flat 7 2], cap := 8, dlhead := 0, delay := [],
    firstCarry := [], issued := 2, queue := [], inflight := 0, busy := none, back := .run, writes := [], read := none,
    taken := [], left := 0, laOut := 0, laExit := false, cDone := false, retireEos := false, copies := 0 }

/-- The head's word: T0 to port a of slot 1, ports a and b, period 2. -/
def headWord : Word64 := 0x7000_8100_0249_0001
/-- The same, decoded. -/
def rheadF : FA := wordFA 0 one one off 1
/-- With port c. -/
def rheadC : FA := wordFA 0 one one one 1

/-- The element of slot 6 holds the head h; the ember store has eight granules. -/
def headed (h : Head) (a b c : List Token) : State :=
  let s := (stage 6 { fed a b c with word := headWord }).onElem 0 0 fun e => { e with head := some h }
  s.onCore 0 fun k => { k with poolE := 8 }

theorem witness_RotationPass (h : Clause.RotationPass) :
    Goes (exec (.rhead rheadF) (headed (spin .live) [flat 7 1] [flat 7 5] [])) ∧
    Goes (exec (.slotPass 0 0) (headed (spin .live) [flat 7 1] [flat 7 5] [])) ∧
    Goes (exec (.rhead rheadF) (headed (spin .drain) [flat 7 1] [voidToken zeroLanes 7 0] [])) := by
  obtain ⟨t, _, e1, e2, _⟩ := h rheadF (headed (spin .live) [flat 7 1] [flat 7 5] []) (spin .live) (flat 7 1) (flat 7 5)
    ⟨rfl, rfl, by decide, rfl, rfl⟩ (clear_of (by decide)) rfl rfl rfl rfl rfl rfl rfl rfl (by decide) (by decide) (by decide)
    (by decide) (fun e => absurd e (by decide)) (fun e => absurd e (by decide))
  obtain ⟨t', _, e3, _⟩ := h rheadF (headed (spin .drain) [flat 7 1] [voidToken zeroLanes 7 0] []) (spin .drain) (flat 7 1)
    (voidToken zeroLanes 7 0)
    ⟨rfl, rfl, by decide, rfl, rfl⟩ (clear_of (by decide)) rfl rfl rfl rfl rfl rfl rfl rfl (by decide) (by decide) (by decide)
    (by decide) (fun e => absurd e (by decide)) (fun _ => by decide)
  exact ⟨goes e1, goes (e2 (by decide) (by decide)), goes e3⟩

/-- A returning carry that is void as it was sent. -/
theorem witness_RotationPass_void (h : Clause.RotationPass) :
    let hd := { spin .held with table := [entryIn .held, { entryIn .held with sv := true }] }
    Goes (exec (.rhead rheadF) (headed hd [voidToken zeroLanes 7 0] [flat 7 5] [])) := by
  obtain ⟨t, _, e1, _⟩ := h rheadF (headed { spin .held with table := [entryIn .held, { entryIn .held with sv := true }] }
      [voidToken zeroLanes 7 0] [flat 7 5] []) { spin .held with table := [entryIn .held, { entryIn .held with sv := true }] }
    (voidToken zeroLanes 7 0) (flat 7 5)
    ⟨rfl, rfl, by decide, rfl, rfl⟩ (clear_of (by decide)) rfl rfl rfl rfl rfl rfl rfl rfl (by decide) (by decide) (by decide)
    (by decide) (fun _ => ⟨rfl, rfl⟩) (fun e => absurd e (by decide))
  exact goes e1

theorem witness_SlotFault (h : Clause.SlotFault) :
    Goes (exec (.rhead rheadF) (headed (spin .live) [voidToken zeroLanes 7 0] [flat 7 5] [])) := by
  obtain ⟨t, _, e1, _⟩ := h rheadF (headed (spin .live) [voidToken zeroLanes 7 0] [flat 7 5] []) (spin .live)
    (voidToken zeroLanes 7 0) (flat 7 5)
    ⟨rfl, rfl, by decide, rfl, rfl⟩ (clear_of (by decide)) rfl rfl rfl rfl rfl rfl rfl rfl (by decide) (by decide) (by decide)
    (fun e => absurd e (by decide)) rfl (.inl ⟨.inl rfl, rfl⟩)
  exact goes e1

/-- A carry with a cause that comes back to a HELD slot. -/
theorem witness_SlotFault_held (h : Clause.SlotFault) :
    Goes (exec (.rhead rheadF) (headed (spin .held) [voidToken zeroLanes 7 2] [flat 7 5] [])) := by
  obtain ⟨t, _, e1, _⟩ := h rheadF (headed (spin .held) [voidToken zeroLanes 7 2] [flat 7 5] []) (spin .held)
    (voidToken zeroLanes 7 2) (flat 7 5)
    ⟨rfl, rfl, by decide, rfl, rfl⟩ (clear_of (by decide)) rfl rfl rfl rfl rfl rfl rfl rfl (by decide) (by decide) (by decide)
    (fun e => absurd e (by decide)) rfl (.inr ⟨.inl rfl, by decide⟩)
  exact goes e1

/-- A request for slot 0: source value. -/
def drawRequest : Token := i32Token [5, 0, 0xFFFFFFFF, 0x27, 42]
/-- A head in its first round. -/
def starting : Head := { spin .empty with pos := 0, issued := 0, rotnum := 0 }

theorem witness_Admission (h : Clause.Admission) :
    Goes (exec (.rhead rheadC) (headed starting [] [flat 7 5] [drawRequest])) := by
  obtain ⟨_, _, _, e, _⟩ := h rheadC (headed starting [] [flat 7 5] [drawRequest]) starting drawRequest (flat 7 5)
    ⟨rfl, rfl, by decide, rfl, rfl⟩ (clear_of (by decide)) rfl rfl rfl rfl rfl rfl rfl rfl rfl rfl (by decide) rfl (by decide)
    (by decide) (.inl rfl) (by decide) (.inl rfl) (.inr (by decide))
  exact goes e

/-- The head of configuration 9, one rotation on in its first round: a late request for a BANKED slot. -/
theorem witness_Admission_late (h : Clause.Admission) :
    let hd := { spin .banked with pos := 0, issued := 0 }
    let req := i32Token [5, 0, 2, 0x07]
    Goes (exec (.rhead rheadC) (owned (cfg9 []) (headed hd [] [flat 7 5] [req]))) := by
  obtain ⟨_, _, _, e, _⟩ := h rheadC (owned (cfg9 []) (headed { spin .banked with pos := 0, issued := 0 } [] [flat 7 5]
      [i32Token [5, 0, 2, 0x07]])) { spin .banked with pos := 0, issued := 0 } (i32Token [5, 0, 2, 0x07]) (flat 7 5)
    ⟨rfl, rfl, by decide, rfl, rfl⟩ (clear_of (by decide)) rfl rfl rfl rfl rfl rfl rfl rfl rfl rfl (by decide) rfl (by decide)
    (by decide) (.inr rfl) (by decide) (.inr (by decide)) (.inl (by decide))
  exact goes e

theorem witness_AdmissionRequest (h : Clause.AdmissionRequest) :
    Goes (exec (.sadm (wordFA 0x72 one off off 0)) (oneIn [flat 7 5])) ∧
    Goes (exec (.sadm (wordFA 0x72 one off off 0)) (oneIn [voidToken zeroLanes 7 1])) ∧
    Goes (exec (.sadm (wordFA 0x72 one off off 0)) (oneIn [flat 1 5])) :=
  ⟨goes_tok ((h (wordFA 0x72 one off off 0) (oneIn [flat 7 5]) rfl rfl rfl (ready_of (by decide))).1 (.inr rfl)),
    goes_tok ((h (wordFA 0x72 one off off 0) (oneIn [voidToken zeroLanes 7 1]) rfl rfl rfl (ready_of (by decide))).1 (.inl rfl)),
    goes ((h (wordFA 0x72 one off off 0) (oneIn [flat 1 5]) rfl rfl rfl (ready_of (by decide))).2 rfl rfl)⟩

/-- Slot 0 beside the head of slot 6. -/
def beside (h : Head) (a : List Token) : State :=
  let s := (stage 0 (fed a [] [])).onElem 0 0 fun e => { e with head := some h }
  s.onCore 0 fun k => { k with poolE := 8 }

/-- A queue with one place left; a void operand; one of another format. -/
theorem witness_Commands (h : Clause.Commands) :
    Goes (exec (.sevc (wordFA 0 one off off 0)) (beside { spin .live with inflight := 15 } [flat 7 1])) ∧
    Goes (exec (.sevc (wordFA 0 one off off 0)) (beside (spin .live) [voidToken zeroLanes 7 1])) ∧
    Goes (exec (.sevc (wordFA 0 one off off 0)) (beside (spin .live) [flat 1 1])) := by
  obtain ⟨_, _, _, _, e2⟩ := (h (wordFA 0 one off off 0) (beside (spin .live) [flat 1 1]) _ _ (.head _) rfl
    (ready_of (by decide))).2.2 rfl rfl
  obtain ⟨_, _, _, _, e⟩ := (h (wordFA 0 one off off 0) (beside (spin .live) [voidToken zeroLanes 7 1]) _ _ (.head _) rfl
    (ready_of (by decide))).2.1 rfl
  exact ⟨goes ((h (wordFA 0 one off off 0) (beside { spin .live with inflight := 15 } [flat 7 1]) _ _ (.head _) rfl
    (ready_of (by decide))).1 _ _ rfl rfl rfl rfl (by decide)), goes e, goes e2⟩

/-- A command from slot 0. -/
def command (k : CmdKind) (l0 l1 : Lane) : Cmd := ⟨k, ⟨0, 0, 0⟩, 1, l0, l1, 0⟩

theorem witness_CommandQueue (h : Clause.CommandQueue) :
    Goes (exec (.commandEnqueue 0 0 (command .sevc 1 0) 0) (headed (spin .live) [] [] [])) ∧
    Goes (exec (.commandEnqueue 0 0 (command .unbank 1 0) 0) (headed { spin .live with hstate := .banked } [] [] [])) ∧
    Goes (exec (.commandEnqueue 0 0 (command .sevc 1 0) 0) (headed { spin .live with hstate := .banked } [] [] [])) := by
  obtain ⟨_, _, e, _⟩ := (h (headed { spin .live with hstate := .banked } [] [] []) 0 0 _ _ (command .sevc 1 0) rfl rfl).2 rfl
    rfl
  exact ⟨goes ((h (headed (spin .live) [] [] []) 0 0 _ _ (command .sevc 1 0) rfl rfl).1 (.inl (by decide))),
    goes ((h (headed { spin .live with hstate := .banked } [] [] []) 0 0 _ _ (command .unbank 1 0) rfl rfl).1 (.inr rfl)),
    goes e⟩

/-- SHLD of a live slot, late; SCLR of a live slot, without effect; SREL of a live slot; SEVC of one without a place in the store. -/
theorem witness_SlotCommandEffects (h : Clause.SlotCommandEffects) (k : CmdKind) (hk : k ∈ [CmdKind.shld, .sclr, .srel, .sevc]) :
    ∃ (t : State) (tok : Token) (b : Bool), (headed (spin .live) [] [] []).applySlotCmd ⟨0, 0, 6⟩ 1 none ⟨command k 1 2, 0⟩ = (t, b) ∧
      tok.lane 1 = (1 : Lane) := by
  obtain ⟨t, tok, _, e, _, _, _, _, _, _, h1, _⟩ := h (headed (spin .live) [] [] []) ⟨0, 0, 6⟩ _ none ⟨command k 1 2, 0⟩ rfl
    (show 1 < 2 by decide) (by simp only [List.mem_cons, List.not_mem_nil, or_false] at hk; rcases hk with rfl | rfl | rfl | rfl <;> rfl)
  exact ⟨t, tok, _, e, h1⟩

/-- The last slot, the slot after it, and the summary. -/
theorem witness_SlotStatus (h : Clause.SlotStatus) :
    Goes (exec (.sstat (wordFA 0 one off off 0)) (beside (spin .live) [flat 7 1])) ∧
    Goes (exec (.sstat (wordFA 0 one off off 0)) (beside (spin .live) [flat 7 2])) ∧
    Goes (exec (.sstat (wordFA 0 one off off 0)) (beside (spin .live) [flat 7 0xFFFFFFFF])) := by
  obtain ⟨_, _, _, _, e1, _, _, _, _, _, _, h1, _⟩ := h (wordFA 0 one off off 0) (beside (spin .live) [flat 7 1]) _ rfl
    (ready_of (by decide)) rfl rfl rfl
  obtain ⟨_, _, _, _, e2, _, _, _, _, _, _, _, h2⟩ := h (wordFA 0 one off off 0) (beside (spin .live) [flat 7 2]) _ rfl
    (ready_of (by decide)) rfl rfl rfl
  obtain ⟨_, _, _, _, e3, _, _, _, _, _, h3, _⟩ := h (wordFA 0 one off off 0) (beside (spin .live) [flat 7 0xFFFFFFFF]) _ rfl
    (ready_of (by decide)) rfl rfl rfl
  have := h1 (by decide) (by decide)
  have := h2 (by decide) (by decide)
  have := h3 (by decide)
  exact ⟨goes e1, goes e2, goes e3⟩

/-- BANK to the head's own image; REROT to a period of one. -/
def bankCmd : QCmd := ⟨command .bank 0xFFFFFFFF 0xFFFFFFFF, 0⟩
def rerotCmd : QCmd := ⟨⟨.rerot, ⟨0, 0, 0⟩, 1, 1, 0xFFFFFFFF, 0xFFFFFFFF⟩, 0⟩
/-- BANK beyond the store; REROT to a period of three. -/
def farBank : QCmd := ⟨command .bank 0x10000000 0xFFFFFFFF, 0⟩
def longRerot : QCmd := ⟨⟨.rerot, ⟨0, 0, 0⟩, 1, 3, 0xFFFFFFFF, 0xFFFFFFFF⟩, 0⟩
/-- A head at a boundary with a command in its queue. -/
def atBoundary (st : SState) (q : QCmd) : Head := { spin st with pos := 0, queue := [q] }
/-- Cycle 1. -/
def later1 (s : State) : State := { s with clk := { s.clk with now := 1 } }

/-- BANK with its image in the store and without, REROT to a good and to a bad period. -/
theorem witness_RotationCommands (h : Clause.RotationCommands) :
    Goes (exec (.rhead rheadF) (later1 (headed (atBoundary .live bankCmd) [flat 7 1] [flat 7 2] []))) ∧
    Goes (exec (.rhead rheadF) (later1 (headed (atBoundary .live farBank) [flat 7 1] [flat 7 2] []))) ∧
    Goes (exec (.rhead rheadF) (later1 (headed (atBoundary .empty longRerot) [flat 7 1] [flat 7 2] []))) ∧
    Goes (exec (.rhead rheadF) (later1 (headed (atBoundary .empty rerotCmd) [flat 7 1] [flat 7 2] []))) := by
  obtain ⟨_, e1, _⟩ := (h rheadF (later1 (headed (atBoundary .live bankCmd) [flat 7 1] [flat 7 2] [])) (atBoundary .live bankCmd)
    bankCmd (flat 7 1) (flat 7 2) ⟨rfl, rfl, by decide, rfl, rfl⟩ (clear_of (by decide)) rfl rfl (by decide) rfl rfl rfl rfl rfl
    rfl (by decide) (by decide) (by decide)).1 rfl (by decide)
  obtain ⟨_, e2, _⟩ := (h rheadF (later1 (headed (atBoundary .empty rerotCmd) [flat 7 1] [flat 7 2] []))
    (atBoundary .empty rerotCmd) rerotCmd (flat 7 1) (flat 7 2) ⟨rfl, rfl, by decide, rfl, rfl⟩ (clear_of (by decide)) rfl rfl
    (by decide) rfl rfl rfl rfl rfl rfl (by decide) (by decide) (by decide)).2.2.1 rfl ⟨by decide, by decide, by decide +kernel⟩
  obtain ⟨_, _, e3, _⟩ := (h rheadF (later1 (headed (atBoundary .live farBank) [flat 7 1] [flat 7 2] [])) (atBoundary .live farBank)
    farBank (flat 7 1) (flat 7 2) ⟨rfl, rfl, by decide, rfl, rfl⟩ (clear_of (by decide)) rfl rfl (by decide) rfl rfl rfl rfl rfl
    rfl (by decide) (by decide) (by decide)).2.1 rfl (by decide)
  obtain ⟨_, _, e4, _⟩ := (h rheadF (later1 (headed (atBoundary .empty longRerot) [flat 7 1] [flat 7 2] []))
    (atBoundary .empty longRerot) longRerot (flat 7 1) (flat 7 2) ⟨rfl, rfl, by decide, rfl, rfl⟩ (clear_of (by decide)) rfl rfl
    (by decide) rfl rfl rfl rfl rfl rfl (by decide) (by decide) (by decide)).2.2.2 rfl fun g => absurd g.2.1 (by decide)
  exact ⟨goes e1, goes e3, goes e4, goes e2⟩

/-- A head that has taken its carries back for BANK. -/
def bankingHead : Head :=
  { spin .live with hstate := .banking, busy := some (bankCmd.cmd, false), taken := [some (flat 7 1), some (flat 7 2)] }

theorem witness_BankImage (h : Clause.BankImage) : Goes (exec (.rhead rheadF) (headed bankingHead [] [] [])) := by
  obtain ⟨_, _, _, e, _⟩ := h rheadF (headed bankingHead [] [] []) bankingHead _ false ⟨rfl, rfl, by decide, rfl, rfl⟩ rfl rfl rfl
  exact goes e

/-- A head that waits for its image. -/
def unbanking : Head :=
  { spin .banked with hstate := .unbanking, back := .banked, busy := some (command .unbank 0xFFFFFFFF 0xFFFFFFFF, false) }

/-- The ember store holds an image of two slots at 0. -/
def imaged : State :=
  ((headed unbanking [] [] []).emberWrite 0 0 (imageHeader [] [] 7 0 0 1 false false false true)).emberWrite 0 128
    (slotRecord (flat 7 1) (entryIn .live) ++ slotRecord (flat 7 2) (entryIn .held))

/-- The image there, and none. -/
theorem witness_Unbank (h : Clause.Unbank) :
    Goes (exec (.emberReadDone 0 0 0) imaged) ∧ Goes (exec (.emberReadDone 0 0 0) (headed unbanking [] [] [])) := by
  have hi : (imaged.readImage 0 unbanking 0).isSome = true := by decide +kernel
  obtain ⟨⟨p, rot, recs⟩, hr⟩ := Option.isSome_iff_exists.mp hi
  obtain ⟨_, _, _, e, _⟩ := (h imaged 0 0 ⟨0, 0, 6⟩ unbanking _ false rfl rfl rfl rfl rfl rfl rfl (fun _ hq => nomatch hq)).1 p rot recs
    hr
  obtain ⟨_, _, e2, _⟩ := (h (headed unbanking [] [] []) 0 0 ⟨0, 0, 6⟩ unbanking _ false rfl rfl rfl rfl rfl rfl rfl
    (fun _ hq => nomatch hq)).2 (by decide +kernel)
  exact ⟨goes e, goes e2⟩

/-- A head with a status and a record on their way. -/
def readingHead : Head :=
  { spin .live with writes := [⟨⟨0, 0, 0⟩, 1, flat 7 0⟩], read := some ⟨5, false, true, flat 7 1, false⟩ }

theorem witness_EmberSteps (h : Clause.EmberSteps) :
    Goes (exec (.emberWriteDone 0 0 0) (headed readingHead [] [] [])) ∧
    Goes (exec (.emberWriteDone 0 0 0) (headed (spin .live) [] [] [])) ∧
    Goes (exec (.emberReadDone 0 0 0) (headed readingHead [] [] [])) ∧
    Goes (exec (.emberReadDone 0 0 0) ((headed readingHead [] [] []).onCore 0 fun k => { k with hfab := true })) := by
  obtain ⟨h1, _, _, h2⟩ := h (headed readingHead [] [] []) 0 0 _ readingHead rfl rfl
  obtain ⟨_, h3, _⟩ := h (headed (spin .live) [] [] []) 0 0 _ (spin .live) rfl rfl
  obtain ⟨_, _, h4, _⟩ := h ((headed readingHead [] [] []).onCore 0 fun k => { k with hfab := true }) 0 0 _ readingHead rfl rfl
  exact ⟨goes (h1 _ _ rfl), goes (h3 rfl), goes (h2 rfl (by decide)), goes (h4 rfl)⟩

/-- A retiring head, before and after its end-of-stream. -/
def retiringHead (sent : Bool) : Head := { spin .empty with hstate := .retiring, cDone := true, retireEos := sent }

theorem witness_Retirement (h : Clause.Retirement) :
    Goes (exec (.headRetire 0 0) (headed (retiringHead false) [] [eosToken] [])) ∧
    Goes (exec (.headRetire 0 0) (headed (retiringHead true) [eosToken] [] [])) := by
  obtain ⟨_, e1⟩ := (h rheadF (headed (retiringHead false) [] [eosToken] []) (retiringHead false) ⟨rfl, rfl, by decide, rfl, rfl⟩
    (clear_of (by decide)) rfl rfl).1 rfl
  obtain ⟨_, _, _, e2, _⟩ := (h rheadF (headed (retiringHead true) [eosToken] [] []) (retiringHead true)
    ⟨rfl, rfl, by decide, rfl, rfl⟩ (clear_of (by decide)) rfl rfl).2 rfl ⟨_, rfl, rfl⟩
  exact ⟨goes (e1 (by decide) (by decide)), goes (e2 (by decide) (by decide))⟩

/-- The last iteration before L is outstanding. -/
theorem witness_Lookahead (h : Clause.Lookahead) :
    Goes (exec (.rheadLa (wordFA 2 one one off 0x203)) (headed { spin .empty with laOut := 2 } [] [flat 7 1] [])) :=
  goes (h (wordFA 2 one one off 0x203) (headed { spin .empty with laOut := 2 } [] [flat 7 1] []) _ (flat 7 1) rfl rfl
    (clear_of (by decide)) (by decide) rfl (by decide) rfl ⟨rfl, rfl⟩).1

/-- Port a of slot 8, in the element next to the head's, holds a token that position 1 of the head drives. -/
def drivenState : State :=
  (stage 8 { Slot.holding 1 with a := { Port.empty with q := [⟨flat 7 5, 0, ⟨some 1, none⟩⟩] } }).onElem 0 0 fun e =>
    { e with head := some (spin .live) }

/-- A firing that a position drives. -/
theorem witness_Firing_driven (h : Clause.Firing) :
    ((drivenState.delivers (wordFA 0x70 one off off 0).io 1 (flat 7 5)).slot ⟨0, 0, 8⟩).fires = 1 :=
  ((h drivenState (wordFA 0x70 one off off 0).io 1 (flat 7 5) rfl rfl).2.2.2.2.1 (spin .live) 1 rfl rfl).trans (by decide)

/-- PHASE in a rotation: a position drives it, and none does. -/
theorem witness_MovesAndSources_driven (h : Clause.MovesAndSources) :
    Goes (exec (.phase (wordFA 0x71 one off off 0)) drivenState) ∧
    Goes (exec (.phase (wordFA 0x71 one off off 0)) (beside (spin .live) [flat 7 5])) := by
  obtain ⟨-, h1⟩ := h.2.2.2.2.2 (wordFA 0x71 one off off 0) drivenState (ready_of (by decide)) (clean_of (by decide))
    (wellFed_of (by decide))
  obtain ⟨-, h2⟩ := h.2.2.2.2.2 (wordFA 0x71 one off off 0) (beside (spin .live) [flat 7 5]) (ready_of (by decide))
    (clean_of (by decide)) (wellFed_of (by decide))
  obtain ⟨_, _, e, _⟩ := (h2 (spin .live) rfl).2 rfl
  exact ⟨goes_tok ((h1 (spin .live) rfl).1 1 rfl), goes e⟩

/-- A word without a target in slot 0. -/
def worded (a b : List Token) : State := stage 0 { fed a b [] with word := headWord }

/-- MARK's tokens; its triggers: void, one that opens a snapshot. -/
theorem witness_Mark (h : Clause.Mark) :
    let f := wordFA 0 one one off 0
    Goes (exec (.mark f) (worded [flat 7 1] [])) ∧ Goes (exec (.mark f) (worded [] [voidToken zeroLanes 7 0])) ∧
    Goes (exec (.mark f) (worded [] [flat 7 0])) := by
  obtain ⟨_, _, e, _⟩ := ((h (wordFA 0 one one off 0) (worded [] [flat 7 0]) (flat 7 1) (flat 7 0) (clear_of (by decide))).2.2 rfl
    ⟨rfl, rfl⟩).2 rfl (by decide)
  exact ⟨goes ((h (wordFA 0 one one off 0) (worded [flat 7 1] []) (flat 7 1) (flat 7 1) (clear_of (by decide))).1 rfl ⟨rfl, rfl⟩),
    goes (((h (wordFA 0 one one off 0) (worded [] [voidToken zeroLanes 7 0]) (flat 7 1) (voidToken zeroLanes 7 0)
      (clear_of (by decide))).2.2 rfl ⟨rfl, rfl⟩).1 rfl), goes e⟩

/-- An open snapshot of marker slot 2 that reaches slot 0. -/
def snapshot : Snapshot := ⟨2, 5, 0, 4, 0, false, false, [0], [], [], 0, 1⟩

/-- Slot 0 with two ports fed by slot 2 within that snapshot; a result of it has not left yet. -/
def marked (sn : SnapSlot) (rob : List Rob) : State :=
  let port : Port := { queue [flat 7 1] with feeder := .slot 2 false }
  let s := (stage 0 { fed [] [] [] with a := port, b := port, snap := sn, rob := rob }).onRegion 0 0 fun g =>
    { g with snap := some snapshot }
  s.onCore 0 fun k => { k with poolE := 8 }

/-- A token of MARK while its snapshot is open. -/
theorem witness_Mark_open (h : Clause.Mark) : Goes (exec (.mark (wordFA 0 one one off 0)) (marked .off [])) :=
  goes ((h (wordFA 0 one one off 0) (marked .off []) (flat 7 1) (flat 7 1) (clear_of (by decide))).2.1 rfl ⟨rfl, rfl⟩)

/-- Slot 0 with one port fed by slot 2, and a target. -/
def oneMarked : State :=
  (marked .off []).onSlot ⟨0, 0, 0⟩ fun u => { u with b := Port.empty, word := headWord }

/-- A first marker of two, the only marker, a join whose second marker is late, one that has both, and the end. -/
theorem witness_SnapshotSteps (h : Clause.SnapshotSteps) :
    Goes (exec (.markerArrival ⟨0, 0, 0⟩ .a 4 0) (marked .off [⟨0, none, [], 0⟩])) ∧
    Goes (exec (.markerArrival ⟨0, 0, 0⟩ .a 4 0) (marked .off [])) ∧
    Goes (exec (.markerArrival ⟨0, 0, 0⟩ .a 0 0) oneMarked) ∧
    Goes (exec (.snapWindowExpiry ⟨0, 0, 0⟩ 0) (marked (.join 0) [])) ∧
    Goes (exec (.snapWindowExpiry ⟨0, 0, 0⟩ 0) ((marked (.join 0) []).onSlot ⟨0, 0, 0⟩ fun u =>
      { u with a := { u.a with marks := [4] }, b := { u.b with marks := [4] } })) ∧
    Goes (exec (.snapshotClose 0 0) (marked .done [])) := by
  obtain ⟨_, e1, _⟩ := h.1 (marked .off [⟨0, none, [], 0⟩]) ⟨0, 0, 0⟩ .a 4 snapshot rfl rfl (by decide) (by decide)
    (.inl (by decide))
  obtain ⟨_, e2, _⟩ := h.1 (marked .off []) ⟨0, 0, 0⟩ .a 4 snapshot rfl rfl (by decide) (by decide)
    (.inr ⟨.b, by decide, by decide, by decide⟩)
  obtain ⟨_, e3, _⟩ := h.2.1 oneMarked ⟨0, 0, 0⟩ .a 0 snapshot rfl rfl (by decide) (by decide) (by decide) rfl (by decide) rfl
    (by decide)
  obtain ⟨_, _, _, e4, _⟩ := (h.2.2.1 (marked (.join 0) []) ⟨0, 0, 0⟩ snapshot 0 rfl rfl (Nat.le_refl _)).1
    ⟨.a, by decide, by decide⟩
  have e5 := (h.2.2.1 ((marked (.join 0) []).onSlot ⟨0, 0, 0⟩ fun u =>
      { u with a := { u.a with marks := [4] }, b := { u.b with marks := [4] } }) ⟨0, 0, 0⟩ snapshot 0 rfl rfl (Nat.le_refl _)).2
    (by decide)
  obtain ⟨_, e6, _, h6, _⟩ := h.2.2.2 (marked .done []) 0 0 snapshot rfl (by decide) (by decide) (by decide)
  have := h6 (by decide) (by decide)
  exact ⟨goes e1, goes e2, goes e3, goes e4, goes e5, goes e6⟩

end Sys2Proof.Tests
end

