-- ==== Sys2Proof/Tests/WitnessRegions.lean ====
section
/-! SUPPORT. Witnesses for the statements about the collector, deliveries, and the life of regions and launches. -/

namespace Sys2Proof.Tests

open Sys2Proof Sys2Proof.Machine

set_option maxRecDepth 100000

/-! ## The collector -/

/-- A record of an access that parks, and one of a fault. -/
def parkedRec : CRec := { placedRec 9 5 1 0 0 0 0 0 7 0 with addr := 0x10000, parked := true, acc := 1 }
def parkedRec2 : CRec := { parkedRec with acc := 2 }
def faultRec : CRec := placedRec 9 5 0x10 0 0 0 0 0 3 2

/-- The collector with an open window. -/
def windowed (es : List FEntry) (s : State) : State := s.onCol fun c => { c with open_ := some (0, es) }

/-- A record opens a window, joins one, and merges with an entry; a parked record is offered again, or not; a window closes while a
list awaits RESUME, and when none does. -/
theorem witness_CollectorWindows (h : Clause.CollectorWindows) :
    Goes (exec (.collectorRecord parkedRec) State.reset) ∧
    Goes (exec (.collectorRecord parkedRec) (windowed [⟨faultRec, 1, [], 0⟩] State.reset)) ∧
    Goes (exec (.collectorRecord parkedRec) (windowed [⟨faultRec, 1, [], 0⟩, ⟨parkedRec2, 1, [parkedRec2], 0⟩] State.reset)) ∧
    Goes (exec (.parkedReoffer parkedRec) State.reset) ∧
    exec (.parkedReoffer parkedRec) (acting { walking 0x12340 with stage := .parked 1 }) =
      exec (.collectorRecord parkedRec) (acting { walking 0x12340 with stage := .parked 1 }) ∧
    Goes (exec .collectorWindowClose ((windowed [⟨faultRec, 1, [], 0⟩] { State.reset with
      clk := { Clock.reset with now := 2048 } }).onCol fun c => { c with ready := true })) ∧
    Goes (exec .collectorWindowClose (windowed [⟨faultRec, 1, [], 0⟩] { State.reset with clk := { Clock.reset with now := 2048 } })) := by
  obtain ⟨h1, _, _, _, h4⟩ := h.1 State.reset parkedRec
  obtain ⟨_, h2, _⟩ := h.1 (windowed [⟨faultRec, 1, [], 0⟩] State.reset) parkedRec
  obtain ⟨_, _, h3, _⟩ := h.1 (windowed [⟨faultRec, 1, [], 0⟩, ⟨parkedRec2, 1, [parkedRec2], 0⟩] State.reset) parkedRec
  obtain ⟨_, _, _, h5, _⟩ := h.1 (acting { walking 0x12340 with stage := .parked 1 }) parkedRec
  obtain ⟨_, e2, _⟩ := h2 0 _ rfl (by decide) (by decide)
  obtain ⟨_, e3, _⟩ := h3 0 [⟨faultRec, 1, [], 0⟩] ⟨parkedRec2, 1, [parkedRec2], 0⟩ [] rfl (by decide) (by decide) (by decide)
  obtain ⟨h6, _⟩ := h.2 ((windowed [⟨faultRec, 1, [], 0⟩] { State.reset with
      clk := { Clock.reset with now := 2048 } }).onCol fun c => { c with ready := true }) 0 _ rfl (by decide) (by decide)
  obtain ⟨_, h7⟩ := h.2 (windowed [⟨faultRec, 1, [], 0⟩] { State.reset with clk := { Clock.reset with now := 2048 } }) 0 _ rfl
    (by decide) (by decide)
  obtain ⟨_, e7, _⟩ := h7 rfl rfl (by decide)
  exact ⟨goes (h1 rfl), goes e2, goes e3, goes (h4 (by decide)), h5 (by decide), goes (h6 rfl), goes e7⟩

/-- An access parked with cause 1, and its list at 0x1000 with an action. -/
def parked1 (held : Bool) : Access := { walking 0x12340 with stage := .parked 1, held := held }
def resuming (action : Nat) (held : Bool) : State :=
  (withBytes 0x1008 (natBytes 8 (2 ^ 36 * action)) (acting (parked1 held))).onCol fun c =>
    { c with ready := true, seq := 4, listAt := 1, current := [⟨parkedRec, 1, [parkedRec], 0⟩] }

/-- Without PRIV, with no list, with another SEQ, and each action, on an access that a pre-emption has withdrawn or has not. -/
theorem witness_Resume (h : Clause.Resume) :
    Goes (exec (.fwResume user 4) (resuming 0 false)) ∧ Goes (exec (.fwResume boss 0) State.reset) ∧
    Goes (exec (.fwResume boss 5) (resuming 0 false)) ∧
    ∀ action ∈ [0, 1, 2], ∀ held ∈ [false, true], Goes (exec (.fwResume boss 4) (resuming action held)) := by
  obtain ⟨h1, _⟩ := h (resuming 0 false) user 4
  obtain ⟨_, h2, _⟩ := h State.reset boss 0
  obtain ⟨_, _, h3, _⟩ := h (resuming 0 false) boss 5
  refine ⟨goes (h1 rfl rfl), goes (h2 rfl), goes (h3 (by decide)), fun action ha held _ => ?_⟩
  have hm : (resuming action held).mem.isPoison 0x1008 = false ∧ (resuming action held).mem.isUe 0x1008 = false := by
    have e : (resuming action held).mem = (resuming action false).mem := rfl
    rw [e]
    clear e
    revert action
    decide
  obtain ⟨_, _, _, h4⟩ := h (resuming action held) boss 4
  obtain ⟨_, e, _⟩ := h4 ⟨parkedRec, 1, [parkedRec], 0⟩ parkedRec 1 (parked1 held) ⟨0, 0, 7⟩ 0 0 1 rfl rfl rfl rfl rfl
    rfl rfl rfl rfl rfl rfl
    (show 1 * 4096 < 0x3000000000 by decide) hm.1 hm.2
  exact goes e

/-- A CANCEL of an access that is not withdrawn, and of one that is, and a DEFER: what they leave. -/
theorem witness_Resume_acts (h : Clause.Resume) :
    (∃ t, exec (.fwResume boss 4) (resuming 1 false) = .next t ∧ t.acc 1 = none) ∧
    (∃ t, exec (.fwResume boss 4) (resuming 1 true) = .next t ∧
      t.acc 1 = some { parked1 true with stage := .fated 1 true parkedRec }) ∧
    ∃ t, exec (.fwResume boss 4) (resuming 2 false) = .next t ∧ t.acc 1 = some (parked1 false) := by
  have key := fun (action : Nat) (held : Bool) h1 h2 => (h (resuming action held) boss 4).2.2.2 ⟨parkedRec, 1, [parkedRec], 0⟩
    parkedRec 1 (parked1 held) ⟨0, 0, 7⟩ 0 0 1 rfl rfl rfl rfl rfl rfl rfl rfl rfl rfl rfl
    (show 1 * 4096 < 0x3000000000 by decide) h1 h2
  obtain ⟨_, e1, _, _, _, _, _, k1, _⟩ := key 1 false (by decide) (by decide)
  obtain ⟨_, e2, _, _, _, _, k2, _⟩ := key 1 true (by decide) (by decide)
  obtain ⟨_, e3, _, _, _, _, _, _, k3⟩ := key 2 false (by decide) (by decide)
  exact ⟨⟨_, e1, (k1 (by decide) rfl (fun b hb _ => List.mem_singleton.mp hb)).1⟩, ⟨_, e2, (k2 (by decide) rfl).1⟩,
    ⟨_, e3, (k3 (by decide) rfl).1⟩⟩

/-! ## Deliveries -/

/-- Slot 1 of the stage with a number of entries in its port a. -/
def receiving (n : Nat) (u : Slot) : State := stage 1 { u with a := queue (List.replicate n (flat 7 0)) }

/-- The target that slot 0 names: port a of slot 1; the exit; out-link 3. -/
def toSlot1 : Target := ⟨true, 1, 0⟩
def toExit : Target := ⟨true, 8, 3⟩
def toLink3 : Target := ⟨true, 3, 3⟩

/-- A stamp of the third token that a slot made. -/
def third : Stamp := ⟨3, .none⟩
def badTok : Token := { flat 7 1 with par := ~~~(flat 7 1).par }

/-- An earlier mapping's token; one before a blocked element; one that enters as the eighth; one that finds eight; one that fails
parity, at a slot and at a head-driven one, which a ninth reaches as well. -/
theorem witness_Arrivals (h : Clause.Arrivals) :
    Goes (exec (.tokenArrival ⟨0, 0, 0⟩ toSlot1 (flat 7 1) 5 third) (receiving 0 (Slot.holding 1))) ∧
    Goes (exec (.tokenArrival ⟨0, 0, 0⟩ toSlot1 (flat 7 1) 0 third)
      ((receiving 0 (Slot.holding 1)).onElem 0 0 fun e => { e with blocked := true })) ∧
    Goes (exec (.tokenArrival ⟨0, 0, 0⟩ toSlot1 (flat 7 1) 0 third) (receiving 7 (Slot.holding 1))) ∧
    Goes (exec (.tokenArrival ⟨0, 0, 0⟩ toSlot1 (flat 7 1) 0 third) (receiving 8 (Slot.holding 1))) ∧
    Goes (exec (.tokenArrival ⟨0, 0, 0⟩ toSlot1 badTok 0 third) (receiving 0 (Slot.holding 1))) ∧
    Goes (exec (.tokenArrival ⟨0, 0, 0⟩ toSlot1 badTok 0 third) (receiving 0 { Slot.holding 1 with driven := true })) ∧
    Goes (exec (.tokenArrival ⟨0, 0, 0⟩ toSlot1 (flat 7 1) 0 third) (receiving 8 { Slot.holding 1 with driven := true })) := by
  have key := fun (s : State) (tok : Token) e1 e2 => (h s ⟨0, 0, 0⟩ toSlot1 tok 0 third).2 e1 e2
  have bad : badTok.parityOk = false := by decide
  obtain ⟨e0, _⟩ := key ((receiving 0 (Slot.holding 1)).onElem 0 0 fun e => { e with blocked := true }) (flat 7 1) rfl rfl
  obtain ⟨_, e1, _⟩ := key (receiving 7 (Slot.holding 1)) (flat 7 1) rfl rfl
  obtain ⟨_, _, e2, _⟩ := key (receiving 8 (Slot.holding 1)) (flat 7 1) rfl rfl
  obtain ⟨_, _, e3, _⟩ := key (receiving 0 (Slot.holding 1)) badTok rfl rfl
  obtain ⟨_, _, _, e4, _⟩ := key (receiving 0 { Slot.holding 1 with driven := true }) badTok rfl rfl
  obtain ⟨_, _, _, e5, _⟩ := key (receiving 8 { Slot.holding 1 with driven := true }) (flat 7 1) rfl rfl
  obtain ⟨_, e2, _⟩ := e2 rfl rfl rfl (.inr (by decide)) rfl rfl
  obtain ⟨_, e3, _⟩ := e3 rfl rfl rfl (.inl bad) rfl rfl
  exact ⟨goes ((h (receiving 0 (Slot.holding 1)) ⟨0, 0, 0⟩ toSlot1 (flat 7 1) 5 third).1 (by decide)), goes (e0 rfl rfl),
    goes (e1 rfl rfl rfl (by decide) (by decide)), goes e2, goes e3, goes (e4 rfl rfl rfl (.inl bad) rfl),
    goes (e5 rfl rfl rfl (.inr (by decide)) rfl)⟩

/-- A value at the exit, an end, and a token that fails parity; an end and a token at an unbound out-link. -/
theorem witness_Arrivals_out (h : Clause.Arrivals) :
    Goes (exec (.tokenArrival ⟨0, 0, 0⟩ toExit (flat 7 1) 0 third) (receiving 0 (Slot.holding 1))) ∧
    Goes (exec (.tokenArrival ⟨0, 0, 0⟩ toExit eosToken 0 third) (receiving 0 (Slot.holding 1))) ∧
    Goes (exec (.tokenArrival ⟨0, 0, 0⟩ toExit badTok 0 third) (receiving 0 (Slot.holding 1))) ∧
    Goes (exec (.tokenArrival ⟨0, 0, 0⟩ toLink3 eosToken 0 third) (receiving 0 (Slot.holding 1))) ∧
    Goes (exec (.tokenArrival ⟨0, 0, 0⟩ toLink3 (flat 7 1) 0 third) (receiving 0 (Slot.holding 1))) := by
  have key := fun (t : Target) (tok : Token) => (h (receiving 0 (Slot.holding 1)) ⟨0, 0, 0⟩ t tok 0 third).2 rfl rfl
  obtain ⟨_, _, _, _, e5, _⟩ := key toExit (flat 7 1)
  obtain ⟨_, _, _, _, _, e6, _⟩ := key toExit eosToken
  obtain ⟨_, _, _, _, _, _, e7, _⟩ := key toExit badTok
  obtain ⟨_, _, _, _, _, _, _, e8, _⟩ := key toLink3 eosToken
  obtain ⟨_, _, _, _, _, _, _, _, e9⟩ := key toLink3 (flat 7 1)
  obtain ⟨_, _, e9, _⟩ := e9 rfl (by decide) (by decide) rfl (fun r hr => nomatch hr)
  exact ⟨goes (e5 rfl rfl (by decide) rfl rfl rfl), goes (e6 rfl rfl (by decide) (.inr (.inl rfl))),
    goes (e7 rfl rfl (by decide) rfl rfl rfl), goes (e8 rfl (by decide) (by decide) rfl), goes e9⟩

/-- A credit of an earlier mapping, of either output, of an output whose old target still owes two and one, and of a drain. -/
theorem witness_Credits (h : Clause.Credits) :
    Goes (exec (.creditReturn ⟨0, 0, 0⟩ .t0 4) (stage 0 (Slot.holding 1))) ∧
    Goes (exec (.creditReturn ⟨0, 0, 0⟩ .t0 0) (stage 0 (Slot.holding 1))) ∧
    Goes (exec (.creditReturn ⟨0, 0, 0⟩ .t1 0) (stage 0 (Slot.holding 1))) ∧
    Goes (exec (.creditReturn ⟨0, 0, 0⟩ .t0 0) (stage 0 { Slot.holding 1 with hold0 := some 2 })) ∧
    Goes (exec (.creditReturn ⟨0, 0, 0⟩ .t0 0) (stage 0 { Slot.holding 1 with hold0 := some 1 })) ∧
    Goes (exec (.creditReturn ⟨0, 0, 6⟩ .drain 0) (headed (spin .live) [] [] [])) := by
  obtain ⟨e0, e1⟩ := h (stage 0 (Slot.holding 1)) ⟨0, 0, 0⟩ 0
  obtain ⟨e1, e2, _⟩ := e1 rfl rfl
  obtain ⟨_, _, e3, _⟩ := (h (stage 0 { Slot.holding 1 with hold0 := some 2 }) ⟨0, 0, 0⟩ 0).2 rfl rfl
  obtain ⟨_, _, _, e4, _⟩ := (h (stage 0 { Slot.holding 1 with hold0 := some 1 }) ⟨0, 0, 0⟩ 0).2 rfl rfl
  obtain ⟨_, e4, _⟩ := e4 rfl
  obtain ⟨_, _, _, _, e5⟩ := (h (headed (spin .live) [] [] []) ⟨0, 0, 6⟩ 0).2 rfl rfl
  exact ⟨goes ((h (stage 0 (Slot.holding 1)) ⟨0, 0, 0⟩ 4).1 (by decide) .t0), goes (e1 rfl), goes (e2 rfl), goes (e3 0 rfl), goes e4,
    goes (e5 _ rfl)⟩

/-- Slot 0 of region 0 of configuration 9, whose port a in-link 0 feeds, with a number of entries; in-link 0 enabled or not. -/
def longLinked (n : Nat) (on : Bool) : State :=
  (stage 0 { Slot.holding 1 with a := { queue (List.replicate n (flat 7 0)) with feeder := .link 0 } }).onRegion 0 0 fun r =>
    { r with hdr := if on then 1 <<< 96 else 0 }

/-- The channel of configuration 9 with what it holds. -/
def chan9 (out : List ChanTok) (buf : List Token) : Chan := ⟨0, out, buf, false, 3, 0, 0⟩

/-- Configuration 9 with that channel, its buffer in granule 1 of core 0. -/
def linked9 (out : List ChanTok) (buf : List Token) (s : State) : State :=
  owned { cfg9 [] with chans := [chan9 out buf], granules := [(0, 1)] } s

/-- A token that slot 2 of entry block 0 sent by output T0, behind some accesses. -/
def sentTok (after : List Nat) : ChanTok := ⟨flat 7 1, after, some ⟨2, .t0, 0, 0⟩⟩

/-- A token passes into the buffer, its bytes into entry 3; it waits for a posted write. -/
theorem witness_LongChannels_in (h : Clause.LongChannels) :
    Goes (exec (.longChannelDelivery 9 0) (linked9 [sentTok [4]] [] (longLinked 0 true))) ∧
    (∃ t, exec (.longChannelDelivery 9 0) (linked9 [sentTok [1]] []
      { longLinked 0 true with accs := [unit (.load 7 1) 64 tile64 [] false] }) = .next t) := by
  obtain ⟨_, _, e1, _, _, _, _, _, _, hb, hc⟩ := (h (linked9 [sentTok [4]] [] (longLinked 0 true)) 9 _ 0
    (chan9 [sentTok [4]] []) rfl rfl).1 _ _ rfl rfl (by decide) (by decide)
  have := hb _ rfl
  have := hc _ _ rfl rfl rfl rfl rfl rfl
  obtain ⟨_, _, e2, _⟩ := (h (linked9 [sentTok [1]] [] { longLinked 0 true with
    accs := [unit (.load 7 1) 64 tile64 [] false] }) 9 _ 0 (chan9 [sentTok [1]] []) rfl rfl).2.1 _ _ 1 rfl rfl (by decide) (by decide)
  exact ⟨goes e1, ⟨_, e2⟩⟩

/-- One leaves the buffer for a port with room, waits for a full one, and is dropped at an in-link that is not enabled. -/
theorem witness_LongChannels_out (h : Clause.LongChannels) :
    Goes (exec (.longChannelDelivery 9 0) (linked9 [] [flat 7 1] (longLinked 7 true))) ∧
    Goes (exec (.longChannelDelivery 9 0) (linked9 [] [flat 7 1] (longLinked 8 true))) ∧
    Goes (exec (.longChannelDelivery 9 0) (linked9 [] [flat 7 1] (longLinked 0 false))) := by
  have key := fun (n : Nat) (on : Bool) => (h (linked9 [] [flat 7 1] (longLinked n on)) 9 _ 0 (chan9 [] [flat 7 1]) rfl rfl).2.2
    _ _ _ rfl rfl rfl rfl rfl
  obtain ⟨_, _, e3, _⟩ := ((key 7 true rfl).1 (by decide) (by decide) rfl rfl rfl (by decide)).1 (by decide)
  obtain ⟨_, _, e4, _⟩ := ((key 8 true rfl).1 (by decide) (by decide) rfl rfl rfl (by decide)).2 (by decide)
  obtain ⟨_, _, _, e5, _⟩ := (key 0 false rfl).2 (by decide) (fun q hq => nomatch hq)
  exact ⟨goes e3, goes e4, goes e5⟩

/-- An open report of a drop at out-link 3, last counted in cycle 0. -/
def report3 : GuardRep :=
  { handle := 9, agent := 0, link := 3, code := 0x31, count := 2, first := 7, slot := 0, sten := 0, dten := 0, offg := false, dex := 0, dey := 0, ex := 0,
    ey := 0, last := 0 }

/-- Region 0 of configuration 9 with that report, in a cycle; its owner's ASID is 5. -/
def reporting (now : Nat) : State :=
  let s := (owned (cfg9 []) (stage 0 (Slot.holding 1))).onRegion 0 0 fun r => { r with guards := [report3] }
  { s.onCtx 0 0 fun t => { t with asid := 5 } with clk := { Clock.reset with now := now } }

/-- 256 and 255 cycles after the last drop. -/
theorem witness_DropReports (h : Clause.DropReports) :
    Goes (exec (.guardReportPost 0 0 3) (reporting 256)) ∧ Goes (exec (.guardReportPost 0 0 3) (reporting 255)) := by
  obtain ⟨h1, _⟩ := h (reporting 256) 0 0 report3 _ rfl rfl
  obtain ⟨_, h2⟩ := h (reporting 255) 0 0 report3 _ rfl rfl
  obtain ⟨_, _, e1, _⟩ := h1 (by decide) rfl (by decide)
  exact ⟨goes e1, goes (h2 (by decide))⟩

/-! ## The life of a region -/

/-- An image at 0 of one block of one word: its header, then the block at 704, of one element. -/
def image1 : List Byte :=
  [0, 0, 0, 0, 0, 0, 0, 1] ++ List.replicate 8 0 ++ [96] ++ List.replicate 79 0 ++ natBytes 8 728 ++ List.replicate 32 0 ++
    natBytes 8 704 ++ List.replicate 560 0 ++ natBytes 16 (2 ^ 124) ++ natBytes 8 0

/-- Configuration 9 of that image, and of region 0 the state of a controller. -/
def loading (st : RState) (f : Region → Region) : State :=
  let g : Cfg := { cfg9 image1 with places := [⟨.placed, 0, 0, 0, 0, 0, none, [], [], false⟩] }
  (owned g State.reset).onRegion 0 0 fun r => f { r with st := st, baddr := 704 }

/-- An element that holds another owner's state, a load, and its end without and with a failed check. -/
theorem witness_RegionLoading (h : Clause.RegionLoading) :
    Goes (exec (.regionLoad 0 0 0) ((loading .loading id).onElem 0 0 fun e => { e with owner := some ⟨8, 0, 0⟩ })) ∧
    Goes (exec (.regionLoad 0 0 0) (loading .loading id)) ∧ Goes (exec (.loadComplete 0 0 0) (loading .loading id)) ∧
    Goes (exec (.loadComplete 0 0 0) (loading .loading fun r => { r with bad := [(0, 0, true, 0x10)] })) := by
  obtain ⟨h1, _⟩ := h ((loading .loading id).onElem 0 0 fun e => { e with owner := some ⟨8, 0, 0⟩ }) 0 0 _ _ rfl rfl rfl
  obtain ⟨_, h2, h3, _⟩ := h (loading .loading id) 0 0 _ _ rfl rfl rfl
  obtain ⟨_, _, _, h4⟩ := h (loading .loading fun r => { r with bad := [(0, 0, true, 0x10)] }) 0 0 _ _ rfl rfl rfl
  obtain ⟨_, e2, _⟩ := h2 rfl (by decide) (by decide) (by decide) rfl (by decide)
  obtain ⟨_, e3, _⟩ := h3 rfl
  obtain ⟨_, e4, _⟩ := h4 (by decide) rfl
  exact ⟨goes (h1 ⟨0, by decide, ⟨8, 0, 0⟩, by decide, .inl (by decide)⟩), goes e2, goes e3, goes e4⟩

/-- The release OR of region 0's entry block, translated. -/
def releaseOr : Access :=
  { unit (.orWord 1) 8 0x2000 (natBytes 4 7) true with agent := .completion 0 0 9, pieces := [⟨0, 8, some 0x2000⟩] }

/-- A second entry block that has not ended. -/
def loading2 (st : RState) (f : Region → Region) : State :=
  let p : Place := ⟨.placed, 0, 0, 0, 0, 0, none, [], [], false⟩
  let g : Cfg := { cfg9 image1 with places := [p, p] }
  (owned g State.reset).onRegion 0 0 fun r => f { r with st := st, baddr := 704 }

/-- An access in progress; a successor of the same shape, one of another shape, none; and the release OR performed. -/
theorem witness_RegionCommits (h : Clause.RegionCommits) :
    Goes (exec (.regionCommit 0 0) (loading .committing fun r => { r with tags := [⟨4, false⟩] })) ∧
    Goes (exec (.regionCommit 0 0) (loading .committing fun r => { r with hdr := 1, baddr := 640 })) ∧
    Goes (exec (.regionCommit 0 0) (loading .committing fun r => { r with hdr := 1, baddr := 640, w := 2 })) ∧
    Goes (exec (.regionCommit 0 0) (loading .committing id)) ∧
    Goes (exec (.completionRelease 0 0) { (loading2 .committing id).onCtx 0 0 fun t => { t with asid := 5 } with
      accs := [releaseOr] }) := by
  obtain ⟨h1, _⟩ := h (loading .committing fun r => { r with tags := [⟨4, false⟩] }) 0 0 _ rfl rfl
  obtain ⟨_, h2, _⟩ := h (loading .committing fun r => { r with hdr := 1, baddr := 640 }) 0 0 _ rfl rfl
  obtain ⟨_, _, h3, _⟩ := h (loading .committing fun r => { r with hdr := 1, baddr := 640, w := 2 }) 0 0 _ rfl rfl
  obtain ⟨_, _, _, h4, _⟩ := h (loading .committing id) 0 0 _ rfl rfl
  obtain ⟨_, _, _, _, h5⟩ := h { (loading2 .committing id).onCtx 0 0 fun t => { t with asid := 5 } with accs := [releaseOr] } 0 0 _
    rfl rfl
  obtain ⟨_, e2, _⟩ := h2 ⟨by decide, by decide⟩ (by decide) (by decide) (by decide)
  obtain ⟨_, e3, _⟩ := h3 ⟨by decide, by decide⟩ (by decide) (.inl (by decide))
  obtain ⟨_, _, e4, _⟩ := h4 ⟨by decide, by decide⟩ (by decide)
  obtain ⟨_, _, e5, _⟩ := h5 releaseOr 0x2000 rfl rfl rfl rfl rfl (by decide) (by decide) rfl (by decide)
    ⟨⟨.placed, 0, 0, 0, 0, 0, none, [], [], false⟩, by decide, by decide⟩
  exact ⟨goes (h1 (by decide)), goes e2, goes e3, goes e4, goes e5⟩

/-- REGCTL on a region that is not FAULTED, by a stranger, by the owner; PREEMPT of a MAPPED region, and its end. -/
theorem witness_RegionRecovery (h : Clause.RegionRecovery) :
    Goes (exec (.regctlRelease 0 boss 0) (loading .mapped id)) ∧ Goes (exec (.regctlRemap 0 ⟨1, 0, false, false⟩ 0) (loading .faulted id)) ∧
    Goes (exec (.regctlPreempt 0 boss 0) (loading .faulted id)) ∧ Goes (exec (.regctlPreempt 0 user 0) (loading .mapped id)) ∧
    Goes (exec (.regctlRelease 0 user 0) (loading .faulted id)) ∧ Goes (exec (.regctlRemap 0 user 0) (loading .faulted id)) ∧
    Goes (exec (.regctlPreempt 0 boss 0) (loading .mapped id)) ∧ Goes (exec (.preemptComplete 0 0 0) (loading .evicting id)) := by
  obtain ⟨h1, _⟩ := h (loading .mapped id) 0 0 boss
  obtain ⟨_, h2, _⟩ := h (loading .faulted id) 0 0 ⟨1, 0, false, false⟩
  obtain ⟨_, _, h3, _⟩ := h (loading .faulted id) 0 0 boss
  obtain ⟨_, _, _, h4, _⟩ := h (loading .mapped id) 0 0 user
  obtain ⟨_, _, _, _, h5, _⟩ := h (loading .faulted id) 0 0 user
  obtain ⟨_, _, _, _, _, h6, _⟩ := h (loading .mapped id) 0 0 boss
  obtain ⟨_, _, _, _, _, _, h7⟩ := h (loading .evicting id) 0 0 boss
  obtain ⟨⟨_, e5, _⟩, _, e5', _⟩ := h5 rfl (.inr ⟨_, rfl, rfl, rfl⟩)
  obtain ⟨_, e6, _⟩ := h6 rfl rfl
  obtain ⟨_, _, _, e7, _⟩ := h7 _ _ rfl rfl rfl (by decide)
  have other : ¬ ∃ g, (loading .faulted id).cfg 9 = some g ∧ g.core = 1 ∧ g.ctx = 0 := by
    intro ⟨g, e, e1, _⟩
    have e' : (loading .faulted id).cfg 9 = some { cfg9 image1 with places := [⟨.placed, 0, 0, 0, 0, 0, none, [], [], false⟩] } := rfl
    rw [e', Option.some.injEq] at e
    subst e
    exact absurd e1 (by decide)
  exact ⟨goes (h1 (by decide)).1, goes (h2 rfl rfl other).2, goes (h3 (by decide)), goes (h4 rfl rfl), goes e5, goes e5', goes e6,
    goes e7⟩

/-- Configuration 9 pre-empted, with a saved element or none, and an element of core 0 that holds its state, with a head or none. -/
def kept9 (evicted : List Evicted) : Cfg :=
  { cfg9 image1 with places := [⟨.preempted, 0, 0, 0, 0, 0, some Region.blank, evicted, [], false⟩] }
def held9 (head : Option Head) : State :=
  ({ State.reset with kiln := ⟨[kept9 []], [9], [0, 0, 0, 0]⟩ }.onElem 0 3 fun e => { e with owner := some ⟨9, 0, 0⟩, head := head }).onCore 0
    fun k => { k with poolE := 8 }

/-- The saved state of element 0 in a MAPPED region, its record in the ember store as it was written. -/
def saved : Evicted := ⟨0, { Element.blank with owner := some ⟨9, 0, 0⟩ }, 0, [(0, 16384)], 77⟩
def base9 : State :=
  ((owned (kept9 [saved]) State.reset).onRegion 0 0 fun r => { r with st := .mapped }).onCore 0 (fun k => { k with poolE := 2 })
def back9 (bs : List Byte) : State := base9.emberWrite 0 0 bs

theorem ember_byte (bs : List Byte) (i : Nat) (hi : i < bs.length) : (back9 bs).mem.byte (emberAddr 0 0 + i) = bs[i] :=
  Memory.byte_store _ _ _ _ hi

theorem ember_read (bs : List Byte) (n : Nat) (hn : n ≤ bs.length) : (back9 bs).emberRead 0 0 n = bs.take n := by
  apply List.ext_getElem
  · simp [State.emberRead, Memory.bytes]
    omega
  · intro i h1 h2
    simp only [State.emberRead, Memory.bytes, List.getElem_map, List.getElem_range, List.getElem_take]
    exact ember_byte bs i (by simp [State.emberRead, Memory.bytes] at h1; omega)

/-- An eviction of an element without a head and with one: the parts of its record. -/
theorem witness_Evict (h : Clause.EvictAndRestore) :
    Goes (exec (.elementEviction 0 3) (held9 none)) ∧ (kept9 []).evictParts 0 false = [(0, 16384)] ∧
    Goes (exec (.elementEviction 0 3) (held9 (some (spin .live)))) ∧
    (kept9 []).evictParts 0 true = [(0, 16384), (262144, 40960)] := by
  have none9 : ∀ q ∈ (kept9 []).places, ∀ v ∈ q.evicted, v.core ≠ 0 := by
    intro q hq v hv
    rw [List.mem_singleton.mp hq] at hv
    cases hv
  obtain ⟨p1, _, _, e1, _⟩ := h.1 (held9 none) 0 3 ⟨9, 0, 0⟩ (kept9 []) _ rfl rfl rfl (by decide)
  obtain ⟨p2, _, _, e2, _⟩ := h.1 (held9 (some (spin .live))) 0 3 ⟨9, 0, 0⟩ (kept9 []) _ rfl rfl rfl (by decide)
  exact ⟨goes e1, p1 none9, goes e2, p2 none9⟩

/-- A restore from the record as it was written, and from one that has changed. -/
theorem witness_Restore (h : Clause.EvictAndRestore) :
    Goes (exec (.elementRestore 0 0) (back9 (evictionBytes 77 0 16384))) ∧
    Goes (exec (.elementRestore 0 0) (back9 [Config.evictionByte 77 + 1])) := by
  have free : ∀ bs, ∀ d, d ≠ (0 : Fin 8) → ((back9 bs).region 0 d).st = .free := by
    intro bs d hd
    have e : (back9 bs).region 0 d = base9.region 0 d := rfl
    rw [e]
    clear e
    revert d
    decide
  have key := fun (bs : List Byte) => h.2 (back9 bs) 0 0 0 (kept9 [saved]) _ saved rfl (show 0 ∈ [0] by decide) rfl (free bs)
    rfl rfl (List.mem_singleton.mpr rfl) (fun u hu _ => List.mem_singleton.mp hu)
  obtain ⟨_, e2, _⟩ := (key (evictionBytes 77 0 16384)).1 (by
    intro j off n hj _
    match j, hj with
    | 0, hj =>
      cases hj
      have e := ember_read (evictionBytes 77 0 16384) 16384 (by simp [evictionBytes])
      rw [List.take_of_length_le (by simp [evictionBytes])] at e
      exact e
    | _ + 1, hj => cases hj)
  obtain ⟨_, e3, _⟩ := (key [Config.evictionByte 77 + 1]).2 (by
    intro e
    have e0 : ((List.range 16384).map fun i => (back9 [Config.evictionByte 77 + 1]).mem.byte (emberAddr 0 0 + i))[0]? =
      ((List.range 16384).map fun i => Config.evictionByte (77 + 65536 * 0 + i))[0]? := congrArg (·[0]?) (e 0 0 16384 rfl rfl)
    have e1 : (back9 [Config.evictionByte 77 + 1]).mem.byte (emberAddr 0 0 + 0) = Config.evictionByte 77 + 1 :=
      ember_byte _ 0 (by decide)
    rw [List.getElem?_map, List.getElem?_map, List.getElem?_range (by decide), Option.map_some, Option.map_some,
      Option.some.injEq, e1] at e0
    revert e0
    show Config.evictionByte 77 + 1 = Config.evictionByte 77 → False
    generalize Config.evictionByte 77 = v
    revert v
    decide) rfl
  exact ⟨goes e2, goes e3⟩

end Sys2Proof.Tests
end

