-- ==== Sys2Proof/Tests/WitnessHost.lean ====
section
/-! SUPPORT. Witnesses for the statements about launches, packets, boot, the host's window and the machine as a whole. -/

namespace Sys2Proof.Tests

open Sys2Proof Sys2Proof.Machine

set_option maxRecDepth 100000
set_option exponentiation.threshold 600

/-! ## Launches -/

/-- Configuration 9 with its state, its owner's ASID that of context 0. -/
def launching (g : Cfg) (s : State) : State := { s with kiln := ⟨[g], [9], [0, 0, 0, 0]⟩ }.onCtx 0 0 fun t => { t with asid := 5 }

/-- One element of core 0 of tenant 1, the owner's. -/
def lone (s : State) : State := s.onCore 0 fun k => { k with guardRow := k.guardRow.set 0 1, guardPt := 1 }

/-- No element of the owner's tenant. -/
def shut (s : State) : State := s.onCore 0 fun k => { k with guardPt := 1 }

/-- Queued, its image to be read. -/
def asking : Cfg := { cfg9 [] with st := .queued, cached := false, places := [] }

/-- The read of its image, translated. -/
def imageRead : Access :=
  { unit .readImage 4096 0x10000 [] false with agent := .image 9, pieces := [⟨0, 4096, some 0x10000⟩] }

/-- Held; queued for 131,071 cycles; an image that cannot be read. -/
theorem witness_LaunchQueue (h : Clause.LaunchQueue) :
    Goes (exec (.launchAging 9) (launching (cfg9 []) State.reset)) ∧
    Goes (exec (.launchAging 9) (launching asking { State.reset with clk := { Clock.reset with now := 131071 } })) ∧
    Goes (exec (.imageReadDone 9 false) (launching asking State.reset)) := by
  obtain ⟨h1, _⟩ := h (launching (cfg9 []) State.reset) 9 _ rfl
  obtain ⟨_, h2, _⟩ := h (launching asking { State.reset with clk := { Clock.reset with now := 131071 } }) 9 _ rfl
  obtain ⟨_, _, h3, _⟩ := h (launching asking State.reset) 9 _ rfl
  obtain ⟨_, _, e2, _⟩ := h2 (.inl rfl)
  obtain ⟨_, _, _, e3, _⟩ := h3 rfl rfl rfl (by decide)
  exact ⟨goes (h1 (by decide) (by decide)), goes e2, goes e3⟩

/-- An image that no placement takes, since no element is of its owner's tenant; one that is good; one whose header is
not. -/
theorem witness_LaunchQueue_images (h : Clause.LaunchQueue) :
    (∃ t, exec (.imageReadDone 9 true) (launching asking { shut (withBytes 0x10000 image1 State.reset) with accs := [imageRead] }) =
      .next t) ∧
    (∃ t, exec (.imageReadDone 9 true) (launching asking { lone (withBytes 0x10000 image1 State.reset) with accs := [imageRead] }) =
      .next t) ∧
    ∃ t, exec (.imageReadDone 9 true) (launching asking { State.reset with accs := [imageRead] }) = .next t := by
  obtain ⟨_, _, _, h4⟩ := h (launching asking { shut (withBytes 0x10000 image1 State.reset) with accs := [imageRead] }) 9 _ rfl
  obtain ⟨_, _, _, h6⟩ := h (launching asking { lone (withBytes 0x10000 image1 State.reset) with accs := [imageRead] }) 9 _ rfl
  obtain ⟨_, _, _, h5⟩ := h (launching asking { State.reset with accs := [imageRead] }) 9 _ rfl
  obtain ⟨h4, _⟩ := h4 imageRead 0x10000 ⟨0, 4096, some 0x10000⟩ rfl rfl rfl rfl rfl rfl rfl (by decide) (by decide)
    (by decide) (by decide)
  obtain ⟨_, h6, _⟩ := h6 imageRead 0x10000 ⟨0, 4096, some 0x10000⟩ rfl rfl rfl rfl rfl rfl rfl (by decide) (by decide)
    (by decide) (by decide)
  obtain ⟨_, _, h5⟩ := h5 imageRead 0x10000 ⟨0, 4096, some 0x10000⟩ rfl rfl rfl rfl rfl rfl rfl (by decide) (by decide)
    (fun _ _ => ⟨rfl, rfl, rfl⟩) (by decide)
  obtain ⟨_, _, e4, _⟩ := h4 (by rfl) (by rfl) (by decide +kernel)
  obtain ⟨_, _, e6, _⟩ := h6 (by rfl) (by rfl) (by decide +kernel)
  obtain ⟨_, _, e5, _⟩ := h5 (.inl (by decide))
  exact ⟨⟨_, e4⟩, ⟨_, e6⟩, ⟨_, e5⟩⟩

/-! ## The kiln, packets and boot -/

/-- Configuration 9 running, its one entry block claimed. -/
def claimed (s : State) : State :=
  { s with kiln := ⟨[{ cfg9 image1 with shapes := [(1, 1)], places := [⟨.claimed, 0, 0, 0, 0, 0, none, [], [], false⟩] }], [9], [0, 0, 0, 0]⟩ }

/-- Nothing waits; a claimed entry block; its core halted. -/
theorem witness_KilnPlacing (h : Clause.KilnPlacing) :
    Goes (exec .kilnPlace State.reset) ∧ Goes (exec .kilnPlace (claimed State.reset)) ∧
    Goes (exec .kilnPlace (claimed (State.reset.onCore 0 fun k => { k with hfab := true }))) := by
  obtain ⟨h1, h2, h3⟩ := h
  have e1 := h1 State.reset (by decide)
  obtain ⟨_, _, e2, _⟩ := h2 (claimed State.reset) _ 0 _ rfl rfl rfl rfl rfl
    (fun i q hq hi => by cases i with | zero => exact absurd rfl hi | succ n => exact nomatch hq) (by decide) (by decide) (by decide) (by decide)
  have e3 := h3 (claimed (State.reset.onCore 0 fun k => { k with hfab := true })) _ _ rfl rfl rfl rfl (by decide)
  exact ⟨goes e1, goes e2, goes e3⟩

/-- A packet of an OP for a context, with a handle. -/
def hostPacket (op : BitVec 64) (owner : BitVec 9) (asid : BitVec 12) (handle : Word64) : Packet :=
  0xF800000000#64 ++ 0#192 ++ handle ++ 0#64 ++ asid ++ 0#11 ++ owner ++ 0#32 ++ op

/-- The device running, and a configuration. -/
def up (cfgs : List Cfg) : State :=
  { State.reset with dev := { State.reset.dev with boot := .running }, kiln := ⟨cfgs, [9], [0, 0, 0, 0]⟩ }

/-- A BOOT is being verified; an OP of 7. -/
theorem witness_PacketReplies_order (h : Clause.PacketReplies) :
    Goes (exec (.query (hostPacket 4 0 0 9)) ({ up [] with dev := { State.reset.dev with boot := .verifying } })) ∧
    Goes (exec (packetStep (hostPacket 7 0 0 9)) (up [])) := by
  have e1 := (h { up [] with dev := { State.reset.dev with boot := .verifying } } (hostPacket 4 0 0 9)).1 rfl
    (.query (hostPacket 4 0 0 9)) (by simp)
  obtain ⟨_, e2, _⟩ := (h (up []) (hostPacket 7 0 0 9)).2.1 rfl (.inl (by decide))
  exact ⟨goes e1, goes e2⟩

/-- The boot state; reserved bits; handles the kiln does not hold; a configuration dropped. -/
theorem witness_PacketReplies (h : Clause.PacketReplies) :
    Goes (exec (.launchPacket (hostPacket 1 0 0 0)) State.reset) ∧ Goes (exec (.query (hostPacket 0x104 0 0 0)) (up [])) ∧
    Goes (exec (.dropPacket (hostPacket 3 0 0 9)) (up [])) ∧ Goes (exec (.dropPacket (hostPacket 3 0 0 9)) (up [cfg9 []])) ∧
    Goes (exec (.query (hostPacket 4 0 0 9)) (up [])) := by
  obtain ⟨_, _, h1, _⟩ := h State.reset (hostPacket 1 0 0 0)
  obtain ⟨_, _, _, h2⟩ := h (up []) (hostPacket 0x104 0 0 0)
  obtain ⟨_, _, _, h3⟩ := h (up []) (hostPacket 3 0 0 9)
  obtain ⟨_, _, _, h4⟩ := h (up [cfg9 []]) (hostPacket 3 0 0 9)
  obtain ⟨_, _, _, h5⟩ := h (up []) (hostPacket 4 0 0 9)
  obtain ⟨⟨_, e1, _⟩, _⟩ := h1 (.inl rfl)
  obtain ⟨h2, _⟩ := h2 rfl
  obtain ⟨_, _, _, ⟨_, e2, _⟩, _⟩ := h2 (by decide)
  obtain ⟨_, h3, _⟩ := h3 rfl
  obtain ⟨_, e3, _⟩ := h3 (by decide) (by decide)
  obtain ⟨_, _, h4, _⟩ := h4 rfl
  obtain ⟨_, e4, _⟩ := h4 (by decide) (by decide)
  obtain ⟨_, _, _, h5, _⟩ := h5 rfl
  obtain ⟨_, e5, _⟩ := h5 (by decide) (by decide) (by decide)
  exact ⟨goes e1, goes e2, goes e3, goes e4, goes e5⟩

/-- An owner of another ASID; a registration; a launch of a running and of a held configuration; the census; an attestation. -/
theorem witness_PacketReplies_owners (h : Clause.PacketReplies) :
    Goes (exec (.launchPacket (hostPacket 1 4 1 0)) (up [])) ∧ Goes (exec (.register (hostPacket 2 4 1 0)) (up [])) ∧
    Goes (exec (.register (hostPacket 2 4 0 0)) (up [{ cfg9 [] with asid := 0 }])) ∧
    Goes (exec (.launchPacket (hostPacket 1 4 0 0)) (up [{ cfg9 [] with asid := 0 }])) ∧
    Goes (exec (.launchPacket (hostPacket 1 4 0 0)) (up [{ cfg9 [] with asid := 0, st := .held }])) ∧
    Goes (exec (.query (hostPacket 4 4 0 0)) (up [cfg9 []])) ∧ Goes (exec (.attest (hostPacket 5 4 0 0)) (up [])) := by
  obtain ⟨_, _, _, h1⟩ := h (up []) (hostPacket 1 4 1 0)
  obtain ⟨_, _, _, h2⟩ := h (up []) (hostPacket 2 4 1 0)
  obtain ⟨_, _, _, h3⟩ := h (up [{ cfg9 [] with asid := 0 }]) (hostPacket 2 4 0 0)
  obtain ⟨_, _, _, h4⟩ := h (up [{ cfg9 [] with asid := 0 }]) (hostPacket 1 4 0 0)
  obtain ⟨_, _, _, h5⟩ := h (up [{ cfg9 [] with asid := 0, st := .held }]) (hostPacket 1 4 0 0)
  obtain ⟨_, _, _, h6⟩ := h (up [cfg9 []]) (hostPacket 4 4 0 0)
  obtain ⟨_, _, _, h7⟩ := h (up []) (hostPacket 5 4 0 0)
  obtain ⟨_, _, _, _, h1, _⟩ := h1 rfl
  obtain ⟨_, _, _, _, h2, _⟩ := h2 rfl
  obtain ⟨_, _, _, _, _, h3, _⟩ := h3 rfl
  obtain ⟨_, _, _, _, _, h4, _⟩ := h4 rfl
  obtain ⟨_, _, _, _, _, h5, _⟩ := h5 rfl
  obtain ⟨_, _, _, _, _, _, h6, _⟩ := h6 rfl
  obtain ⟨_, _, _, _, _, _, _, h7⟩ := h7 rfl
  obtain ⟨_, e1, _⟩ := (h1 (by decide) (by decide)).1 (by decide)
  obtain ⟨_, e2, _⟩ := (h2 (by decide) (by decide)).2 (by decide)
  obtain ⟨_, e3, _⟩ := (h3 _ (by decide) (by decide) rfl rfl).1 (by decide)
  obtain ⟨_, e4, _⟩ := (h4 _ (by decide) (by decide) rfl rfl).2.1 (by decide) (by decide)
  obtain ⟨⟨_, e5, _⟩, _⟩ := (h5 _ (by decide) (by decide) rfl rfl).2.2 (by decide) rfl
  obtain ⟨_, _, e6, _⟩ := h6 (by decide) (by decide)
  obtain ⟨_, _, e7, _⟩ := h7 (by decide) (by decide)
  exact ⟨goes e1, goes e2, goes e3, goes e4, goes e5, goes e6, goes e7⟩

/-- The device in a boot state, a BOOT packet with it. -/
def booting (b : BootState) (rollback : BitVec 32) (m : Memory) : State :=
  { State.reset with mem := m, dev := { State.reset.dev with boot := b, packets := [hostPacket 6 0 0 0], rollback := rollback } }

/-- A BOOT in the boot state and of a running device, and an image of which the header fails. -/
theorem witness_Boot (h : Clause.Boot) :
    Goes (exec (.boot (hostPacket 6 0 0 0)) State.reset) ∧ Goes (exec (.boot (hostPacket 6 0 0 0)) (booting .running 0 Memory.reset)) ∧
    Goes (exec (.boot (hostPacket 6 0 0 0)) (booting .verifying 0 (Memory.reset.store 0x7C000000 [1]))) := by
  obtain ⟨h1, _⟩ := h State.reset (hostPacket 6 0 0 0)
  obtain ⟨_, h2, _⟩ := h (booting .running 0 Memory.reset) (hostPacket 6 0 0 0)
  obtain ⟨_, _, h3⟩ := h (booting .verifying 0 (Memory.reset.store 0x7C000000 [1])) (hostPacket 6 0 0 0)
  obtain ⟨_, e1, _⟩ := h1 (by decide) (by decide) (.inl rfl)
  obtain ⟨_, _, e2, _⟩ := h2 rfl (by decide) (by decide)
  obtain ⟨_, h3, _⟩ := h3 rfl rfl fun _ _ => ⟨rfl, rfl⟩
  obtain ⟨_, _, e3, _⟩ := h3 fun e => absurd e.1 (by decide)
  exact ⟨goes e1, goes e2, goes e3⟩

/-- An image of zeros, the rollback counter at 0 and at 1: whichever way the digests and the signatures come out (log 18), one of the
clauses gives the outcome. -/
theorem witness_Boot_verified (h : Clause.Boot) :
    Goes (exec (.boot (hostPacket 6 0 0 0)) (booting .verifying 0 Memory.reset)) ∧
    Goes (exec (.boot (hostPacket 6 0 0 0)) (booting .verifying 1 Memory.reset)) := by
  obtain ⟨_, _, h1⟩ := h (booting .verifying 0 Memory.reset) (hostPacket 6 0 0 0)
  obtain ⟨_, _, h2⟩ := h (booting .verifying 1 Memory.reset) (hostPacket 6 0 0 0)
  obtain ⟨good, _, keys, signed, _⟩ := h1 rfl rfl fun _ _ => ⟨rfl, rfl⟩
  obtain ⟨_, _, keys2, signed2, version2⟩ := h2 rfl rfl fun _ _ => ⟨rfl, rfl⟩
  have image := And.intro (show Memory.reset.nat 0x7C000000 8 % 64 = 0 by decide)
    (And.intro (show Memory.reset.nat 0x7C000000 8 ≤ 0x4000000 - 8192 by decide)
      fun i (_ : 5373 ≤ i) (_ : i < 8192) => show Memory.reset.byte (0x7C000000 + i) = 0 from rfl)
  constructor
  · by_cases k : sha384 (Memory.reset.bytes 0x7C000010 32) = Config.fusedEdDigest ∧
        sha384 (Memory.reset.bytes 0x7C000030 1952) = Config.fusedMlDigest
    · refine Classical.byContradiction fun no => ?_
      have n3 := fun q => no (let ⟨_, _, e, _⟩ := signed image k q; goes e)
      exact n3 fun q => no (let ⟨_, _, e, _⟩ := good image k q (by decide); goes e)
    · obtain ⟨_, _, e, _⟩ := keys image k
      exact goes e
  · by_cases k : sha384 (Memory.reset.bytes 0x7C000010 32) = Config.fusedEdDigest ∧
        sha384 (Memory.reset.bytes 0x7C000030 1952) = Config.fusedMlDigest
    · refine Classical.byContradiction fun no => ?_
      have n3 := fun q => no (let ⟨_, _, e, _⟩ := signed2 image k q; goes e)
      exact n3 fun q => no (let ⟨_, _, e, _⟩ := version2 image k q (by decide); goes e)
    · obtain ⟨_, _, e, _⟩ := keys2 image k
      exact goes e

/-! ## The link -/

/-- A write of a token to an ingress port: sideband, handle and channel. -/
def ingressBytes (side handle chan : Nat) : List Byte :=
  List.replicate 64 0 ++ natBytes 4 side ++ List.replicate 4 0 ++ natBytes 8 handle ++ natBytes 2 chan ++ List.replicate 46 0

/-- The device running, ingress port 255 in a state. -/
def ported (cfgs : List Cfg) (q : Ingress) : State := (up cfgs).setPort q

/-- A buffered token for channel 0 of configuration 9. -/
def waiting9 : Token × Word64 × Nat := (flat 7 1, 9, 0)

/-- A write while in the boot state; to a full port, of 64 tokens; with MARK; to a bound port of 63; of no configuration; and one that
binds. -/
theorem witness_IngressPorts (h : Clause.IngressPorts) :
    Goes (exec (.ingressWrite 255 0 (ingressBytes 0 9 0)) State.reset) ∧
    Goes (exec (.ingressWrite 255 0x780 (ingressBytes 0 9 0)) (ported [] ⟨255, some (9, 0), List.replicate 64 waiting9, 0, []⟩)) ∧
    Goes (exec (.ingressWrite 255 0 (ingressBytes 32 9 0)) (ported [] ⟨255, none, [], 0xFFFFFFFF, []⟩)) ∧
    Goes (exec (.ingressWrite 255 0 (ingressBytes 0 9 0)) (ported [] ⟨255, some (9, 0), List.replicate 63 waiting9, 0, []⟩)) ∧
    Goes (exec (.ingressWrite 255 0 (ingressBytes 0 9 0)) (ported [] ⟨255, none, [], 0, []⟩)) ∧
    Goes (exec (.ingressWrite 255 0 (ingressBytes 0 9 0)) (ported [{ cfg9 [] with cached := false, st := .held, asid := 0 }]
      ⟨255, none, [], 0, []⟩)) := by
  have h1 := h State.reset 255 0 (ingressBytes 0 9 0)
  have h2 := h (ported [] ⟨255, some (9, 0), List.replicate 64 waiting9, 0, []⟩) 255 0x780 (ingressBytes 0 9 0)
  have h3 := h (ported [] ⟨255, none, [], 0xFFFFFFFF, []⟩) 255 0 (ingressBytes 32 9 0)
  have h4 := h (ported [] ⟨255, some (9, 0), List.replicate 63 waiting9, 0, []⟩) 255 0 (ingressBytes 0 9 0)
  have h5 := h (ported [] ⟨255, none, [], 0, []⟩) 255 0 (ingressBytes 0 9 0)
  have h6 := h (ported [{ cfg9 [] with cached := false, st := .held, asid := 0 }] ⟨255, none, [], 0, []⟩) 255 0 (ingressBytes 0 9 0)
  have e1 := h1.1 (.inl (by decide))
  obtain ⟨_, e2, _⟩ := (h2.2.1 rfl (by decide) (by decide) (by decide)).1 (.inl (by decide))
  obtain ⟨_, e3, _⟩ := ((h3.2.1 rfl (by decide) (by decide) (by decide)).2 (by decide) rfl).1 (by decide)
  obtain ⟨_, e4, _⟩ := ((h4.2.1 rfl (by decide) (by decide) (by decide)).2 (by decide) rfl).2.1 (by decide) (by decide)
  obtain ⟨_, e5, _⟩ := ((h5.2.1 rfl (by decide) (by decide) (by decide)).2 (by decide) rfl).2.2.1 (by decide) rfl rfl (.inl rfl)
  obtain ⟨_, e6, _⟩ := ((h6.2.1 rfl (by decide) (by decide) (by decide)).2 (by decide) rfl).2.2.2 _ (by decide) rfl rfl rfl (.inl rfl)
  exact ⟨goes e1, goes e2, goes e3, goes e4, goes e5, goes e6⟩

/-- A long channel fed by the host, of which some tokens stand at the out-link; it ends at an in-link of entry block 0 or at a context. -/
def hostChan (n : Nat) (dkind : Nat) : Chan :=
  ⟨BitVec.ofNat 128 (2 <<< 52 + dkind <<< 50), List.replicate n ⟨flat 7 1, [], none⟩, [], false, 0, 0, 0⟩

/-- The configuration of that channel, its entry block placed or only claimed. -/
def hosted (n dkind : Nat) (p : PState) : Cfg :=
  { cfg9 [] with chans := [hostChan n dkind], places := [⟨p, 0, 0, 0, 0, 0, none, [], [], false⟩] }

/-- The machine with it, port 255 bound to its channel, with tokens. -/
def feeding (g : Cfg) (buf : List (Token × Word64 × Nat)) : State := ported [g] ⟨255, some (9, 0), buf, 0, []⟩

/-- A delivery into a channel of 7 tokens and of 8, into one whose in-link does not exist yet, and into a context's; an end of stream
with a token of another configuration behind it; ING_STAT written with bit 63 clear and set. -/
theorem witness_IngressPorts_delivery (h : Clause.IngressPorts) :
    Goes (exec (.ingressDelivery 255) (feeding (hosted 7 0 .placed) [waiting9])) ∧
    Goes (exec (.ingressDelivery 255) (feeding (hosted 8 0 .placed) [waiting9])) ∧
    Goes (exec (.ingressDelivery 255) (feeding (hosted 0 0 .claimed) [waiting9])) ∧
    Goes (exec (.ingressDelivery 255) (feeding (hosted 0 1 .placed) [waiting9])) ∧
    Goes (exec (.ingressDelivery 255) (feeding { hosted 0 0 .placed with cached := false } [(eosToken, 9, 0), waiting9])) ∧
    Goes (exec (.ingStatClear 255 0) (up [])) ∧ Goes (exec (.ingStatClear 255 0x8000000000000000) (up [])) := by
  have key := fun (g : Cfg) (ch : Chan) (t1 : Token) (rest : List (Token × Word64 × Nat)) e1 e2 =>
    (h (feeding g ((t1, 9, 0) :: rest)) 255 0 []).2.2.1 g ch 0 9 t1 (9, 0) rest rfl rfl rfl e1 e2
  have h3 := (h (up []) 255 0 []).2.2.2
  obtain ⟨_, _, e1, _⟩ := (key (hosted 7 0 .placed) (hostChan 7 0) (flat 7 1) [] rfl rfl rfl).1 ⟨_, rfl, rfl, rfl⟩ (by decide)
  have e2 := (key (hosted 8 0 .placed) (hostChan 8 0) (flat 7 1) [] rfl rfl rfl).2 (.inr (by decide))
  have e3 := (key (hosted 0 0 .claimed) (hostChan 0 0) (flat 7 1) [] rfl rfl rfl).2 (.inl (by
    rintro ⟨pl, e, f, _⟩
    cases e
    cases f))
  obtain ⟨_, _, e4, _⟩ := (key (hosted 0 1 .placed) (hostChan 0 1) (flat 7 1) [] rfl rfl rfl).1 rfl (by decide)
  obtain ⟨_, _, e5, _, _, _, _, k5⟩ := (key { hosted 0 0 .placed with cached := false } (hostChan 0 0) eosToken [waiting9] rfl rfl
    rfl).1 ⟨_, rfl, rfl, rfl⟩ (by decide)
  have := k5 _ _ _ _ rfl rfl rfl rfl
  have e6 := (h3 0).1 (by decide)
  obtain ⟨_, e7, _⟩ := (h3 0x8000000000000000).2 (by decide)
  exact ⟨goes e1, goes e2, goes e3, goes e4, goes e5, goes e6, goes e7⟩

/-- Sixty-four bytes. -/
def bytes64 : List Byte := List.replicate 64 1

/-- The last bytes of memory; the boot area's last bytes and the byte below it; beyond the device; the mailbox, RECSTAT and the last
ingress port. -/
theorem witness_HostWindow (h : Clause.HostWindow) :
    Goes (exec (.hostMemoryWrite 0x2FFFFFFFC0 bytes64) (up [])) ∧ Goes (exec (.hostMemoryRead 0x2FFFFFFFC0 64) (up [])) ∧
    Goes (exec (.hostMemoryWrite 0x7FFFFFC0 bytes64) State.reset) ∧ Goes (exec (.hostMemoryWrite 0x7BFFFFFF bytes64) State.reset) ∧
    Goes (exec (.hostMemoryRead 0x7FFFFFC1 64) State.reset) ∧ Goes (exec (.peerAccess true 0 0 bytes64) State.reset) ∧
    Goes (exec (.peerAccess true 0x405FFFFFC1 0 bytes64) (up [])) ∧ Goes (exec (.hostMemoryWrite 0x3000000000 bytes64) (up [])) ∧
    Goes (exec (.hostMemoryWrite 0xF800000000 (natBytes 64 6)) State.reset) ∧
    Goes (exec (.hostMemoryWrite 0xFC00001F80 (natBytes 8 6)) State.reset) ∧
    Goes (exec (.hostMemoryWrite 0xF0000FF000 (ingressBytes 0 9 0)) (up [])) := by
  have h1 := h (up []) 0x2FFFFFFFC0 64 bytes64
  have h3 := h State.reset 0x7FFFFFC0 64 bytes64
  have h4 := h State.reset 0x7BFFFFFF 64 bytes64
  have h5 := h State.reset 0x7FFFFFC1 64 bytes64
  have h6 := h State.reset 0 0 bytes64
  have h7 := h (up []) 0x405FFFFFC1 0 bytes64
  have h8 := h (up []) 0x3000000000 0 bytes64
  have h9 := h State.reset 0xF800000000 0 (natBytes 64 6)
  have hR := h State.reset 0xFC00001F80 0 (natBytes 8 6)
  have h0 := h (up []) 0xF0000FF000 0 (ingressBytes 0 9 0)
  obtain ⟨⟨_, e1, _⟩, _⟩ := h1.1 rfl (noRings_of (by decide)) (by decide)
  obtain ⟨⟨_, e2, _⟩, _⟩ := h1.2.1 rfl (by decide) fun _ _ _ => ⟨rfl, rfl⟩
  obtain ⟨_, e3, _⟩ := h3.2.2.1 (by decide) (noRings_of (by decide)) (by decide) (by decide)
  have e4 := h4.2.2.2.1 (by decide) (by decide) (.inl (by decide))
  have e5 := h5.2.2.2.2.1 (by decide) (by decide) (.inr (by decide))
  obtain ⟨e6, _⟩ := h6.2.2.2.2.2.1 (by decide)
  have e7 := h7.2.2.2.2.2.2.1 (by decide)
  have e8 := h8.2.2.2.2.2.2.2.1 (by decide) (by decide) (by decide) (by decide)
  have e9 := h9.2.2.2.2.2.2.2.2.1 rfl (by decide)
  have eR := hR.2.2.2.2.2.2.2.2.2.1 (by decide) (by decide) (by decide)
  have e0 := h0.2.2.2.2.2.2.2.2.2.2 255 rfl (by decide) (by decide)
  exact ⟨goes e1, goes e2, goes e3, goes e4, goes e5, goes e6, goes e7, goes e8, goes e9, goes eR, goes e0⟩

/-- Reset, and a scrubbed line without an error, with a correctable one and with an uncorrectable one, of the last line of core 95. -/
theorem witness_ResetAndScrub (h : Clause.ResetAndScrub) :
    Goes (exec .deviceReset (up [cfg9 []])) ∧ Goes (exec .thermalThrottle State.reset) ∧
    Goes (exec (.scrubLine 95 true 0xFFFFFF) State.reset) ∧
    Goes (exec (.scrubLine 95 true 0xFFFFFF) (State.reset.onMem fun m => { m with ce := [0xBFFFFFFE] })) ∧
    Goes (exec (.scrubLine 95 true 0xFFFFFF) (State.reset.onMem fun m => { m with ue := [0xBFFFFFFE] })) := by
  obtain ⟨h1, h2, h3⟩ := h
  obtain ⟨_, e1, _⟩ := h1 (up [cfg9 []])
  have e3 := (h3 State.reset 95 0xFFFFFF (by decide)).1 rfl rfl
  obtain ⟨_, e4, _⟩ := (h3 (State.reset.onMem fun m => { m with ce := [0xBFFFFFFE] }) 95 0xFFFFFF (by decide)).2.1 rfl (by decide)
  obtain ⟨_, e5, _⟩ := (h3 (State.reset.onMem fun m => { m with ue := [0xBFFFFFFE] }) 95 0xFFFFFF (by decide)).2.2 (by decide) rfl
  exact ⟨goes e1, goes (h2 State.reset).1, goes e3, goes e4, goes e5⟩

end Sys2Proof.Tests
end

