-- ==== Sys2Proof/Tests/WitnessMachine.lean ====
section
/-! SUPPORT. Witnesses for the statements about encodings and about the machine's own steps. -/

namespace Sys2Proof.Tests

open Sys2Proof Sys2Proof.Machine

set_option maxRecDepth 100000

/-- IADD of the canonical form, its word, and a word of it that fails a check. -/
theorem witness_EncodeThenDecode (h : Clause.EncodeThenDecode) :
    decode 0x0170_8100_0249_0000 = .instr (.iadd (wordFA 0x70 one one off 0)) :=
  (h (.iadd (wordFA 0x70 one one off 0)) _ (by decide) (by decide)).1

/-- The first and the last row of the first column, and the last of the last; a word that passes its checks and one that does not. -/
theorem witness_DecodeThenEncode (h : Clause.DecodeThenEncode) :
    (∃ i, encode i = some 0x0100_8080_0248_0000) ∧ (∃ i, encode i = some 0x0F00_0000_0000_0000) ∧
    ∃ i, encode i = some 0xDF00_0000_0000_0000 := by
  obtain ⟨i, e1, _⟩ := h 0x0100_8080_0248_0000 (by decide) (by decide)
  obtain ⟨j, e2, _⟩ := h 0x0F00_0000_0000_0000 (by decide) (by decide)
  obtain ⟨k, e3, _⟩ := h 0xDF00_0000_0000_0000 (by decide) (by decide)
  exact ⟨⟨i, e1⟩, ⟨j, e2⟩, ⟨k, e3⟩⟩

/-- A column without instructions; the row after the last of a column; opcode 0x00 with an operand. -/
theorem witness_ReservedOpcodes (h : Clause.ReservedOpcodes) :
    decode 0x9000_0000_0000_0000 = .reserved 0x01 ∧ decode 0x1D00_0000_0000_0000 = .reserved 0x01 ∧ decode 1 = .reserved 0x01 :=
  ⟨h.2 _ (.inl (by decide)), h.2 _ (.inl (by decide)), h.2 _ (.inr (by decide))⟩

/-- The invariant holds after reset, and the step from there is one. -/
theorem witness_InvariantKept (h : Clause.InvariantKept) : Inv State.reset.tick :=
  h State.reset (show Memory.reset.wf = true from rfl) _ rfl

/-- A state with something next on the agenda. -/
def next (a : Act) (s : State) : State := { s with clk := { s.clk with agenda := [a] } }

/-- IADD in the last slot of an element, with its operands. -/
def iaddSlot : State := stage 7 { fed [flat 7 1] [flat 7 2] [] with word := 0x0170_8100_0249_0000 }

/-- The same with an operand that fails parity. -/
def spoiltSlot : State := stage 7 { fed [badTok] [flat 7 2] [] with word := 0x0170_8100_0249_0000 }

/-- A cycle begins; an event; a slot of a region that is not MAPPED; a slot's instruction, its operands good or not; a control block's
instruction. -/
theorem witness_StepRunsDecoded (h : Clause.StepRunsDecoded) :
    step State.reset = .next State.reset.tick ∧ Goes (step (next (.event .thermalThrottle) State.reset)) ∧
    Goes (step (next (.fire ⟨95, 7, 127⟩) State.reset)) ∧
    step (next (.fire ⟨0, 0, 7⟩) iaddSlot) = exec (.iadd (wordFA 0x70 one one off 0)) iaddSlot ∧
    Goes (step (next (.fire ⟨0, 0, 7⟩) spoiltSlot)) ∧
    Goes (step (next (.kfire ⟨0, 0, 0⟩) (running0 (kblock (KSlot.holding 0xD300_0000_0000_0046))))) := by
  have e1 := ((h State.reset (.event .thermalThrottle) []).1 rfl).1
  have e2 := ((h (next (.event .thermalThrottle) State.reset) (.event .thermalThrottle) []).2 rfl).1 .thermalThrottle rfl
  have e3 := ((h (next (.fire ⟨95, 7, 127⟩) State.reset) (.fire ⟨95, 7, 127⟩) []).2 rfl).2.1 ⟨95, 7, 127⟩ rfl (by decide)
  have e4 := ((h (next (.fire ⟨0, 0, 7⟩) iaddSlot) (.fire ⟨0, 0, 7⟩) []).2 rfl).2.2.1 ⟨0, 0, 7⟩ (.iadd (wordFA 0x70 one one off 0))
    0x0170_8100_0249_0000 rfl (by decide) (by decide) (by decide) (by decide) (by decide) (by decide)
  have e6 := ((h (next (.fire ⟨0, 0, 7⟩) spoiltSlot) (.fire ⟨0, 0, 7⟩) []).2 rfl).2.2.1 ⟨0, 0, 7⟩
    (.iadd (wordFA 0x70 one one off 0)) 0x0170_8100_0249_0000 rfl (by decide) (by decide) (by decide) (by decide) (by decide) (by decide)
  have e5 := ((h (next (.kfire ⟨0, 0, 0⟩) (running0 (kblock (KSlot.holding 0xD300_0000_0000_0046)))) (.kfire ⟨0, 0, 0⟩) []).2 rfl).2.2.2
    ⟨0, 0, 0⟩ (.rep ⟨0, ⟨false, 0, 0⟩, ⟨false, 0, 0⟩, off, off, off, 0x46⟩) 0xD300_0000_0000_0046 _ rfl rfl (by decide) (by decide)
    (by decide) (by decide)
  exact ⟨e1, ⟨_, e2⟩, goes e3, e4.1 (by decide), goes (e6.2 (by decide)), ⟨_, e5⟩⟩

/-- The same slot with nothing left to do, and an event due in cycle n. -/
def waiting (n : Nat) : State :=
  { iaddSlot with clk := { iaddSlot.clk with now := 0, pending := [(n, .thermalThrottle)], agenda := [] } }

/-- An event of the next cycle, one of a later cycle, and a slot with an instruction. -/
theorem witness_EventsHappen (h : Clause.EventsHappen) :
    Act.event .thermalThrottle ∈ (waiting 1).tick.clk.agenda ∧ (2, Instr.thermalThrottle) ∈ (waiting 2).tick.clk.pending ∧
    Act.fire ⟨0, 0, 7⟩ ∈ (waiting 1).tick.clk.agenda :=
  ⟨(h (waiting 1) rfl).2.1 1 _ (List.mem_singleton.mpr rfl) (by decide) rfl,
    (h (waiting 2) rfl).2.2.1 2 _ (List.mem_singleton.mpr rfl) (by decide),
    (h (waiting 1) rfl).2.2.2 rfl 0 0 7 (by decide) (by decide) (by decide) (by decide) (by decide)⟩

end Sys2Proof.Tests
end

