-- ==== Sys2Proof/Tests/Results.lean ====
section
/-! SUPPORT. Results of single instructions, each computed by hand from the entry of the instruction (its rule stands in the
test's comment) or printed by the spec as a worked example. -/

namespace Sys2Proof.Tests

open Sys2Proof Sys2Proof.Machine

set_option maxRecDepth 100000

/-- The tokens on their way from a slot after an instruction. -/
def sent : Done → List Token
  | .next t => t.clk.pending.filterMap fun e => match e.2 with
    | .tokenArrival _ _ tok _ _ => some tok
    | _ => none
  | _ => []

/-- Lane k of the first of them. -/
def laneOf (k : Fin 16) (o : Done) : Option Lane := (sent o).head?.map fun t => t.lanes[k]

/-- A port is used when it holds something. -/
def ctl (ts : List Token) : PortCtl := if ts.isEmpty then off else one

/-- Lane k of what an FA instruction delivers for the tokens of its ports. -/
def fires (i : FA → Instr) (mod : BitVec 8) (imm : BitVec 10) (a b c : List Token) (k : Fin 16 := 0) : Option Lane :=
  laneOf k (exec (i (wordFA mod (ctl a) (ctl b) (ctl c) imm)) (stage 7 (fed a b c)))

/-- The first of a token's lanes given, the others zero. -/
def lanesTok (tag : BitVec 4) (ls : List Lane) : Token := { i32Token ls with tag := tag }

/-! ## Integers (R143..R148) -/

/-- R143: wrap, saturation and the spec's own example, 90 + 100 in I8. -/
theorem test_iadd : fires .iadd 0x70 0 [flat 7 0x7FFFFFFF] [flat 7 1] [] = some 0x80000000 ∧
    fires .iadd 0x94 100 [flat 9 0x5A5A5A5A] [] [] = some 0x7F7F7F7F ∧
    fires .iadd 0x90 100 [flat 9 0x5A5A5A5A] [] [] = some 0xBEBEBEBE := by decide

/-- R143: a product by halves, the high half of a signed and an unsigned product, a sum of a product. -/
theorem test_products : fires .imul 0x80 0 [flat 8 0x7FFF0003] [flat 8 0x00020002] [] = some 0xFFFE0006 ∧
    fires .imulh 0x70 0 [flat 7 0xFFFFFFFF] [flat 7 1] [] = some 0xFFFFFFFF ∧
    fires .imulh 0x72 0 [flat 7 0xFFFFFFFF] [flat 7 2] [] = some 1 ∧
    fires .imad 0x70 0 [flat 7 3] [flat 7 4] [flat 7 5] = some 17 := by decide

/-- R143: differences, the most negative number negated under sat and under wrap, extremes signed and unsigned. -/
theorem test_signs : fires .isub 0x70 0 [flat 7 3] [flat 7 5] [] = some 0xFFFFFFFE ∧
    fires .ineg 0x74 0 [flat 7 0x80000000] [] [] = some 0x7FFFFFFF ∧
    fires .iabs 0x70 0 [flat 7 0x80000000] [] [] = some 0x80000000 ∧
    fires .imin 0x72 0 [flat 7 0xFFFFFFFF] [flat 7 1] [] = some 1 ∧
    fires .imax 0x70 0 [flat 7 0xFFFFFFFF] [flat 7 1] [] = some 1 := by decide

/-- R143: bits, shifts by the width and more, a rotation by y mod w, leading zeros and one bits. -/
theorem test_bits : fires .and 0x70 0 [flat 7 0xFF00FF00] [flat 7 0x0FF00FF0] [] = some 0x0F000F00 ∧
    fires .or 0x70 0 [flat 7 0xFF00FF00] [flat 7 0x0FF00FF0] [] = some 0xFFF0FFF0 ∧
    fires .xor 0x70 0 [flat 7 0xFF00FF00] [flat 7 0x0FF00FF0] [] = some 0xF0F0F0F0 ∧
    fires .not 0x70 0 [flat 7 0xFF00FF00] [] [] = some 0x00FF00FF ∧
    fires .shl 0x70 0 [flat 7 1] [flat 7 32] [] = some 0 ∧ fires .shr 0x70 31 [flat 7 0x80000000] [] [] = some 1 ∧
    fires .sar 0x70 0 [flat 7 0x80000000] [flat 7 40] [] = some 0xFFFFFFFF ∧
    fires .rotl 0x70 0 [flat 7 0x80000001] [flat 7 33] [] = some 3 ∧
    fires .clz 0x80 0 [flat 8 0x00010000] [] [] = some 0x000F0010 ∧ fires .popc 0x70 0 [flat 7 0xF0F00001] [] [] = some 9 := by
  decide

/-- R144 to R146: a compare signed and unsigned, a choice, a field read with its sign, a field put. -/
theorem test_choices : fires .icmp 0x70 2 [flat 7 0xFFFFFFFF] [flat 7 1] [] = some 1 ∧
    fires .icmp 0x72 2 [flat 7 0xFFFFFFFF] [flat 7 1] [] = some 0 ∧
    fires .sel 0x70 0 [flat 7 1] [flat 7 2] [flat 7 0] = some 2 ∧
    laneOf 0 (exec (.bfx ⟨0x70, ⟨true, 1, 0⟩, ⟨false, 0, 0⟩, one, 1128⟩) (stage 7 (fed [flat 7 0x00000F00] [] []))) = some 0xFFFFFFFF ∧
    fires .bfi 0x70 104 [flat 7 0] [flat 7 0xFF] [] = some 0xF00 := by decide

/-- R147, R148, R70, R123: MOV.AS keeps the payload; the spec's CONST of 0.5; LANE's indices; COORD's core number; PHASE without
a rotation. -/
theorem test_sources : fires .mov 0x71 0 [flat 1 0x12345678] [] [] = some 0x12345678 ∧
    laneOf 0 (exec (.const ⟨0x23, ⟨true, 1, 0⟩, ⟨false, 0, 0⟩, 0x3F00⟩) (stage 7 (fed [] [] []))) = some 0x3F003F00 ∧
    fires .lane 0x80 0 [] [] [] 1 = some 0x00030002 ∧ fires .coord 0x70 0 [] [] [] 6 = some 0 ∧
    fires .phase 0x70 0 [flat 7 5] [] [] = some 0 := by decide

/-! ## Floating point (R149..R156, R131) -/

/-- R149, R131: 1 + 2, the canonical NaN of ∞ − ∞, 3 − 1, 2 · 3, and 1 − 2 · 3 with one rounding. -/
theorem test_float_arithmetic : fires .fadd 0x10 0 [flat 1 0x3F800000] [flat 1 0x40000000] [] = some 0x40400000 ∧
    fires .fadd 0x10 0 [flat 1 0x7F800000] [flat 1 0xFF800000] [] = some 0x7FC00000 ∧
    fires .fsub 0x10 0 [flat 1 0x40400000] [flat 1 0x3F800000] [] = some 0x40000000 ∧
    fires .fmul 0x10 0 [flat 1 0x40000000] [flat 1 0x40400000] [] = some 0x40C00000 ∧
    fires .fma 0x11 0 [flat 1 0x40000000] [flat 1 0x40400000] [flat 1 0x3F800000] = some 0xC0A00000 := by decide +kernel

/-- R150 to R152: the operand that is no NaN, −0 below +0, sign bits, an unordered compare, the class of −0, 1 · 2 ^ 3. -/
theorem test_float_selection : fires .fmin 0x10 0 [flat 1 0x7FC00000] [flat 1 0x3F800000] [] = some 0x3F800000 ∧
    fires .fmax 0x10 0 [flat 1 0x80000000] [flat 1 0] [] = some 0 ∧
    fires .fabs 0x10 0 [flat 1 0xFFC00001] [] [] = some 0x7FC00001 ∧ fires .fneg 0x10 0 [flat 1 0] [] [] = some 0x80000000 ∧
    fires .fcmp 0x10 6 [flat 1 0x7FC00000] [flat 1 0] [] = some 1 ∧ fires .fclass 0x10 0 [flat 1 0x80000000] [] [] = some 8 ∧
    fires .fscl 0x10 3 [flat 1 0x3F800000] [] [] = some 0x41000000 := by decide +kernel

/-- R153: exact values of the function unit. -/
theorem test_function_unit : fires .rcp 0x10 0 [flat 1 0x40000000] [] [] = some 0x3F000000 ∧
    fires .rsq 0x10 0 [flat 1 0x40800000] [] [] = some 0x3F000000 ∧ fires .exp2 0x10 0 [flat 1 0x40400000] [] [] = some 0x41000000 ∧
    fires .log2 0x10 0 [flat 1 0x41000000] [] [] = some 0x40400000 ∧
    fires .tcos 0x70 0 [flat 7 0x80000000] [] [] = some 0xBF800000 ∧
    fires .tsin 0x70 0 [flat 7 0x40000000] [] [] = some 0x3F800000 := by decide +kernel

/-- R154, R156, R155: 2.5 to the nearest even integer, as an I32 and as a float; the sign of an element carried along. -/
theorem test_conversions : fires .cvt 0x12 7 [flat 1 0x40200000] [] [] = some 2 ∧
    fires .rndi 0x10 0 [flat 1 0x40200000] [] [] = some 0x40000000 ∧
    fires .unpk 0x90 7 [flat 9 0x00000080] [] [] = some 0xFFFFFF80 := by decide +kernel

/-- R155: four I32 tokens packed into the bytes of a lane. -/
theorem test_pack : laneOf 0 (exec (.pack (wordFA 0x70 ⟨4, 4⟩ off off 9))
    (stage 7 (fed [flat 7 0x101, flat 7 0x202, flat 7 0x303, flat 7 0x404] [] []))) = some 0x04030201 := by decide

/-- R135, R158: the spec's block of K4 codes, lane 0 of which is 4, −0.5, 0, −2, 1, 0, 0, 0: the first two of a stream of F32. -/
theorem test_dqt : laneOf 0 (exec (.dqt (wordFA 0x60 one off off 1))
      (stage 7 (fed [{ flat 6 0x0002C086 with scale := 0x0300 }] [] []))) = some 0x40800000 ∧
    laneOf 1 (exec (.dqt (wordFA 0x60 one off off 1))
      (stage 7 (fed [{ flat 6 0x0002C086 with scale := 0x0300 }] [] []))) = some 0xBF000000 := by decide +kernel

/-! ## Across the lanes (R160..R167) -/

/-- R161: the spec's sum of 2^24 and fifteen ones, by the tree; integer extremes. -/
theorem test_reductions :
    fires .rsum 0x10 0 [lanesTok 1 (0x4B800000 :: List.replicate 15 0x3F800000)] [] [] = some 0x4B800007 ∧
    fires .rmax 0x70 0 [lanesTok 7 [1, 0xFFFFFFFF, 9, 3]] [] [] = some 9 ∧
    fires .rmin 0x70 0 [lanesTok 7 [1, 0xFFFFFFFF, 9, 3]] [] [] = some 0xFFFFFFFF := by decide +kernel

/-- R162 to R164: the lowest index of the maximum; the third running sum, exclusive and inclusive; 16 · (2 · 3) and a start. -/
theorem test_scans : fires .argmx 0x70 0 [lanesTok 7 [1, 9, 9]] [] [] = some 1 ∧
    fires .scan 0x70 0 [flat 7 2] [] [] 2 = some 6 ∧ fires .scan 0x71 0 [flat 7 2] [] [] 2 = some 4 ∧
    fires .dot 0x90 0 [flat 9 2] [flat 9 3] [flat 7 4] = some 100 := by decide +kernel

/-- R165 to R167: lanes exchanged by l xor 1, reversed, and by a list; one lane everywhere; a window's oldest entry. -/
theorem test_movement : fires .perm 0x70 0x101 [lanesTok 7 [10, 11]] [] [] = some 11 ∧
    fires .perm 0x70 0x200 [lanesTok 7 [10, 11]] [] [] 15 = some 10 ∧
    fires .perm 0x70 0 [lanesTok 7 [10, 11, 12]] [lanesTok 7 [0x12]] [] = some 12 ∧
    laneOf 15 (exec (.bcast ⟨0x70, ⟨true, 1, 0⟩, ⟨false, 0, 0⟩, one, 1⟩) (stage 7 (fed [lanesTok 7 [10, 11]] [] []))) = some 11 ∧
    laneOf 0 (exec (.adv (wordFA 0x70 ⟨2, 0⟩ off off 2)) (stage 7 (fed [flat 7 5, flat 7 6] [] []))) = some 5 := by decide

/-! ## Routers (R174..R183) -/

/-- Lane k of what an FO instruction delivers. -/
def routes (i : FO → Instr) (params : BitVec 16) (a b : List Token) (k : Fin 16 := 0) : Option Lane :=
  laneOf k (exec (i (wordFO (ctl a) (ctl b) params)) (stage 7 (fed a b [])))

/-- R174: decision 0 sends to T0, and another decision to T1, which is not valid: the token is discarded. -/
theorem test_steer : routes .steer 0 [flat 7 5] [flat 7 0] = some 5 ∧ routes .steer 0 [flat 7 5] [flat 7 1] = none := by decide

/-- R175 to R178: a first value; an invariant; the arm a decision names; the oldest of the port SEL names. -/
theorem test_loops : fires .carry 0 0 [flat 7 5] [flat 7 6] [flat 7 1] = some 5 ∧ routes .inv 0 [flat 7 5] [flat 7 1] = some 5 ∧
    fires .merge 0 0 [flat 7 5] [flat 7 6] [flat 7 1] = some 6 ∧ fires .merge 0 0 [flat 7 5] [flat 7 6] [flat 7 0] = some 5 ∧
    fires .cinch 0 1 [flat 7 5] [flat 7 6] [] = some 6 := by decide

/-- R179, R182: DROP.V passes data and drops a void token; EOS passes a token on. -/
theorem test_passing : fires .drop 1 0 [flat 7 5] [] [] = some 5 ∧ fires .drop 1 0 [voidToken zeroLanes 7 5] [] [] = none ∧
    routes .eos 2 [flat 7 5] [] = some 5 := by decide

/-! ## Words of a control block (R192) -/

/-- The values that a control instruction puts on its way. -/
def answers (i : FC → Instr) (mod : BitVec 8) (imm : BitVec 10) (a b : List Word64) : List (Option KTok) :=
  match exec (i (wordFC mod (if a.isEmpty then off else one) (if b.isEmpty then off else one) off imm)) (ks a b []) with
  | .next t => ((t.kblk ⟨0, 0, 0⟩).map fun b => b.slots[0].rob.map KRob.res).getD []
  | _ => []

/-- A value, not void. -/
def gives (v : Word64) : List (Option KTok) := [some ⟨v, false⟩]

/-- R192: sums and differences modulo 2^64, an immediate, the high halves of −1 · 2. -/
theorem test_scalar_arithmetic : answers .kadd 0 0 [0xFFFFFFFFFFFFFFFF] [1] = gives 0 ∧ answers .kadd 0 0x3FF [5] [] = gives 4 ∧
    answers .ksub 0 0 [3] [5] = gives 0xFFFFFFFFFFFFFFFE ∧ answers .kmul 1 0 [0xFFFFFFFFFFFFFFFF] [2] = gives 0xFFFFFFFFFFFFFFFF ∧
    answers .kmul 2 0 [0xFFFFFFFFFFFFFFFF] [2] = gives 1 := by decide

/-- R192: bits, shifts by 64 and more, compares signed and unsigned. -/
theorem test_scalar_bits : answers .kand 0 0 [0xFF0] [0x0FF] = gives 0x0F0 ∧ answers .kor 0 0 [0xFF0] [0x0FF] = gives 0xFFF ∧
    answers .kxor 0 0 [0xFF0] [0x0FF] = gives 0xF0F ∧ answers .kshl 0 0 [1] [64] = gives 0 ∧
    answers .kshr 1 0 [0x8000000000000000] [63] = gives 1 ∧
    answers .kshr 3 0 [0x8000000000000000] [64] = gives 0xFFFFFFFFFFFFFFFF ∧
    answers .kcmp 2 0 [0xFFFFFFFFFFFFFFFF] [1] = gives 1 ∧ answers .kcmp 10 0 [0xFFFFFFFFFFFFFFFF] [1] = gives 0 := by decide

/-! ## Digests (R372) -/

/-- The standard's own example: SHA-384 of the three bytes "abc", its first byte 0xCB. -/
theorem test_sha384 : sha384 [0x61, 0x62, 0x63] =
    0xA725C834A1ECBA5823CCE7A12B078680ED5BFF435A608B1A63D1DE0EAB322C270750C69A693DA0B58B5EA3453F7500CB := by decide +kernel

end Sys2Proof.Tests
end

