-- ==== Sys2Proof/Tests/Words.lean ====
section
/-! SUPPORT. Decoding tests.  Each word is packed field by field from the tables of R63 (OP, MOD, T0, T1), R65, R66, R68
and R73, with the operands of R65 and R66 at different values, so that no two fields could be exchanged unseen.  The
words of FADD, ISUB, FMA, CONST, SEL, ARGMX, DOT, STEER, RHEAD, SADM, LD, LDK, EGPUT, MTASK, REP and KSTM are those the
spec prints. -/

namespace Sys2Proof

set_option maxRecDepth 100000

/-- The word decodes to the instruction. -/
abbrev Reads (w : Word64) (i : Instr) : Prop := decode w = .instr i

/-- Words of the integer family, packed by hand from R63 to R73. -/
theorem test_decode_integer_1 :
    Reads 0x0174_87A8_5240_03FB (.iadd ⟨0x74, ⟨true, 7, 2⟩, ⟨true, 33, 1⟩, ⟨1, 1⟩, ⟨0, 0⟩, ⟨0, 0⟩, 0x3FB⟩) ∧
    Reads 0x0270_8E6F_A240_0018 (.isub ⟨0x70, ⟨true, 14, 1⟩, ⟨true, 62, 2⟩, ⟨1, 1⟩, ⟨0, 0⟩, ⟨0, 0⟩, 0x18⟩) ∧
    Reads 0x0388_8780_0649_0000 (.imul ⟨0x88, ⟨true, 7, 2⟩, ⟨false, 0, 0⟩, ⟨3, 1⟩, ⟨1, 1⟩, ⟨0, 0⟩, 0x0⟩) ∧
    Reads 0x0492_87A8_5248_0000 (.imulh ⟨0x92, ⟨true, 7, 2⟩, ⟨true, 33, 1⟩, ⟨1, 1⟩, ⟨1, 0⟩, ⟨0, 0⟩, 0x0⟩) ∧
    Reads 0x05A4_83E8_5248_1C00 (.imad ⟨0xA4, ⟨true, 3, 3⟩, ⟨true, 33, 1⟩, ⟨1, 1⟩, ⟨1, 0⟩, ⟨0, 7⟩, 0x0⟩) ∧
    Reads 0x0678_87A8_51C0_0000 (.ineg ⟨0x78, ⟨true, 7, 2⟩, ⟨true, 33, 1⟩, ⟨0, 7⟩, ⟨0, 0⟩, ⟨0, 0⟩, 0x0⟩) ∧
    Reads 0x0784_8780_0480_0000 (.iabs ⟨0x84, ⟨true, 7, 2⟩, ⟨false, 0, 0⟩, ⟨2, 2⟩, ⟨0, 0⟩, ⟨0, 0⟩, 0x0⟩) ∧
    Reads 0x0892_8780_0240_00FF (.imin ⟨0x92, ⟨true, 7, 2⟩, ⟨false, 0, 0⟩, ⟨1, 1⟩, ⟨0, 0⟩, ⟨0, 0⟩, 0xFF⟩) ∧
    Reads 0x0990_8780_0240_0380 (.imax ⟨0x90, ⟨true, 7, 2⟩, ⟨false, 0, 0⟩, ⟨1, 1⟩, ⟨0, 0⟩, ⟨0, 0⟩, 0x380⟩) ∧
    Reads 0x0A00_87A8_5240_03FF (.and ⟨0x00, ⟨true, 7, 2⟩, ⟨true, 33, 1⟩, ⟨1, 1⟩, ⟨0, 0⟩, ⟨0, 0⟩, 0x3FF⟩) ∧
    Reads 0x0B70_87A8_5209_0000 (.or ⟨0x70, ⟨true, 7, 2⟩, ⟨true, 33, 1⟩, ⟨1, 0⟩, ⟨1, 1⟩, ⟨0, 0⟩, 0x0⟩) ∧
    Reads 0x0CA0_87A8_5240_007F (.xor ⟨0xA0, ⟨true, 7, 2⟩, ⟨true, 33, 1⟩, ⟨1, 1⟩, ⟨0, 0⟩, ⟨0, 0⟩, 0x7F⟩) ∧
    Reads 0x0D80_87A8_5240_0000 (.not ⟨0x80, ⟨true, 7, 2⟩, ⟨true, 33, 1⟩, ⟨1, 1⟩, ⟨0, 0⟩, ⟨0, 0⟩, 0x0⟩) ∧
    Reads 0x0E00_87A8_5240_001F (.shl ⟨0x00, ⟨true, 7, 2⟩, ⟨true, 33, 1⟩, ⟨1, 1⟩, ⟨0, 0⟩, ⟨0, 0⟩, 0x1F⟩) := by decide

/-- Words of the integer family, packed by hand from R63 to R73. -/
theorem test_decode_integer_2 :
    Reads 0x0F80_87A8_5240_000F (.shr ⟨0x80, ⟨true, 7, 2⟩, ⟨true, 33, 1⟩, ⟨1, 1⟩, ⟨0, 0⟩, ⟨0, 0⟩, 0xF⟩) ∧
    Reads 0x1090_87A8_5240_0007 (.sar ⟨0x90, ⟨true, 7, 2⟩, ⟨true, 33, 1⟩, ⟨1, 1⟩, ⟨0, 0⟩, ⟨0, 0⟩, 0x7⟩) ∧
    Reads 0x1170_87A8_5248_0000 (.rotl ⟨0x70, ⟨true, 7, 2⟩, ⟨true, 33, 1⟩, ⟨1, 1⟩, ⟨1, 0⟩, ⟨0, 0⟩, 0x0⟩) ∧
    Reads 0x1270_87A8_5240_0000 (.clz ⟨0x70, ⟨true, 7, 2⟩, ⟨true, 33, 1⟩, ⟨1, 1⟩, ⟨0, 0⟩, ⟨0, 0⟩, 0x0⟩) ∧
    Reads 0x1300_A161_E240_0000 (.popc ⟨0x00, ⟨true, 33, 1⟩, ⟨true, 7, 2⟩, ⟨1, 1⟩, ⟨0, 0⟩, ⟨0, 0⟩, 0x0⟩) ∧
    Reads 0x1470_87A8_5240_00F8 (.bfx ⟨0x70, ⟨true, 7, 2⟩, ⟨true, 33, 1⟩, ⟨1, 1⟩, 0xF8⟩) ∧
    Reads 0x1500_87A8_5248_01F0 (.bfi ⟨0x00, ⟨true, 7, 2⟩, ⟨true, 33, 1⟩, ⟨1, 1⟩, ⟨1, 0⟩, ⟨0, 0⟩, 0x1F0⟩) ∧
    Reads 0x1672_87A8_5249_0005 (.icmp ⟨0x72, ⟨true, 7, 2⟩, ⟨true, 33, 1⟩, ⟨1, 1⟩, ⟨1, 1⟩, ⟨0, 0⟩, 0x5⟩) ∧
    Reads 0x1770_8A2D_C249_2000 (.sel ⟨0x70, ⟨true, 10, 0⟩, ⟨true, 55, 0⟩, ⟨1, 1⟩, ⟨1, 1⟩, ⟨1, 0⟩, 0x0⟩) ∧
    Reads 0x1821_87A8_5240_0000 (.mov ⟨0x21, ⟨true, 7, 2⟩, ⟨true, 33, 1⟩, ⟨1, 1⟩, ⟨0, 0⟩, ⟨0, 0⟩, 0x0⟩) ∧
    Reads 0x1923_8280_0000_4040 (.const ⟨0x23, ⟨true, 2, 2⟩, ⟨false, 0, 0⟩, 0x4040⟩) ∧
    Reads 0x1A70_87A8_5000_0000 (.lane ⟨0x70, ⟨true, 7, 2⟩, ⟨true, 33, 1⟩, ⟨0, 0⟩, ⟨0, 0⟩, ⟨0, 0⟩, 0x0⟩) ∧
    Reads 0x1B70_87A8_5240_0000 (.coord ⟨0x70, ⟨true, 7, 2⟩, ⟨true, 33, 1⟩, ⟨1, 1⟩, ⟨0, 0⟩, ⟨0, 0⟩, 0x0⟩) ∧
    Reads 0x1C71_87A8_5640_0000 (.phase ⟨0x71, ⟨true, 7, 2⟩, ⟨true, 33, 1⟩, ⟨3, 1⟩, ⟨0, 0⟩, ⟨0, 0⟩, 0x0⟩) := by decide

/-- Words of the floating family, packed by hand from R63 to R73. -/
theorem test_decode_floating :
    Reads 0x2010_8B00_0249_0000 (.fadd ⟨0x10, ⟨true, 11, 0⟩, ⟨false, 0, 0⟩, ⟨1, 1⟩, ⟨1, 1⟩, ⟨0, 0⟩, 0x0⟩) ∧
    Reads 0x2126_87A8_5248_0000 (.fsub ⟨0x26, ⟨true, 7, 2⟩, ⟨true, 33, 1⟩, ⟨1, 1⟩, ⟨1, 0⟩, ⟨0, 0⟩, 0x0⟩) ∧
    Reads 0x2238_87A8_5652_0000 (.fmul ⟨0x38, ⟨true, 7, 2⟩, ⟨true, 33, 1⟩, ⟨3, 1⟩, ⟨2, 2⟩, ⟨0, 0⟩, 0x0⟩) ∧
    Reads 0x2320_8621_D248_2400 (.fma ⟨0x20, ⟨true, 6, 0⟩, ⟨true, 7, 1⟩, ⟨1, 1⟩, ⟨1, 0⟩, ⟨1, 1⟩, 0x0⟩) ∧
    Reads 0x2412_87A8_5249_0000 (.fmin ⟨0x12, ⟨true, 7, 2⟩, ⟨true, 33, 1⟩, ⟨1, 1⟩, ⟨1, 1⟩, ⟨0, 0⟩, 0x0⟩) ∧
    Reads 0x2520_A161_E249_0000 (.fmax ⟨0x20, ⟨true, 33, 1⟩, ⟨true, 7, 2⟩, ⟨1, 1⟩, ⟨1, 1⟩, ⟨0, 0⟩, 0x0⟩) ∧
    Reads 0x2630_87A8_5240_0000 (.fabs ⟨0x30, ⟨true, 7, 2⟩, ⟨true, 33, 1⟩, ⟨1, 1⟩, ⟨0, 0⟩, ⟨0, 0⟩, 0x0⟩) ∧
    Reads 0x2710_A140_0240_0000 (.fneg ⟨0x10, ⟨true, 33, 1⟩, ⟨false, 0, 0⟩, ⟨1, 1⟩, ⟨0, 0⟩, ⟨0, 0⟩, 0x0⟩) ∧
    Reads 0x2810_87A8_5249_0007 (.fcmp ⟨0x10, ⟨true, 7, 2⟩, ⟨true, 33, 1⟩, ⟨1, 1⟩, ⟨1, 1⟩, ⟨0, 0⟩, 0x7⟩) ∧
    Reads 0x2920_87A8_5240_0000 (.fclass ⟨0x20, ⟨true, 7, 2⟩, ⟨true, 33, 1⟩, ⟨1, 1⟩, ⟨0, 0⟩, ⟨0, 0⟩, 0x0⟩) ∧
    Reads 0x2A1C_87A8_5240_0200 (.fscl ⟨0x1C, ⟨true, 7, 2⟩, ⟨true, 33, 1⟩, ⟨1, 1⟩, ⟨0, 0⟩, ⟨0, 0⟩, 0x200⟩) := by decide

/-- Words of the function unit family, packed by hand from R63 to R73. -/
theorem test_decode_function_unit :
    Reads 0x3010_87A8_5240_0000 (.rcp ⟨0x10, ⟨true, 7, 2⟩, ⟨true, 33, 1⟩, ⟨1, 1⟩, ⟨0, 0⟩, ⟨0, 0⟩, 0x0⟩) ∧
    Reads 0x3114_87A8_5640_0000 (.rsq ⟨0x14, ⟨true, 7, 2⟩, ⟨true, 33, 1⟩, ⟨3, 1⟩, ⟨0, 0⟩, ⟨0, 0⟩, 0x0⟩) ∧
    Reads 0x3218_87A8_5240_0000 (.exp2 ⟨0x18, ⟨true, 7, 2⟩, ⟨true, 33, 1⟩, ⟨1, 1⟩, ⟨0, 0⟩, ⟨0, 0⟩, 0x0⟩) ∧
    Reads 0x331C_87A8_5240_0000 (.log2 ⟨0x1C, ⟨true, 7, 2⟩, ⟨true, 33, 1⟩, ⟨1, 1⟩, ⟨0, 0⟩, ⟨0, 0⟩, 0x0⟩) ∧
    Reads 0x3472_87A8_5240_0000 (.tcos ⟨0x72, ⟨true, 7, 2⟩, ⟨true, 33, 1⟩, ⟨1, 1⟩, ⟨0, 0⟩, ⟨0, 0⟩, 0x0⟩) ∧
    Reads 0x357E_8780_01C0_0000 (.tsin ⟨0x7E, ⟨true, 7, 2⟩, ⟨false, 0, 0⟩, ⟨0, 7⟩, ⟨0, 0⟩, ⟨0, 0⟩, 0x0⟩) := by decide

/-- Words of the conversion family, packed by hand from R63 to R73. -/
theorem test_decode_conversion :
    Reads 0x4010_87A8_5480_0002 (.cvt ⟨0x10, ⟨true, 7, 2⟩, ⟨true, 33, 1⟩, ⟨2, 2⟩, ⟨0, 0⟩, ⟨0, 0⟩, 0x2⟩) ∧
    Reads 0x4110_87A8_5240_0036 (.qnt ⟨0x10, ⟨true, 7, 2⟩, ⟨true, 33, 1⟩, ⟨1, 1⟩, ⟨0, 0⟩, ⟨0, 0⟩, 0x36⟩) ∧
    Reads 0x4264_87A8_5900_0002 (.dqt ⟨0x64, ⟨true, 7, 2⟩, ⟨true, 33, 1⟩, ⟨4, 4⟩, ⟨0, 0⟩, ⟨0, 0⟩, 0x2⟩) ∧
    Reads 0x4380_87A8_5480_0009 (.pack ⟨0x80, ⟨true, 7, 2⟩, ⟨true, 33, 1⟩, ⟨2, 2⟩, ⟨0, 0⟩, ⟨0, 0⟩, 0x9⟩) ∧
    Reads 0x44A0_87A8_5640_0007 (.unpk ⟨0xA0, ⟨true, 7, 2⟩, ⟨true, 33, 1⟩, ⟨3, 1⟩, ⟨0, 0⟩, ⟨0, 0⟩, 0x7⟩) ∧
    Reads 0x453C_87A8_5240_0000 (.rndi ⟨0x3C, ⟨true, 7, 2⟩, ⟨true, 33, 1⟩, ⟨1, 1⟩, ⟨0, 0⟩, ⟨0, 0⟩, 0x0⟩) ∧
    Reads 0x4620_87A8_5240_008B (.sclc ⟨0x20, ⟨true, 7, 2⟩, ⟨true, 33, 1⟩, ⟨1, 1⟩, ⟨0, 0⟩, ⟨0, 0⟩, 0x8B⟩) := by decide

/-- Words of the cross-lane family, packed by hand from R63 to R73. -/
theorem test_decode_cross_lane :
    Reads 0x501C_87A8_5240_0000 (.rsum ⟨0x1C, ⟨true, 7, 2⟩, ⟨true, 33, 1⟩, ⟨1, 1⟩, ⟨0, 0⟩, ⟨0, 0⟩, 0x0⟩) ∧
    Reads 0x5180_87A8_5240_0000 (.rmax ⟨0x80, ⟨true, 7, 2⟩, ⟨true, 33, 1⟩, ⟨1, 1⟩, ⟨0, 0⟩, ⟨0, 0⟩, 0x0⟩) ∧
    Reads 0x52A0_87A8_51C0_0000 (.rmin ⟨0xA0, ⟨true, 7, 2⟩, ⟨true, 33, 1⟩, ⟨0, 7⟩, ⟨0, 0⟩, ⟨0, 0⟩, 0x0⟩) ∧
    Reads 0x5320_8900_0240_0000 (.argmx ⟨0x20, ⟨true, 9, 0⟩, ⟨false, 0, 0⟩, ⟨1, 1⟩, ⟨0, 0⟩, ⟨0, 0⟩, 0x0⟩) ∧
    Reads 0x5473_87A8_5240_0000 (.scan ⟨0x73, ⟨true, 7, 2⟩, ⟨true, 33, 1⟩, ⟨1, 1⟩, ⟨0, 0⟩, ⟨0, 0⟩, 0x0⟩) ∧
    Reads 0x5590_9E00_0658_0000 (.dot ⟨0x90, ⟨true, 30, 0⟩, ⟨false, 0, 0⟩, ⟨3, 1⟩, ⟨3, 0⟩, ⟨0, 0⟩, 0x0⟩) ∧
    Reads 0x5640_87A8_5240_010D (.perm ⟨0x40, ⟨true, 7, 2⟩, ⟨true, 33, 1⟩, ⟨1, 1⟩, ⟨0, 0⟩, ⟨0, 0⟩, 0x10D⟩) ∧
    Reads 0x5790_87A8_5240_003E (.bcast ⟨0x90, ⟨true, 7, 2⟩, ⟨true, 33, 1⟩, ⟨1, 1⟩, 0x3E⟩) ∧
    Reads 0x5860_87A8_5600_0002 (.adv ⟨0x60, ⟨true, 7, 2⟩, ⟨true, 33, 1⟩, ⟨3, 0⟩, ⟨0, 0⟩, ⟨0, 0⟩, 0x2⟩) := by decide

/-- Words of the router family, packed by hand from R63 to R73. -/
theorem test_decode_router :
    Reads 0x6000_80E4_0249_0000 (.steer ⟨0x00, ⟨true, 0, 3⟩, ⟨true, 16, 0⟩, ⟨1, 1⟩, ⟨1, 1⟩, 0x0⟩) ∧
    Reads 0x6100_87A8_5249_2400 (.carry ⟨0x00, ⟨true, 7, 2⟩, ⟨true, 33, 1⟩, ⟨1, 1⟩, ⟨1, 1⟩, ⟨1, 1⟩, 0x0⟩) ∧
    Reads 0x6200_87A8_5249_0000 (.inv ⟨0x00, ⟨true, 7, 2⟩, ⟨true, 33, 1⟩, ⟨1, 1⟩, ⟨1, 1⟩, 0x0⟩) ∧
    Reads 0x6300_A160_F249_2400 (.merge ⟨0x00, ⟨true, 33, 1⟩, ⟨true, 3, 3⟩, ⟨1, 1⟩, ⟨1, 1⟩, ⟨1, 1⟩, 0x0⟩) ∧
    Reads 0x6400_87A8_5240_2400 (.amrg ⟨0x00, ⟨true, 7, 2⟩, ⟨true, 33, 1⟩, ⟨1, 1⟩, ⟨0, 0⟩, ⟨1, 1⟩, 0x0⟩) ∧
    Reads 0x6500_87A8_5248_640E (.cinch ⟨0x00, ⟨true, 7, 2⟩, ⟨true, 33, 1⟩, ⟨1, 1⟩, ⟨1, 0⟩, ⟨3, 1⟩, 0xE⟩) ∧
    Reads 0x6601_87A8_5240_0000 (.drop ⟨0x01, ⟨true, 7, 2⟩, ⟨true, 33, 1⟩, ⟨1, 1⟩, ⟨0, 0⟩, ⟨0, 0⟩, 0x0⟩) ∧
    Reads 0x6700_0000_0240_8000 (.count ⟨0x00, ⟨false, 0, 0⟩, ⟨false, 0, 0⟩, ⟨1, 1⟩, ⟨0, 0⟩, 0x8000⟩) ∧
    Reads 0x6800_87A8_5240_F600 (.lctr ⟨0x00, ⟨true, 7, 2⟩, ⟨true, 33, 1⟩, ⟨1, 1⟩, ⟨0, 0⟩, 0xF600⟩) ∧
    Reads 0x6900_87A8_5240_FFFF (.eos ⟨0x00, ⟨true, 7, 2⟩, ⟨true, 33, 1⟩, ⟨1, 1⟩, ⟨0, 0⟩, 0xFFFF⟩) ∧
    Reads 0x6A00_87A8_5249_1234 (.gate ⟨0x00, ⟨true, 7, 2⟩, ⟨true, 33, 1⟩, ⟨1, 1⟩, ⟨1, 1⟩, 0x1234⟩) := by decide

/-- Words of the rotation family, packed by hand from R63 to R73. -/
theorem test_decode_rotation :
    Reads 0x7000_8000_0249_2402 (.rhead ⟨0x00, ⟨true, 0, 0⟩, ⟨false, 0, 0⟩, ⟨1, 1⟩, ⟨1, 1⟩, ⟨1, 1⟩, 0x2⟩) ∧
    Reads 0x7012_8780_0249_0220 (.rheadLa ⟨0x12, ⟨true, 7, 2⟩, ⟨false, 0, 0⟩, ⟨1, 1⟩, ⟨1, 1⟩, ⟨0, 0⟩, 0x220⟩) ∧
    Reads 0x7120_8680_0240_0000 (.sadm ⟨0x20, ⟨true, 6, 2⟩, ⟨false, 0, 0⟩, ⟨1, 1⟩, ⟨0, 0⟩, ⟨0, 0⟩, 0x0⟩) ∧
    Reads 0x7200_87A8_5240_0000 (.sevc ⟨0x00, ⟨true, 7, 2⟩, ⟨true, 33, 1⟩, ⟨1, 1⟩, ⟨0, 0⟩, ⟨0, 0⟩, 0x0⟩) ∧
    Reads 0x7300_87A8_5240_0000 (.shld ⟨0x00, ⟨true, 7, 2⟩, ⟨true, 33, 1⟩, ⟨1, 1⟩, ⟨0, 0⟩, ⟨0, 0⟩, 0x0⟩) ∧
    Reads 0x7301_87A8_5240_0000 (.shldU ⟨0x01, ⟨true, 7, 2⟩, ⟨true, 33, 1⟩, ⟨1, 1⟩, ⟨0, 0⟩, ⟨0, 0⟩, 0x0⟩) ∧
    Reads 0x7400_87A8_5240_0000 (.srel ⟨0x00, ⟨true, 7, 2⟩, ⟨true, 33, 1⟩, ⟨1, 1⟩, ⟨0, 0⟩, ⟨0, 0⟩, 0x0⟩) ∧
    Reads 0x7500_8780_0240_0000 (.sclr ⟨0x00, ⟨true, 7, 2⟩, ⟨false, 0, 0⟩, ⟨1, 1⟩, ⟨0, 0⟩, ⟨0, 0⟩, 0x0⟩) ∧
    Reads 0x7600_87A8_5240_0000 (.sstat ⟨0x00, ⟨true, 7, 2⟩, ⟨true, 33, 1⟩, ⟨1, 1⟩, ⟨0, 0⟩, ⟨0, 0⟩, 0x0⟩) ∧
    Reads 0x7700_87A8_5240_0000 (.bank ⟨0x00, ⟨true, 7, 2⟩, ⟨true, 33, 1⟩, ⟨1, 1⟩, ⟨0, 0⟩, ⟨0, 0⟩, 0x0⟩) ∧
    Reads 0x7800_87A8_5240_0000 (.unbank ⟨0x00, ⟨true, 7, 2⟩, ⟨true, 33, 1⟩, ⟨1, 1⟩, ⟨0, 0⟩, ⟨0, 0⟩, 0x0⟩) ∧
    Reads 0x7900_87A8_5240_0000 (.rerot ⟨0x00, ⟨true, 7, 2⟩, ⟨true, 33, 1⟩, ⟨1, 1⟩, ⟨0, 0⟩, ⟨0, 0⟩, 0x0⟩) ∧
    Reads 0x7A00_87A8_5249_0000 (.mark ⟨0x00, ⟨true, 7, 2⟩, ⟨true, 33, 1⟩, ⟨1, 1⟩, ⟨1, 1⟩, ⟨0, 0⟩, 0x0⟩) := by decide

/-- Words of the memory family, packed by hand from R63 to R73. -/
theorem test_decode_memory :
    Reads 0x8021_8640_0240_0000 (.ld ⟨0x21, ⟨true, 6, 1⟩, ⟨false, 0, 0⟩, ⟨1, 1⟩, ⟨0, 0⟩, 0, 0x0⟩) ∧
    Reads 0x8162_8780_0012_07FF (.st ⟨0x62, ⟨true, 7, 2⟩, ⟨false, 0, 0⟩, ⟨0, 0⟩, ⟨2, 2⟩, 0, 0x7FF⟩) ∧
    Reads 0x8211_87A8_5240_0010 (.lds ⟨0x11, ⟨true, 7, 2⟩, ⟨true, 33, 1⟩, ⟨1, 1⟩, ⟨0, 0⟩, 0, 0x10⟩) ∧
    Reads 0x8310_8780_0264_07FF (.stf ⟨0x10, ⟨true, 7, 2⟩, ⟨false, 0, 0⟩, ⟨1, 1⟩, ⟨4, 4⟩, 0, 0x7FF⟩) ∧
    Reads 0x8480_87A8_5240_2ABC (.ldx ⟨0x80, ⟨true, 7, 2⟩, ⟨true, 33, 1⟩, ⟨1, 1⟩, ⟨0, 0⟩, 2, 0xABC⟩) ∧
    Reads 0x8520_8780_0249_1004 (.stx ⟨0x20, ⟨true, 7, 2⟩, ⟨false, 0, 0⟩, ⟨1, 1⟩, ⟨1, 1⟩, 1, 0x4⟩) ∧
    Reads 0x860B_87A8_5249_2008 (.amo ⟨0x0B, ⟨true, 7, 2⟩, ⟨true, 33, 1⟩, ⟨1, 1⟩, ⟨1, 1⟩, 2, 0x8⟩) ∧
    Reads 0x8700_87A8_5240_0000 (.done ⟨0x00, ⟨true, 7, 2⟩, ⟨true, 33, 1⟩, ⟨1, 1⟩, ⟨0, 0⟩, 0, 0x0⟩) ∧
    Reads 0x8870_87A8_5249_0040 (.rpush ⟨0x70, ⟨true, 7, 2⟩, ⟨true, 33, 1⟩, ⟨1, 1⟩, ⟨1, 1⟩, 0, 0x40⟩) ∧
    Reads 0x8930_87A8_5240_0003 (.rpop ⟨0x30, ⟨true, 7, 2⟩, ⟨true, 33, 1⟩, ⟨1, 1⟩, ⟨0, 0⟩, 0, 0x3⟩) := by decide

/-- Words of the island family, packed by hand from R63 to R73. -/
theorem test_decode_island :
    Reads 0xA000_C600_0240_0100 (.mtask ⟨0x00, ⟨true, 70, 0⟩, ⟨false, 0, 0⟩, ⟨1, 1⟩, ⟨0, 0⟩, 0x1, 0x0⟩) ∧
    Reads 0xA100_87A8_5240_0200 (.msync ⟨0x00, ⟨true, 7, 2⟩, ⟨true, 33, 1⟩, ⟨1, 1⟩, ⟨0, 0⟩, 0x2, 0x0⟩) ∧
    Reads 0xA200_87A8_5240_0127 (.mdrain ⟨0x00, ⟨true, 7, 2⟩, ⟨true, 33, 1⟩, ⟨1, 1⟩, ⟨0, 0⟩, 0x1, 0x27⟩) ∧
    Reads 0xA300_8780_0240_1200 (.xreq ⟨0x00, ⟨true, 7, 2⟩, ⟨false, 0, 0⟩, ⟨1, 1⟩, ⟨0, 0⟩, 0x12, 0x0⟩) ∧
    Reads 0xA400_87A8_5249_13F0 (.xmc ⟨0x00, ⟨true, 7, 2⟩, ⟨true, 33, 1⟩, ⟨1, 1⟩, ⟨1, 1⟩, 0x13, 0xF0⟩) := by decide

/-- Words of the page family, packed by hand from R63 to R73. -/
theorem test_decode_page :
    Reads 0xB001_87A8_5240_4000 (.pglk ⟨0x01, ⟨true, 7, 2⟩, ⟨true, 33, 1⟩, ⟨1, 1⟩, ⟨0, 0⟩, 4, 0x0⟩) ∧
    Reads 0xB100_87A8_5240_4000 (.pgfork ⟨0x00, ⟨true, 7, 2⟩, ⟨true, 33, 1⟩, ⟨1, 1⟩, ⟨0, 0⟩, 4, 0x0⟩) ∧
    Reads 0xB200_8780_0240_4000 (.pgfree ⟨0x00, ⟨true, 7, 2⟩, ⟨false, 0, 0⟩, ⟨1, 1⟩, ⟨0, 0⟩, 4, 0x0⟩) ∧
    Reads 0xB301_A161_E240_4000 (.pgbase ⟨0x01, ⟨true, 33, 1⟩, ⟨true, 7, 2⟩, ⟨1, 1⟩, ⟨0, 0⟩, 4, 0x0⟩) ∧
    Reads 0xB4B0_C800_0240_2040 (.ldk ⟨0xB0, ⟨true, 72, 0⟩, ⟨false, 0, 0⟩, ⟨1, 1⟩, ⟨0, 0⟩, 2, 0x40⟩) ∧
    Reads 0xB560_87A8_5240_1041 (.ldv ⟨0x60, ⟨true, 7, 2⟩, ⟨true, 33, 1⟩, ⟨1, 1⟩, ⟨0, 0⟩, 1, 0x41⟩) ∧
    Reads 0xB663_8780_0249_1FFF (.kapp ⟨0x63, ⟨true, 7, 2⟩, ⟨false, 0, 0⟩, ⟨1, 1⟩, ⟨1, 1⟩, 1, 0xFFF⟩) := by decide

/-- Words of the sampling family, packed by hand from R63 to R73. -/
theorem test_decode_sampling :
    Reads 0xB710_8780_0249_000F (.smrg ⟨0x10, ⟨true, 7, 2⟩, ⟨false, 0, 0⟩, ⟨1, 1⟩, ⟨1, 1⟩, ⟨0, 0⟩, 0xF⟩) ∧
    Reads 0xB810_87A8_5249_03FF (.rsvr ⟨0x10, ⟨true, 7, 2⟩, ⟨true, 33, 1⟩, ⟨1, 1⟩, ⟨1, 1⟩, ⟨0, 0⟩, 0x3FF⟩) ∧
    Reads 0xB970_87A8_5240_0000 (.rdraw ⟨0x70, ⟨true, 7, 2⟩, ⟨true, 33, 1⟩, ⟨1, 1⟩, ⟨0, 0⟩, ⟨0, 0⟩, 0x0⟩) ∧
    Reads 0xBA70_8780_0249_2555 (.accpt ⟨0x70, ⟨true, 7, 2⟩, ⟨false, 0, 0⟩, ⟨1, 1⟩, ⟨1, 1⟩, ⟨1, 1⟩, 0x155⟩) ∧
    Reads 0xBB00_82ED_8240_0000 (.egput ⟨0x00, ⟨true, 2, 3⟩, ⟨true, 54, 0⟩, ⟨1, 1⟩, ⟨0, 0⟩, 0, 0x0⟩) ∧
    Reads 0xBC00_8780_0240_0000 (.egver ⟨0x00, ⟨true, 7, 2⟩, ⟨false, 0, 0⟩, ⟨1, 1⟩, ⟨0, 0⟩, 0, 0x0⟩) ∧
    Reads 0xBD00_87A8_5240_0000 (.egrst ⟨0x00, ⟨true, 7, 2⟩, ⟨true, 33, 1⟩, ⟨1, 1⟩, ⟨0, 0⟩, 0, 0x0⟩) ∧
    Reads 0xBE00_8780_0240_001F (.rein ⟨0x00, ⟨true, 7, 2⟩, ⟨false, 0, 0⟩, ⟨1, 1⟩, ⟨0, 0⟩, 0x1F⟩) := by decide

/-- Words of the control family, packed by hand from R63 to R73. -/
theorem test_decode_control_1 :
    Reads 0xC000_E43F_E240_0200 (.kadd ⟨0x00, ⟨true, 100, 0⟩, ⟨true, 127, 2⟩, ⟨1, 1⟩, ⟨0, 0⟩, ⟨0, 0⟩, 0x200⟩) ∧
    Reads 0xC100_E400_0249_0000 (.ksub ⟨0x00, ⟨true, 100, 0⟩, ⟨false, 0, 0⟩, ⟨1, 1⟩, ⟨1, 1⟩, ⟨0, 0⟩, 0x0⟩) ∧
    Reads 0xC202_E43F_E240_01FF (.kmul ⟨0x02, ⟨true, 100, 0⟩, ⟨true, 127, 2⟩, ⟨1, 1⟩, ⟨0, 0⟩, ⟨0, 0⟩, 0x1FF⟩) ∧
    Reads 0xC300_E43F_E240_00FF (.kand ⟨0x00, ⟨true, 100, 0⟩, ⟨true, 127, 2⟩, ⟨1, 1⟩, ⟨0, 0⟩, ⟨0, 0⟩, 0xFF⟩) ∧
    Reads 0xC400_E43F_E249_0000 (.kor ⟨0x00, ⟨true, 100, 0⟩, ⟨true, 127, 2⟩, ⟨1, 1⟩, ⟨1, 1⟩, ⟨0, 0⟩, 0x0⟩) ∧
    Reads 0xC500_E43F_E240_03FF (.kxor ⟨0x00, ⟨true, 100, 0⟩, ⟨true, 127, 2⟩, ⟨1, 1⟩, ⟨0, 0⟩, ⟨0, 0⟩, 0x3FF⟩) ∧
    Reads 0xC600_E400_0240_003F (.kshl ⟨0x00, ⟨true, 100, 0⟩, ⟨false, 0, 0⟩, ⟨1, 1⟩, ⟨0, 0⟩, ⟨0, 0⟩, 0x3F⟩) ∧
    Reads 0xC603_E400_0249_0000 (.kshr ⟨0x03, ⟨true, 100, 0⟩, ⟨false, 0, 0⟩, ⟨1, 1⟩, ⟨1, 1⟩, ⟨0, 0⟩, 0x0⟩) ∧
    Reads 0xC70D_E422_3240_03FD (.kcmp ⟨0x0D, ⟨true, 100, 0⟩, ⟨true, 8, 3⟩, ⟨1, 1⟩, ⟨0, 0⟩, ⟨0, 0⟩, 0x3FD⟩) ∧
    Reads 0xC800_E43F_E249_2400 (.ksel ⟨0x00, ⟨true, 100, 0⟩, ⟨true, 127, 2⟩, ⟨1, 1⟩, ⟨1, 1⟩, ⟨1, 1⟩, 0x0⟩) ∧
    Reads 0xC902_E400_0FED_CBA9 (.kmovi ⟨0x02, ⟨true, 100, 0⟩, ⟨false, 0, 0⟩, 0xFEDCBA9⟩) ∧
    Reads 0xCA00_E43F_E240_0008 (.kld ⟨0x00, ⟨true, 100, 0⟩, ⟨true, 127, 2⟩, ⟨1, 1⟩, ⟨0, 0⟩, ⟨0, 0⟩, 0x8⟩) ∧
    Reads 0xCB00_E400_0249_03F8 (.kst ⟨0x00, ⟨true, 100, 0⟩, ⟨false, 0, 0⟩, ⟨1, 1⟩, ⟨1, 1⟩, ⟨0, 0⟩, 0x3F8⟩) ∧
    Reads 0xCC00_8800_0240_0040 (.kstm ⟨0x00, ⟨true, 8, 0⟩, ⟨false, 0, 0⟩, ⟨1, 1⟩, ⟨0, 0⟩, ⟨0, 0⟩, 0x40⟩) := by decide

/-- Words of the control family, packed by hand from R63 to R73. -/
theorem test_decode_control_2 :
    Reads 0xCD00_E43F_E240_03E0 (.kldm ⟨0x00, ⟨true, 100, 0⟩, ⟨true, 127, 2⟩, ⟨1, 1⟩, ⟨0, 0⟩, ⟨0, 0⟩, 0x3E0⟩) ∧
    Reads 0xCE00_E43F_E000_0220 (.krd ⟨0x00, ⟨true, 100, 0⟩, ⟨true, 127, 2⟩, ⟨0, 0⟩, ⟨0, 0⟩, ⟨0, 0⟩, 0x220⟩) ∧
    Reads 0xCF00_0000_0240_00A0 (.kwr ⟨0x00, ⟨false, 0, 0⟩, ⟨false, 0, 0⟩, ⟨1, 1⟩, ⟨0, 0⟩, ⟨0, 0⟩, 0xA0⟩) ∧
    Reads 0xD000_0000_0000_03FE (.bra ⟨0x00, ⟨false, 0, 0⟩, ⟨false, 0, 0⟩, ⟨0, 0⟩, ⟨0, 0⟩, ⟨0, 0⟩, 0x3FE⟩) ∧
    Reads 0xD100_0000_0240_0000 (.bcall ⟨0x00, ⟨false, 0, 0⟩, ⟨false, 0, 0⟩, ⟨1, 1⟩, ⟨0, 0⟩, ⟨0, 0⟩, 0x0⟩) ∧
    Reads 0xD200_0000_0240_0000 (.bret ⟨0x00, ⟨false, 0, 0⟩, ⟨false, 0, 0⟩, ⟨1, 1⟩, ⟨0, 0⟩, ⟨0, 0⟩, 0x0⟩) ∧
    Reads 0xD300_0000_0000_0046 (.rep ⟨0x00, ⟨false, 0, 0⟩, ⟨false, 0, 0⟩, ⟨0, 0⟩, ⟨0, 0⟩, ⟨0, 0⟩, 0x46⟩) ∧
    Reads 0xD403_E400_0240_0120 (.qsend ⟨0x03, ⟨true, 100, 0⟩, ⟨false, 0, 0⟩, ⟨1, 1⟩, ⟨0, 0⟩, ⟨0, 0⟩, 0x120⟩) ∧
    Reads 0xD507_E43F_E000_0120 (.qrecv ⟨0x07, ⟨true, 100, 0⟩, ⟨true, 127, 2⟩, ⟨0, 0⟩, ⟨0, 0⟩, ⟨0, 0⟩, 0x120⟩) ∧
    Reads 0xD600_E43F_E240_03FF (.csrrd ⟨0x00, ⟨true, 100, 0⟩, ⟨true, 127, 2⟩, ⟨1, 1⟩, ⟨0, 0⟩, ⟨0, 0⟩, 0x3FF⟩) ∧
    Reads 0xD700_E400_0240_0020 (.csrwr ⟨0x00, ⟨true, 100, 0⟩, ⟨false, 0, 0⟩, ⟨1, 1⟩, ⟨0, 0⟩, ⟨0, 0⟩, 0x20⟩) ∧
    Reads 0xD800_0000_0000_0085 (.trap ⟨0x00, ⟨false, 0, 0⟩, ⟨false, 0, 0⟩, ⟨0, 0⟩, ⟨0, 0⟩, ⟨0, 0⟩, 0x85⟩) ∧
    Reads 0xD900_0000_0249_0000 (.eret ⟨0x00, ⟨false, 0, 0⟩, ⟨false, 0, 0⟩, ⟨1, 1⟩, ⟨1, 1⟩, ⟨0, 0⟩, 0x0⟩) ∧
    Reads 0xDA00_E43F_E240_0000 (.wfe ⟨0x00, ⟨true, 100, 0⟩, ⟨true, 127, 2⟩, ⟨1, 1⟩, ⟨0, 0⟩, ⟨0, 0⟩, 0x0⟩) := by decide

/-- Words of the control family, packed by hand from R63 to R73. -/
theorem test_decode_control_3 :
    Reads 0xDB00_E400_0000_0007 (.evpop ⟨0x00, ⟨true, 100, 0⟩, ⟨false, 0, 0⟩, ⟨0, 0⟩, ⟨0, 0⟩, ⟨0, 0⟩, 0x7⟩) ∧
    Reads 0xDC00_E400_0249_0000 (.prcw ⟨0x00, ⟨true, 100, 0⟩, ⟨false, 0, 0⟩, ⟨1, 1⟩, ⟨1, 1⟩, ⟨0, 0⟩, 0x0⟩) ∧
    Reads 0xDC01_E43F_E249_0000 (.prcwS ⟨0x01, ⟨true, 100, 0⟩, ⟨true, 127, 2⟩, ⟨1, 1⟩, ⟨1, 1⟩, ⟨0, 0⟩, 0x0⟩) ∧
    Reads 0xDD00_E400_0240_0000 (.launch ⟨0x00, ⟨true, 100, 0⟩, ⟨false, 0, 0⟩, ⟨1, 1⟩, ⟨0, 0⟩, ⟨0, 0⟩, 0x0⟩) ∧
    Reads 0xDE00_0000_0000_0000 (.halt ⟨0x00, ⟨false, 0, 0⟩, ⟨false, 0, 0⟩, ⟨0, 0⟩, ⟨0, 0⟩, ⟨0, 0⟩, 0x0⟩) ∧
    Reads 0xDF00_E400_0240_0000 (.egarm ⟨0x00, ⟨true, 100, 0⟩, ⟨false, 0, 0⟩, ⟨1, 1⟩, ⟨0, 0⟩, ⟨0, 0⟩, 0x0⟩) := by decide

end Sys2Proof
end

