-- ==== Sys2Proof/Tests/Slice0.lean ====
section
/-! SUPPORT. The tests of the model: this file refuses one ill-formed instruction for each check of R64 to R71 and of the entries,
with the REASON of R80; Words decodes a word of every constructor that has one, Results runs single instructions, and the files
whose names begin with Witness show for every statement a state that meets its premises. -/

namespace Sys2Proof

set_option maxRecDepth 100000

/-- The word is refused with the REASON. -/
abbrev Refused (w : Word64) (r : Reason) : Prop := decode w = .reserved r

/-- The instruction is ill formed. -/
abbrev IllFormed (i : Instr) (r : Reason) : Prop := i.wf = false ∧ localReason i = some r

/-- An FA word: two targets, port a popping. -/
abbrev fa : FA := ⟨0x70, ⟨true, 7, 2⟩, ⟨true, 33, 1⟩, ⟨1, 1⟩, ⟨0, 0⟩, ⟨0, 0⟩, 0⟩
/-- An FO word. -/
abbrev fo : FO := ⟨0, ⟨true, 7, 2⟩, ⟨false, 0, 0⟩, ⟨1, 1⟩, ⟨0, 0⟩, 0⟩
/-- An FM word. -/
abbrev fm : FM := ⟨0x70, ⟨true, 7, 2⟩, ⟨false, 0, 0⟩, ⟨1, 1⟩, ⟨0, 0⟩, 0, 0⟩
/-- An FT word. -/
abbrev ft : FT := ⟨0, ⟨true, 7, 2⟩, ⟨false, 0, 0⟩, ⟨1, 1⟩, ⟨0, 0⟩, 0, 0⟩
/-- An FC word. -/
abbrev fc : FC := ⟨0, ⟨true, 7, 2⟩, ⟨false, 0, 0⟩, ⟨1, 1⟩, ⟨0, 0⟩, ⟨0, 0⟩, 0⟩

/-- R64, R73: reserved opcodes, OP 0 with other bits set; the all-zero word is NOP. -/
theorem test_reserved_opcodes : Refused 0x0000_8000_0000_0000 0x01 ∧ Refused 0x1D70_8A2D_C249_2000 0x01 ∧
    Refused 0x3610_8A00_0240_0000 0x01 ∧ Refused 0x9000_0000_0000_0000 0x01 ∧ Refused 0xA500_8A00_0240_0100 0x01 ∧
    Refused 0xBF00_8A00_0240_0000 0x01 ∧ Refused 0xE000_0000_0000_0000 0x01 ∧ Refused 0xFF00_0000_0000_0000 0x01 ∧
    decode 0 = .nop := by decide

/-- R66: a void target with bits set (T0, T1), T1 without T0, reserved link codes, both targets alike. -/
theorem test_ill_targets : IllFormed (.ineg { fa with t0 := ⟨false, 7, 0⟩, t1 := ⟨false, 0, 0⟩ }) 0x07 ∧
    IllFormed (.ineg { fa with t1 := ⟨false, 0, 1⟩ }) 0x07 ∧
    IllFormed (.ineg { fa with t0 := ⟨false, 0, 0⟩ }) 0x07 ∧
    IllFormed (.ineg { fa with t0 := ⟨true, 9, 3⟩ }) 0x03 ∧ IllFormed (.ineg { fa with t1 := ⟨true, 127, 3⟩ }) 0x03 ∧
    IllFormed (.ineg { fa with t1 := ⟨true, 7, 2⟩ }) 0x08 ∧
    IllFormed (.kadd { fc with t0 := ⟨true, 7, 3⟩ }) 0x07 ∧
    IllFormed (.kadd { fc with t1 := ⟨true, 0, 3⟩ }) 0x07 ∧
    Instr.wf (.kadd { fc with t0 := ⟨true, 8, 3⟩ }) ∧ Instr.wf (.ineg { fa with t0 := ⟨true, 8, 3⟩ }) := by decide

/-- R65, R25: pop above need, no popping port, an unused port that the entry uses, a used port that it does not. -/
theorem test_ill_ports : IllFormed (.ineg { fa with a := ⟨2, 3⟩ }) 0x04 ∧ IllFormed (.ineg { fa with a := ⟨2, 0⟩ }) 0x04 ∧
    IllFormed (.ineg { fa with a := ⟨0, 0⟩ }) 0x04 ∧ IllFormed (.ineg { fa with c := ⟨1, 1⟩ }) 0x04 ∧
    IllFormed (.ineg { fa with imm := 1 }) 0x04 ∧
    IllFormed (.fadd { fa with mod := 0x10, a := ⟨1, 0⟩, b := ⟨1, 0⟩ }) 0x04 ∧
    IllFormed (.iadd { fa with a := ⟨1, 0⟩ }) 0x04 ∧
    IllFormed (.imad { fa with a := ⟨1, 0⟩, b := ⟨1, 0⟩, c := ⟨1, 0⟩ }) 0x04 ∧
    IllFormed (.carry { fa with mod := 0 }) 0x04 ∧ IllFormed (.sevc { fa with mod := 0, a := ⟨2, 1⟩ }) 0x04 ∧
    IllFormed (.steer fo) 0x04 ∧ IllFormed (.amo { fm with mod := 0x78 }) 0x04 ∧ IllFormed (.xmc { ft with island := 0x10, params := 1 }) 0x04 ∧
    IllFormed (.ksel fc) 0x04 ∧ Instr.wf (.ineg { fa with a := ⟨0, 7⟩ }) := by decide

/-- R71, R140, R141, R143: format tags, MOD bits, OVF and U of the integer class, its immediates and counts. -/
theorem test_ill_integer_1 :
    IllFormed (.iadd { fa with mod := 0xD0 }) 0x02 ∧ IllFormed (.iadd { fa with mod := 0xF0 }) 0x02 ∧
    IllFormed (.iadd { fa with mod := 0x71 }) 0x03 ∧ IllFormed (.iadd { fa with mod := 0x7C }) 0x03 ∧
    IllFormed (.iadd { fa with mod := 0xA2 }) 0x03 ∧ IllFormed (.iadd { fa with b := ⟨1, 1⟩, imm := 1 }) 0x04 ∧
    IllFormed (.iadd { fa with mod := 0x90, imm := 128 }) 0x03 ∧
    IllFormed (.iadd { fa with mod := 0x90, imm := -129 }) 0x03 ∧
    IllFormed (.iadd { fa with mod := 0xA0, imm := -1 }) 0x03 ∧
    IllFormed (.iadd { fa with mod := 0xA0, imm := 256 }) 0x03 ∧
    IllFormed (.shl { fa with imm := 32 }) 0x03 := by decide

/-- R71, R140, R141, R143: format tags, MOD bits, OVF and U of the integer class, its immediates and counts. Continued. -/
theorem test_ill_integer_2 :
    IllFormed (.shl { fa with imm := -1 }) 0x03 ∧ IllFormed (.shl { fa with b := ⟨1, 1⟩, imm := 1 }) 0x04 ∧
    IllFormed (.shl { fa with mod := 0x72 }) 0x03 ∧ IllFormed (.and { fa with mod := 0x10 }) 0x02 ∧
    IllFormed (.icmp { fa with b := ⟨1, 1⟩, imm := 6 }) 0x03 ∧
    IllFormed (.icmp { fa with a := ⟨1, 0⟩, b := ⟨1, 0⟩ }) 0x04 ∧ IllFormed (.icmp fa) 0x04 ∧
    IllFormed (.mov { fa with mod := 0x61 }) 0x02 ∧ IllFormed (.mov { fa with mod := 0x62 }) 0x03 ∧
    Instr.wf (.mov { fa with mod := 0x60 }) := by decide

/-- BFX, BFI, CONST, LANE, COORD and PHASE. -/
theorem test_ill_sources : IllFormed (.bfx ⟨0x10, ⟨true, 7, 2⟩, ⟨false, 0, 0⟩, ⟨1, 1⟩, 0⟩) 0x02 ∧
    IllFormed (.bfx ⟨0x70, ⟨true, 7, 2⟩, ⟨false, 0, 0⟩, ⟨1, 0⟩, 0⟩) 0x04 ∧
    IllFormed (.bfx ⟨0x70, ⟨true, 7, 2⟩, ⟨false, 0, 0⟩, ⟨1, 1⟩, 0x800⟩) 0x04 ∧
    IllFormed (.bfx ⟨0x70, ⟨true, 7, 2⟩, ⟨false, 0, 0⟩, ⟨1, 1⟩, 0x3F⟩) 0x03 ∧
    IllFormed (.bfi fa) 0x04 ∧ IllFormed (.bfi { fa with b := ⟨1, 1⟩, imm := 0x3F }) 0x03 ∧
    IllFormed (.const ⟨0x60, ⟨true, 7, 2⟩, ⟨false, 0, 0⟩, 0⟩) 0x02 ∧
    IllFormed (.const ⟨0x14, ⟨true, 7, 2⟩, ⟨false, 0, 0⟩, 0⟩) 0x03 ∧
    IllFormed (.const ⟨0x23, ⟨true, 7, 2⟩, ⟨false, 0, 0⟩, 0x1_0000⟩) 0x04 ∧
    IllFormed (.lane { fa with mod := 0xA0 }) 0x02 ∧ IllFormed (.lane { fa with a := ⟨1, 0⟩ }) 0x04 ∧
    IllFormed (.coord { fa with mod := 0x80 }) 0x02 ∧ IllFormed (.coord { fa with a := ⟨3, 0⟩ }) 0x04 ∧
    IllFormed (.phase { fa with mod := 0x72 }) 0x03 := by decide

/-- The floating class and the function unit: tags, MOD bits, relations and scales. -/
theorem test_ill_floating : IllFormed (.fadd { fa with b := ⟨1, 1⟩ }) 0x02 ∧
    IllFormed (.fadd { fa with mod := 0x11, b := ⟨1, 1⟩ }) 0x03 ∧ IllFormed (.fmin { fa with mod := 0x14, b := ⟨1, 1⟩ }) 0x03 ∧
    IllFormed (.fabs { fa with mod := 0x12 }) 0x03 ∧ IllFormed (.fcmp { fa with mod := 0x10, b := ⟨1, 1⟩, imm := 8 }) 0x03 ∧
    IllFormed (.fcmp { fa with mod := 0x10, a := ⟨1, 0⟩, b := ⟨1, 0⟩ }) 0x04 ∧
    IllFormed (.fscl { fa with mod := 0x10, b := ⟨1, 1⟩, imm := 1 }) 0x04 ∧ IllFormed (.rcp { fa with mod := 0x20 }) 0x02 ∧
    IllFormed (.fscl { fa with mod := 0x12, b := ⟨1, 1⟩ }) 0x03 ∧
    IllFormed (.tcos { fa with mod := 0x10 }) 0x02 ∧ IllFormed (.exp2 { fa with mod := 0x11 }) 0x03 := by decide

/-- The conversions: source and destination tags, the U bit, TYPE, the window and the immediate. -/
theorem test_ill_conversion_1 :
    IllFormed (.cvt { fa with mod := 0x00, imm := 1 }) 0x02 ∧
    IllFormed (.cvt { fa with mod := 0x10, imm := 6 }) 0x02 ∧
    IllFormed (.cvt { fa with mod := 0x10, imm := 7 }) 0x03 ∧
    IllFormed (.cvt { fa with mod := 0x10, imm := 2 }) 0x04 ∧
    IllFormed (.cvt { fa with mod := 0x10, imm := 0x11 }) 0x04 ∧
    IllFormed (.qnt { fa with mod := 0x70, imm := 6 }) 0x02 ∧
    IllFormed (.qnt { fa with mod := 0x10, imm := 1 }) 0x02 ∧
    IllFormed (.qnt { fa with mod := 0x10, imm := 0x1B }) 0x03 ∧
    IllFormed (.qnt { fa with mod := 0x10, imm := 0x46 }) 0x04 ∧
    IllFormed (.qnt { fa with mod := 0x10, a := ⟨2, 1⟩, imm := 6 }) 0x04 ∧
    IllFormed (.dqt { fa with mod := 0x10, imm := 1 }) 0x02 ∧
    IllFormed (.dqt { fa with mod := 0x60, imm := 3 }) 0x02 ∧
    IllFormed (.dqt { fa with mod := 0x60, a := ⟨3, 3⟩, imm := 1 }) 0x04 := by decide

/-- The conversions: source and destination tags, the U bit, TYPE, the window and the immediate. Continued. -/
theorem test_ill_conversion_2 :
    IllFormed (.dqt { fa with mod := 0x60, imm := 0x11 }) 0x04 ∧
    IllFormed (.pack { fa with mod := 0x90, imm := 9 }) 0x02 ∧
    IllFormed (.pack { fa with mod := 0x80, imm := 8 }) 0x02 ∧
    IllFormed (.pack { fa with mod := 0x80, imm := 9 }) 0x04 ∧
    IllFormed (.pack { fa with mod := 0x80, a := ⟨2, 2⟩, imm := 0x19 }) 0x04 ∧
    IllFormed (.unpk { fa with mod := 0x70, imm := 7 }) 0x02 ∧
    IllFormed (.unpk { fa with mod := 0x80, imm := 8 }) 0x02 ∧
    IllFormed (.unpk { fa with mod := 0x90, a := ⟨2, 0⟩, imm := 7 }) 0x04 ∧
    IllFormed (.unpk { fa with mod := 0x90, imm := 0x17 }) 0x04 ∧ IllFormed (.rndi { fa with mod := 0x12 }) 0x03 ∧
    IllFormed (.sclc { fa with mod := 0x10, imm := 0xC6 }) 0x03 ∧
    IllFormed (.sclc { fa with mod := 0x10, imm := 0x106 }) 0x04 := by decide

/-- The cross-lane operations: DOT's windows, PERM's patterns, BCAST's element and ADV's distance. -/
theorem test_ill_cross_lane_1 :
    IllFormed (.rsum { fa with mod := 0x00 }) 0x02 ∧ IllFormed (.rmax { fa with mod := 0x74 }) 0x03 ∧
    IllFormed (.argmx { fa with mod := 0x72 }) 0x03 ∧ IllFormed (.scan { fa with a := ⟨2, 1⟩ }) 0x04 ∧
    IllFormed (.dot { fa with mod := 0x80, b := ⟨1, 1⟩ }) 0x02 ∧
    IllFormed (.dot { fa with mod := 0x90, b := ⟨2, 1⟩ }) 0x04 ∧
    IllFormed (.dot { fa with mod := 0x90, a := ⟨1, 0⟩, b := ⟨1, 0⟩ }) 0x04 ∧
    IllFormed (.perm { fa with b := ⟨1, 1⟩, imm := 1 }) 0x04 ∧ IllFormed (.perm { fa with imm := 0x300 }) 0x03 ∧
    IllFormed (.perm { fa with imm := 0x010 }) 0x03 := by decide

/-- The cross-lane operations: DOT's windows, PERM's patterns, BCAST's element and ADV's distance. Continued. -/
theorem test_ill_cross_lane_2 :
    IllFormed (.perm { fa with imm := 0x201 }) 0x03 ∧ IllFormed (.perm { fa with a := ⟨1, 0⟩ }) 0x04 ∧
    IllFormed (.bcast ⟨0x70, ⟨true, 7, 2⟩, ⟨false, 0, 0⟩, ⟨1, 1⟩, 0x10⟩) 0x03 ∧
    IllFormed (.bcast ⟨0x70, ⟨true, 7, 2⟩, ⟨false, 0, 0⟩, ⟨1, 1⟩, 0x40⟩) 0x04 ∧
    IllFormed (.bcast ⟨0x70, ⟨true, 7, 2⟩, ⟨false, 0, 0⟩, ⟨1, 0⟩, 0⟩) 0x04 ∧ IllFormed (.adv fa) 0x04 ∧
    IllFormed (.adv { fa with a := ⟨3, 0⟩, imm := 4 }) 0x03 ∧
    IllFormed (.adv { fa with a := ⟨3, 0⟩, imm := 0 }) 0x03 ∧
    IllFormed (.adv { fa with a := ⟨3, 0⟩, b := ⟨1, 1⟩, imm := 1 }) 0x03 := by decide

/-- The router operators: parameters, the ports CINCH and AMRG ask for, DROP's targets. -/
theorem test_ill_router_1 :
    IllFormed (.steer { fo with b := ⟨1, 1⟩, params := 2 }) 0x04 ∧
    IllFormed (.steer { fo with mod := 1, b := ⟨1, 1⟩ }) 0x03 ∧
    IllFormed (.inv { fo with b := ⟨1, 1⟩, params := 1 }) 0x04 ∧
    IllFormed (.merge { fa with mod := 1, b := ⟨1, 1⟩, c := ⟨1, 1⟩ }) 0x03 ∧
    IllFormed (.amrg { fa with mod := 0 }) 0x04 ∧ IllFormed (.amrg { fa with mod := 0, b := ⟨2, 1⟩ }) 0x04 ∧
    IllFormed (.cinch { fa with mod := 0, imm := 0x10 }) 0x04 ∧
    IllFormed (.cinch { fa with mod := 0, imm := 1 }) 0x03 ∧ IllFormed (.cinch { fa with mod := 0, imm := 2 }) 0x03 ∧
    IllFormed (.cinch { fa with mod := 0, imm := 3 }) 0x03 ∧
    IllFormed (.cinch { fa with mod := 0, a := ⟨0, 0⟩, b := ⟨1, 1⟩ }) 0x03 := by decide

/-- The router operators: parameters, the ports CINCH and AMRG ask for, DROP's targets. Continued. -/
theorem test_ill_router_2 :
    IllFormed (.cinch { fa with mod := 0, a := ⟨1, 0⟩ }) 0x04 ∧ IllFormed (.drop { fa with mod := 0 }) 0x07 ∧
    IllFormed (.drop { fa with mod := 2 }) 0x03 ∧ IllFormed (.count { fo with params := 1 }) 0x04 ∧
    IllFormed (.lctr { fo with params := 1 }) 0x04 ∧ IllFormed (.lctr { fo with params := 0xFD00 }) 0x03 ∧
    IllFormed (.eos { fo with b := ⟨1, 1⟩, params := 1 }) 0x03 ∧ IllFormed (.gate fo) 0x04 ∧
    IllFormed (.rein { fo with params := 0x20 }) 0x04 ∧ Instr.wf (.lctr { fo with params := 0xF900 }) := by decide

/-- The rotation's words: RHEAD, RHEAD.LA, SADM, the commands and MARK. -/
theorem test_ill_rotation_1 :
    IllFormed (.rhead { fa with mod := 0, b := ⟨1, 1⟩, imm := 0x200 }) 0x04 ∧
    IllFormed (.rhead { fa with mod := 0, b := ⟨1, 1⟩, imm := 0x100 }) 0x04 ∧
    IllFormed (.rhead { fa with mod := 1, b := ⟨1, 1⟩ }) 0x03 ∧ IllFormed (.rhead { fa with mod := 0 }) 0x04 ∧
    IllFormed (.rhead { fa with mod := 0, t0 := ⟨false, 0, 0⟩, t1 := ⟨false, 0, 0⟩, b := ⟨1, 1⟩ }) 0x07 ∧
    IllFormed (.rheadLa { fa with mod := 3, b := ⟨1, 1⟩, imm := 0x202 }) 0x03 ∧
    IllFormed (.rheadLa { fa with mod := 2, b := ⟨1, 1⟩, imm := 0x002 }) 0x04 ∧
    IllFormed (.rheadLa { fa with mod := 2, b := ⟨1, 1⟩, imm := 0x302 }) 0x04 ∧
    IllFormed (.rheadLa { fa with mod := 2, b := ⟨1, 1⟩, c := ⟨1, 1⟩, imm := 0x202 }) 0x04 ∧
    IllFormed (.rheadLa { fa with mod := 0, t0 := ⟨false, 0, 0⟩, t1 := ⟨false, 0, 0⟩, b := ⟨1, 1⟩, imm := 0x200 }) 0x07 ∧
    IllFormed (.sadm { fa with mod := 0xD0, t1 := ⟨false, 0, 0⟩ }) 0x02 := by decide

/-- The rotation's words: RHEAD, RHEAD.LA, SADM, the commands and MARK. Continued. -/
theorem test_ill_rotation_2 :
    IllFormed (.sadm { fa with mod := 0x74, t1 := ⟨false, 0, 0⟩ }) 0x03 ∧
    IllFormed (.sadm { fa with mod := 0x73, t1 := ⟨false, 0, 0⟩ }) 0x03 ∧
    IllFormed (.sadm { fa with mod := 0x71, t1 := ⟨false, 0, 0⟩ }) 0x02 ∧ IllFormed (.sadm fa) 0x07 ∧
    IllFormed (.sadm { fa with t0 := ⟨true, 7, 0⟩, t1 := ⟨false, 0, 0⟩ }) 0x07 ∧
    IllFormed (.sevc { fa with mod := 1 }) 0x03 ∧ IllFormed (.shld { fa with mod := 1 }) 0x03 ∧
    IllFormed (.shldU { fa with mod := 0 }) 0x03 ∧ IllFormed (.sstat { fa with mod := 0, imm := 1 }) 0x04 ∧
    IllFormed (.mark { fa with mod := 1, b := ⟨1, 1⟩ }) 0x03 := by decide

/-- The memory operators: tags, spaces, variants, windows, bursts and AMO's table. -/
theorem test_ill_memory_1 :
    IllFormed (.ld { fm with mod := 0xD0 }) 0x02 ∧ IllFormed (.ld { fm with space := 5 }) 0x03 ∧
    IllFormed (.ld { fm with mod := 0x71, space := 1 }) 0x03 ∧ IllFormed (.ld { fm with mod := 0x74 }) 0x03 ∧
    IllFormed (.ld { fm with mod := 0x73, off := 1 }) 0x03 ∧
    IllFormed (.ld { fm with mod := 0x73, off := 0x2C }) 0x03 ∧ IllFormed (.ld { fm with b := ⟨1, 1⟩ }) 0x04 ∧
    IllFormed (.st { fm with b := ⟨3, 3⟩ }) 0x04 ∧ IllFormed (.st { fm with mod := 0x71, b := ⟨1, 1⟩ }) 0x03 ∧
    IllFormed (.st { fm with mod := 0x72, b := ⟨1, 1⟩ }) 0x04 ∧
    IllFormed (.st { fm with mod := 0x73, b := ⟨1, 1⟩, off := 2 }) 0x03 ∧
    IllFormed (.st { fm with mod := 0xE0, b := ⟨1, 1⟩ }) 0x02 ∧ IllFormed (.lds { fm with space := 1 }) 0x03 ∧
    IllFormed (.lds { fm with mod := 0xF0 }) 0x02 ∧
    IllFormed (.stf { fm with b := ⟨1, 1⟩, space := 1 }) 0x03 := by decide

/-- The memory operators: tags, spaces, variants, windows, bursts and AMO's table. Continued. -/
theorem test_ill_memory_2 :
    IllFormed (.ldx { fm with mod := 0x60 }) 0x02 ∧ IllFormed (.ldx { fm with space := 3 }) 0x03 ∧
    IllFormed (.stx { fm with mod := 0xB0, b := ⟨1, 1⟩ }) 0x02 ∧
    IllFormed (.amo { fm with mod := 0x20, b := ⟨1, 1⟩ }) 0x02 ∧
    IllFormed (.amo { fm with mod := 0x11, b := ⟨1, 1⟩ }) 0x03 ∧
    IllFormed (.amo { fm with mod := 0x18, b := ⟨1, 1⟩ }) 0x03 ∧
    IllFormed (.amo { fm with mod := 0x02, b := ⟨1, 1⟩ }) 0x03 ∧
    IllFormed (.amo { fm with space := 3, b := ⟨1, 1⟩ }) 0x03 ∧ IllFormed (.done fm) 0x03 ∧
    IllFormed (.done { fm with mod := 0, off := 1 }) 0x04 ∧
    IllFormed (.rpush { fm with space := 1, b := ⟨1, 1⟩ }) 0x03 ∧
    IllFormed (.rpush { fm with mod := 0xD0, b := ⟨1, 1⟩ }) 0x02 ∧ IllFormed (.rpop { fm with mod := 0x71 }) 0x03 ∧
    IllFormed (.rpop { fm with mod := 0xD0 }) 0x02 := by decide

/-- The island commands, the page instructions and the egress: ports, spaces, MOD. -/
theorem test_ill_islands_and_pages_1 :
    IllFormed (.mtask { ft with params := 1 }) 0x04 ∧ IllFormed (.mtask { ft with island := 4 }) 0x03 ∧
    IllFormed (.mtask { ft with island := 0x10 }) 0x05 ∧ IllFormed (.msync { ft with params := 1 }) 0x03 ∧
    IllFormed (.mdrain { ft with params := 4 }) 0x03 ∧ IllFormed (.mdrain { ft with params := 0x41 }) 0x03 ∧
    IllFormed (.mdrain { ft with t0 := ⟨false, 0, 0⟩, params := 1 }) 0x07 ∧
    IllFormed (.xreq { ft with island := 0x10, params := 1 }) 0x03 ∧ IllFormed (.xreq ft) 0x05 ∧
    IllFormed (.xreq { ft with island := 0x14 }) 0x03 ∧
    IllFormed (.xmc { ft with island := 0x10, b := ⟨1, 1⟩ }) 0x03 ∧ IllFormed (.msync { ft with mod := 1 }) 0x03 ∧
    IllFormed (.pglk { fm with mod := 2, space := 4 }) 0x03 ∧ IllFormed (.pgfork { fm with mod := 0 }) 0x03 ∧
    IllFormed (.pgfree { fm with mod := 0, space := 4, off := 1 }) 0x04 ∧
    IllFormed (.pgbase { fm with mod := 2, space := 4 }) 0x03 := by decide

/-- The island commands, the page instructions and the egress: ports, spaces, MOD. Continued. -/
theorem test_ill_islands_and_pages_2 :
    IllFormed (.ldk { fm with space := 1 }) 0x02 ∧ IllFormed (.ldv { fm with mod := 0x60 }) 0x03 ∧
    IllFormed (.ldv { fm with mod := 0x61, space := 1 }) 0x03 ∧
    IllFormed (.kapp { fm with mod := 0xB1, space := 1, b := ⟨1, 1⟩ }) 0x03 ∧
    IllFormed (.kapp { fm with mod := 0x60, space := 3, b := ⟨1, 1⟩ }) 0x03 ∧
    IllFormed (.kapp { fm with mod := 0x70, space := 1, b := ⟨1, 1⟩ }) 0x02 ∧
    IllFormed (.egput { fm with mod := 2 }) 0x03 ∧ IllFormed (.egver { fm with mod := 0, space := 1 }) 0x03 ∧
    IllFormed (.egrst { fm with mod := 0, off := 1 }) 0x03 ∧
    IllFormed (.smrg { fa with mod := 0x10, b := ⟨1, 1⟩, imm := 0x10 }) 0x04 ∧
    IllFormed (.smrg { fa with mod := 0x20, b := ⟨1, 1⟩ }) 0x02 ∧ IllFormed (.rsvr { fa with mod := 0x10 }) 0x04 ∧
    IllFormed (.rdraw { fa with mod := 0x20 }) 0x02 ∧
    IllFormed (.accpt { fa with mod := 0x10, b := ⟨1, 1⟩, c := ⟨1, 1⟩ }) 0x02 ∧
    IllFormed (.accpt fa) 0x04 := by decide

/-- The control-core instructions. -/
theorem test_ill_control_1 :
    IllFormed (.kadd { fc with mod := 1 }) 0x04 ∧ IllFormed (.kadd { fc with b := ⟨1, 1⟩, imm := 1 }) 0x04 ∧
    IllFormed (.kadd { fc with a := ⟨2, 1⟩ }) 0x04 ∧ IllFormed (.kmul { fc with mod := 3 }) 0x03 ∧
    IllFormed (.kmul { fc with mod := 4 }) 0x04 ∧ IllFormed (.kshl { fc with mod := 2 }) 0x03 ∧
    IllFormed (.kshr { fc with mod := 5 }) 0x04 ∧ IllFormed (.kcmp { fc with mod := 6 }) 0x03 ∧
    IllFormed (.kcmp { fc with mod := 0x10 }) 0x04 ∧
    IllFormed (.ksel { fc with b := ⟨1, 1⟩, c := ⟨1, 1⟩, imm := 1 }) 0x04 ∧
    IllFormed (.kmovi ⟨3, ⟨true, 7, 2⟩, ⟨false, 0, 0⟩, 0⟩) 0x03 ∧
    IllFormed (.kmovi ⟨0x10, ⟨true, 7, 2⟩, ⟨false, 0, 0⟩, 0⟩) 0x03 ∧
    IllFormed (.kmovi ⟨4, ⟨true, 7, 2⟩, ⟨false, 0, 0⟩, 0⟩) 0x04 ∧
    IllFormed (.krd { fc with a := ⟨0, 0⟩, imm := 1 }) 0x04 := by decide

/-- The control-core instructions. Continued. -/
theorem test_ill_control_2 :
    IllFormed (.kwr { fc with mod := 1 }) 0x03 ∧ IllFormed (.qsend { fc with mod := 8 }) 0x03 ∧
    IllFormed (.rep { fc with t0 := ⟨false, 0, 0⟩, imm := 0x10 }) 0x04 ∧
    IllFormed (.rep { fc with a := ⟨0, 0⟩, imm := 0x210, t0 := ⟨false, 0, 0⟩ }) 0x03 ∧ IllFormed (.rep fc) 0x07 ∧
    IllFormed (.bra { fc with imm := 1 }) 0x04 ∧ IllFormed (.bcall { fc with imm := 1 }) 0x04 ∧
    IllFormed (.bret { fc with imm := 1 }) 0x04 ∧ IllFormed (.trap fc) 0x03 ∧
    IllFormed (.trap { fc with imm := 0x180 }) 0x04 ∧ IllFormed (.eret { fc with imm := 1 }) 0x04 ∧
    IllFormed (.wfe { fc with imm := 1 }) 0x04 ∧ IllFormed (.evpop { fc with imm := 8 }) 0x04 := by decide

/-- The control-core instructions. Continued. -/
theorem test_ill_control_3 :
    IllFormed (.prcw fc) 0x04 ∧ IllFormed (.prcw { fc with mod := 1, b := ⟨1, 1⟩ }) 0x04 ∧
    IllFormed (.prcwS { fc with b := ⟨1, 1⟩ }) 0x04 ∧ IllFormed (.prcw { fc with b := ⟨1, 1⟩, imm := 1 }) 0x04 ∧
    IllFormed (.launch { fc with imm := 1 }) 0x04 ∧ IllFormed (.halt { fc with imm := 1 }) 0x04 ∧ IllFormed (.halt fc) 0x04 ∧
    IllFormed (.egarm { fc with imm := 1 }) 0x04 ∧ IllFormed (.kst fc) 0x04 ∧
    IllFormed (.kld { fc with b := ⟨1, 1⟩ }) 0x04 ∧ IllFormed (.kstm { fc with imm := 1 }) 0x04 ∧
    IllFormed (.kldm { fc with mod := 2 }) 0x03 ∧ IllFormed (.csrrd { fc with mod := 2 }) 0x04 ∧
    IllFormed (.csrwr { fc with a := ⟨0, 0⟩ }) 0x04 := by decide

end Sys2Proof
end

