-- ==== Sys2Proof/Tests/WitnessFiring.lean ====
section
/-! SUPPORT. Witnesses for the statements about the firing rules, conversions, reductions, movement and sampling. -/

namespace Sys2Proof.Tests

open Sys2Proof Sys2Proof.Machine

set_option maxRecDepth 100000

/-! ## The firing rules -/

/-- Slot 0 with its port a fed by the second target of slot 2. -/
def linked : State := stage 0 { fed [flat 7 5] [] [] with a := { queue [flat 7 5] with feeder := .slot 2 true } }

theorem witness_Firing (h : Clause.Firing) :
    let io : Io := ⟨⟨true, 1, 0⟩, ⟨true, 3, 1⟩, one, off, off⟩
    let t := linked.delivers io 1 (flat 7 5)
    (t.slot ⟨0, 0, 0⟩).fired = true ∧ (∃ n, (1 + targetD 0 io.t0, Instr.tokenArrival ⟨0, 0, 0⟩ io.t0 (flat 7 5) 0 n) ∈ t.clk.pending) ∧
      (∃ n, (1 + targetD 0 io.t1, Instr.tokenArrival ⟨0, 0, 0⟩ io.t1 (flat 7 5) 0 n) ∈ t.clk.pending) ∧
      (pathD 2 0, Instr.creditReturn ⟨0, 0, 2⟩ .t1 0) ∈ t.clk.pending := by
  obtain ⟨-, h1, -, -, -, -, -, h2, h3, h4⟩ :=
    h linked ⟨⟨true, 1, 0⟩, ⟨true, 3, 1⟩, one, off, off⟩ 1 (flat 7 5) rfl rfl
  refine ⟨h1, ?_, ?_, ?_⟩
  · have := h2 rfl; rwa [show linked.clk.now = 0 from rfl, Nat.zero_add] at this
  · have := h3 rfl; rwa [show linked.clk.now = 0 from rfl, Nat.zero_add] at this
  · have := h4 .a 2 true rfl rfl (by decide) (by decide) (by decide)
    rwa [show linked.clk.now = 0 from rfl, Nat.zero_add] at this

theorem witness_VoidAndPoison_void (h : Clause.VoidAndPoison) :
    Goes (exec (.iadd (wordFA 0x70 one one off 0)) (stage 0 (fed [flat 7 5] [voidToken zeroLanes 7 3] []))) :=
  goes_tok ((h (wordFA 0x70 one one off 0) (stage 0 (fed [flat 7 5] [voidToken zeroLanes 7 3] [])) _ _ (.head _)
    (ready_of (by decide))).1 [flat 7 5] (voidToken zeroLanes 7 3) [] (by decide) (by decide) (by decide))

theorem witness_VoidAndPoison_poison (h : Clause.VoidAndPoison) :
    Goes (exec (.iadd (wordFA 0x70 one one off 0)) (stage 0 (fed [flat 7 5] [poisonToken] []))) :=
  goes ((h (wordFA 0x70 one one off 0) (stage 0 (fed [flat 7 5] [poisonToken] [])) _ _ (.head _)
    (ready_of (by decide))).2 (by decide) (by decide))

theorem witness_FormatFault (h : Clause.FormatFault) :
    Goes (exec (.iadd (wordFA 0x70 one one off 0)) (twoIn 1 5 3)) :=
  goes (h.1 (wordFA 0x70 one one off 0) (twoIn 1 5 3) _ _ _ _ (.head _) rfl (ready_of (by decide)) (clean_of (by decide))
    (fun t => absurd t.1 (by decide)))

/-- A scale word with reserved bits. -/
theorem witness_FormatFault_malformed (h : Clause.FormatFault) :
    Goes (exec (.lane (wordFA 0 one off off 0)) (oneIn [scaledToken zeroLanes 6 0x8000])) :=
  goes (h.2 (wordFA 0 one off off 0) (oneIn [scaledToken zeroLanes 6 0x8000]) Instr.lane (by simp) rfl rfl (ready_of (by decide))
    (clean_of (by decide)) (fun e => nomatch e))

theorem witness_EndFiring (h : Clause.EndFiring) :
    Goes (exec (.iadd (wordFA 0x70 one one off 0)) (stage 0 (fed [eosToken, flat 7 1] [eosToken] []))) :=
  goes (h (wordFA 0x70 one one off 0) (stage 0 (fed [eosToken, flat 7 1] [eosToken] [])) _ _ (.head _)
    (clear_of (by decide)) (by decide) (by decide))

theorem witness_StreamLength (h : Clause.StreamLength) :
    Goes (exec (.iadd (wordFA 0x70 one one off 0)) (stage 0 (fed [eosToken] [flat 7 1] []))) := by
  obtain ⟨_, _, _, e⟩ := h (wordFA 0x70 one one off 0) (stage 0 (fed [eosToken] [flat 7 1] [])) _ _ (.head _)
    (clear_of (by decide)) .a (by decide) .b (by decide) (by decide) (by decide)
  exact goes e

theorem witness_FaultOfAFiring (h : Clause.FaultOfAFiring) :
    ∃ p, (((oneIn []).faults (wordFA 0x70 one off off 0).io 1 7 3).region 0 0).pend = p ∧ p ≠ [] :=
  ⟨_, h (oneIn []) (wordFA 0x70 one off off 0).io 1 7 3 rfl rfl, by decide⟩

theorem witness_FabricFrame (h : Clause.FabricFrame) :
    ∃ t, exec (.iadd (wordFA 0x70 one one off 0)) (twoIn 7 5 3) = .next t ∧ Local ⟨0, 0, 0⟩ (twoIn 7 5 3) t :=
  ⟨_, rfl, (h (twoIn 7 5 3) _ rfl).1 _ (List.mem_append_left _ (.head _)) (wordFA 0x70 one one off 0) rfl⟩

theorem witness_FabricFrame_routers (h : Clause.FabricFrame) :
    ∃ t, exec (.inv (wordFO one one 0)) (twoIn 7 5 3) = .next t ∧ Local ⟨0, 0, 0⟩ (twoIn 7 5 3) t :=
  ⟨_, rfl, (h (twoIn 7 5 3) _ rfl).2.1 _ (.head _) (wordFO one one 0) rfl⟩

theorem witness_FabricFrame_const (h : Clause.FabricFrame) :
    ∃ t, exec (.const ⟨0x10, ⟨true, 1, 0⟩, ⟨false, 0, 0⟩, 1⟩) (oneIn []) = .next t ∧ Local ⟨0, 0, 0⟩ (oneIn []) t :=
  ⟨_, rfl, (h (oneIn []) _ rfl).2.2.1 ⟨0x10, ⟨true, 1, 0⟩, ⟨false, 0, 0⟩, 1⟩ rfl⟩

theorem witness_FabricFrame_fields (h : Clause.FabricFrame) :
    (∃ t, exec (.bfx ⟨0x70, ⟨true, 1, 0⟩, ⟨false, 0, 0⟩, one, 0⟩) (oneIn [flat 7 5]) = .next t ∧
      Local ⟨0, 0, 0⟩ (oneIn [flat 7 5]) t) ∧
    ∃ t, exec (.bcast ⟨0x70, ⟨true, 1, 0⟩, ⟨false, 0, 0⟩, one, 0⟩) (oneIn [flat 7 5]) = .next t ∧
      Local ⟨0, 0, 0⟩ (oneIn [flat 7 5]) t :=
  ⟨⟨_, rfl, (h (oneIn [flat 7 5]) _ rfl).2.2.2.1 ⟨0x70, ⟨true, 1, 0⟩, ⟨false, 0, 0⟩, one, 0⟩ rfl⟩,
    ⟨_, rfl, (h (oneIn [flat 7 5]) _ rfl).2.2.2.2 ⟨0x70, ⟨true, 1, 0⟩, ⟨false, 0, 0⟩, one, 0⟩ rfl⟩⟩

/-! ## Conversions -/

/-- Two F32 tokens become one of BF16x2; two of I32 one of I16x2. -/
theorem witness_Narrowing (h : Clause.Narrowing) :
    Goes (exec (.cvt (wordFA 0x10 ⟨2, 2⟩ off off 2)) (oneIn [flat 1 0x3F800000, flat 1 0])) ∧
    Goes (exec (.pack (wordFA 0x70 ⟨2, 2⟩ off off 8)) (oneIn [flat 7 5, flat 7 6])) :=
  ⟨goes_tok (h (wordFA 0x10 ⟨2, 2⟩ off off 2) (oneIn [flat 1 0x3F800000, flat 1 0]) rfl rfl rfl (ready_of (by decide))
      (clean_of (by decide)) (fun t ht => tagged_of (by revert t; decide)) (by decide) (by decide)).1,
    goes_tok (h (wordFA 0x70 ⟨2, 2⟩ off off 8) (oneIn [flat 7 5, flat 7 6]) rfl rfl rfl (ready_of (by decide))
      (clean_of (by decide)) (fun t ht => tagged_of (by revert t; decide)) (by decide) (by decide)).2⟩

/-- The last of two parts of a BF16x2 and of an I16x2 token; the only part of a conversion between equal counts. -/
theorem witness_Widening (h : Clause.Widening) :
    Goes (exec (.cvt (wordFA 0x20 one off off 1)) (stage 0 { fed [flat 2 0x3F803F80] [] [] with run := .part 1 })) ∧
    Goes (exec (.unpk (wordFA 0x80 one off off 7)) (stage 0 { fed [flat 8 5] [] [] with run := .part 1 })) ∧
    Goes (exec (.cvt (wordFA 0x70 one off off 1)) (oneIn [flat 7 5])) :=
  ⟨goes_tok ((h (wordFA 0x20 one off off 1) (stage 0 { fed [flat 2 0x3F803F80] [] [] with run := .part 1 }) 1 rfl rfl rfl
      (ready_of (by decide)) (clean_of (by decide)) (.inl rfl)).1 (by decide) (tagged_of (by decide)) rfl (by decide)).1,
    goes_tok ((h (wordFA 0x80 one off off 7) (stage 0 { fed [flat 8 5] [] [] with run := .part 1 }) 1 rfl rfl rfl
      (ready_of (by decide)) (clean_of (by decide)) (.inl rfl)).1 (by decide) (tagged_of (by decide)) rfl (by decide)).2,
    goes_tok ((h (wordFA 0x70 one off off 1) (oneIn [flat 7 5]) 0 rfl rfl rfl
      (ready_of (by decide)) (clean_of (by decide)) (.inr ⟨rfl, rfl⟩)).1 (by decide) (tagged_of (by decide)) rfl (by decide)).1⟩

/-- The last of the eight F32 tokens of a K4 token. -/
theorem witness_Widening_dqt (h : Clause.Widening) :
    Goes (exec (.dqt (wordFA 0x60 one off off 1))
      (stage 0 { fed [scaledToken zeroLanes 6 0x0080] [] [] with run := .part 7 })) :=
  goes_tok ((h (wordFA 0x60 one off off 1) (stage 0 { fed [scaledToken zeroLanes 6 0x0080] [] [] with run := .part 7 }) 7
    rfl rfl rfl (ready_of (by decide)) (clean_of (by decide)) (.inl rfl)).2 (by decide) rfl (by decide))

/-- The first and the eighth intake of a K4 block of F32 tokens, and an emission. -/
theorem witness_BlockFirings_qnt (h : Clause.BlockFirings) :
    Goes (exec (.qnt (wordFA 0x10 one off off 6)) (oneIn [flat 1 0])) ∧
    Goes (exec (.qnt (wordFA 0x10 one off off 6))
      (stage 0 { fed [flat 1 0] [] [] with run := .block (List.replicate 7 (flat 1 0)) false 0 false [] })) ∧
    Goes (exec (.qnt (wordFA 0x10 one off off 6))
      (stage 0 { fed [] [] [] with run := .block [] false 0 false [flat 6 0] })) :=
  ⟨goes ((h (wordFA 0x10 one off off 6) (oneIn [flat 1 0]) [] 1).1 rfl (flat 1 0) [] (clear_of (by decide)) (by decide)
      (by decide) (by decide) ⟨rfl, by decide⟩ (by decide) (by decide) (tagged_of (by decide)) (.inr ⟨rfl, rfl⟩)),
    goes ((h (wordFA 0x10 one off off 6)
      (stage 0 { fed [flat 1 0] [] [] with run := .block (List.replicate 7 (flat 1 0)) false 0 false [] })
      (List.replicate 7 (flat 1 0)) 1).1 rfl (flat 1 0) [] (clear_of (by decide)) (by decide)
      (by decide) (by decide) ⟨rfl, by decide⟩ (by decide) (by decide) (tagged_of (by decide)) (.inl rfl)),
    goes ((h (wordFA 0x10 one off off 6) (stage 0 { fed [] [] [] with run := .block [] false 0 false [flat 6 0] }) [] 1).2.2.1
      (flat 6 0) [] (clear_of (by decide)) (by decide) rfl)⟩

theorem witness_BlockFirings_sclc (h : Clause.BlockFirings) :
    Goes (exec (.sclc (wordFA 0x10 one off off 6)) (oneIn [flat 1 0])) ∧
    Goes (exec (.sclc (wordFA 0x10 one off off 6))
      (stage 0 { fed [] [] [] with run := .block [] false 0 false [flat 6 0] })) :=
  ⟨goes ((h (wordFA 0x10 one off off 6) (oneIn [flat 1 0]) [] 1).2.1 rfl (flat 1 0) [] (clear_of (by decide)) (by decide)
      (by decide) (by decide) ⟨rfl, by decide⟩ (by decide) (by decide) (tagged_of (by decide)) (.inr ⟨rfl, rfl⟩)),
    goes ((h (wordFA 0x10 one off off 6) (stage 0 { fed [] [] [] with run := .block [] false 0 false [flat 6 0] }) [] 1).2.2.2
      (flat 6 0) [] (clear_of (by decide)) (by decide) rfl)⟩

/-! ## Reductions and movement -/

/-- The widest window: eight entries. -/
theorem witness_IntegerReductions (h : Clause.IntegerReductions) :
    let f := wordFA 0xA0 ⟨0, 7⟩ off off 0
    let s := oneIn (List.replicate 8 (flat 10 0x01FF03FF))
    Goes (exec (.rsum f) s) ∧ Goes (exec (.rmax f) s) ∧ Goes (exec (.rmin f) s) := by
  obtain ⟨h1, h2, h3⟩ := h (wordFA 0xA0 ⟨0, 7⟩ off off 0) (oneIn (List.replicate 8 (flat 10 0x01FF03FF))) rfl rfl rfl
    (ready_of (by decide)) (clean_of (by decide)) (fun t ht => tagged_of (by revert t; decide)) (by decide)
  exact ⟨goes_tok (h1 rfl), goes_tok h2, goes_tok h3⟩

theorem witness_ReductionTree (h : Clause.ReductionTree) :
    let f := wordFA 0x10 one off off 0
    let s := oneIn [flat 1 0x3F800000]
    Goes (exec (.rsum f) s) ∧ Goes (exec (.rmax f) s) ∧ Goes (exec (.rmin f) s) := by
  obtain ⟨h1, h2, h3⟩ := h (wordFA 0x10 one off off 0) (oneIn [flat 1 0x3F800000]) rfl rfl rfl rfl
    (ready_of (by decide)) (clean_of (by decide)) (fun t ht => tagged_of (by revert t; decide)) rfl
  exact ⟨goes_tok h1, goes_tok h2, goes_tok h3⟩

theorem witness_ArgMax (h : Clause.ArgMax) : Goes (exec (.argmx (wordFA 0x71 one off off 0)) (oneIn [flat 7 5])) := by
  obtain ⟨_, _, _, e, _⟩ := h (wordFA 0x71 one off off 0) (oneIn [flat 7 5]) rfl rfl rfl (ready_of (by decide))
    (clean_of (by decide)) (fun t ht => tagged_of (by revert t; decide)) (by decide)
  exact goes e

theorem witness_RunningSum (h : Clause.RunningSum) :
    Goes (exec (.scan (wordFA 0x70 one off off 0)) (oneIn [flat 7 5])) ∧
    Goes (exec (.scan (wordFA 0x71 one off off 0)) (stage 0 { fed [flat 7 5] [] [] with run := .scan 9 })) := by
  obtain ⟨_, _, _, e⟩ := h (wordFA 0x70 one off off 0) (oneIn [flat 7 5]) 0 rfl rfl rfl rfl (ready_of (by decide))
    (clean_of (by decide)) (tagged_of (by decide)) (by decide) rfl (.inr ⟨rfl, rfl⟩)
  obtain ⟨_, _, _, e2⟩ := h (wordFA 0x71 one off off 0) (stage 0 { fed [flat 7 5] [] [] with run := .scan 9 }) 9 rfl rfl rfl
    rfl (ready_of (by decide)) (clean_of (by decide)) (tagged_of (by decide)) (by decide) rfl (.inl rfl)
  exact ⟨goes e, goes e2⟩

theorem witness_DotProduct (h : Clause.DotProduct) :
    Goes (exec (.dot (wordFA 0x90 ⟨3, 1⟩ ⟨3, 0⟩ one 0))
      (stage 0 (fed (List.replicate 3 (flat 9 0x01020304)) (List.replicate 3 (flat 9 0xFFFFFFFF)) [flat 7 5]))) :=
  goes_tok (h (wordFA 0x90 ⟨3, 1⟩ ⟨3, 0⟩ one 0)
    (stage 0 (fed (List.replicate 3 (flat 9 0x01020304)) (List.replicate 3 (flat 9 0xFFFFFFFF)) [flat 7 5])) rfl rfl rfl
    (ready_of (by decide)) (clean_of (by decide)) (.inl rfl) rfl
    (fun p hp t ht => tagged_of (by revert t; revert p; decide)) (fun _ => tagged_of (by decide)))

theorem witness_LaneMovement (h : Clause.LaneMovement) :
    Goes (exec (.perm (wordFA 0x70 one off off 0x200)) (oneIn [flat 7 5])) ∧
    Goes (exec (.perm (wordFA 0x70 one one off 0)) (twoIn 7 5 15)) ∧
    Goes (exec (.bcast ⟨0x90, ⟨true, 1, 0⟩, ⟨false, 0, 0⟩, one, 0x3F⟩) (oneIn [flat 9 5])) :=
  ⟨goes_tok (h.1 (wordFA 0x70 one off off 0x200) (oneIn [flat 7 5]) rfl (ready_of (by decide)) (clean_of (by decide))
      (tagged_of (by decide)) (by decide) (by decide)),
    goes_tok (h.1 (wordFA 0x70 one one off 0) (twoIn 7 5 15) rfl (ready_of (by decide)) (clean_of (by decide))
      (tagged_of (by decide)) (by decide) (by decide)),
    goes_tok (h.2 ⟨0x90, ⟨true, 1, 0⟩, ⟨false, 0, 0⟩, one, 0x3F⟩ (oneIn [flat 9 5]) rfl (ready_of (by decide))
      (clean_of (by decide)) (tagged_of (by decide)) (by decide))⟩

/-- The distance from IMM10, and from port b beyond the window. -/
theorem witness_WindowAdvance (h : Clause.WindowAdvance) :
    Goes (exec (.adv (wordFA 0x70 ⟨3, 0⟩ off off 3)) (oneIn [flat 7 1, flat 7 2, flat 7 3])) ∧
    Goes (exec (.adv (wordFA 0x70 peek one off 0)) (twoIn 7 1 9)) := by
  obtain ⟨_, _, _, _, _, _, e⟩ := h (wordFA 0x70 ⟨3, 0⟩ off off 3) (oneIn [flat 7 1, flat 7 2, flat 7 3]) (clear_of (by decide))
    (by decide) (by decide) (fun e => absurd e (by decide)) (clean_of (by decide)) rfl rfl (tagged_of (by decide)) rfl
  obtain ⟨_, _, _, _, _, _, e2⟩ := h (wordFA 0x70 peek one off 0) (twoIn 7 1 9) (clear_of (by decide)) (by decide)
    (by decide) (by decide) (clean_of (by decide)) rfl rfl (tagged_of (by decide)) rfl
  exact ⟨goes e, goes e2⟩

/-! ## Sampling -/

/-- Part 0, and the last part. -/
theorem witness_StateMerge (h : Clause.StateMerge) :
    Goes (exec (.smrg (wordFA 0x10 one one off 0)) (twoIn 1 0 0)) ∧
    Goes (exec (.smrg (wordFA 0x10 one one off 0))
      (stage 0 { fed [flat 1 0] [flat 1 0] [] with run := .smrg 0 0x3F800000 0 1 })) := by
  obtain ⟨_, _, _, _, _, _, e⟩ := (h (wordFA 0x10 one one off 0) (twoIn 1 0 0) (ready_of (by decide)) rfl rfl
    (clean_of (by decide)) rfl rfl).1 rfl ⟨by decide, by decide⟩ ⟨by decide, by decide⟩
  obtain ⟨_, _, _, e2⟩ := (h (wordFA 0x10 one one off 0)
    (stage 0 { fed [flat 1 0] [flat 1 0] [] with run := .smrg 0 0x3F800000 0 1 }) (ready_of (by decide)) rfl rfl
    (clean_of (by decide)) rfl rfl).2 0x3F800000 0 1 rfl (by decide)
  exact ⟨goes e, goes e2⟩

theorem witness_RandomDraw (h : Clause.RandomDraw) :
    Goes (exec (.rdraw (wordFA 0x70 one off off 0)) (oneIn [flat 7 5])) ∧
    Goes (exec (.rdraw (wordFA 0x10 one off off 0)) (oneIn [flat 7 5])) :=
  ⟨goes_tok (h (wordFA 0x70 one off off 0) (oneIn [flat 7 5]) rfl (ready_of (by decide)) (clean_of (by decide)) rfl (.inr rfl)),
    goes_tok (h (wordFA 0x10 one off off 0) (oneIn [flat 7 5]) rfl (ready_of (by decide)) (clean_of (by decide)) rfl (.inl rfl))⟩

/-- A draw of one token is over with its first; one of two tokens is not. -/
theorem witness_WeightedDraw (h : Clause.WeightedDraw) :
    let s := stage 0 (fed [flat 1 0x3F800000] [flat 7 1] [])
    Goes (exec (.rsvr (wordFA 0x10 one one off 0)) s) ∧ Goes (exec (.rsvr (wordFA 0x10 one one off 1)) s) ∧
    Goes (exec (.rsvr (wordFA 0x10 one one off 1)) (stage 0 { fed [flat 1 0x3F800000] [flat 7 1] [] with
      run := .rsvr 1 4 0x40000000 2 none false })) := by
  obtain ⟨_, _, _, _, _, _, e⟩ := (h (wordFA 0x10 one one off 0) (stage 0 (fed [flat 1 0x3F800000] [flat 7 1] [])) 0 0xFFFFFFFF
    0 0 (ready_of (by decide)) rfl rfl rfl (clean_of (by decide)) (tagged_of (by decide)) rfl
    (.inr ⟨rfl, rfl, rfl, rfl, rfl⟩)).2 (by decide)
  have e2 := (h (wordFA 0x10 one one off 1) (stage 0 (fed [flat 1 0x3F800000] [flat 7 1] [])) 0 0xFFFFFFFF
    0 0 (ready_of (by decide)) rfl rfl rfl (clean_of (by decide)) (tagged_of (by decide)) rfl
    (.inr ⟨rfl, rfl, rfl, rfl, rfl⟩)).1 (by decide)
  obtain ⟨_, _, _, _, _, _, e3⟩ := (h (wordFA 0x10 one one off 1) (stage 0 { fed [flat 1 0x3F800000] [flat 7 1] [] with
      run := .rsvr 1 4 0x40000000 2 none false }) 1 4
    0x40000000 2 (ready_of (by decide)) rfl rfl rfl (clean_of (by decide)) (tagged_of (by decide)) rfl
    (.inl rfl)).2 (by decide)
  exact ⟨goes e, goes e2, goes e3⟩

/-- Sixteen nodes, the checkpoints 63 apart. -/
theorem witness_DraftAcceptance (h : Clause.DraftAcceptance) :
    Goes (exec (.accpt (wordFA 0x70 one one one 0x3FF)) (threeIn 7 5 0 5)) := by
  obtain ⟨_, _, e, _⟩ := h (wordFA 0x70 one one one 0x3FF) (threeIn 7 5 0 5) rfl rfl rfl (ready_of (by decide))
    (clean_of (by decide)) (by decide)
  exact goes e

end Sys2Proof.Tests
end

