-- ==== Sys2Proof/Tests/WitnessIslands.lean ====
section
/-! SUPPORT. Witnesses for the statements about egress, the islands and reins. -/

namespace Sys2Proof.Tests

open Sys2Proof Sys2Proof.Machine

set_option maxRecDepth 100000

/-! ## Egress -/

/-- An EGPUT and an EGVER fire. -/
theorem witness_EgressFirings (h : Clause.EgressFirings) :
    Goes (exec (.egput (wordFM 0 one off 0 0)) (memSlot [flat 7 1] [])) ∧
    Goes (exec (.egver (wordFM 0 one off 0 0)) (memSlot [flat 7 1] [])) ∧
    Goes (exec (.egrst (wordFM 0 one off 0 0)) (memSlot [flat 7 1] [])) := by
  refine ⟨?_, ?_, ?_⟩
  · exact goes (h (wordFM 0 one off 0 0) (memSlot [flat 7 1] []) Instr.egput (by simp) (ready_of (by decide)) rfl
      ⟨by decide, by decide⟩ rfl rfl)
  · exact goes (h (wordFM 0 one off 0 0) (memSlot [flat 7 1] []) Instr.egver (by simp) (ready_of (by decide)) rfl
      ⟨by decide, by decide⟩ rfl rfl)
  · exact goes (h (wordFM 0 one off 0 0) (memSlot [flat 7 1] []) Instr.egrst (by simp) (ready_of (by decide)) rfl
      ⟨by decide, by decide⟩ rfl rfl)

/-- An egress operation that waits at the queue: its operation and its request. -/
def egressAccess (op : Nat) (req : List Lane) : Access :=
  { unit (.egress (BitVec.ofNat 64 (2 ^ 56 * op)) (i32Token req)) 64 0 [] true with pieces := [], asid := 5 }

/-- The machine with that operation, and stream 3 and its held tokens. -/
def egressState (st : Stream) (held : List HeldTok) (op : Nat) (req : List Lane) : State :=
  (acting (egressAccess op req)).onEgress fun g => { g with streams := [st], held := held }

/-- Held tokens 1 and 2 of stream 3. -/
def twoHeld : List HeldTok := [⟨3, 1, 11, 0⟩, ⟨3, 2, 22, 0⟩]

theorem alone_of {s : State} {a : Access} (h : s.accs = [a]) : s.streamAlone a := by
  intro b hb hn
  rw [h] at hb
  exact absurd (congrArg Access.id (List.mem_singleton.mp hb)) hn

/-- The next token, one out of sequence, and one to another tenant's stream. -/
theorem witness_EgressPut (h : Clause.EgressPut) :
    Goes (exec (.accessPerform 1) (egressState ⟨3, some 5, 2, 0, 0⟩ twoHeld 0xBB [33, 3, 3])) ∧
    Goes (exec (.accessPerform 1) (egressState ⟨3, some 5, 2, 0, 0⟩ twoHeld 0xBB [33, 7, 3])) ∧
    Goes (exec (.accessPerform 1) (egressState ⟨3, some 6, 2, 0, 0⟩ twoHeld 0xBB [33, 3, 3])) := by
  have key := fun (st : Stream) (req : List Lane) e1 e2 e3 => h (egressState st twoHeld 0xBB req) (egressAccess 0xBB req) _ _ _ _ _
    ⟨e1, rfl, rfl, e2⟩ (alone_of rfl) rfl rfl rfl e3
  obtain ⟨_, h1⟩ := (key ⟨3, some 5, 2, 0, 0⟩ [33, 3, 3] rfl (by decide) (by decide)).2 (.inr rfl)
  obtain ⟨_, e1, _⟩ := h1 rfl (by decide) rfl (by decide) rfl
  obtain ⟨h2, _⟩ := (key ⟨3, some 5, 2, 0, 0⟩ [33, 7, 3] rfl (by decide) (by decide)).2 (.inr rfl)
  obtain ⟨_, e2, _⟩ := h2 (by decide)
  obtain ⟨_, e3, _⟩ := (key ⟨3, some 6, 2, 0, 0⟩ [33, 3, 3] rfl (by decide) (by decide)).1 6 rfl (by decide)
  exact ⟨goes e1, goes e2, goes e3⟩

/-- A release up to 1, a withholding from 2 on, and a configuration that the armed set does not list. -/
theorem witness_EgressVerdict (h : Clause.EgressVerdict) :
    Goes (exec (.accessPerform 1) (egressState ⟨3, some 5, 2, 0, 0⟩ twoHeld 0xBC [3, 1, 0])) ∧
    Goes (exec (.accessPerform 1) (egressState ⟨3, some 5, 2, 0, 0⟩ twoHeld 0xBC [3, 2, 1])) ∧
    Goes (exec (.accessPerform 1) ((egressState ⟨3, some 5, 2, 0, 0⟩ twoHeld 0xBC [3, 1, 0]).onEgress fun g =>
      { g with armed := some [] })) := by
  obtain ⟨_, h1⟩ := h (egressState ⟨3, some 5, 2, 0, 0⟩ twoHeld 0xBC [3, 1, 0]) (egressAccess 0xBC [3, 1, 0]) _ _ _ _ _
    ⟨rfl, rfl, rfl, by decide⟩ (alone_of rfl) rfl rfl rfl (by decide)
  obtain ⟨_, e1, _⟩ := (h1 rfl (by decide) rfl rfl).1 rfl (by decide)
  obtain ⟨_, h2⟩ := h (egressState ⟨3, some 5, 2, 0, 0⟩ twoHeld 0xBC [3, 2, 1]) (egressAccess 0xBC [3, 2, 1]) _ _ _ _ _
    ⟨rfl, rfl, rfl, by decide⟩ (alone_of rfl) rfl rfl rfl (by decide)
  obtain ⟨_, e2, _⟩ := (h2 rfl (by decide) rfl rfl).2 rfl (by decide)
  obtain ⟨h3, _⟩ := h ((egressState ⟨3, some 5, 2, 0, 0⟩ twoHeld 0xBC [3, 1, 0]).onEgress fun g => { g with armed := some [] })
    (egressAccess 0xBC [3, 1, 0]) _ _ _ _ _ ⟨rfl, rfl, rfl, by decide⟩ (alone_of rfl) rfl rfl rfl (by decide)
  obtain ⟨_, e3, _⟩ := h3 rfl
  exact ⟨goes e1, goes e2, goes e3⟩

/-- The owner, another ASID that may give no verdicts, and stream 4096. -/
theorem witness_EgressReset (h : Clause.EgressReset) :
    Goes (exec (.accessPerform 1) (egressState ⟨3, some 5, 2, 0, 0⟩ twoHeld 0xBD [3])) ∧
    Goes (exec (.accessPerform 1) ((egressState ⟨3, some 6, 2, 0, 0⟩ twoHeld 0xBD [3]).onEgress fun g => { g with armed := some [] })) ∧
    Goes (exec (.accessPerform 1) (egressState ⟨3, some 5, 2, 0, 0⟩ twoHeld 0xBD [4096])) := by
  obtain ⟨_, e1, _⟩ := (h (egressState ⟨3, some 5, 2, 0, 0⟩ twoHeld 0xBD [3]) (egressAccess 0xBD [3]) _ _ _ _ _
    ⟨rfl, rfl, rfl, by decide⟩ (alone_of rfl) rfl rfl rfl).1 (by decide) (.inr (.inl rfl))
  obtain ⟨_, e2, _⟩ := (h ((egressState ⟨3, some 6, 2, 0, 0⟩ twoHeld 0xBD [3]).onEgress fun g => { g with armed := some [] })
    (egressAccess 0xBD [3]) _ _ _ _ _ ⟨rfl, rfl, rfl, by decide⟩ (alone_of rfl) rfl rfl rfl).2.1 6 (by decide) rfl (by decide) rfl
  obtain ⟨_, e3, _⟩ := (h (egressState ⟨3, some 5, 2, 0, 0⟩ twoHeld 0xBD [4096]) (egressAccess 0xBD [4096]) _ _ _ _ _
    ⟨rfl, rfl, rfl, by decide⟩ (alone_of rfl) rfl rfl rfl).2.2 (by decide)
  exact ⟨goes e1, goes e2, goes e3⟩

/-- A record leaves for the last slot of the ring; the host's count; a waiting put is held. -/
theorem witness_EgressPort (h : Clause.EgressPort) :
    Goes (exec .egressRecordOut (State.reset.onEgress fun g => { g with out := [⟨7, 3, 1, 11⟩], count := 255, addr := 0x100 })) ∧
    Goes (exec (.egoHeadWrite 4) State.reset) ∧
    Goes (exec .egputEntryFree ((egressState ⟨3, some 5, 2, 0, 0⟩ [] 0xBB [11, 2, 3]).onEgress fun g => { g with waiting := [1] })) := by
  obtain ⟨_, e1, _⟩ := (h (State.reset.onEgress fun g => { g with out := [⟨7, 3, 1, 11⟩], count := 255, addr := 0x100 })).1 _ _ rfl
    (by decide)
  have e2 := (h State.reset).2.1 4
  obtain ⟨_, e3, _⟩ := (h ((egressState ⟨3, some 5, 2, 0, 0⟩ [] 0xBB [11, 2, 3]).onEgress fun g => { g with waiting := [1] })).2.2
    (egressAccess 0xBB [11, 2, 3]) _ _ _ _ _ _ rfl (by decide) rfl rfl rfl rfl
    (fun b hb hn => absurd (congrArg Access.id (List.mem_singleton.mp hb)) hn)
  exact ⟨goes e1, goes e2, goes e3⟩

/-! ## Islands -/

/-- A word of format FT for port 1 of an island, delivering to port a of slot 1. -/
def wordFT (a b : PortCtl) (params : BitVec 8) : FT := ⟨0, ⟨true, 1, 0⟩, ⟨false, 0, 0⟩, a, b, 1, params⟩

/-- A slot at an island port with a record, and words that replace some of it. -/
def islandSlot : State := stage 0 (fed [flat 7 3] [flat 7 9] [])

theorem witness_IslandCommands (h : Clause.IslandCommands) :
    Goes (exec (.mtask (wordFT one one 5)) islandSlot) ∧ Goes (exec (.msync (wordFT one one 5)) islandSlot) ∧
    Goes (exec (.mdrain (wordFT one one 5)) islandSlot) ∧ Goes (exec (.mtask (wordFT one off 0)) islandSlot) ∧
    Goes (exec (.xreq (wordFT one off 0)) islandSlot) ∧ Goes (exec (.xmc (wordFT one one 0)) islandSlot) := by
  obtain ⟨h1, h2⟩ := h (wordFT one one 5) islandSlot rfl
  obtain ⟨ha, hb, hc⟩ := h1 (ready_of (by decide)) (by decide) (by decide) (by decide)
  obtain ⟨_, e1, _⟩ := ha (.inl rfl)
  obtain ⟨h3, h4⟩ := h (wordFT one off 0) islandSlot rfl
  obtain ⟨hd, _⟩ := h3 (ready_of (by decide)) (by decide) (by decide) (by decide)
  obtain ⟨_, e2, _⟩ := hd (.inr rfl)
  exact ⟨goes e1, goes hb, goes hc, goes e2, goes (h4 (ready_of (by decide)) (by decide) (by decide) (by decide)).1,
    goes (h2 (ready_of (by decide)) (by decide) (by decide) (by decide)).2⟩

/-- The islands belong to tenant 1, the element to tenant 0. -/
def guarded : State := islandSlot.onCore 0 fun k => { k with guardPt := 0x500 }

/-- An open report about port 1 of the streamer island. -/
def drop9 : GuardRep := ⟨0, 0, 0x15, 0x30, 1, 0, 0, 0, 1, false, 0, 0, 0, 0, 0⟩

/-- Every command is turned away, and a second drop is counted into the open report. -/
theorem witness_IslandGuard (h : Clause.IslandGuard) :
    Goes (exec (.mtask (wordFT one off 0)) guarded) ∧ Goes (exec (.msync (wordFT one off 0)) guarded) ∧
    Goes (exec (.mdrain (wordFT one off 0)) guarded) ∧ Goes (exec (.xreq (wordFT one off 0)) guarded) ∧
    Goes (exec (.xmc (wordFT one off 0)) guarded) ∧
    Goes (exec (.xreq (wordFT one off 0)) (guarded.onRegion 0 0 fun g => { g with guards := [drop9] })) := by
  obtain ⟨hm, hs⟩ := h (wordFT one off 0) guarded rfl rfl
  obtain ⟨⟨_, _, e1, _⟩, ⟨_, _, e2, _⟩, _, _, e3, _⟩ := hm (ready_of (by decide)) (by decide) rfl (by decide)
  obtain ⟨⟨_, _, e4, _⟩, _, _, e5, _⟩ := hs (ready_of (by decide)) (by decide) rfl (by decide)
  obtain ⟨⟨_, _, e6, _, _, _, _, _, _, _, _, h6⟩, _⟩ := (h (wordFT one off 0)
    (guarded.onRegion 0 0 fun g => { g with guards := [drop9] }) rfl rfl).2
    (ready_of (by decide)) (by decide) rfl (by decide)
  have := h6 _ rfl (by decide) (by decide) (by decide)
  exact ⟨goes e1, goes e2, goes e3, goes e4, goes e5, goes e6⟩

/-- A request of slot 0 at port 0, with its operation and the first lanes of its record. -/
def request (op : Nat) (ls : List Lane) : IslandReq := ⟨⟨0, 0, 0⟩, 0, 0, 7, 0, BitVec.ofNat 64 (2 ^ 56 * op), (i32Token ls).lanes⟩

/-- A core with accumulators, and what its matrix island holds. -/
def island (m : Matrix) : State := (stage 0 { fed [] [] [] with rob := [⟨7, none, [], 0⟩] }).onCore 0 fun k =>
  { k with poolA := 1, matrix := m }

/-- Rings at 0 and 16 of tile 0: 8 KiB and 12 KiB, both full up to the operands of one task of I8. -/
def rings (s : State) : State :=
  withBytes 0x4000000000 (natBytes 4 0x1000 ++ natBytes 4 0x2000 ++ natBytes 4 0 ++ natBytes 4 0x1000 ++
    natBytes 4 0x4000 ++ natBytes 4 0x3000 ++ natBytes 4 0 ++ natBytes 4 0x1800) s

/-- A task of I8: rings 0 and 16, one group, tile 0, version 0, ZERO and KEEPB. -/
def taskLanes : List Lane := [0, 16, 1, 0x99, 0, 0, 9]

/-- Two tiles, at version 0. -/
def twoTiles : List Tile := [.fresh, .fresh]

/-- A good task, and each of the refusals the statement names: no accumulators, a bad record, an MSYNC that waits, one without a
tile, an MDRAIN, and one past the last row. -/
theorem witness_Enqueue (h : Clause.Enqueue) :
    Goes (exec (.taskEnqueue 0) (rings (island ⟨[request 0xA0 taskLanes], 0, [], twoTiles, [], 0⟩))) ∧
    Goes (exec (.taskEnqueue 0) (rings (island ⟨[request 0xA1 [0, 1]], 0, [], twoTiles, [], 0⟩))) ∧
    Goes (exec (.taskEnqueue 0) (rings (island ⟨[request 0xA2 [0, 1]], 0, [], twoTiles, [], 0⟩))) ∧
    (rings (island ⟨[request 0xA2 [0, 1, 60, 5]], 0, [], twoTiles, [], 0⟩)).refusal 0 (request 0xA2 [0, 1, 60, 5]) = some 2 ∧
    (rings (island ⟨[request 0xA1 [2, 1]], 0, [], twoTiles, [], 0⟩)).refusal 0 (request 0xA1 [2, 1]) = some 3 ∧
    (rings (island ⟨[request 0xA0 [0, 0, 1, 0x99]], 0, [], twoTiles, [], 0⟩)).refusal 0 (request 0xA0 [0, 0, 1, 0x99]) = some 2 ∧
    ((island ⟨[request 0xA0 taskLanes], 0, [], twoTiles, [], 0⟩).onCore 0 fun k => { k with poolA := 0 }).refusal 0
      (request 0xA0 taskLanes) = some 7 := by
  have key := fun (op : Nat) (ls : List Lane) e1 e2 => h (rings (island ⟨[request op ls], 0, [], twoTiles, [], 0⟩)) 0
    (request op ls) rfl e1 e2 rfl
  obtain ⟨_, e1, _, _, _, h1, _⟩ := key 0xA0 taskLanes (by decide) (by decide)
  have := h1 (by decide) (by decide) (by decide)
  obtain ⟨_, e2, _, _, h2, _⟩ := key 0xA1 [0, 1] (by decide) (by decide)
  have := h2 (by decide) (by decide)
  obtain ⟨_, e3, _, _, _, h3, _⟩ := key 0xA2 [0, 1] (by decide) (by decide)
  have := h3 (by decide) (by decide) (by decide)
  obtain ⟨_, _, _, _, _, _, _, _, _, _, h4⟩ := key 0xA2 [0, 1, 60, 5] (by decide) (by decide)
  obtain ⟨_, _, _, _, _, _, _, _, _, h5, _⟩ := key 0xA1 [2, 1] (by decide) (by decide)
  obtain ⟨_, _, _, _, _, _, _, _, h6, _⟩ := key 0xA0 [0, 0, 1, 0x99] (by decide) (by decide)
  obtain ⟨_, _, _, _, _, _, h8, h7, _⟩ := h ((island ⟨[request 0xA0 taskLanes], 0, [], twoTiles, [], 0⟩).onCore 0 fun k =>
    { k with poolA := 0 }) 0 (request 0xA0 taskLanes) rfl (by decide) (by decide) rfl
  have := h8 7 (by decide)
  exact ⟨goes e1, goes e2, goes e3, h4 (by decide) (by decide) (by decide), h5 (by decide) (by decide) (by decide),
    h6 (by decide) (by decide) (by decide), h7 (by decide)⟩

/-- The same task with the unit of its ring descriptors poisoned. -/
theorem witness_Enqueue_spoilt (h : Clause.Enqueue) :
    Goes (exec (.taskEnqueue 0) ((rings (island ⟨[request 0xA0 taskLanes], 0, [], twoTiles, [], 0⟩)).onMem fun m =>
      m.setPoison 0x4000000000 true)) := by
  obtain ⟨_, e, _, h1, _⟩ := h ((rings (island ⟨[request 0xA0 taskLanes], 0, [], twoTiles, [], 0⟩)).onMem fun m =>
      m.setPoison 0x4000000000 true) 0 (request 0xA0 taskLanes) rfl (by decide) (by decide) rfl
  have := h1 (by decide) (by decide) (by decide)
  exact goes e

/-- An entry of the queue, not issued or issued to an engine. -/
def entry (op : Nat) (ls : List Lane) (tile : Nat) (ever : BitVec 16) (issued : Option (Fin 4)) : MEntry :=
  ⟨request op ls, tile, ever, issued, 0, 0, 0x1000, 0x2000, 0x4000, 0x3000, 0, 0⟩

/-- A stale entry retires; the second entry issues to engine 1 beside one at engine 0. -/
theorem witness_Scheduler (h : Clause.Scheduler) :
    Goes (exec (.taskIssue 0) (rings (island ⟨[], 0, [entry 0xA0 taskLanes 0 0xFFFF none], twoTiles, [], 0⟩))) ∧
    Goes (exec (.taskIssue 0) (rings (island ⟨[], 0, [entry 0xA0 [0, 16, 1, 0x99, 1] 1 0 (some 0), entry 0xA2 [0, 0] 0 0 none],
      twoTiles, [], 0⟩))) := by
  obtain ⟨_, e1, _⟩ := (h (rings (island ⟨[], 0, [entry 0xA0 taskLanes 0 0xFFFF none], twoTiles, [], 0⟩)) 0).1
  obtain ⟨_, _, e2, _⟩ := (h (rings (island ⟨[], 0, [entry 0xA0 [0, 16, 1, 0x99, 1] 1 0 (some 0), entry 0xA2 [0, 0] 0 0 none],
      twoTiles, [], 0⟩)) 0).2 [entry 0xA0 [0, 16, 1, 0x99, 1] 1 0 (some 0)] [] (entry 0xA2 [0, 0] 0 0 none) 1 rfl (by decide) rfl
    (by decide) (by decide) rfl (by decide) (by decide) (by decide) (by decide)
  exact ⟨goes e1, goes e2⟩

theorem witness_TaskRetires (h : Clause.TaskRetires) :
    Goes (exec (.taskRetire 0 2) (rings (island ⟨[], 0, [entry 0xA0 taskLanes 0 0 (some 2)], twoTiles, [], 0⟩))) := by
  obtain ⟨_, _, _, e, _⟩ := h (rings (island ⟨[], 0, [entry 0xA0 taskLanes 0 0 (some 2)], twoTiles, [], 0⟩)) 0 2
    (entry 0xA0 taskLanes 0 0 (some 2)) rfl (by decide) (by decide) rfl (by decide) (by decide) (by decide) (by decide) (by decide) (by decide) (by decide)
    (fun _ _ => ⟨rfl, rfl⟩) (fun _ _ => ⟨rfl, rfl⟩) (fun _ _ => ⟨fun _ _ => rfl, fun _ _ => rfl⟩)
  exact goes e

/-- A tile of I32 with known values at version 4. -/
def drained : Tile := ⟨false, false, 1, 4, some (List.replicate 6144 3)⟩

/-- The last two rows; an MSYNC that completes, and one that waits. -/
theorem witness_DrainsAndSyncs (h : Clause.DrainsAndSyncs) :
    Goes (exec (.taskRetire 0 1) (island ⟨[], 0, [{ entry 0 [0, 4, 62, 2] 0 4 (some 1) with
      req := { request 0xA2 [0, 4, 62, 2] with word := 0xA200000000000007 } }], [drained], [], 0⟩)) ∧
    Goes (exec (.msyncComplete 0) (island ⟨[], 0, [], [drained], [request 0xA1 [0, 4]], 0⟩)) ∧
    Goes (exec (.msyncComplete 0) (island ⟨[], 0, [], [drained], [request 0xA1 [0, 5]], 0⟩)) := by
  obtain ⟨_, _, _, e1, _⟩ := h.1 (island ⟨[], 0, [{ entry 0 [0, 4, 62, 2] 0 4 (some 1) with
      req := { request 0xA2 [0, 4, 62, 2] with word := 0xA200000000000007 } }], [drained], [], 0⟩) 0 1 _ drained
    (List.replicate 6144 3) rfl rfl (by decide) rfl rfl List.length_replicate rfl rfl (by decide) (by decide) (by decide)
  obtain ⟨_, e2, _, h2⟩ := h.2 (island ⟨[], 0, [], [drained], [request 0xA1 [0, 4]], 0⟩) 0 _ drained rfl (by decide) rfl
    (by decide)
  have := h2 (by decide)
  obtain ⟨_, e3, h3, _⟩ := h.2 (island ⟨[], 0, [], [drained], [request 0xA1 [0, 5]], 0⟩) 0 _ drained rfl (by decide) rfl
    (by decide)
  have := h3 (by decide)
  exact ⟨goes e1, goes e2, goes e3⟩

/-! ## Transfers -/

/-- A packet: source, destination, length, stride, spaces, rows less one, cookie 77. -/
def packet (src dst len stride flags rows : Lane) (more : List Lane) : List Lane :=
  [src, 0, dst, 0, len, stride, flags + 0x10000 * rows, 77] ++ more

/-- A core with two granules of ember store, and what its streamer holds. -/
def streaming (u : Slot) (m : Streamer) : State := (stage 0 { u with rob := [⟨7, none, [], 0⟩] }).onCore 0 fun k =>
  { k with poolE := 2, streamer := m }

/-- Two rows of 128 bytes within the ember store. -/
def emberRows : IslandReq := request 0xA3 (packet 0 0x1000 128 256 0x33 1 [])

/-- A transfer of a request. -/
def transfer (r : IslandReq) : Transfer := ⟨3, r, 0, [], 0, false, false, 0, 0⟩

/-- An XMC to one virtual destination with one slot. -/
def multi : IslandReq := ⟨⟨0, 0, 0⟩, 0, 0, 7, 0, 0xA400000000000001, (i32Token (packet 0 0 64 64 0x423 1 [64])).lanes⟩

/-- An accepted request, a bad one, and a permit. -/
theorem witness_TransferStarts (h : Clause.TransferStarts) :
    Goes (exec (.transferAccept 0) (streaming (fed [] [] []) ⟨[emberRows], [], 0⟩)) ∧
    Goes (exec (.transferAccept 0) (streaming (fed [] [] []) ⟨[request 0xA3 (packet 0 0 32 64 0x33 0 [])], [], 0⟩)) ∧
    Goes (exec (.xmcPermit 0 3) (streaming (fed [] [flat 7 0] []) ⟨[], [{ transfer multi with next := 1 }], 0⟩)) := by
  obtain ⟨_, e1, _, h1, _⟩ := h.1 (streaming (fed [] [] []) ⟨[emberRows], [], 0⟩) 0 emberRows [] rfl rfl (by decide) rfl
    (fun _ e => nomatch e)
  have := h1 (by decide)
  obtain ⟨_, e2, _, _, h2, h3⟩ := h.1 (streaming (fed [] [] []) ⟨[request 0xA3 (packet 0 0 32 64 0x33 0 [])], [], 0⟩) 0
    (request 0xA3 (packet 0 0 32 64 0x33 0 [])) [] rfl rfl (by decide) rfl (fun _ e => nomatch e)
  have := h2 (h3 (by decide))
  obtain ⟨_, e3, _⟩ := h.2 (streaming (fed [] [flat 7 0] []) ⟨[], [{ transfer multi with next := 1 }], 0⟩) 0
    { transfer multi with next := 1 } (flat 7 0) _ _ rfl (by decide) rfl (by decide) (by decide) rfl rfl rfl rfl rfl rfl rfl
  exact ⟨goes e1, goes e2, goes e3⟩

/-- The piece of a unit at an address. -/
def piece (pa : Nat) : Piece := ⟨0, 64, some pa⟩

/-- Unit n of transfer 3, with its pieces. -/
def copying (n : Nat) (ps : List Nat) : Access :=
  { unit .copyLine 64 0 [] true with id := 9, agent := .line 0 3 n, pieces := ps.map piece }

/-- An XMC of two tiles of one unit from the ember store to 64 and 1088 of tile 0 of scratch. -/
def multiScratch : IslandReq :=
  ⟨⟨0, 0, 0⟩, 0, 0, 7, 0, 0xA400000000000001, (i32Token (packet 0 0 64 64 0x403 1 [64, 0, 1088])).lanes⟩

/-- A transfer of one unit whose destination lies beyond the ember store. -/
def farTransfer : Transfer := transfer (request 0xA3 (packet 0 0x20000 64 64 0x33 0 []))

theorem served_of {s : State} {l : List Nat} (h : (l.all fun q => match s.phys q with
    | .dram .. | .scratch .. | .ember .. => true
    | _ => false) = true) (q : Nat) (hq : q ∈ l) :
    (∃ k o, s.phys q = .dram k o) ∨ (∃ k t o, s.phys q = .scratch k t o) ∨ ∃ k o, s.phys q = .ember k o := by
  have := List.all_eq_true.mp h q hq
  split at this
  · exact .inl ⟨_, _, ‹_›⟩
  · exact .inr (.inl ⟨_, _, _, ‹_›⟩)
  · exact .inr (.inr ⟨_, _, ‹_›⟩)
  · cases this

/-- The last unit of two rows starts; a unit of an XMC to virtual addresses starts; a unit beyond the store is refused. -/
theorem witness_TransferMoves_start (h : Clause.TransferMoves) :
    Goes (exec (.transferLine 0 3 3) (streaming (fed [] [] []) ⟨[], [{ transfer emberRows with next := 3 }], 0⟩)) ∧
    Goes (exec (.transferLine 0 3 0) (streaming (fed [] [] []) ⟨[], [transfer multi], 0⟩)) ∧
    Goes (exec (.transferLine 0 3 0) (streaming (fed [] [] []) ⟨[], [farTransfer], 0⟩)) := by
  obtain ⟨_, _, e1, _⟩ := (h.1 (streaming (fed [] [] []) ⟨[], [{ transfer emberRows with next := 3 }], 0⟩) 0
    { transfer emberRows with next := 3 } rfl (by decide) (by decide) (.inl (by decide))).1 (by decide)
    (fun d hd => by cases List.mem_singleton.mp hd; decide)
  obtain ⟨_, _, e2, _⟩ := (h.1 (streaming (fed [] [] []) ⟨[], [transfer multi], 0⟩) 0 (transfer multi) rfl (by decide) (by decide)
    (.inl (by decide))).1 (by decide) (fun d hd => by cases List.mem_singleton.mp hd; decide)
  obtain ⟨_, e3, _⟩ := (h.1 (streaming (fed [] [] [])
    ⟨[], [farTransfer], 0⟩) 0 farTransfer rfl (by decide) (by decide)
    (.inl (by decide))).2 0x0D (by decide) rfl (by decide) rfl (by decide)
  exact ⟨goes e1, goes e2, goes e3⟩

/-- Its line is performed; a unit of an XMC is performed at two scratch addresses, fills their lines and lands. -/
theorem witness_TransferMoves_performed (h : Clause.TransferMoves) :
    Goes (exec (.accessPerform 9) { streaming (fed [] [] []) ⟨[], [{ transfer emberRows with next := 4, flight := [3] }], 0⟩ with
      accs := [copying 3 [emberAddr 0 0x140, emberAddr 0 0x10C0]] }) ∧
    Goes (exec (.accessPerform 9) { streaming (fed [] [] []) ⟨[], [{ transfer multiScratch with next := 1, flight := [0] }], 0⟩ with
      accs := [copying 0 [emberAddr 0 0, tileAddr 0 0 64, tileAddr 0 0 1088]] }) := by
  obtain ⟨_, _, e1, _⟩ := h.2.1 { streaming (fed [] [] []) ⟨[], [{ transfer emberRows with next := 4, flight := [3] }], 0⟩ with
      accs := [copying 3 [emberAddr 0 0x140, emberAddr 0 0x10C0]] } 0 { transfer emberRows with next := 4, flight := [3] }
    (copying 3 [emberAddr 0 0x140, emberAddr 0 0x10C0]) (emberAddr 0 0x140) 3 [emberAddr 0 0x10C0]
    ⟨rfl, rfl, rfl, by decide⟩ rfl rfl rfl (by decide) rfl (by decide) (by decide) (by decide) rfl
    (served_of (by decide)) (by decide)
  obtain ⟨_, _, e2, _, _, _, _, _, _, _, _, _, hf, hl⟩ := h.2.1
    { streaming (fed [] [] []) ⟨[], [{ transfer multiScratch with next := 1, flight := [0] }], 0⟩ with
      accs := [copying 0 [emberAddr 0 0, tileAddr 0 0 64, tileAddr 0 0 1088]] } 0 { transfer multiScratch with next := 1, flight := [0] }
    (copying 0 [emberAddr 0 0, tileAddr 0 0 64, tileAddr 0 0 1088]) (emberAddr 0 0) 0 [tileAddr 0 0 64, tileAddr 0 0 1088]
    ⟨rfl, rfl, rfl, by decide⟩ rfl rfl rfl (by decide) rfl (by decide) (by decide) (by decide) rfl
    (served_of (by decide)) (by decide)
  have := hf 1 _ _ rfl rfl (by decide) (by decide) (.inl (by decide))
  have := hl (by decide) (by decide) (by decide) (by decide) (by decide) (by decide) rfl
  exact ⟨goes e1, goes e2⟩

/-- The transfer ends. -/
theorem witness_TransferMoves_end (h : Clause.TransferMoves) :
    Goes (exec (.transferComplete 0 3) (streaming (fed [] [] []) ⟨[], [{ transfer emberRows with next := 4, written := 256 }], 0⟩)) := by
  obtain ⟨_, e3, _⟩ := h.2.2 (streaming (fed [] [] []) ⟨[], [{ transfer emberRows with next := 4, written := 256 }], 0⟩) 0
    { transfer emberRows with next := 4, written := 256 } rfl (by decide) (by decide) rfl
  exact goes e3

/-! ## Reins -/

/-- A rein on long channel 0 between slots 0 and 2 of entry block 0. -/
def rein9 : Rein :=
  { Rein.ofBits 0 with
    setpt := 4, kp := 16, ki := 2, period := 16, wp0 := 128, wc0 := 128, wfloor := 1, wceil := 256, g := 4, ilim := 100,
    bkind := 0, bufid := 0, psrc := 0, csrc := 2, wp := 100, wc := 90 }

/-- Configuration 9 with that rein, and tokens in its long channel. -/
def reined (r : Rein) (buf : List Token) (s : State) : State :=
  owned { cfg9 [] with reins := [r], chans := [⟨0, [], buf, false, 0, 0, 0⟩] } s

/-- READ, SETPT, CLEAR, a bad operation, and gains refused. -/
theorem witness_ReinCommands (h : Clause.ReinCommands) (ls : List Lane)
    (hl : ls ∈ [[0], [1, 9], [1, 0x10000], [2, 16, 3], [3, 5, 6], [4, 1, 2], [5], [6]]) :
    Goes (exec (.rein (wordFO one off 0)) (reined rein9 [] (memSlot [i32Token ls] []))) := by
  have : ∃ r' tok due, _ := h (wordFO one off 0) (reined rein9 [] (memSlot [i32Token ls] [])) rein9
    (ready_of (by revert ls; decide)) rfl (by revert ls; decide) (by revert ls; decide) (by revert ls; decide) rfl
  obtain ⟨_, _, _, _, e, _⟩ := this
  exact goes e

theorem witness_ReinUpdates (h : Clause.ReinUpdates) :
    Goes (exec (.reinUpdate 9 0) (reined { rein9 with counted := 16 } [flat 7 1, eosToken] State.reset)) ∧
    Goes (exec (.reinUpdate 9 0) (reined { rein9 with counted := 20 } [] State.reset)) := by
  obtain ⟨h1, _, _, e1, _⟩ := h (reined { rein9 with counted := 16 } [flat 7 1, eosToken] State.reset) 9 0 _ _ rfl rfl (by decide)
  have := h1 _ rfl rfl
  obtain ⟨_, _, _, e2, _⟩ := h (reined { rein9 with counted := 20 } [] State.reset) 9 0 _ _ rfl rfl (by decide)
  exact ⟨goes e1, goes e2⟩

theorem witness_ReinWindows (h : Clause.ReinWindows) :
    Goes (exec (.reinWindowStart 9 0) (reined { rein9 with pCount := 256, cCount := 257 } [] State.reset)) := by
  obtain ⟨_, _, e, _, _, _, _, hp, hc⟩ := h (reined { rein9 with pCount := 256, cCount := 257 } [] State.reset) 9 0 _ _ rfl rfl
  have := hp ⟨0, 0, 0⟩ rfl (by decide)
  have := hc ⟨0, 0, 2⟩ rfl (by decide)
  exact goes e

end Sys2Proof.Tests
end

/-! SUPPORT. DROP (R179) and the scalar-register allotments of CTXPART (R185). -/

namespace Sys2Proof.Proofs.RouterControl

open Sys2Proof Sys2Proof.Machine Sys2Proof.Laws.RoundTrip

/-! ## The front of a port -/

theorem frontOf_of_has {s : State} {p : PortName} {t : Token} (h : s.has p t) :
    s.frontOf s.clk.focus p = .data t := by
  obtain ⟨hfront, heos⟩ := h
  unfold State.frontOf
  simp [hfront, heos]

theorem frontOf_of_ended {s : State} {p : PortName} (h : s.ended p) : s.frontOf s.clk.focus p = .eos := by
  obtain ⟨t, hfront, heos⟩ := h
  unfold State.frontOf
  simp [hfront, heos]

/-! ## DROP (R179) -/

theorem exec_drop (f : FA) (s : State) : exec (.drop f) s = execDrop f s := rfl

/-- The firing of a DROP over a data token. -/
theorem execDrop_of_data {f : FA} {s : State} {t : Token} (h : s.frontOf s.clk.focus .a = .data t) :
    execDrop f s = .next (s.attempt s.clk.focus f.io 0 1 1
      { pa := 1, out := if modV f.mod = true ∧ t.void = false then .both t else .none, run := .idle }) := by
  unfold execDrop
  simp [h]

/-- The end firing of a DROP. -/
theorem execDrop_of_eos {f : FA} {s : State} (h : s.frontOf s.clk.focus .a = .eos) :
    execDrop f s = .next (s.attempt s.clk.focus f.io 0 1 1
      { pa := 1, out := .both eosToken, run := .idle, fin := true }) := by
  unfold execDrop
  simp [h, eosBoth]

/-- A word's second target is valid only beside a valid first one (R66). -/
theorem targetReason_second_off {ctl : Bool} {t0 t1 : Target} (h : targetReason ctl t0 t1 = none) (h0 : t0.v = false) :
    t1.v = false := by
  have hbeside : need (!t1.v || t0.v) 0x07 = none := (firstBad_none _).1 h _ (by simp)
  simpa [h0] using hbeside

theorem drop_targets_off {f : FA} (hwf : (Instr.drop f).wf = true) (hv : modV f.mod = false) :
    f.t0.v = false ∧ f.t1.v = false := by
  have hchecks := (firstBad_none _).1 ((wf_iff _).1 hwf)
  have hshape : faShape .one .off .off f = none := hchecks _ (by simp)
  have htargets : targetReason false f.t0 f.t1 = none := (firstBad_none _).1 hshape _ (by simp)
  have hfirst : need (modV f.mod || !f.t0.v) 0x07 = none := hchecks _ (by simp)
  have h0 : f.t0.v = false := by simpa [hv] using hfirst
  exact ⟨h0, targetReason_second_off htargets h0⟩

/-- Settles O14: the front of port a decides between the firing of a data token and the end firing, and the word's own
checks leave a DROP without V no valid target. -/
theorem drop : Obligations.Drop := by
  refine ⟨fun f s hclear => ⟨fun t ht => ?_, fun hend => ?_⟩, fun f hwf hv => drop_targets_off hwf hv⟩
  · rw [exec_drop, execDrop_of_data (frontOf_of_has ht), hclear.attempt]
  · rw [exec_drop, execDrop_of_eos (frontOf_of_ended hend), hclear.attempt]

/-! ## CTXPART (R185) -/

theorem exec_ctxpartWrite (c : Fin 96) (w : Writer) (v : Word64) (s : State) :
    exec (.ctxpartWrite c w v) s = execCtxpartWrite c w v s := rfl

@[simp] theorem core_tickBy (s : State) (n : Nat) (c : Fin 96) : (s.tickBy n).core c = s.core c := rfl

/-- A CTXPART value changes the allotment of a context. -/
def Reallots (s : State) (c : Fin 96) (p : BitVec 8) (k : Fin 4) : Prop :=
  allotIn p k.val ≠ allotIn (s.core c).ctxpart k.val

/-- The registers a CTXPART value gives to the four contexts together. -/
def allotted (p : BitVec 8) : Nat := allotIn p 0 + allotIn p 1 + allotIn p 2 + allotIn p 3

theorem sum_allotIn (p : BitVec 8) : ((List.range 4).map (allotIn p)).sum = allotted p := by
  simp [allotted, List.range_succ, Nat.add_assoc]

/-- The check of a CTXPART write over the contexts that are not STOPPED. -/
theorem any_reallots_iff (s : State) (c : Fin 96) (p : BitVec 8) :
    ((List.finRange 4).any fun k => allotIn p k.val != allotIn (s.core c).ctxpart k.val && (s.ctx c k).st != .stopped) = true ↔
      ∃ k, Reallots s c p k ∧ (s.ctx c k).st ≠ .stopped := by
  simp [Reallots]

theorem writeCtxpart_of_too_many {s : State} {c : Fin 96} {v : Word64} (h : 64 < allotted (v.extractLsb' 0 8)) :
    s.writeCtxpart c v = s := by
  unfold State.writeCtxpart
  simp [sum_allotIn, h]

theorem writeCtxpart_of_running {s : State} {c : Fin 96} {v : Word64} {k : Fin 4}
    (hmoves : Reallots s c (v.extractLsb' 0 8) k) (hrun : (s.ctx c k).st ≠ .stopped) : s.writeCtxpart c v = s := by
  have hbusy := (any_reallots_iff s c _).2 ⟨k, hmoves, hrun⟩
  unfold State.writeCtxpart
  simp only [hbusy, Bool.or_true, Bool.true_or, if_true]

/-- What the registers hold after a write that re-allots them: 64 free values (log 2). -/
def freeRegisters (s : State) : Vector Word64 64 := Vector.ofFn fun i : Fin 64 => Config.freeWord (s.clk.fresh + i.val)

/-- A CTXPART write that neither exceeds the registers nor moves a context that is not STOPPED takes effect; the registers
then hold free values. -/
theorem writeCtxpart_of_legal {s : State} {c : Fin 96} {v : Word64} (htotal : allotted (v.extractLsb' 0 8) ≤ 64)
    (hstopped : ∀ k, Reallots s c (v.extractLsb' 0 8) k → (s.ctx c k).st = .stopped)
    (hnew : v.extractLsb' 0 8 ≠ (s.core c).ctxpart) :
    s.writeCtxpart c v = (s.onCore c fun q => { q with ctxpart := v.extractLsb' 0 8, sregs := freeRegisters s }).tickBy 64 := by
  have hidle : ¬ ∃ k, Reallots s c (v.extractLsb' 0 8) k ∧ (s.ctx c k).st ≠ .stopped :=
    fun ⟨k, hmoves, hrun⟩ => hrun (hstopped k hmoves)
  have hbusy := Bool.eq_false_iff.2 fun h => hidle ((any_reallots_iff s c _).1 h)
  unfold State.writeCtxpart
  simp only [sum_allotIn, hbusy]
  simp [hnew, Nat.not_lt.2 htotal, freeRegisters]

theorem exec_ctxpartWrite_of_may {c : Fin 96} {w : Writer} {v : Word64} {s : State} (h : w.priv = true ∨ w.sysctl = true) :
    exec (.ctxpartWrite c w v) s = .next (s.writeCtxpart c v) := by
  have hmay : w.may = true := by simpa [Writer.may] using h
  rw [exec_ctxpartWrite, execCtxpartWrite, if_pos hmay]

theorem exec_ctxpartWrite_of_not_may {c : Fin 96} {w : Writer} {v : Word64} {s : State} (hp : w.priv = false)
    (hs : w.sysctl = false) : exec (.ctxpartWrite c w v) s = .next s := by
  have hmay : ¬ w.may = true := by simp [Writer.may, hp, hs]
  rw [exec_ctxpartWrite, execCtxpartWrite, if_neg hmay]

/-- A write that CTXPART ignores changes nothing, whoever the writer is. -/
theorem exec_ctxpartWrite_of_ignored {c : Fin 96} {w : Writer} {v : Word64} {s : State} (h : s.writeCtxpart c v = s) :
    exec (.ctxpartWrite c w v) s = .next s := by
  rw [exec_ctxpartWrite, execCtxpartWrite, h, ite_self]

theorem csrRead_ctxpart (s : State) (c : Fin 96) (k : Fin 4) : s.csrRead c k 0x100 = some (0#56 ++ (s.core c).ctxpart) := by
  have hread : s.csrRead c k 0x100 = some ((s.core c).ctxpart.setWidth 64) := rfl
  rw [hread, BitVec.setWidth_eq_append (by decide)]
  rfl

theorem reset_ctxpart (c : Fin 96) : (State.reset.core c).ctxpart = 0b10101010 := by
  simp [State.core, State.reset, Core.reset]

/-- Settles O41: a CTXPART write is refused for want of the privilege, for its total or for a running context, and else
leaves the value written and free registers. -/
theorem registerAllotments : Obligations.RegisterAllotments := by
  intro s c w v new old size total moves
  refine ⟨Vector.length_toList, fun k => ⟨rfl, rfl⟩, csrRead_ctxpart s c, reset_ctxpart c, exec_ctxpartWrite_of_not_may,
    fun htotal => ?_, fun k hmoves hrun => ?_, fun hmay htotal hstopped hnew => ?_⟩
  · exact exec_ctxpartWrite_of_ignored (writeCtxpart_of_too_many htotal)
  · exact exec_ctxpartWrite_of_ignored (writeCtxpart_of_running hmoves hrun)
  · have hnext := (exec_ctxpartWrite_of_may hmay).trans (congrArg _ (writeCtxpart_of_legal htotal hstopped hnew))
    refine ⟨_, freeRegisters s, hnext, ?_, fun d hd => ?_, ?_⟩
    · rw [core_tickBy, State.core_onCore_self]
    · rw [core_tickBy, State.core_onCore_of_ne _ _ hd]
    · rw [State.tickBy_mem, State.onCore_mem]

end Sys2Proof.Proofs.RouterControl

/-! SUPPORT. RDRAW (R362, R363), and EGRST at the hold queue (R356). -/

namespace Sys2Proof.Proofs.DrawsAndResets

open Sys2Proof Sys2Proof.Machine

/-! ## Accesses on the list -/

/-- Changes of an access keep its number, so that it is found again. -/
theorem acc_onAcc_self {s : State} {id : Nat} {a : Access} {f : Access → Access} (h : s.acc id = some a)
    (hid : ∀ b, b.id = id → (f b).id = id) : (s.onAcc id f).acc id = some (f a) := by
  have hsame : (fun b : Access => b.id == id) ∘ (fun b => if b.id == id then f b else b) = fun b => b.id == id := by
    funext b
    by_cases hb : b.id = id <;> simp [hb, hid]
  have hnumber : (a.id == id) = true := List.find?_some (p := fun b : Access => b.id == id) h
  have hfind : s.accs.find? (fun b => b.id == id) = some a := h
  unfold State.acc State.onAcc
  rw [List.find?_map, hsame, hfind, Option.map_some, if_pos hnumber]

theorem acc_dropAcc_of_ne (s : State) {id k : Nat} (h : k ≠ id) : (s.dropAcc k).acc id = s.acc id := by
  unfold State.acc State.dropAcc
  rw [List.find?_filter]
  congr 1
  funext b
  by_cases hb : b.id = id <;> simp [hb, h.symm]

/-! ## Tags and results (R242, R305) -/

@[simp] theorem onOwned_accs (s : State) (x : Site) (h : Word64) (e : Nat) (f : Slot → Slot) :
    (s.onOwned x h e f).accs = s.accs := by
  unfold State.onOwned
  dsimp only
  repeat' split
  all_goals rfl

@[simp] theorem onOwned_egress (s : State) (x : Site) (h : Word64) (e : Nat) (f : Slot → Slot) :
    (s.onOwned x h e f).egress = s.egress := by
  unfold State.onOwned
  dsimp only
  repeat' split
  all_goals rfl

@[simp] theorem give_accs (s : State) (x : Site) (h : Word64) (e id : Nat) (outs : List Emit) :
    (s.give x h e id outs).accs = s.accs := onOwned_accs ..

@[simp] theorem give_egress (s : State) (x : Site) (h : Word64) (e id : Nat) (outs : List Emit) :
    (s.give x h e id outs).egress = s.egress := onOwned_egress ..

@[simp] theorem onOwnedRegion_accs (s : State) (x : Site) (h : Word64) (e : Nat) (f : Region → Region) :
    (s.onOwnedRegion x h e f).accs = s.accs := by
  unfold State.onOwnedRegion
  split <;> rfl

@[simp] theorem onOwnedRegion_egress (s : State) (x : Site) (h : Word64) (e : Nat) (f : Region → Region) :
    (s.onOwnedRegion x h e f).egress = s.egress := by
  unfold State.onOwnedRegion
  split <;> rfl

/-- What a freed tag does: the DONE that waited for it becomes known, and leaves the list (R253). -/
def settleTag (x : Site) (h : Word64) (e : Nat) (s : State) (k : Nat) : State :=
  match s.acc k with
  | some a => if a.kind == .done then (s.give x h e k [.both doneTok]).dropAcc k else s
  | none => s

theorem freeTag_eq_foldl (s : State) (x : Site) (h : Word64) (e id : Nat) :
    ∃ (f : Region → Region) (freed : List Nat),
      s.freeTag x h e id = freed.foldl (settleTag x h e) (s.onOwnedRegion x h e f) := ⟨_, _, rfl⟩

theorem settleTag_egress (s : State) (x : Site) (h : Word64) (e k : Nat) : (settleTag x h e s k).egress = s.egress := by
  unfold settleTag
  repeat' split
  all_goals simp

/-- A freed tag takes no access off the list but a DONE. -/
theorem acc_settleTag {s : State} {id : Nat} {a : Access} (hacc : s.acc id = some a) (hkind : a.kind ≠ .done) (x : Site)
    (h : Word64) (e k : Nat) : (settleTag x h e s k).acc id = some a := by
  unfold settleTag
  split
  case h_2 => exact hacc
  case h_1 b hb =>
    split
    case isFalse => exact hacc
    case isTrue hdone =>
      have hother : k ≠ id := by
        rintro rfl
        obtain rfl : b = a := Option.some.inj (hb.symm.trans hacc)
        exact hkind (by simpa using hdone)
      rw [acc_dropAcc_of_ne _ hother, State.acc, give_accs]
      exact hacc

theorem foldl_settleTag_egress (x : Site) (h : Word64) (e : Nat) (freed : List Nat) (s : State) :
    (freed.foldl (settleTag x h e) s).egress = s.egress := by
  induction freed generalizing s with
  | nil => rfl
  | cons k rest ih => rw [List.foldl_cons, ih, settleTag_egress]

theorem acc_foldl_settleTag {s : State} {id : Nat} {a : Access} (hacc : s.acc id = some a) (hkind : a.kind ≠ .done)
    (x : Site) (h : Word64) (e : Nat) (freed : List Nat) : (freed.foldl (settleTag x h e) s).acc id = some a := by
  induction freed generalizing s with
  | nil => exact hacc
  | cons k rest ih => exact ih (acc_settleTag hacc hkind x h e k)

@[simp] theorem freeTag_egress (s : State) (x : Site) (h : Word64) (e id : Nat) :
    (s.freeTag x h e id).egress = s.egress := by
  obtain ⟨f, freed, hfold⟩ := freeTag_eq_foldl s x h e id
  rw [hfold, foldl_settleTag_egress, onOwnedRegion_egress]

theorem acc_freeTag {s : State} {id : Nat} {a : Access} (hacc : s.acc id = some a) (hkind : a.kind ≠ .done) (x : Site)
    (h : Word64) (e k : Nat) : (s.freeTag x h e k).acc id = some a := by
  obtain ⟨f, freed, hfold⟩ := freeTag_eq_foldl s x h e k
  rw [hfold]
  refine acc_foldl_settleTag ?_ hkind x h e freed
  rw [State.acc, onOwnedRegion_accs]
  exact hacc

@[simp] theorem sendResult_egress (s : State) (a : Access) (outs : List Emit) :
    (s.sendResult a outs).egress = s.egress := by
  unfold State.sendResult
  split <;> simp

/-- A result that is sent is on its way. -/
theorem onTheWay_sendResult {s : State} {a : Access} (hacc : s.acc a.id = some a) (hkind : a.kind ≠ .done)
    (outs : List Emit) : (s.sendResult a outs).onTheWay a.id outs := by
  have hlate : ((s.onAcc a.id fun _ => { a with pieces := [], stage := .late outs }).laterFree 1
      (.lateResultArrival a.id)).acc a.id = some { a with pieces := [], stage := .late outs } :=
    acc_onAcc_self hacc fun _ _ => rfl
  refine ⟨{ a with pieces := [], stage := .late outs }, ?_, rfl⟩
  unfold State.sendResult
  split
  · exact acc_freeTag hlate hkind _ _ _ _
  · exact hlate

/-! ## Operations at the hold queue (R353, R358) -/

@[simp] theorem offerEntry_egress (s : State) : s.offerEntry.egress = s.egress := by
  unfold State.offerEntry
  split <;> rfl

@[simp] theorem offerEntry_accs (s : State) : s.offerEntry.accs = s.accs := by
  unfold State.offerEntry
  split <;> rfl

theorem exec_accessPerform_of_unheld {s : State} {a : Access} (h : Unheld s a) :
    exec (.accessPerform a.id) s = .next (s.carryOut a) := by
  have hexec : exec (.accessPerform a.id) s = execAccessPerform a.id s := rfl
  rw [hexec]
  unfold execAccessPerform
  simp [h.acc, h.held, h.stage, h.free]

/-- An operation that is alone on its stream waits behind none: it acts, and its tokens are on their way. -/
theorem goEgress_of_alone {s t : State} {a : Access} {w : Word64} {req t0 t1 : Token} {x : Site} {h : Word64} {e : Nat}
    (halone : s.streamAlone a) (hagent : a.agent = .op x h e)
    (hact : s.egressAct x h e a.asid w req = (t, .done t0 t1)) :
    s.goEgress a w req = (t.sendResult a [⟨some t0, some t1⟩]).offerEntry := by
  have hbehind : (s.accs.any fun b => b.egressId == a.egressId && b.id != a.id && b.stage == .entry) = false := by
    rw [List.any_eq_false]
    intro b hb
    by_cases hid : b.id = a.id
    · simp [hid]
    · simp [halone b hb hid]
  have hbefore : ((s.accs.takeWhile fun b => b.id != a.id).any fun b =>
      b.egressId == a.egressId && !b.held && b.stage == .wait) = false := by
    rw [List.any_eq_false]
    intro b hb
    have hid : b.id ≠ a.id := by simpa using List.all_eq_true.1 List.all_takeWhile b hb
    simp [halone b (List.takeWhile_subset _ hb) hid]
  unfold State.goEgress
  simp only [hbehind, hbefore, hagent, hact]
  simp

/-! ## EGRST (R356) -/

theorem egressAct_egrst (s : State) (x : Site) (h : Word64) (e : Nat) (asid : BitVec 12) {w : Word64} (req : Token)
    (hop : egressOp w = 0xBD) :
    s.egressAct x h e asid w req =
      ((s.egrst asid h req).1, .done (s.egrst asid h req).2 (s.egrst asid h req).2) := by
  have hop' : (w.extractLsb' 56 8).toNat = 0xBD := hop
  unfold State.egressAct
  simp only [hop']

@[simp] theorem egrst_accs (s : State) (asid : BitVec 12) (h : Word64) (req : Token) :
    (s.egrst asid h req).1.accs = s.accs := by
  unfold State.egrst
  dsimp only
  repeat' split
  all_goals rfl

/-- A performed EGRST leaves the hold queue as `State.egrst` says, and its token goes to both targets. -/
theorem exec_egrst {s t : State} {a : Access} {w : Word64} {req tok : Token} {x : Site} {h : Word64} {e : Nat}
    (hunheld : Unheld s a) (halone : s.streamAlone a) (hagent : a.agent = .op x h e) (hkind : a.kind = .egress w req)
    (hop : egressOp w = 0xBD) (hrst : s.egrst a.asid h req = (t, tok)) :
    ∃ t', exec (.accessPerform a.id) s = .next t' ∧ t'.egress = t.egress ∧ t'.onTheWay a.id [⟨some tok, some tok⟩] := by
  have hact : s.egressAct x h e a.asid w req = (t, .done tok tok) := by rw [egressAct_egrst _ _ _ _ _ _ hop, hrst]
  have hcarry : s.carryOut a = s.goEgress a w req := by
    unfold State.carryOut
    rw [hkind]
  have haccs : t.accs = s.accs := by rw [← egrst_accs s a.asid h req, hrst]
  have hacc : t.acc a.id = some a := by
    rw [State.acc, haccs]
    exact hunheld.acc
  obtain ⟨b, hb, hlate⟩ := onTheWay_sendResult hacc (by simp [hkind]) [⟨some tok, some tok⟩]
  refine ⟨_, (exec_accessPerform_of_unheld hunheld).trans
    (congrArg _ (hcarry.trans (goEgress_of_alone halone hagent hact))), by simp, b, ?_, hlate⟩
  rw [State.acc, offerEntry_accs]
  exact hb

/-- A stream put back to its reset state is listed no more. -/
theorem id_ne_of_mem_putStream_unbound {i : Nat} {u : Stream} {l : List Stream}
    (h : u ∈ putStream ⟨i, none, 0, 0, 0⟩ l) : u.id ≠ i := by
  induction l with
  | nil => simp [putStream] at h
  | cons v rest ih =>
    unfold putStream at h
    split at h
    case isTrue hlt =>
      obtain rfl | hrest := List.mem_cons.1 h
      · exact Nat.ne_of_lt hlt
      · exact ih hrest
    case isFalse =>
      rw [if_pos (beq_self_eq_true _)] at h
      simpa using (List.mem_filter.1 h).2

theorem stream_onStream_unbound (g : Egress) (i : Nat) :
    (g.onStream i fun _ => ⟨i, none, 0, 0, 0⟩).stream i = ⟨i, none, 0, 0, 0⟩ := by
  have hnone : (g.onStream i fun _ => ⟨i, none, 0, 0, 0⟩).streams.find? (fun t => t.id == i) = none :=
    List.find?_eq_none.2 fun u hu => by simpa using id_ne_of_mem_putStream_unbound hu
  unfold Egress.stream
  rw [hnone]
  rfl

/-- The hold queue after an EGRST that is accepted: the stream's held tokens are dropped, and it is unbound. -/
def resetStream (g : Egress) (i : Nat) : Egress :=
  (g.dropHeld fun u => u.stream == i).onStream i fun _ => ⟨i, none, 0, 0, 0⟩

theorem egrst_of_out_of_range (s : State) (asid : BitVec 12) (h : Word64) {req : Token}
    (hi : 4095 < (req.lane 0).toNat) : s.egrst asid h req = (s, rstTok 3 req 0) := by
  unfold State.egrst
  exact if_pos hi

theorem egrst_of_refused {s : State} {asid o : BitVec 12} {h : Word64} {req : Token} (hi : (req.lane 0).toNat ≤ 4095)
    (howner : (s.egress.stream (req.lane 0).toNat).owner = some o) (hother : o ≠ asid)
    (hverdict : s.verdictCapable h = false) : s.egrst asid h req = (s, rstTok 4 req 0) := by
  unfold State.egrst
  simp [howner, hother, hverdict, Nat.not_lt.2 hi]

theorem egrst_of_accepted {s : State} {asid : BitVec 12} {h : Word64} {req : Token} (hi : (req.lane 0).toNat ≤ 4095)
    (hmay : (s.egress.stream (req.lane 0).toNat).owner = none ∨ (s.egress.stream (req.lane 0).toNat).owner = some asid ∨
      s.verdictCapable h = true) :
    s.egrst asid h req = (s.onEgress fun g => resetStream g (req.lane 0).toNat,
      rstTok 0 req (s.egress.countHeld fun u => u.stream == (req.lane 0).toNat)) := by
  have hpass : ((s.egress.stream (req.lane 0).toNat).owner.isSome &&
      (s.egress.stream (req.lane 0).toNat).owner != some asid && !s.verdictCapable h) = false := by
    obtain hnone | hown | hverdict := hmay
    · simp [hnone]
    · simp [hown]
    · simp [hverdict]
  unfold State.egrst
  simp only [hpass, Nat.not_lt.2 hi]
  rfl

/-- Settles O28: what EGRST does to the queue in each of its three cases, carried through ACCESS_PERFORM. -/
theorem egressReset : Obligations.EgressReset := by
  intro s a w req x h e hunheld halone hagent hkind hop
  refine ⟨fun hi hmay => ?_, fun o hi howner hother hverdict => ?_, fun hi => ?_⟩
  · obtain ⟨t, hexec, hegress, hway⟩ :=
      exec_egrst hunheld halone hagent hkind hop (egrst_of_accepted (asid := a.asid) (h := h) hi hmay)
    refine ⟨t, hexec, ?_, ?_, ?_, hway⟩
    · rw [hegress]; rfl
    · rw [hegress]; rfl
    · rw [hegress]; exact stream_onStream_unbound _ _
  · exact exec_egrst hunheld halone hagent hkind hop (egrst_of_refused hi howner hother hverdict)
  · exact exec_egrst hunheld halone hagent hkind hop (egrst_of_out_of_range s a.asid h hi)

/-! ## RDRAW (R362, R363) -/

theorem drawBits_eq_div (k : Word64) (r n : Lane) : drawBits k r n = (drawMix k r n).toNat / 2 ^ 40 := by
  unfold drawBits
  rw [BitVec.toNat_ushiftRight, Nat.shiftRight_eq_div_pow]

theorem drawBits_lt (k : Word64) (r n : Lane) : drawBits k r n < 2 ^ 24 := by
  have hmix := (drawMix k r n).isLt
  rw [drawBits_eq_div]
  omega

/-- The draw of lane l that an RDRAW operand asks for: K in lanes 0 and 1, R in lane 2, N0 in lane 3. -/
def laneDraw (t : Token) (l : Nat) : Nat := drawBits (t.lane 1 ++ t.lane 0) (t.lane 2) (t.lane 3 + BitVec.ofNat 32 l)

theorem checkWord_of_wordTag {t : Token} (h : t.wordTag = true) : checkWord t = .ok () := if_pos h

theorem rdrawTok_float {f : FA} {as : List Token} (hword : (oldest as).wordTag = true) (htag : modTag f.mod = 1) :
    rdrawTok f as = .ok (mapLanes 1 fun l =>
      BitVec.ofNat 32 (f32.round .rne (.fin false (laneDraw (oldest as) l) (-24)))) := by
  unfold rdrawTok
  dsimp only
  rw [checkWord_of_wordTag hword, ok_bind, if_pos (by rw [htag]; rfl)]
  rfl

theorem rdrawTok_int {f : FA} {as : List Token} (hword : (oldest as).wordTag = true) (htag : modTag f.mod = 7) :
    rdrawTok f as = .ok (mapLanes 7 fun l => BitVec.ofNat 32 (laneDraw (oldest as) l)) := by
  unfold rdrawTok
  dsimp only
  rw [checkWord_of_wordTag hword, ok_bind, if_neg (by rw [htag]; decide)]
  rfl

theorem exec_rdraw_of_ok {f : FA} {s : State} {t : Token} (hready : Ready s f.io) (hclean : Clean (s.reads f.io))
    (htok : rdrawTok f (s.ents s.clk.focus f.io .a) = .ok t) : exec (.rdraw f) s = .next (s.delivers f.io 6 t) := by
  have hexec : exec (.rdraw f) s = execRdraw f s := rfl
  rw [hexec, execRdraw, hready.laneOp_ok hclean _ _ _ _ t htok]

/-- Settles O11: each lane's number is the draw of the operand's key, row and index, in the format that MOD names. -/
theorem randomDraw : Obligations.RandomDraw := by
  intro f s _ hready hclean hword htag a x1 x2 x3 u
  have hdraw (l : Nat) : laneDraw a l = u l := drawBits_eq_div _ _ _
  obtain hfloat | hint := htag
  · refine ⟨_, exec_rdraw_of_ok hready hclean (rdrawTok_float hword hfloat), hfloat ▸ isData_mapLanes _ _,
      fun l hl => ⟨fun hint => ?_, fun _ => ?_⟩⟩
    · exact absurd (hfloat.symm.trans hint) (by decide)
    · rw [lane_mapLanes _ _ _ hl, BitVec.toNat_ofNat, ← hdraw]
      rfl
  · refine ⟨_, exec_rdraw_of_ok hready hclean (rdrawTok_int hword hint), hint ▸ isData_mapLanes _ _,
      fun l hl => ⟨fun _ => ?_, fun hfloat => ?_⟩⟩
    · have hlt : laneDraw a l < 2 ^ 32 := Nat.lt_trans (drawBits_lt _ _ _) (by decide)
      rw [lane_mapLanes _ _ _ hl, ← hdraw, BitVec.toNat_ofNat]
      exact Nat.mod_eq_of_lt hlt
    · exact absurd (hint.symm.trans hfloat) (by decide)

end Sys2Proof.Proofs.DrawsAndResets

/-! SUPPORT. CTXGO (R383): the start of a STOPPED context. -/

namespace Sys2Proof.Proofs.ContextStart

open Sys2Proof Sys2Proof.Machine

/-! ## A change of one context -/

theorem ctx_onCtx_of_ne (s : State) (c : Fin 96) {k j : Fin 4} (f : Context → Context) (h : j ≠ k) :
    (s.onCtx c k f).ctx c j = s.ctx c j := by
  rw [State.ctx_onCtx, if_neg fun e => h e.2]

theorem core_onCtx_of_ne (s : State) {c d : Fin 96} (k : Fin 4) (f : Context → Context) (h : d ≠ c) :
    (s.onCtx c k f).core d = s.core d :=
  s.core_onCore_of_ne _ h

@[simp] theorem sregs_onCtx (s : State) (c : Fin 96) (k : Fin 4) (f : Context → Context) :
    ((s.onCtx c k f).core c).sregs = (s.core c).sregs := by
  rw [State.onCtx, State.core_onCore_self]

/-! ## The fetch of a block is begun (R189) -/

/-- A context in RUN whose block is to be fetched: the new generation makes steps under way for the old one void. -/
def fetching (t : Context) : Context := { t with st := .run, blk := none, gen := t.gen + 1, stopReq := false }

@[simp] theorem core_startFetch (s : State) (c : Fin 96) (k : Fin 4) (d : Fin 96) :
    (s.startFetch c k).core d = (s.onCtx c k fetching).core d := rfl

@[simp] theorem ctx_startFetch (s : State) (c : Fin 96) (k : Fin 4) (d : Fin 96) (j : Fin 4) :
    (s.startFetch c k).ctx d j = (s.onCtx c k fetching).ctx d j := rfl

/-- The fetch comes after at least one cycle, the delay above it being free (R9). -/
theorem pending_startFetch (s : State) (c : Fin 96) (k : Fin 4) :
    (s.startFetch c k).clk.pending =
      s.clk.pending ++ [(s.clk.now + (1 + Config.freeDelay s.clk.fresh), .blockFetch c k ((s.ctx c k).gen + 1))] := rfl

/-- The fetch that is begun is one of the context's present generation. -/
theorem blockFetch_mem_pending_startFetch (s : State) (c : Fin 96) (k : Fin 4) :
    (s.clk.now + (1 + Config.freeDelay s.clk.fresh), Instr.blockFetch c k ((s.startFetch c k).ctx c k).gen) ∈
      (s.startFetch c k).clk.pending := by
  have hgen : ((s.startFetch c k).ctx c k).gen = (s.ctx c k).gen + 1 := by
    rw [ctx_startFetch, State.ctx_onCtx_self]
    rfl
  rw [hgen, pending_startFetch]
  exact List.mem_append_right _ (List.mem_singleton_self _)

/-! ## CTXGO (R383) -/

/-- The context a CTXGO value names. -/
def goCtx (v : Word64) : Fin 4 := Fin.ofNat 4 (v.extractLsb' 62 2).toNat

/-- The context a CTXGO value names gets the block address of the value. -/
def withBlock (s : State) (c : Fin 96) (v : Word64) : State :=
  s.onCtx c (goCtx v) fun t => { t with bptr := v.extractLsb' 6 48 }

/-- The state after an accepted CTXGO. -/
def started (s : State) (c : Fin 96) (v : Word64) : State := (withBlock s c v).startFetch c (goCtx v)

theorem exec_ctxgo (c : Fin 96) (w : Writer) (v : Word64) (s : State) :
    exec (.ctxgo c w v) s =
      if !w.may || (s.ctx c (goCtx v)).st != .stopped then .next s
      else .next (started s c v) := rfl

theorem exec_ctxgo_of_not_may {c : Fin 96} {w : Writer} {v : Word64} {s : State} (hp : w.priv = false)
    (hs : w.sysctl = false) : exec (.ctxgo c w v) s = .next s := by
  rw [exec_ctxgo, if_pos (by simp [Writer.may, hp, hs])]

theorem exec_ctxgo_of_not_stopped {c : Fin 96} {v : Word64} {s : State} (w : Writer)
    (hst : (s.ctx c (goCtx v)).st ≠ .stopped) : exec (.ctxgo c w v) s = .next s := by
  rw [exec_ctxgo, if_pos (by simp [hst])]

theorem exec_ctxgo_of_stopped {c : Fin 96} {w : Writer} {v : Word64} {s : State} (hp : w.priv = true)
    (hst : (s.ctx c (goCtx v)).st = .stopped) :
    exec (.ctxgo c w v) s = .next (started s c v) := by
  rw [exec_ctxgo, if_neg (by simp [Writer.may, hp, hst])]

theorem csrRead_ctxgo (s : State) (c : Fin 96) (k : Fin 4) : s.csrRead c k 0x341 = some 0 := rfl

theorem ctx_started (s : State) (c : Fin 96) (v : Word64) :
    (started s c v).ctx c (goCtx v) = fetching { s.ctx c (goCtx v) with bptr := v.extractLsb' 6 48 } := by
  rw [started, ctx_startFetch, State.ctx_onCtx_self, withBlock, State.ctx_onCtx_self]

theorem ctx_started_of_ne (s : State) (c : Fin 96) {v : Word64} {j : Fin 4} (h : j ≠ goCtx v) :
    (started s c v).ctx c j = s.ctx c j := by
  rw [started, ctx_startFetch, ctx_onCtx_of_ne _ _ _ h, withBlock, ctx_onCtx_of_ne _ _ _ h]

theorem core_started_of_ne (s : State) {c d : Fin 96} (v : Word64) (h : d ≠ c) : (started s c v).core d = s.core d := by
  rw [started, core_startFetch, core_onCtx_of_ne _ _ _ h, withBlock, core_onCtx_of_ne _ _ _ h]

@[simp] theorem sregs_started (s : State) (c : Fin 96) (v : Word64) :
    ((started s c v).core c).sregs = (s.core c).sregs := by
  rw [started, core_startFetch, sregs_onCtx, withBlock, sregs_onCtx]

@[simp] theorem started_mem (s : State) (c : Fin 96) (v : Word64) : (started s c v).mem = s.mem := by
  rw [started, State.startFetch_mem, withBlock, State.onCtx_mem]

/-- Settles O43: a writer without the privilege and a context that is not STOPPED leave the state as it is; a PRIV
writer's start of a STOPPED context touches no other context, and the fetch of its block is pending. -/
theorem contextStart : Obligations.ContextStart := by
  intro s c w v k t0
  refine ⟨exec_ctxgo_of_not_may, fun hpriv hstopped => ?_, fun _ hst => exec_ctxgo_of_not_stopped w hst, csrRead_ctxgo s c⟩
  have hctx := ctx_started s c v
  exact ⟨started s c v, exec_ctxgo_of_stopped hpriv hstopped, congrArg Context.st hctx, congrArg Context.bptr hctx,
    started_mem s c v, sregs_started s c v, fun _ hd => core_started_of_ne s v hd, fun _ hj => ctx_started_of_ne s c hj,
    _, Nat.le_add_right 1 _, blockFetch_mem_pending_startFetch (withBlock s c v) c k⟩

end Sys2Proof.Proofs.ContextStart
